-- ==== Sys2Proof/Word.lean ====
section
/-! DEFINITION. The plain words of the module: bytes, 32-bit and 64-bit words (R18, R31). -/
namespace Sys2Proof

/-- One byte. -/
abbrev Byte := BitVec 8
/-- A 16-bit word. -/
abbrev Half := BitVec 16
/-- A 32-bit word: ring indices (R256), FP32 bit patterns (R113). -/
abbrev Word32 := BitVec 32
/-- A 64-bit word: registers, descriptor words, fence values, scalars (R31). -/
abbrev Word := BitVec 64

end Sys2Proof
end

