-- ==== Sys2Proof/Types.lean ====
section
/-! DEFINITION. The fixed sets of names that commands and state share: parts, masters, status codes, states of slots,
launches, ports and procedures, each after the table of the spec that lists it. -/
namespace Sys2Proof

/-- The three parts (R1). -/
inductive Part where
  | kln8200 | kln8160 | kln8120
  deriving DecidableEq, Repr

/-- Status codes of launches and commands (R34). -/
inductive Status where
  | ok | aborted | lost | timeout | fault | poison | waitCycle | depError | waitRange | graphBusy | unsupported
  deriving DecidableEq, Repr

/-- The 8-bit value of a status code (R34). -/
def Status.code : Status → Nat
  | .ok => 0 | .aborted => 1 | .lost => 2 | .timeout => 3 | .fault => 4 | .poison => 5 | .waitCycle => 6
  | .depError => 7 | .waitRange => 8 | .graphBusy => 9 | .unsupported => 10

/-- The precedence of a status code; the lowest number wins (R34, R36). -/
def Status.prec : Status → Nat
  | .lost => 1 | .unsupported => 2 | .waitRange => 3 | .graphBusy => 4 | .aborted => 5 | .depError => 6
  | .waitCycle => 7 | .poison => 8 | .fault => 9 | .timeout => 10 | .ok => 11

/-- Who makes a register access (R625, R626): the manager (FUNC 0), another PCIe function, the security controller,
the pilot, the sideband. -/
inductive Master where
  | manager | func (n : Nat) | secctl | pilot | sideband
  deriving DecidableEq, Repr

/-- The manager, or the security controller or the pilot, which act as it (R625). -/
def Master.privileged : Master → Bool
  | .manager | .secctl | .pilot => true
  | _ => false

/-- The part a module plays in its cascade group (R81). -/
inductive TideRole where
  | standalone | master | slave
  deriving DecidableEq, Repr

/-- The states of a tile launch slot (R105). -/
inductive SlotState where
  | free | loading | restoring | running | draining | saving | retiring | aborting
  deriving DecidableEq, Repr

/-- The 4-bit code of a slot state (R105). -/
def SlotState.code : SlotState → Nat
  | .free => 0 | .loading => 1 | .restoring => 2 | .running => 3 | .draining => 4 | .saving => 5 | .retiring => 6
  | .aborting => 7

/-- The states of a launch-table entry (R269). -/
inductive LaunchState where
  | waiting | ready | active | saved | completing
  deriving DecidableEq, Repr

/-- Where a window points (R115, R266). -/
inductive WinTarget where
  | localStore | hold | hbm
  deriving DecidableEq, Repr

/-- The kinds of access a translation checks (R404). -/
inductive Access where
  | read | write | atomic
  deriving DecidableEq, Repr

/-- The two accumulator modes in use, and unused (R111). -/
inductive AccMode where
  | unused | exact | fp32
  deriving DecidableEq, Repr

/-- The reduction operations of the signal network (R124), and a broadcast from a root part (R188). -/
inductive RedOp where
  | add | smin | smax | umin | umax | band | bor | bxor | fmin | fmax | fadd | bcast (root : Nat)
  deriving DecidableEq, Repr

/-- The message a cascade master sends at each boundary (R96). -/
structure TickMsg where
  /-- TIDE_NUMBER -/
  tide : Word := 0
  /-- PERIOD, in µs -/
  period : Nat := 0
  /-- SLACK, in units of 100 ns -/
  slack : Nat := 0
  /-- JOB_FREQ, in MHz -/
  jobFreq : Nat := 0
  /-- MASTER_NODE -/
  masterNode : Nat := 0
  /-- GROUP_ID -/
  groupId : Nat := 0
  /-- NEW_PERIOD -/
  newPeriod : Nat := 0
  /-- NEW_SLACK -/
  newSlack : Nat := 0
  /-- NEW_JOB_FREQ -/
  newJobFreq : Nat := 0
  /-- CHANGE_VALID -/
  changeValid : Bool := false
  /-- CHANGE_TIDE -/
  changeTide : Word := 0
  deriving DecidableEq, Repr

/-- Held time in ns and masters of one harbour in a tide, per kind of request, and the tile cycles run (R433). -/
structure SlowMeas where
  cqHeld : Nat := 0
  cqMasters : Nat := 0
  xlatHeld : Nat := 0
  xlatMasters : Nat := 0
  bridgeHeld : Nat := 0
  bridgeMasters : Nat := 0
  meshHeld : Nat := 0
  meshMasters : Nat := 0
  linkHeld : Nat := 0
  linkMasters : Nat := 0
  hostHeld : Nat := 0
  hostMasters : Nat := 0
  cyclesRun : Nat := 0
  cyclesMax : Nat := 0
  deriving DecidableEq, Repr

/-- What the units measured in the tide that a boundary ends, and whether the planner missed it (R83, R90). -/
structure BoundaryIn where
  /-- the plan of the tide was not complete at its boundary (R90) -/
  planLate : Bool := false
  /-- measured held times by harbour (R433) -/
  slow : List (Nat × SlowMeas) := []
  /-- measured module and tile power, W (R511) -/
  moduleW : Nat := 0
  tileW : Nat := 0
  /-- measured tile power of each harbour, W (R498) -/
  harbourW : List (Nat × Nat) := []
  deriving DecidableEq, Repr

/-- A flit as a lane group sends or receives it, decrypted (R449). -/
structure Flit where
  seq : BitVec 12 := 0
  ackSeq : BitVec 12 := 0
  /-- 0 none, 1 ACK, 2 NAK -/
  ackKind : Nat := 0
  /-- 0 idle, 1 data, 2 control -/
  type : Nat := 0
  keyPhase : Bool := false
  vc : Nat := 0
  poison : Nat := 0
  credits : Nat := 0
  creditVc : Nat := 0
  dst : Nat := 0
  hop : Nat := 0
  hops : Nat := 0
  ports : List Nat := []
  src : Nat := 0
  srcEpoch : Nat := 0
  spanId : Nat := 0
  streamSeq : Half := 0
  /-- the 27 words of the body (R449) -/
  body : List Word := []
  deriving DecidableEq, Repr

/-- An ownership message (R467). -/
structure OwnMsg where
  msg : Nat := 0
  token : Nat := 7
  peer : Nat := 0xFFF
  phase : Nat := 0
  stateId : Word := 0
  epoch : Word := 0
  acked : Word := 0
  addr : Word := 0
  len : Nat := 0
  deriving DecidableEq, Repr

/-- Number formats (R141, R145). -/
inductive Fmt where
  | fp32 | bf16 | e4m3 | e5m2 | e3m2 | e2m3 | e2m1 | int8 | mxint8 | ternary
  deriving DecidableEq, Repr

/-- A tensor instruction (R108, R109, R144, R154). Addresses are window addresses; `scaled` operands carry E8M0 scale
bytes (R142, R143). The stationary operand is `b`. The instruction has no length operand: the zeros that pad a short last block or
chunk (R150, R163) lie in the operand data (log entry 113). -/
structure TensorOp where
  fmtA : Fmt := .bf16
  fmtB : Fmt := .bf16
  scaledA : Bool := false
  scaledB : Bool := false
  /-- streamed rows, 1–64 -/
  rows : Nat := 1
  /-- streamed operand and its scale bytes -/
  a : Word := 0
  aScale : Word := 0
  /-- stationary operand and its scale bytes, column by column -/
  b : Word := 0
  bScale : Word := 0
  /-- anchor vector -/
  anchors : Word := 0
  deriving DecidableEq, Repr

/-- A row-round instruction (R112, R166–R170): the accumulator row, the output format, the window addresses of the
converted row, of its scale bytes and of the range mask, and the logical shard and index of R169. -/
structure RoundOp where
  row : Nat := 0
  fmt : Fmt := .fp32
  scaled : Bool := false
  dst : Word := 0
  scaleDst : Word := 0
  maskDst : Word := 0
  shard : Nat := 0
  index : Nat := 0
  deriving DecidableEq, Repr

/-- FP32 operations of one vector lane (R113, R164, R165). -/
inductive FpOp where
  | add | sub | mul | fma | min | max
  deriving DecidableEq, Repr

/-- 32-bit integer operations of one vector lane (R113). -/
inductive IntOp where
  | add | sub | mul | and | or | xor | shl | shr | sar | smin | smax | umin | umax
  deriving DecidableEq, Repr

/-- A vector instruction (R112, R113, R165, R166): lanewise operations on registers, loads and stores through a window,
conversions between FP32 registers and packed data, and reductions of a register or of an accumulator row to one value. `shard` and
`index` name the first converted element for stochastic rounding (R169). -/
inductive VecOp where
  | fp (f : FpOp) (dst a b c : Nat)
  | int (f : IntOp) (dst a b : Nat)
  | load (dst : Nat) (addr : Word)
  | store (src : Nat) (addr : Word)
  | widen (fmt : Fmt) (scaled : Bool) (dst : Nat) (addr scale : Word)
  | narrow (fmt : Fmt) (scaled : Bool) (src : Nat) (addr scale : Word) (shard index : Nat)
  | readRow (dst row half shard index : Nat)
  | reduceReg (f : FpOp) (src count dst : Nat)
  | reduceRow (f : FpOp) (row count dst shard index : Nat)
  deriving DecidableEq, Repr

/-- Scalar arithmetic of the sequencer. -/
inductive AluOp where
  | add | sub | mul | and | or | xor | shl | shr | sltu | slt
  deriving DecidableEq, Repr

/-- A scalar instruction (R115, R191): an immediate, a load or store through a window, arithmetic, a branch taken when a
register is not zero, a jump, and a change of the loop and predicate state. -/
inductive ScalarOp where
  | imm (dst : Nat) (v : Word)
  | load (dst : Nat) (addr : Word)
  | store (src : Nat) (addr : Word)
  | alu (f : AluOp) (dst a b : Nat)
  | branch (cond : Nat) (target : Word)
  | jump (target : Word)
  | loopState
  deriving DecidableEq, Repr

/-- One end of a DMA descriptor (R120): local store, hold, or an address to translate. -/
inductive DmaEnd where
  | localStore (off : Nat) | hold (off : Nat) | va (a : Nat)
  deriving DecidableEq, Repr

/-- An atomic (R404, R455): 0 add, 1 swap, 2 compare and swap, on 64 bits; 3 FP32 add. -/
structure AtomicOp where
  op : Nat := 0
  operand : Word := 0
  compare : Word := 0
  deriving DecidableEq, Repr

/-- A unit that emits or checks traffic in a harbour's name (R341). -/
inductive Speaker where
  | tile (n : Nat) | channel (n : Nat) | laneGroup (n : Nat)
  /-- the Harbourmaster instance of a C-die (R289) -/
  | harbourmaster (die : Nat)
  deriving DecidableEq, Repr

/-- Symbols of a codeword that the array now holds wrong (R371, R374): channel, page × 2 + codeword, and each symbol's number in the
codeword with the exclusive or of what is held and what was written. -/
structure CwError where
  ch : Nat
  /-- page × 2 + codeword -/
  cw : Nat
  symbols : List (Nat × Nat)
  deriving DecidableEq, Repr

/-- Bits of a 64-bit word that a read of a tile's ports finds wrong (R119, R381): in the local store of a slot's part, or in the hold; bits
0–63 are data, 64–71 check bits. -/
structure EccError where
  slot : Option Nat
  word : Nat
  bits : List Nat
  deriving DecidableEq, Repr

/-- What the FEC of a received flit finds (R448, R450): the symbols it corrects, and whether every codeword could be corrected. -/
structure FecIn where
  corr : Nat
  ok : Bool
  deriving DecidableEq, Repr

/-- A request of a DMA engine to a hold, a local store or the always-on store: its engine, its place in the engine's list, and the wrong bits that
its ports find. -/
structure NearReq where
  engine : Nat
  n : Nat
  errs : List EccError
  deriving DecidableEq, Repr

/-- Whose request a channel serves: an outstanding request of a DMA engine, by its place in the engine's list, or a range of the
channel. -/
inductive HbmReq where
  | engine (place slot engine n : Nat) | range (ch byte len : Nat)
  deriving DecidableEq, Repr

/-- A remote transaction as it arrives (R455, R460). -/
structure TxnIn where
  tag : Nat
  spanId : Nat
  /-- region and offset (R361) -/
  addr : Nat
  len : Nat
  /-- launch-table entry of the requester's gang, for region 0x4 (R362) -/
  launch : Nat
  /-- ownership extension: OWNER_EPOCH and STATE_ID (R455, R471) -/
  ext : Option (Word × Nat)
  deriving DecidableEq, Repr

/-- A signal-class item (R455, R495). -/
inductive SignalIn where
  | fence (handle : Word32) (context : Nat) (value : Word) (error : Bool)
  | reduction (launch seq part : Nat) (op : RedOp) (value : Word)
  | allow (freq : Nat)
  deriving DecidableEq, Repr

/-- A die-level list of one query from another module (R230, R237): entries (score, identifier), ITEMS_READ,
ITEMS_PASSED, POISON_SKIPPED. -/
structure MillList where
  entries : List (Int × Nat)
  itemsRead : Nat
  itemsPassed : Nat
  poisonSkipped : Nat
  deriving DecidableEq, Repr

/-- A unit the liveness check or a self-check names (R514, R515). -/
inductive HangUnit where
  | tile (n : Nat) | mill (n : Nat) | channel (n : Nat)
  deriving DecidableEq, Repr

/-- What the checks of a key update message find beyond its bytes (R557). -/
structure KeyChecks where
  mldsaOk : Bool
  ecdsaOk : Bool
  decryptOk : Bool
  /-- keys of the operations after decryption, in entry order -/
  keys : List (BitVec 256)
  deriving DecidableEq, Repr

/-- Another supported SPDM request (R558). -/
inductive SpdmReq where
  | getDigests | getCertificate | challenge | keyExchange | finish | heartbeat | keyUpdate | endSession
  deriving DecidableEq, Repr

/-- An Eweas command as its page submits it (R575, R576): the page's function, the PASID of the GO write, its TAG, and
words 1–15. -/
structure EwCmd where
  func : Nat
  pasid : Option Nat := none
  tag : Word32 := 0
  args : List Word := []
  deriving DecidableEq, Repr

/-- What start-up finds at its steps 7 to 12 (R604, R606). -/
structure StartIn where
  /-- failed tiles, and stacks whose training failed -/
  failedTiles : List Nat := []
  failedStacks : List Nat := []
  /-- places whose hold fails its self-test, and C-dies whose Harbourmaster instance fails its own (R58, R606) -/
  failedHolds : List Nat := []
  failedHm : List Nat := []
  /-- working bridge modules -/
  bridge : Nat := 128
  /-- CASCADE_MST as sampled (R609) -/
  cascadeMst : Bool := false
  /-- TIME_US (R622) -/
  timeUs : Nat := 0
  deriving DecidableEq, Repr

/-- A BAR0 write (R627, R628): offset, size in bytes (4 or a multiple of 8), value words, PASID of the write. -/
structure BarWrite where
  offset : Nat
  size : Nat
  words : List Word
  pasid : Option Nat := none
  deriving DecidableEq, Repr

end Sys2Proof
end

