-- ==== Sys2Proof/Syntax.lean ====
section
/-! DEFINITION. The commands the block takes: one constructor per row of spec/opcode_table.json, in its order, with
what comes from outside as its operands. -/
namespace Sys2Proof

/-- The commands. -/
inductive Instr where
  /-- TIDE_BOUNDARY (R83): The tide generator counts out one period, raises the tick and increments the tide number;
  every unit then runs the boundary actions in order. -/
  | tideBoundary (b : BoundaryIn)
  /-- BUDGET_PREEMPT (R86): A running launch whose tide budget has reached 0 is pre-empted at a boundary, and its
  save starts. -/
  | budgetPreempt (l : Nat)
  /-- BERTH_TIMEOUT (R279): A launch reaches its berth timeout count at step 3 and completes with TIMEOUT according
  to its state. -/
  | berthTimeout (l : Nat)
  /-- TIDE_APPLY (R82): A write of APPLY to CF_TIDE_CFG requests a period and slack change, or is refused and counted
  in APPLY_REFUSED. -/
  | tideApply (m : Master) (v : Word)
  /-- TICK_MESSAGE (R97): A slave accepts a tick message from its master and places its boundary at the arrival time
  less the measured delay. -/
  | tickMessage (node : Nat) (t : TickMsg) (inWindow : Bool) (phaseUs : Nat)
  /-- MISSED_TICK (R97): No acceptable tick arrives within the predicted window, so the slave counts MISSED_TICK and
  generates the boundary itself. -/
  | missedTick
  /-- ECHO_EXCHANGE (R97): Every 1,024 tides a slave measures its one-way delay to the master by an echo exchange. -/
  | echoExchange (roundTrip : Nat)
  /-- LOAD_COMPLETE (R106): Loading of a launch slot completes, and the slot goes to RUNNING, or to DRAINING on a
  tile being drained. -/
  | loadComplete (place slot : Nat)
  /-- RESTORE_COMPLETE (R136): A restore from the save heap or the save pool completes, and the header CRC is checked. -/
  | restoreComplete (place slot : Nat) (crcOk poisoned : Bool)
  /-- DRAIN_COMPLETE (R130): The issued instructions and outstanding atomics of a draining slot complete, and the
  slot enters SAVING. -/
  | drainComplete (place slot : Nat)
  /-- SAVE_WINDOW_CLOSE (R132): A save window closes 4.0 µs after it opened, or later when an atomic extended it, and
  the slot becomes FREE. -/
  | saveWindowClose (place slot : Nat) (late : Bool)
  /-- PART_RETIRE (R178): A part's sequencer retires the launch's last instruction, and the slot enters RETIRING. -/
  | partRetire (place slot : Nat)
  /-- LAUNCH_COMPLETE (R270): The output DMA of the last part drains; the completion record is written, the fences
  are signalled, any interrupt is sent and the slots are freed. -/
  | launchComplete (l : Nat)
  /-- ABORT_COMPLETE (R106): An aborting slot has released its partitions and its record is written, so the slot
  becomes FREE. -/
  | abortComplete (place slot : Nat)
  /-- EVICTION_COMPLETE (R135): A stored record's eviction to the harbour's save pool completes, and the waiting
  placement proceeds. -/
  | evictionComplete (place : Nat)
  /-- SAVE_HEAP_ZEROING_DONE (R382): Zeroing of a released save-heap record ends, and its space counts as free. -/
  | saveHeapZeroingDone (place : Nat)
  /-- TILE_ERROR (R116): A compute-engine access misses every window or lacks the right; the gang aborts with FAULT
  and the context is marked lost. -/
  | tileError (place slot code : Nat) (addr : Word)
  /-- TENSOR_INSTRUCTION (R108): The array loads a stationary operand and streams rows into the accumulator rows. -/
  | tensorInstruction (place slot : Nat) (t : TensorOp)
  /-- EXACT_ROW_MERGE (R159): A 1,152-byte row image is added into an accumulator row, entry by entry, under the mode
  table. -/
  | exactRowMerge (place slot row : Nat) (addr : Word) (store : Bool)
  /-- ROW_ROUND (R170): An accumulator row is converted to an output format, and its range mask is written. -/
  | rowRound (place slot : Nat) (r : RoundOp)
  /-- ROW_CLEAR (R112): An explicit instruction clears an accumulator row. -/
  | rowClear (place slot row : Nat)
  /-- VECTOR_INSTRUCTION (R113): The vector engine executes an FP32 or integer operation, or a canonical-tree
  reduction. -/
  | vectorInstruction (place slot : Nat) (v : VecOp)
  /-- TRANSCENDENTAL_INSTRUCTION (R114): The transcendental unit computes a function of its FP32 inputs. -/
  | transcendentalInstruction (place slot fn dst src : Nat)
  /-- DMA_DESCRIPTOR (R120): A kernel queues a DMA descriptor moving data between local store, hold and translated
  addresses. -/
  | dmaDescriptor (place slot engine : Nat) (src dst : DmaEnd) (len : Nat) (atomic : Option AtomicOp)
  /-- KERNEL_FENCE_WAIT (R185): A kernel waits on a fence target; it returns at once for an out-of-range target and
  takes a tile error for a bad handle. -/
  | kernelFenceWait (place slot : Nat) (handle : Word32) (target : Word) (dstValue dstStatus : Nat)
  /-- FENCE_REACHED_NOTICE (R185): A fence-reached notice arrives at a waiting tile, and the wait returns its value
  and status scalars. -/
  | fenceReachedNotice (place slot : Nat)
  /-- KERNEL_FENCE_SIGNAL (R307): A kernel signals a fence; the signal is held until earlier DMA writes are
  acknowledged. -/
  | kernelFenceSignal (place slot : Nat) (handle : Word32) (v : Word)
  /-- DEVICE_DOORBELL (R258): A launch rings a device doorbell naming a berth and an index. -/
  | deviceDoorbell (place slot berth : Nat) (v : Word32)
  /-- GANG_REDUCTION (R124): A part contributes a value to a scalar reduction of its gang. -/
  | gangReduction (place slot : Nat) (op : RedOp) (v : Word) (dst : Nat)
  /-- GANG_BROADCAST (R188): A part issues a broadcast from a root part index. -/
  | gangBroadcast (place slot root : Nat) (v : Word) (dst : Nat)
  /-- REDUCTION_RESULT (R124): The last contribution arrives and the reduced result is returned to every part. -/
  | reductionResult (l seq : Nat)
  /-- SET_TAG (R203): A kernel sets a residency tag on its tile's table. -/
  | setTag (place slot tag base length : Nat)
  /-- CLEAR_TAG (R203): A kernel clears a residency tag. -/
  | clearTag (place slot tag : Nat)
  /-- READ_SPECIAL_SCALAR (R187): A kernel reads one of its special scalars. -/
  | readSpecialScalar (place slot n dst : Nat)
  /-- KERNEL_EXIT (R184): A kernel exits with a 32-bit user value. -/
  | kernelExit (place slot : Nat) (v : Word32)
  /-- KERNEL_TRAP (R184): A kernel traps, which is a tile error with FAULT. -/
  | kernelTrap (place slot code : Nat)
  /-- MILL_LOAD_COMPLETE (R232): A Mill query slot finishes loading or restoring and starts SCANNING. -/
  | millLoadComplete (mill entry : Nat) (crcOk : Bool)
  /-- MILL_RECORD (R234): A Mill takes up to eight records in one cycle, applies the predicates, scores them and
  feeds the candidate buffers. -/
  | millRecord (mill entry : Nat)
  /-- MILL_SCAN_END (R232): A slot scores the last record of its last segment and starts draining its list. -/
  | millScanEnd (mill entry : Nat)
  /-- MILL_LIST_ACCEPTED (R232): The merge tree accepts a slot's list, or the list is written to the result area, and
  the slot starts zeroing. -/
  | millListAccepted (mill entry : Nat)
  /-- MERGE_COMPLETE (R237): The merge tree writes the merged lists, and the scan completes. -/
  | mergeComplete (l : Nat)
  /-- MILL_LIST_RECEIVE (R237): A root module receives a die-level list from another module for merging. -/
  | millListReceive (l idx : Nat) (lists : List MillList)
  /-- MILL_SLOT_SAVED (R241): A Mill slot's record is written to the save pool during a re-bind drain. -/
  | millSlotSaved (mill entry : Nat)
  /-- MILL_ZEROING_DONE (R232): A Mill slot finishes clearing its query data and list and becomes FREE. -/
  | millZeroingDone (mill slot : Nat)
  /-- MILL_ABORT_DONE (R232): An aborting Mill slot's issued reads return and are discarded. -/
  | millAbortDone (mill entry : Nat)
  /-- DB_SUBMIT (R259): A doorbell value written to DB_SUBMIT is accepted as the producer index or rejected. -/
  | dbSubmit (m : Master) (pasid : Option Nat) (berth : Nat) (v : Word32)
  /-- DB_CPL_CONSUMED (R263): A write declares completion records consumed, and the value is accepted or rejected. -/
  | dbCplConsumed (m : Master) (pasid : Option Nat) (berth : Nat) (v : Word32)
  /-- DB_CAP_CONSUMED (R282): A write declares capture records consumed, and is checked against CAP_WRITTEN. -/
  | dbCapConsumed (m : Master) (pasid : Option Nat) (berth : Nat) (v : Word32)
  /-- DB_FENCE_SIGNAL (R308): A host write performs a fence signal with the handle previously staged, or the signal
  is rejected. -/
  | dbFenceSignal (m : Master) (pasid : Option Nat) (berth : Nat) (v : Word)
  /-- WHEEL_POSITION (R261): A 50 ns wheel position opens, and its harbour instantiates a pending graph node or
  starts one manifest fetch. -/
  | wheelPosition (pos : Nat)
  /-- MANIFEST_FETCH (R267): A fetched entry and its extension are copied into the launch table and checked, and the
  waits are evaluated. -/
  | manifestFetch (berth : Nat)
  /-- BERTH_ENABLE (R255): A write of ENABLE = 1 enables a berth, or is refused as CFG_REFUSED. -/
  | berthEnable (m : Master) (berth : Nat) (v : Word)
  /-- BERTH_DISABLE (R285): A write of ENABLE = 0 disables a stopped, idle berth, or is refused. -/
  | berthDisable (m : Master) (berth : Nat) (v : Word)
  /-- BERTH_STOP (R285): Writing STOP stops fetch from a berth within 6.4 µs. -/
  | berthStop (m : Master) (berth : Nat)
  /-- BERTH_ABORT (R285): Writing ABORT fixes every entry of the berth as ABORTED. -/
  | berthAbort (m : Master) (berth : Nat)
  /-- LT_QUOTA_WRITE (R271): A launch-table quota write is accepted if the sum stays within 65,536, and takes effect
  at the next boundary. -/
  | ltQuotaWrite (m : Master) (j : Nat) (v : Word)
  /-- HEARTBEAT (R288): The active instance sends its 1 µs heartbeat to the standby. -/
  | heartbeat
  /-- HEARTBEAT_LOSS (R289): The standby misses heartbeats for 4 µs and begins takeover. -/
  | heartbeatLoss
  /-- SELF_CHECK_REPORT (R288): The standby receives a self-check failure report from the active instance and begins
  takeover. -/
  | selfCheckReport
  /-- HM_FAILOVER (R289): At D + 20 µs the standby completes the replay and becomes active. -/
  | hmFailover
  /-- HM_LOST (R291): The remaining Harbourmaster instance fails after a failover. -/
  | hmLost (standbyReady : Bool)
  /-- FENCE_SIGNAL_APPLY (R302): A signal reaches the dependency unit and is applied or ignored as stale, releasing
  the waits it reaches. -/
  | fenceSignalApply
  /-- HM_FENCE_EVICT (R310): The manager names a cached fence for eviction in host-assisted spill mode. -/
  | hmFenceEvict (m : Master) (v : Word)
  /-- WAIT_CYCLE_APPLY (R313): A wait-cycle result is applied at a boundary: the members complete with WAIT_CYCLE, or
  the result is dropped. -/
  | waitCycleApply
  /-- HM_CYCLE_ANSWER (R314): The manager submits the answer list of a host-assisted wait-cycle check. -/
  | hmCycleAnswer (m : Master) (v : Word)
  /-- PATCH_APPLY (R323): A READY graph patch is copied, written, checked and committed as a new version, or ends
  with FAULT or GRAPH_BUSY. -/
  | patchApply (l : Nat)
  /-- HB_REQ (R346): The manager submits a harbour procedure request, which is validated and accepted or refused. -/
  | hbReq (m : Master) (v : Word)
  /-- HB_CANCEL (R352): The manager cancels a procedure that has not reached BUMP, which then rolls back. -/
  | hbCancel (m : Master) (v : Word)
  /-- REBIND_DRAIN (R347): At boundary 1, placement on source units stops and resident launches are pre-empted. -/
  | rebindDrain (j : Nat)
  /-- REBIND_SAVE (R347): Records of launches that are not hold-bound are copied to the pool reserve. -/
  | rebindSave (j : Nat)
  /-- REBIND_ZERO_DONE (R347): The zeroing and ungating of destinations completes. -/
  | rebindZeroDone (j : Nat)
  /-- REBIND_TRANSFER_DONE (R348): The copy of holds or channel granules to their destinations completes. -/
  | rebindTransferDone (j : Nat)
  /-- REBIND_BUMP (R347): HGEN is incremented, checker entries and credentials are rewritten and the logical maps
  switch. -/
  | rebindBump (j : Nat)
  /-- REBIND_RESTORE (R347): Hold-bound launches and saved Mill slots are restored on the destinations. -/
  | rebindRestore (j : Nat)
  /-- REBIND_RELEASE_DONE (R330): A leaving unit finishes zeroing and becomes free. -/
  | rebindReleaseDone (j : Nat)
  /-- HARBOUR_COMMIT (R347): A procedure commits: its maps and result are written and its journal slot is cleared. -/
  | harbourCommit (j : Nat)
  /-- HOLD_WAIT_EXPIRE (R349): At the HOLD_WAIT-th boundary, launches and scans still on leaving units complete with
  ABORTED. -/
  | holdWaitExpire (j : Nat)
  /-- STALE_SPEAKER (R342): A checker drops traffic that carries a stale binding generation, and fences the emitting
  unit on its first drop. -/
  | staleSpeaker (source : Speaker) (h gen : Nat)
  /-- HBM_READ (R374): A channel serves a read: unwritten granules read as zero and written pages are decoded and
  corrected. -/
  | hbmRead (r : HbmReq) (errs : List CwError)
  /-- HBM_WRITE (R380): A channel serves a write, re-coding the codewords it touches and setting WRITTEN. -/
  | hbmWrite (r : HbmReq) (data : List Byte) (poison : Bool) (errs : List CwError)
  /-- HBM_ATOMIC (R380): A channel performs an atomic, or returns poison when the target granule is poisoned. -/
  | hbmAtomic (r : HbmReq) (a : AtomicOp) (errs : List CwError)
  /-- CORRECTED_WRITEBACK (R374): A corrected codeword is written back when its channel is next idle for the page. -/
  | correctedWriteback (ch : Nat)
  /-- WRITTEN_BITS_CLEAR_DONE (R375): Clearing the written-bits of a range completes. -/
  | writtenBitsClearDone (ch : Nat)
  /-- MC_LEVEL_WRITE (R373): A write of a channel's page-code level is accepted on a free channel, which starts a
  clear, or is refused. -/
  | mcLevelWrite (m : Master) (ch : Nat) (v : Word)
  /-- REMAP_INSTALL (R387): A remap entry is installed in hardware mode at the next boundary, with a row copy, or is
  refused as REMAP_FULL. -/
  | remapInstall (ch : Nat)
  /-- MC_REMAP_WRITE (R386): The manager writes a remap table entry, which is accepted in host-assisted mode or
  refused. -/
  | mcRemapWrite (m : Master) (stack entry : Nat) (v : Word)
  /-- MC_SCRUB (R388): The manager submits a scrub request for a channel. -/
  | mcScrub (m : Master) (ch : Nat) (v : Word)
  /-- SCRUB_CANCEL (R395): A write of CANCEL ends the running scrub with STATUS 3. -/
  | scrubCancel (m : Master) (ch : Nat)
  /-- SCRUB_DONE (R388): A scrub, or one chunk of it, ends and its summary record is written. -/
  | scrubDone (ch : Nat) (errs : List CwError)
  /-- MC_ISET_WRITE (R366): A write to an interleave set is accepted or refused. -/
  | mcIsetWrite (m : Master) (h set : Nat) (v : Word)
  /-- MC_RETIRE (R522): The manager retires a channel through MC_RAS. -/
  | mcRetire (m : Master) (ch : Nat)
  /-- TRANSLATE_WALK (R406): A DMA request missing the caches walks the page tables and is translated or faults. -/
  | translateWalk (place slot engine : Nat)
  /-- XLF_CONS_WRITE (R415): The driver advances CONSUMED, which may free slots and release held requests to walk
  again. -/
  | xlfConsWrite (m : Master) (pasid : Option Nat) (h : Nat) (v : Word)
  /-- XLF_RESUME (R417): A RESUME response releases the engines of a PENDING entry to reissue their requests. -/
  | xlfResume (m : Master) (pasid : Option Nat) (h : Nat) (v : Word)
  /-- XLF_ABORT (R417): An ABORT response ends the launches of the engines held on an entry with FAULT. -/
  | xlfAbort (m : Master) (pasid : Option Nat) (h : Nat) (v : Word)
  /-- INV_RANGE (R409): The driver submits a range invalidation of one ASID. -/
  | invRange (m : Master) (pasid : Option Nat) (h : Nat) (v : Word)
  /-- INV_ASID (R409): The driver submits a whole-ASID invalidation. -/
  | invAsid (m : Master) (pasid : Option Nat) (h : Nat) (v : Word)
  /-- INV_HARBOUR (R409): The driver submits an invalidation of every ASID of the harbour. -/
  | invHarbour (m : Master) (pasid : Option Nat) (h : Nat) (v : Word)
  /-- INVALIDATION_COMPLETE (R410): An invalidation satisfies its three conditions, so DONE increments and any
  hardware re-walk runs. -/
  | invalidationComplete (h : Nat)
  /-- URGENCY_SAMPLE (R431): Every 100 ns a buffer fill is sampled and the master's urgency is updated. -/
  | urgencySample (unit fill : Nat)
  /-- REG_RESERVE_WRITE (R426): A regulation field write is accepted or refused under its sum limit and CMAX range. -/
  | regReserveWrite (m : Master) (regB : Bool) (h : Nat) (v : Word)
  /-- HB_SLICE_WRITE (R435): A slice entry is made valid or cleared, subject to its checks and to QUIESCED. -/
  | hbSliceWrite (m : Master) (slice word : Nat) (v : Word)
  /-- LINK_UP (R445): A port completes training and enters UP. -/
  | linkUp (port partner us : Nat) (credits : List Nat)
  /-- TRAINING_TIMEOUT (R445): Training is not complete within 10 ms, and the port goes to DOWN. -/
  | trainingTimeout (port : Nat)
  /-- RETRAIN_COMPLETE (R445): A port ends retraining and returns to UP, or goes to DOWN after 200 µs. -/
  | retrainComplete (port us : Nat) (ok : Bool)
  /-- LOSS_OF_LIGHT (R446): Light is lost on a wavelength, the port goes to DOWN and its unacknowledged flits move to
  other lane groups. -/
  | lossOfLight (port : Nat)
  /-- DOWN_RETRY (R445): Every 10 ms a port in DOWN with light on all wavelengths retries training. -/
  | downRetry (port : Nat)
  /-- WAKE_PATTERN (R447): A sleeping port detects the Shomea wake pattern. -/
  | wakePattern (port : Nat)
  /-- FLIT_RECEIVE (R450): A lane group receives a flit and checks its FEC, tag, SEQ and node epoch, then accepts it
  or discards and NAKs it. -/
  | flitReceive (lg : Nat) (f : Flit) (fec : FecIn) (tagOk : Bool)
  /-- ACK_CONTROL_FLIT (R450): With no flit sent in 64 flits or 0.5 µs, a control flit carries the acknowledgements. -/
  | ackControlFlit (lg : Nat)
  /-- KEY_PHASE_CHANGE (R452): After 2³⁶ flits a lane group switches key phase, or raises LINK_KEY_STALL when the
  next key is missing. -/
  | keyPhaseChange (lg : Nat)
  /-- READ (R460): A remote read transaction is received and served under the span table. -/
  | read (node : Nat) (t : TxnIn)
  /-- WRITE (R460): A remote write transaction is received and served. -/
  | write (node : Nat) (t : TxnIn) (data : List Byte) (poison : List Nat)
  /-- ATOMIC (R460): A remote atomic transaction is received and served. -/
  | atomic (node : Nat) (t : TxnIn) (a : AtomicOp)
  /-- READ_RESP (R461): Read data returns to its requester, or an error status becomes an ACCESS fault. -/
  | readResp (tag status : Nat) (data : List Byte) (poison : List Nat)
  /-- WRITE_ACK (R461): A remote write acknowledgement returns to its requester. -/
  | writeAck (tag status : Nat)
  /-- ATOMIC_RESP (R461): A remote atomic result, poisoned or not, returns to its requester. -/
  | atomicResp (tag status : Nat) (v : Word × Bool)
  /-- MESSAGE (R455): A message transaction is delivered to its mailbox. -/
  | message (node mailbox : Nat) (words : List Word)
  /-- SIGNAL (R455): A signal-class transaction arrives: a fence signal, reduction traffic or a slave's F_ALLOW
  report. -/
  | signal (node : Nat) (item : SignalIn)
  /-- STREAM_ACK (R459): An end-to-end stream acknowledgement frees the acknowledged flits from the resend area. -/
  | streamAck (node vc : Nat) (seq : Half)
  /-- REMOTE_RESEND_TIMEOUT (R459): A flit unacknowledged after REMOTE_TIMEOUT is resent on another route. -/
  | remoteResendTimeout (node vc : Nat)
  /-- MOVE (R468): A holder receives MOVE, goes to GIVING and sends GIVE. -/
  | move (node : Nat) (m : OwnMsg)
  /-- GIVE (R468): A pool receives GIVE, enters TAKING and starts copying the state. -/
  | give (node : Nat) (m : OwnMsg)
  /-- STATE_COPY_COMPLETE (R468): A taking pool finishes its copy of the state and sends TAKE. -/
  | stateCopyComplete (stateId : Nat)
  /-- TAKE (R468): The giver receives TAKE, releases, zeroes its copy and sends ACK. -/
  | take (node : Nat) (m : OwnMsg)
  /-- ACK (R468): The taker receives ACK, goes to HELD and renews. -/
  | ack (node : Nat) (m : OwnMsg)
  /-- RENEW (R469): The originator accepts or drops a RENEW and resets the lease. -/
  | renew (node : Nat) (m : OwnMsg)
  /-- RENEW_ACK (R469): A holder receives RENEW_ACK for its lease. -/
  | renewAck (node : Nat) (m : OwnMsg)
  /-- QUERY (R470): A node receives QUERY and answers with its TOKEN and ACKED. -/
  | query (node : Nat) (m : OwnMsg)
  /-- ANSWER (R470): A node applies an ANSWER and resolves a stuck hand-over by the highest acknowledged epoch. -/
  | answer (node : Nat) (m : OwnMsg)
  /-- REVOKE (R473): A node receiving a higher-epoch REVOKE zeroes its copy and goes to NONE. -/
  | revoke (node : Nat) (m : OwnMsg)
  /-- RESTORE (R473): A new holder receives RESTORE and copies the checkpoint image. -/
  | restore (node : Nat) (m : OwnMsg)
  /-- STATE_REPLAY (R473): The new holder's image copy completes, and it goes to HELD and renews. -/
  | stateReplay (stateId : Nat)
  /-- CKPT (R472): The originator records a checkpoint, frees the previous image and answers CKPT_ACK. -/
  | ckpt (node : Nat) (m : OwnMsg)
  /-- CKPT_ACK (R472): The holder receives CKPT_ACK, and the next phase may begin. -/
  | ckptAck (node : Nat) (m : OwnMsg)
  /-- HANDOVER_QUERY (R470): A giving or taking node's WAIT reaches 2, and it sends QUERY to its peer. -/
  | handoverQuery (stateId : Nat)
  /-- LEASE_EXPIRED (R473): LEASE_LEFT reaches 0; the originator raises the epoch, sends REVOKE and RESTORE. -/
  | leaseExpired (stateId newHolder : Nat)
  /-- ORPHANED (R469): A holder without RENEW_ACK for 2 × LEASE_TIDES boundaries zeroes the state and goes to NONE. -/
  | orphaned (stateId : Nat)
  /-- LK_ROLE_REQ (R465): The manager requests a role shift, which is accepted or refused. -/
  | lkRoleReq (m : Master) (v : Word)
  /-- ROLE_SHIFT (R465): In slack 1 the role changes and SHIFTING clears. -/
  | roleShift
  /-- LKP_RETRAIN (R446): Writing RETRAIN retrains a port, or takes it out of FAILED. -/
  | lkpRetrain (m : Master) (port : Nat)
  /-- LKP_DISABLE (R446): Writing DISABLE turns a port OFF, or lets it train. -/
  | lkpDisable (m : Master) (port : Nat) (v : Word)
  /-- LK_NODE_WRITE (R530): Writing a node's next epoch declares it dead, ending requests and launches toward it. -/
  | lkNodeWrite (m : Master) (node epoch : Nat)
  /-- PW_CMD_IDLE (R479): The manager commands IDLE, which is accepted or refused. -/
  | pwCmdIdle (m : Master)
  /-- PW_CMD_WATCH (R482): The manager commands WATCH, and the entry steps begin. -/
  | pwCmdWatch (m : Master)
  /-- PW_CMD_HOLD (R482): The manager commands HOLD, and the entry steps begin. -/
  | pwCmdHold (m : Master)
  /-- PW_CMD_ACTIVE (R479): A write of TARGET = ACTIVE in IDLE wakes the module. -/
  | pwCmdActive (m : Master)
  /-- LOWPOWER_ENTRY_DONE (R482): The saved set is written, the rails are removed and the tide generator stops. -/
  | lowpowerEntryDone
  /-- WAKE_N (R480): WAKE_N is asserted at the connector and wakes the module from a low-power state. -/
  | wakeN
  /-- IDLE_WAKE_TRAFFIC (R480): A PCIe TLP or data flit arrives in IDLE and wakes the module. -/
  | idleWakeTraffic
  /-- RESUME_DONE (R483): At W + 3.0 ms the first boundary arrives and the module is ACTIVE again. -/
  | resumeDone (crcOk : Bool)
  /-- WATCH_SAMPLE (R485): Every PERIOD_MS in WATCH the island samples sensors and light, logs them and asserts
  ALERT_N when out of threshold. -/
  | watchSample (ms : Nat) (samples : List (Nat × Nat))
  /-- AVS_REQUEST (R489): The module writes a rail voltage command over AVSBus. -/
  | avsRequest (rail mv : Nat)
  /-- AVS_STATUS_POLL (R489): Every 2 µs the module reads Status until VDone reads 1. -/
  | avsStatusPoll (rail : Nat) (ackCode : Nat) (vdone : Bool)
  /-- AVS_TIMEOUT (R489): VDone has not read 1 within 20 µs, so the request is retried or RAIL_FAULT is raised. -/
  | avsTimeout (rail : Nat)
  /-- PW_BUDGET_WRITE (R492): CAP_W is written by the manager or the sideband, and F_ALLOW is recomputed. -/
  | pwBudgetWrite (m : Master) (v : Word)
  /-- PW_HSUB_WRITE (R492): A harbour's tile sub-budget is written, and F_ALLOW is recomputed. -/
  | pwHsubWrite (m : Master) (j : Nat) (v : Word)
  /-- BOOST_UPDATE (R498): Once per tide the boost controller sets each region's frequency for the next boundary. -/
  | boostUpdate
  /-- DROOP (R500): A droop monitor crossing stretches the region's next two tile cycles. -/
  | droop (region : Nat)
  /-- BROWN_WARN (R501): The supply enters warning, and every region drops to SAFE_FREQ. -/
  | brownWarn
  /-- BROWN_RECOVER (R501): The supply has been out of warning for 10 µs, and BROWN_HOLD starts. -/
  | brownRecover
  /-- BROWN_HOLD_END (R501): At the 17th boundary after recovery the job frequency is restored. -/
  | brownHoldEnd
  /-- THERM_WARN (R504): A sensor crosses its warn threshold. -/
  | thermWarn (sensor temp : Nat)
  /-- THERM_THROTTLE (R504): A sensor crosses its throttle threshold, and the die's regions halve their frequency. -/
  | thermThrottle (sensor temp : Nat)
  /-- THROTTLE_RELEASE (R504): At the 4th consecutive cool boundary the die returns to its frequency. -/
  | throttleRelease (die : Nat)
  /-- THERM_TRIP (R505): A sensor reaches trip, THERMTRIP_N is asserted and every clock stops. -/
  | thermTrip (sensor temp : Nat)
  /-- MARGIN_MEASURE (R506): Every 2²⁰ boundaries the ageing monitors are measured. -/
  | marginMeasure
  /-- MARGIN_REPLAN (R507): The measurement ends, the new margin table takes effect and is written to the store and
  the flash. -/
  | marginReplan (least : List (Nat × Nat)) (fabric : Nat)
  /-- PW_GATE_WRITE (R512): The manager requests clusters gated or ungated. -/
  | pwGateWrite (m : Master) (v : Word)
  /-- UNGATE_COMPLETE (R127): Ungating completes 10 µs after it was applied. -/
  | ungateComplete (cluster : Nat)
  /-- PW_POLICY_WRITE (R588): The manager answers a POLICY_REQ with a job frequency, which is applied or refused. -/
  | pwPolicyWrite (m : Master) (v : Word)
  /-- LIVENESS_CHECK (R515): 2 µs after a boundary, units without a liveness acknowledgement count a miss and are
  declared hung on the second. -/
  | livenessCheck (missing : List HangUnit)
  /-- SLOT_WATCHDOG (R516): A slot stuck in a transient state through HANG_TIDES boundaries declares its unit hung. -/
  | slotWatchdog (unit : HangUnit) (slot : Nat)
  /-- UNIT_SELF_CHECK_FAIL (R514): A tile, Mill or channel controller reports a self-check error and is failed. -/
  | unitSelfCheckFail (unit : HangUnit)
  /-- TL_RESET (R517): The manager resets a tile. -/
  | tlReset (m : Master) (tile : Nat)
  /-- TL_CLUSTER_RESET (R517): The manager resets a tile's cluster. -/
  | tlClusterReset (m : Master) (tile : Nat)
  /-- TL_SUBSTITUTE (R520): The manager substitutes the spare for a failed place in host-assisted mode. -/
  | tlSubstitute (m : Master) (tile : Nat)
  /-- TL_RETIRE (R521): The manager retires a place. -/
  | tlRetire (m : Master) (tile : Nat)
  /-- TL_FAIL (R514): The manager declares a tile failed. -/
  | tlFail (m : Master) (tile : Nat)
  /-- TILE_RESET_COMPLETE (R128): A tile or cluster reset completes and its credentials are reloaded. -/
  | tileResetComplete (tile : Nat)
  /-- CLUSTER_RESET_TIMEOUT (R517): A cluster reset is not complete after 20 µs; the cluster fails and its places are
  retired. -/
  | clusterResetTimeout (cluster : Nat)
  /-- SPARE_IN (R520): At the planned boundary the spare is reset and loaded to serve the failed place. -/
  | spareIn (place : Nat)
  /-- PLACE_RESUME (R520): At the boundary after substitution the place accepts placements again. -/
  | placeResume (place : Nat)
  /-- CHANNEL_CONTROLLER_FAIL (R522): A channel controller fails and its channel is retired. -/
  | channelControllerFail (ch cause : Nat)
  /-- MILL_FAIL (R523): A Mill fails, and its placed scans end. -/
  | millFail (mill cause : Nat)
  /-- BRIDGE_DEGRADE (R524): A bridge module fails beyond lane repair, and the bridge continues with fewer modules. -/
  | bridgeDegrade (working : Nat)
  /-- TAMPER (R552): A tamper event zeroes every key and closes sessions, and resets the module if powered. -/
  | tamper (cause : Nat)
  /-- BATT_LOW (R553): The coin cell falls below 2.5 V. -/
  | battLow (mv : Nat)
  /-- SC_KEYUPD (R556): The manager submits a key update message. -/
  | scKeyupd (m : Master) (v : Word)
  /-- KEY_UPDATE (R557): The checks of an update end, and it is applied by a bank flip or rejected. -/
  | keyUpdate (c : KeyChecks)
  /-- GET_VERSION (R560): The SPDM responder answers GET_VERSION. -/
  | getVersion
  /-- GET_CAPABILITIES (R560): The SPDM responder answers GET_CAPABILITIES. -/
  | getCapabilities
  /-- NEGOTIATE_ALGORITHMS (R560): The SPDM responder answers NEGOTIATE_ALGORITHMS. -/
  | negotiateAlgorithms (ok : Bool)
  /-- GET_MEASUREMENTS (R559): The responder returns the measurement blocks, or an error while ROOT_VALID is 0. -/
  | getMeasurements (index : Nat)
  /-- SPDM_OTHER_REQUEST (R558): The responder handles another supported SPDM request: certificate, challenge, key
  exchange, heartbeat or key update. -/
  | spdmOtherRequest (r : SpdmReq)
  /-- KEY_PROG (R544): IDE_KM programs a stream key set. -/
  | keyProg (link stream set : Nat)
  /-- K_SET_GO (R544): IDE_KM activates a key set. -/
  | kSetGo (link stream set : Nat)
  /-- K_SET_STOP (R544): IDE_KM stops a key set. -/
  | kSetStop (link stream set : Nat)
  /-- IDE_INSECURE (R545): An IDE stream leaves the Secure state after an integrity failure. -/
  | ideInsecure (link stream : Nat)
  /-- BAR2_READ (R568): A host read through a BAR2 aperture is served from the mapped object, or returns zero. -/
  | bar2Read (func offset len : Nat) (secure : Bool)
  /-- BAR2_WRITE (R568): A host write through a BAR2 aperture is performed, or ignored as BAR2_MISS. -/
  | bar2Write (func offset : Nat) (data : List Byte) (poison secure : Bool)
  /-- PCIE_COMPLETION (R583): A completion to a module-issued request returns data, poison or an error status. -/
  | pcieCompletion (req status : Nat) (data : List Byte) (poison : Bool)
  /-- PCIE_COMPLETION_TIMEOUT (R583): No completion arrives within 10 ms, and the request ends as an ACCESS fault. -/
  | pcieCompletionTimeout (req : Nat)
  /-- MSIX_UNMASK (R569): A vector is unmasked, and its pending interrupt is sent. -/
  | msixUnmask (func vector : Nat)
  /-- CTX_CREATE (R577): The Eweas command creates a context on the lowest free ASID. -/
  | ctxCreate (c : EwCmd)
  /-- CTX_DESTROY (R585): The Eweas command starts teardown of a context. -/
  | ctxDestroy (c : EwCmd)
  /-- MEM_CREATE (R578): The Eweas command creates a memory object. -/
  | memCreate (c : EwCmd)
  /-- MEM_RELEASE (R578): The Eweas command releases a memory handle. -/
  | memRelease (c : EwCmd)
  /-- MEM_EXPORT (R577): The Eweas command exports a memory object as a token. -/
  | memExport (c : EwCmd)
  /-- MEM_IMPORT (R578): The Eweas command imports a memory token into a context. -/
  | memImport (c : EwCmd)
  /-- MEM_PIN (R579): The Eweas command adds 1 to an object's pin count. -/
  | memPin (c : EwCmd)
  /-- MEM_UNPIN (R579): The Eweas command subtracts 1 from an object's pin count. -/
  | memUnpin (c : EwCmd)
  /-- MAP (R580): The Eweas command maps an object into a context's address space. -/
  | map (c : EwCmd)
  /-- MAP_HOST (R580): The Eweas command maps host memory into a context's address space. -/
  | mapHost (c : EwCmd)
  /-- UNMAP (R577): The Eweas command unmaps a range and invalidates it. -/
  | unmap (c : EwCmd)
  /-- BAR_MAP (R568): The Eweas command maps or unmaps BAR2 apertures. -/
  | barMap (c : EwCmd)
  /-- FENCE_CREATE (R581): The Eweas command creates an open or closed fence. -/
  | fenceCreate (c : EwCmd)
  /-- FENCE_EXPORT (R577): The Eweas command exports a fence as a token. -/
  | fenceExport (c : EwCmd)
  /-- FENCE_IMPORT (R581): The Eweas command imports a fence token. -/
  | fenceImport (c : EwCmd)
  /-- FENCE_DESTROY (R581): The Eweas command removes one fence-space entry. -/
  | fenceDestroy (c : EwCmd)
  /-- FENCE_MIRROR (R301): The Eweas command sets a fence's value mirror. -/
  | fenceMirror (c : EwCmd)
  /-- BERTH_CREATE (R582): The Eweas command configures and enables a berth. -/
  | berthCreate (c : EwCmd)
  /-- BERTH_DESTROY (R577): The Eweas command stops, aborts, disables and scrubs a berth. -/
  | berthDestroy (c : EwCmd)
  /-- EVENT_BIND (R577): The Eweas command binds an interrupt vector to a context. -/
  | eventBind (c : EwCmd)
  /-- EVENT_UNBIND (R577): The Eweas command unbinds an interrupt vector. -/
  | eventUnbind (c : EwCmd)
  /-- GRAPH_REGISTER (R318): The Eweas command checks and registers a stored graph. -/
  | graphRegister (c : EwCmd)
  /-- GRAPH_UNREGISTER (R577): The Eweas command unregisters a graph once no version is live. -/
  | graphUnregister (c : EwCmd)
  /-- STATE_CREATE (R577): The Eweas command creates a state record with TOKEN ORIGIN. -/
  | stateCreate (c : EwCmd)
  /-- STATE_MOVE (R468): The Eweas command starts a hand-over of a state record's token. -/
  | stateMove (c : EwCmd)
  /-- PHASE_END (R472): The Eweas command writes a checkpoint image and sends CKPT. -/
  | phaseEnd (c : EwCmd)
  /-- STATE_DESTROY (R577): The Eweas command destroys a state record after revoking the holder. -/
  | stateDestroy (c : EwCmd)
  /-- TEARDOWN_QUIESCED (R585): No request carrying the torn-down ASID remains outstanding, and removal and release
  proceed. -/
  | teardownQuiesced (asid : Nat)
  /-- CTX_TEARDOWN (R585): The scrub ends, the ASID is freed and the result of the destroy is written. -/
  | ctxTeardown (asid : Nat)
  /-- FUNCTION_LEVEL_RESET (R584): An FLR of a function tears down every context of that function. -/
  | functionLevelReset (func : Nat)
  /-- HOST_LINK_DOWN (R590): A PCIe link leaves L0 unexpectedly, and its requests end. -/
  | hostLinkDown (link : Nat)
  /-- LINK_DOWN_GRACE_EXPIRE (R590): A link not back in L0 after 1 s has the contexts of its functions torn down. -/
  | linkDownGraceExpire (link : Nat)
  /-- CF_FUNC_MODE_WRITE (R640): The manager changes recovery function modes, each taking effect at its own instant. -/
  | cfFuncModeWrite (m : Master) (v : Word)
  /-- STARTUP_BEGIN (R603): VSTBY becomes valid or a reset ends with FREEZE_N deasserted, and start-up begins. -/
  | startupBegin (fresh : Bool)
  /-- IMAGE_ACCEPT (R597): A slot's sections are read and verified, or the next slot is tried. -/
  | imageAccept
  /-- START_DONE (R604): Start-up completes step 12: harbour 0 exists, tide 0 begins and ports train. -/
  | startDone (t : StartIn)
  /-- STARTUP_STOP (R606): A start-up failure stops the module with a STOP code in its minimal state. -/
  | startupStop (code record : Nat)
  /-- SVN_FUSE_BLOW (R598): The security controller finishes raising the fused SVN floor. -/
  | svnFuseBlow
  /-- PERST_N_DEASSERT (R605): PERST_N is released, and the links train within 20 ms. -/
  | perstNDeassert (widths : List (Nat × Nat))
  /-- MOD_RST_N (R603): MOD_RST_N is asserted for at least 100 cycles and resets the module. -/
  | modRstN (asserted : Bool)
  /-- FREEZE_N (R611): FREEZE_N is asserted, and every clock stops within 20 ns. -/
  | freezeN (asserted : Bool)
  /-- DB_FREEZE_SOFT (R611): The manager writes SOFT and freezes the module. -/
  | dbFreezeSoft (m : Master) (v : Word)
  /-- DUMP_FRAME (R615): The dump controller sends the next 4 KiB frame on the scan-dump port. -/
  | dumpFrame
  /-- TAP_DUMP (R616): The private DUMP instruction reads the frame stream while frozen. -/
  | tapDump
  /-- TAP_EXTEST (R616): EXTEST operates while MOD_RST_N is asserted, and acts as BYPASS otherwise. -/
  | tapExtest
  /-- TAP_IDCODE (R616): The test access port returns IDCODE. -/
  | tapIdcode
  /-- TAP_BYPASS (R616): The test access port runs BYPASS. -/
  | tapBypass
  /-- TAP_SAMPLE_PRELOAD (R616): The test access port runs SAMPLE/PRELOAD. -/
  | tapSamplePreload
  /-- SUPPLY_RESET (R654): A rail below its reset level for 1 µs, or a stopped REFCLK_SYS, resets the module. -/
  | supplyReset
  /-- PG_FAULT (R652): A power-good is late or falls, so the rails are removed and ALERT_N is asserted. -/
  | pgFault
  /-- MATE_OPEN (R664): A MATE contact opens during withdrawal, which is a surprise removal. -/
  | mateOpen (contact : Nat)
  /-- CRC_PASS_END (R635): A configuration CRC pass ends and is compared with REF. -/
  | crcPassEnd
  /-- CRC_REF_WRITE (R636): The manager commits a reference CRC, restarting the pass. -/
  | crcRefWrite (m : Master) (v : Word)
  /-- CRC_ADOPT (R636): The manager adopts the next pass's result as the reference. -/
  | crcAdopt (m : Master)
  /-- REGISTER_WRITE (R628): A BAR0 write to a register without a row of its own is applied, refused, ignored or
  counted under the access rules. -/
  | registerWrite (m : Master) (a : BarWrite)
  /-- HOST_LINK_RETURN (R590): A PCIe link that left L0 returns to L0; it is enumerated again, its functions restart
  with NumVFs 0, empty command pages and cleared MSI-X tables, and the grace timer of R590 stops. -/
  | hostLinkReturn (link width speed : Nat)
  /-- WAKE_PATTERN_SEND (R447): A port whose partner does not answer training within 1 ms sends the 128 µs Shomea
  wake pattern before it trains. -/
  | wakePatternSend (port : Nat)
  /-- STREAM_ACK_SEND (R459): A receiver that has not acknowledged a stream for 1 µs sends an end-to-end
  acknowledgement on VC 0. -/
  | streamAckSend (node vc : Nat)
  /-- SCALAR_INSTRUCTION (R115): The sequencer issues a scalar load, store or branch through the launch's window
  table, which may take a window or poison tile error. -/
  | scalarInstruction (place slot : Nat) (op : ScalarOp)
  /-- FABRIC_DOMAIN_FAILURE (R513): C-die 0's fabric domain fails as a whole, which is a module failure: MODULE_FAIL
  is stored and the module resets. -/
  | fabricDomainFailure
  /-- HOLD_FAILURE (R48): A tile place's hold fails at run time and the place is retired, ending its hold-bound saved
  launches. -/
  | holdFailure (place : Nat)
  /-- HOLD_OR_LOCAL_STORE_REQUEST (R121): A DMA or remote request to a hold, a gang part's local store or the
  always-on store (regions 0x3, 0x4, 0x6) is served at its hold or router port and returns to its engine. -/
  | holdOrLocalStoreRequest (place slot : Nat) (r : NearReq)
  /-- MARGIN_FLASH_WRITE_DONE (R507): The flash write of a re-planned margin table ends, up to 2 s after the re-plan,
  and raises MARGIN_FLASH_FAIL if it failed. -/
  | marginFlashWriteDone (ok : Bool)
  /-- POWER_GOOD_CHANGE (R651): A rail group's PG input rises or falls during power-on or power-off, which lets the
  module assert or deassert the next group's enable. -/
  | powerGoodChange (group : Nat) (good : Bool)
  deriving DecidableEq, Repr

end Sys2Proof
end

