-- ==== Sys2Proof/Config.lean ====
section
/-! DEFINITION. The free values: what the spec leaves open, as constants that nothing can evaluate. Each is applied to
the operands it depends on, or to a number drawn from the state's freeTick (log entry 3). -/
namespace Sys2Proof.Config

/-- A fresh 64-bit value (log entry 3). -/
opaque freeWord : Nat → Word

/-- The transcendental unit's result for a function and an FP32 input, which `transResult` holds to the bound of R114 (log entry 4). -/
opaque transcendental : Nat → Word32 → Word32

/-- A digest over words: SHA-384 measurements (R559), reduced to one word here (log entry 5). -/
opaque digest : Nat → List Word → Word

/-- A key that the security controller derives from the root secret and the seed, by item: 0 and 1 the attestation pair, 2 and 3 the
ML-KEM-1024 pair, 4 and 5 the ECDH P-384 pair, private then public, 6 the slot-tag key (R550, log entry 136). -/
opaque derivedKey : Nat → Nat → Nat → Nat

/-- KMAC256 of NIST SP 800-185 over a key, data, a number of output bits and a customization string; the first output bit is bit 0
(R546, log entry 142). -/
opaque kmac256 : BitVec 256 → List Byte → Nat → List Byte → Nat

/-- What an identifier-order tie breaks to when deterministic mode is off (R240, log entry 6). -/
opaque tieOrder : Nat → Nat → Bool

/-- Reference tile power of the load image at a frequency point, in 10 mW, where the spec states none (R491, log entry 7). -/
opaque factoryPref : Nat → Nat

/-- Voltage of the load image's factory plan for a clock region at a point, in mV (R491, R507, log entry 7). -/
opaque factoryVolt : Nat → Nat → Nat

/-- The mailbox of a MESSAGE transaction that the spec gives no number: 0 span counts, 1 Mill lists (R237, R338, R454, log entry 44). -/
opaque messageBox : Nat → Nat

/-- The kind of a SIGNAL transaction that the spec gives no number: 0 tick message, 1 end-to-end acknowledgement (R96, R454, R459,
log entry 41). -/
opaque signalKind : Nat → Nat

end Sys2Proof.Config
end

