-- ==== Sys2Proof/Machine/Tab.lean ====
section
/-! DEFINITION. The plain containers every block of the state uses: tables keyed by a unit number (rising keys),
rising sets of numbers, and the reading of a bit field of a descriptor word (R18, R31). -/
namespace Sys2Proof

/-- A table: (number, value) pairs with strictly rising numbers. A number that is not listed holds the default its
owner names. -/
abbrev Tab (α : Type) := List (Nat × α)

/-- A rising list of numbers. -/
abbrev NSet := List Nat

/-- The entry of `k`, if listed. -/
def tabFind {α : Type} : Tab α → Nat → Option α
  | [], _ => none
  | (j, v) :: t, k => if j = k then some v else tabFind t k

/-- The entry of `k`, or the default `d`. -/
def tabGet {α : Type} (d : α) (t : Tab α) (k : Nat) : α := (tabFind t k).getD d

/-- Write the entry of `k`, keeping the numbers rising. -/
def tabPut {α : Type} : Tab α → Nat → α → Tab α
  | [], k, v => [(k, v)]
  | (j, w) :: t, k, v =>
    if k < j then (k, v) :: (j, w) :: t
    else if k = j then (k, v) :: t
    else (j, w) :: tabPut t k v

/-- Remove the entry of `k`. -/
def tabDel {α : Type} : Tab α → Nat → Tab α
  | [], _ => []
  | (j, w) :: t, k => if j = k then t else (j, w) :: tabDel t k

/-- Write the entry of `k`; an entry equal to the default `d` is not listed. -/
def tabSet {α : Type} [DecidableEq α] (d : α) (t : Tab α) (k : Nat) (v : α) : Tab α :=
  if v = d then tabDel t k else tabPut t k v

/-- Change the entry of `k` (default `d`). -/
def tabMod {α : Type} (d : α) (t : Tab α) (k : Nat) (f : α → α) : Tab α := tabPut t k (f (tabGet d t k))

/-- Put `k` into a rising set. -/
def setIns : NSet → Nat → NSet
  | [], k => [k]
  | j :: t, k => if k < j then k :: j :: t else if k = j then j :: t else j :: setIns t k

/-- Take `k` out of a rising set. -/
def setDel : NSet → Nat → NSet
  | [], _ => []
  | j :: t, k => if j = k then t else j :: setDel t k

/-- Put the numbers `k, k+1, …, k+n-1` into a rising set. -/
def setInsRange (t : NSet) (k : Nat) : Nat → NSet
  | 0 => t
  | n + 1 => setInsRange (setIns t (k + n)) k n

/-- Take the numbers `k, …, k+n-1` out of a rising set. -/
def setDelRange (t : NSet) (k n : Nat) : NSet := t.filter (fun j => decide (j < k ∨ k + n ≤ j))

/-- Bits `[lo+n-1 : lo]` of a number (R18). -/
def bitsN (w lo n : Nat) : Nat := w / 2 ^ lo % 2 ^ n

/-- Bits `[lo+n-1 : lo]` of a descriptor word (R18, R31). -/
def bits (w : Word) (lo n : Nat) : Nat := bitsN w.toNat lo n

/-- Bit `i` of a descriptor word. -/
def bit (w : Word) (i : Nat) : Bool := bits w i 1 == 1

/-- Replace bits `[lo+n-1 : lo]` of a number by `v`. -/
def putBits (w lo n v : Nat) : Nat := w - bitsN w lo n * 2 ^ lo + v % 2 ^ n * 2 ^ lo

/-- Word `i` of a record that is a list of 64-bit words; words past its end are zero. -/
def wordAt (ws : List Word) (i : Nat) : Word := ws.getD i 0

/-- The bytes of a 64-bit word, least significant first (R18). -/
def wordBytes (w : Word) : List Byte := (List.range 8).map (fun i => BitVec.ofNat 8 (w.toNat / 256 ^ i))

/-- The number spelled by bytes, least significant first (R18). -/
def leNat : List Byte → Nat
  | [] => 0
  | b :: t => b.toNat + 256 * leNat t

/-- The 64-bit words spelled by bytes; a last short group is padded with zero bytes. -/
def bytesWords : Nat → List Byte → List Word
  | 0, _ => []
  | n + 1, bs => BitVec.ofNat 64 (leNat (bs.take 8)) :: bytesWords n (bs.drop 8)

/-- The lowest `n` bytes of a number, least significant first (R18). -/
def natBytes (n v : Nat) : List Byte := (List.range n).map (fun i => BitVec.ofNat 8 (v / 256 ^ i))

end Sys2Proof
end

