-- ==== Sys2Proof/Machine/StateTile.lean ====
section
/-! DEFINITION. The state of the tide generator (02_tides) and of the tiles, their launch slots, partitions, holds and
save heaps (03_tile, 05_execution_model). -/
namespace Sys2Proof.Machine
open Sys2Proof

/-- A period, slack or job-frequency change that waits for its boundary (R82, R91): `left` boundaries remain. -/
structure TideChange where
  period : Nat
  slack : Nat
  left : Nat
  deriving DecidableEq, Repr

/-- The tide generator and the tide registers (R75–R99). -/
structure Tide where
  /-- CF_TIDE_CFG.NEXT_PERIOD, µs (R81) -/
  nextPeriod : Nat := 0
  /-- CF_TIDE_CFG.NEXT_SLACK, 100 ns (R81) -/
  nextSlack : Nat := 0
  /-- period in force, µs (R81) -/
  period : Nat := 0
  /-- slack in force, 100 ns (R81) -/
  slack : Nat := 0
  /-- job frequency in force, MHz (R81) -/
  jobFreq : Nat := 0
  /-- CF_TIDE_NUM.TIDE (R78) -/
  num : Word := 0
  /-- ROLE (R81) -/
  role : TideRole := .standalone
  /-- LOCKED (R97) -/
  locked : Bool := false
  /-- HOLDOVER (R99) -/
  holdover : Bool := false
  /-- ISOLATED (R99) -/
  isolated : Bool := false
  /-- an accepted period and slack change; APPLY_PENDING reads 1 while it is held (R82) -/
  change : Option TideChange := none
  /-- the job frequency decided in the current tide (R91, R494) -/
  freqDecided : Option Nat := none
  /-- the job frequency announced at the last boundary, due at the next (R91, R494) -/
  freqAnnounced : Option Nat := none
  /-- CF_TIDE_STATUS.PLAN_LATE (R81, R90) -/
  planLate : Bool := false
  /-- CF_TIDE_COUNT fields, modulo 2^16 (R81) -/
  cMissedTick : Half := 0
  cSaveOverrun : Half := 0
  cPlanLate : Half := 0
  cApplyRefused : Half := 0
  /-- the tide counter shadow of the always-on island (R80) -/
  shadow : Word := 0
  /-- the generator stands still (WATCH, HOLD, OFF; R80) -/
  stopped : Bool := true
  /-- cascade group and master node of the load image (R96, R97) -/
  groupId : Nat := 0
  masterNode : Nat := 0
  /-- consecutive missed ticks of a slave (R99) -/
  missRun : Nat := 0
  /-- last accepted master tide number (R100) -/
  lastMaster : Word := 0
  /-- the one-way delay a slave measured, ns (R97) -/
  delay : Nat := 0
  /-- boundaries since the last echo exchange, and whether the next one is due (R97) -/
  sinceEcho : Nat := 0
  echoDue : Bool := false
  /-- aligned ticks an isolated slave has received in a row (R99) -/
  aligned : Nat := 0
  /-- the master tide number a slave adopts at the end of its realignment tide, and the tide's length in µs (R99) -/
  rejoin : Option (Word × Nat) := none
  /-- a rejoining slave lets the master's next boundary pass (R99) -/
  rejoinSkip : Bool := false
  /-- a slave's announced period and slack change with its tide number (R82, R96) -/
  slaveChange : Option TickMsg := none
  /-- the last tick that announced a change (R96) -/
  lastChange : Option TickMsg := none
  deriving DecidableEq, Repr

/-- One window of a launch (R115): the target range, its rights, and the memory object an HBM window pins. -/
structure Window where
  target : WinTarget
  /-- byte offset in the local-store partition or the hold; device physical address without node for HBM -/
  addr : Nat
  len : Nat
  r : Bool
  w : Bool
  /-- memory object of an HBM window -/
  obj : Nat
  deriving DecidableEq, Repr

/-- One entry of the exact accumulator bank with its sideband (R111). The value is a 128-bit two's-complement
accumulator, or an FP32 pattern in its low 32 bits. -/
structure AccEntry where
  value : BitVec 128 := 0
  /-- ANCHOR, nine bits two's complement -/
  anchor : BitVec 9 := 0
  /-- RANGE -/
  range : Bool := false
  mode : AccMode := .unused
  deriving DecidableEq, Repr

/-- Data on its way, in pieces of at most 64 bytes with the poison of each (R378). -/
abbrev Beats := List (List Byte × Bool)

/-- A DMA descriptor: a copy of `len` bytes, or an atomic on its translated end (R120, R130). -/
structure DmaDesc where
  /-- its number in the engine's queue of its launch part -/
  id : Nat := 0
  src : DmaEnd
  dst : DmaEnd
  len : Nat
  /-- an atomic on `dst`; the value it returns goes to `src` (R455) -/
  atomic : Option AtomicOp := none
  /-- bytes whose requests have been issued -/
  issued : Nat := 0
  deriving DecidableEq, Repr

/-- A request in an engine's fault latch (R130, R413). -/
structure FaultLatch where
  va : Nat
  access : Access
  /-- the KIND of its fault (R411) -/
  kind : Nat
  /-- fault-queue slot it is held on; `none` while it stalls without an entry (R415) -/
  entry : Option Nat
  /-- order in which engines entered their latches (R415) -/
  order : Nat
  deriving DecidableEq, Repr

/-- An outstanding request of an engine: part of a descriptor (R120, R121, R406). -/
structure DmaReq where
  /-- its number in the engine, and that of its descriptor -/
  id : Nat := 0
  desc : Nat := 0
  /-- its place in the descriptor, its bytes, and its ends at that place -/
  pos : Nat := 0
  len : Nat
  src : DmaEnd
  dst : DmaEnd
  atomic : Option AtomicOp := none
  /-- translated addresses of its ends; `none` for an end in the launch's own local store or its tile's hold -/
  srcAt : Option Nat := none
  dstAt : Option Nat := none
  /-- its ends have been translated; after a restore they are translated again (R130) -/
  ready : Bool := true
  /-- data read, or the value an atomic returned, once it has come -/
  buf : Option Beats := none
  /-- outstanding on the links or at the host (R460, R583) -/
  away : Bool := false
  deriving DecidableEq, Repr

/-- One of the two DMA engines as a launch uses it: its queue of descriptors and its outstanding requests, oldest first (R120, R121,
R130). -/
structure DmaCtx where
  queue : List DmaDesc := []
  reqs : List DmaReq := []
  latch : Option FaultLatch := none
  /-- numbers of the next descriptor and the next request -/
  nextDesc : Nat := 0
  nextReq : Nat := 0
  deriving DecidableEq, Repr

/-- A pending gang reduction of a part (R124, R131). -/
structure RedPend where
  seq : Nat
  op : RedOp
  value : Word
  /-- scalar register that takes the result -/
  dst : Nat
  deriving DecidableEq, Repr

/-- A pending in-kernel fence wait (R185): the fence, the target and the two scalar registers it returns. -/
structure KWait where
  fon : Nat
  target : Word
  dstValue : Nat
  dstStatus : Nat
  /-- released, and with the error bit (R304) -/
  released : Bool := false
  err : Bool := false
  deriving DecidableEq, Repr

/-- A fence signal or a doorbell held until the descriptors ahead of it on each engine have completed (R260, R307). -/
structure Held where
  /-- fence object and value, or berth and index -/
  item : (Nat × Word) ⊕ (Nat × Word32)
  /-- the descriptors of each engine numbered below these are ahead of it -/
  before0 : Nat
  before1 : Nat
  deriving DecidableEq, Repr

/-- The context and the partitions of one resident or saved launch part (R102, R134). -/
structure PartCtx where
  /-- 64 scalar registers (R134) -/
  sregs : Tab Word := []
  pc : Word := 0
  /-- loop and predicate state, in the tile binary's own form (R134) -/
  loopPred : Word := 0
  /-- sequencer status word (R284) -/
  stopped : Bool := false
  blockedRed : Bool := false
  trapTaken : Bool := false
  trapCode : Nat := 0
  /-- window table (R115) -/
  windows : List Window := []
  /-- in-kernel wait in progress (R185) -/
  wait : Option KWait := none
  /-- reductions in flight, at most four (R124) -/
  reds : List RedPend := []
  /-- sequence number of the next reduction or broadcast (R124) -/
  nextRed : Nat := 0
  dma0 : DmaCtx := {}
  dma1 : DmaCtx := {}
  /-- fence signals and doorbells held until the launch's earlier DMA writes are acknowledged (R260, R307) -/
  held : List Held := []
  /-- local-store partition: bytes by offset, zero where not listed; poisoned 64-bit words (R187, R381) -/
  ls : List Host.Cell := []
  lsPoison : NSet := []
  /-- accumulator entries by row × 64 + column (R111) -/
  acc : Tab AccEntry := []
  /-- vector registers by register × 32 + lane (R113) -/
  vec : Tab Word32 := []
  /-- special scalars fixed at LOADING (R187) -/
  residentMask : Nat := 0
  tagBase : List Nat := []
  logicalTile : Nat := 0
  /-- exit value and whether the kernel has exited (R184) -/
  exitValue : Word32 := 0
  errCode : Nat := 0
  errAddr : Word := 0
  deriving DecidableEq, Repr

/-- One launch slot (R105). -/
structure Slot where
  state : SlotState := .free
  /-- launch-table entry -/
  entry : Nat := 0
  part : Nat := 0
  ctx : PartCtx := {}
  /-- number of the save window it drains or saves in, among the windows of its place (R132) -/
  window : Nat := 0
  /-- a pre-emption met the slot in LOADING or RESTORING: it drains when its load or restore ends (R94, R107, R201) -/
  due : Bool := false
  /-- boundaries the slot has stayed in a transient state (R516) -/
  stuck : Nat := 0
  deriving DecidableEq, Repr

/-- A saved record (R134): stored in a save heap, or in a save pool. Its header names the launch, its harbour with the binding generation,
and its context; its other items are the part's contexts and partitions. -/
structure SavedRec where
  entry : Nat
  part : Nat
  ident : Word := 0
  harbour : Nat := 0
  gen : Nat := 0
  context : Nat := 0
  lsGranules : Nat := 0
  rowGroups : Nat := 0
  regGroups : Nat := 0
  /-- bytes (R134) -/
  size : Nat
  ctx : PartCtx
  /-- bytes of logical channel 0 that a record in a save pool occupies: byte and length of each piece (R336) -/
  poolAt : List (Nat × Nat) := []
  deriving DecidableEq, Repr

/-- A residency tag (R202). -/
structure TagEntry where
  tag : Nat
  /-- BASE and LENGTH, units of 64 KiB -/
  base : Nat
  length : Nat
  deriving DecidableEq, Repr

/-- The condition of a unit that a harbour can hold (R329), as its checker entry holds it (R341). -/
inductive Cond where
  | bound (h gen : Nat) | free | retired
  deriving DecidableEq, Repr

/-- A usable tile place (R7): what stays with the place when a spare serves it (R47). -/
structure Place where
  slots : Tab Slot := []
  /-- the hold's bytes below the save heap; zero where not listed; poisoned 64-bit words (R118, R381) -/
  hold : List Host.Cell := []
  holdPoison : NSet := []
  /-- stored records of the save heap, oldest first (R135) -/
  heap : List SavedRec := []
  /-- heap space released and being zeroed, bytes, one entry per record (R135, R382) -/
  zeroing : List Nat := []
  /-- records being evicted to the save pool (R135) -/
  evicting : Nat := 0
  /-- residency tags, least recently set first, at most 64 (R202, R203), and the table as the last plan read it (R205) -/
  tags : List TagEntry := []
  planTags : List TagEntry := []
  /-- save windows opened, and the tide whose boundary opened the last one, while launches pre-empted there may share it (R132) -/
  windows : Nat := 0
  windowTide : Option Word := none
  cond : Cond := .free
  /-- ZEROED of a free place (R330) -/
  zeroed : Bool := true
  /-- a procedure drains this place (R347) -/
  draining : Bool := false
  /-- column of the spare that serves the place, if any (R46) -/
  spare : Option Nat := none
  /-- the place waits for a spare or its first boundary after one (R520) -/
  outOfService : Bool := false
  /-- substitution: 0 none, 1 waits for its boundary, 2 due; and the same for the first boundary after it (R520) -/
  subst : Nat := 0
  resume : Nat := 0
  holdFailed : Bool := false
  deriving DecidableEq, Repr

/-- A physical tile, 0–543 (R7, R8): what stays with the silicon. -/
structure PhysTile where
  /-- place a spare serves (STANDS_FOR) -/
  standsFor : Option Nat := none
  /-- ROLE 3 (R140) -/
  retired : Bool := false
  inReset : Bool := false
  errorHalt : Bool := false
  /-- TL_FAIL (R514) -/
  failed : Bool := false
  failCause : Nat := 0
  misses : Nat := 0
  /-- its checker entry is fenced (R342) -/
  fenced : Bool := false
  /-- credential register: harbour and generation it emits (R341) -/
  credH : Nat := 0
  credGen : Nat := 0
  /-- TL_COUNT, modulo 2^16 (R140) -/
  cSaves : Half := 0
  cRestores : Half := 0
  cWindowErr : Half := 0
  cEccCorr : Half := 0
  deriving DecidableEq, Repr

/-- A cluster: power gate and reset (R127, R128, R512). -/
structure Cluster where
  gated : Bool := false
  /-- applied ungating not yet complete (R127) -/
  ungating : Bool := false
  /-- requested gating change that waits for its boundary (R512) -/
  request : Option Bool := none
  /-- boundaries before a requested ungating may be applied (R494, R512) -/
  wait : Nat := 0
  inReset : Bool := false
  /-- boundaries to pass after an ungating before placements (R127) -/
  accepts : Bool := true
  deriving DecidableEq, Repr

end Sys2Proof.Machine
end

