-- ==== Sys2Proof/Machine/StateHm.lean ====
section
/-! DEFINITION. The state of the Harbourmaster and its berths (08_harbourmaster), of fences and stored graphs
(09_fences_and_graphs), and of harbours and their procedures (10_harbours). -/
namespace Sys2Proof.Machine
open Sys2Proof

/-- One berth: its configuration registers (R295), its indices (R256–R263) and its staged host signal (R308, R327). -/
structure Berth where
  enable : Bool := false
  harbour : Nat := 0
  context : Nat := 0
  log2 : Nat := 4
  serial : Bool := false
  hostSubmit : Bool := false
  deviceSubmit : Bool := false
  timeout : Nat := 0
  /-- TIMEOUT written while enabled; in force from the next boundary (R280) -/
  timeoutNext : Option Nat := none
  subVa : Nat := 0
  cplVa : Nat := 0
  statusVa : Nat := 0
  capVa : Nat := 0
  capLog2 : Nat := 0
  pasid : Nat := 0
  pasidCheck : Bool := false
  func : Nat := 0
  msiVector : Nat := 0
  irqMode : Nat := 0
  stop : Bool := false
  producer : Word32 := 0
  fetch : Word32 := 0
  cplWritten : Word32 := 0
  cplConsumed : Word32 := 0
  capWritten : Word32 := 0
  capConsumed : Word32 := 0
  dbRejects : Word32 := 0
  /-- a record was written in the current tide (R277) -/
  wrote : Bool := false
  /-- DB_FENCE_HANDLE (R308) -/
  stagedHandle : Word32 := 0
  stagedError : Bool := false
  /-- launch-table entry of the manifest fetched just before (R273) -/
  lastEntry : Option Nat := none
  /-- memory objects the enabled berth pins (R255, R579) -/
  objs : List Nat := []
  /-- submission indices covered by a device doorbell of a launch that is not deterministic (R229) -/
  nondet : NSet := []
  deriving DecidableEq, Repr

/-- Where a launch part stands. -/
inductive PartState where
  /-- not placed -/
  | unplaced
  /-- in a slot of a place -/
  | slot (place slot : Nat)
  /-- stored record in the save heap of a place (R135) -/
  | heap (place : Nat)
  /-- saved record in the save pool of its harbour, saved on a place (R336) -/
  | pool (place : Nat)
  /-- ended -/
  | ended
  deriving DecidableEq, Repr

/-- One wait of a manifest (R266, R304). -/
structure MWait where
  fon : Nat
  target : Word
  proceed : Bool
  released : Bool := false
  err : Bool := false
  deriving DecidableEq, Repr

/-- The captured state of one part (R284): the slot state and the context it was in. -/
structure PartCapture where
  part : Nat
  logicalTile : Nat
  slotState : Nat
  cause : Bool
  ctx : PartCtx
  deriving DecidableEq, Repr

/-- The run of a stored graph version by a graph launch (R319–R321). -/
structure GraphRun where
  /-- graph-table index in the context's table -/
  graph : Nat
  slot : Nat
  version : Nat
  nodes : Nat
  exitNode : Nat
  /-- nodes that may be instantiated now, rising (R320) -/
  pending : NSet := []
  /-- final status codes of completed nodes (R321) -/
  done : Tab Status := []
  resumes : Nat := 0
  exitValue : Word32 := 0
  deriving DecidableEq, Repr

/-- A launch-table entry (R267–R271). -/
structure Launch where
  berth : Nat := 0
  index : Word32 := 0
  harbour : Nat := 0
  context : Nat := 0
  /-- 64 words of the submission entry as fetched (R264) -/
  entry : List Word := []
  /-- 68 words of the extension as fetched; entries beyond the counts zero (R266) -/
  ext : List Word := []
  /-- virtual address the entry was fetched from (RING_VA, R283) -/
  ringVa : Nat := 0
  state : LaunchState := .waiting
  /-- fixed status (R36), and its place in the order in which statuses were fixed (R275) -/
  status : Option Status := none
  fixedSeq : Option Nat := none
  /-- nothing but its record and its signals is left of the launch -/
  ended : Bool := false
  /-- stopped by its berth's ABORT: its record is written by the next boundary (R285) -/
  abortDue : Bool := false
  waits : List MWait := []
  /-- implicit wait of a SERIAL berth on an earlier entry (R273) -/
  serialOn : Option Nat := none
  /-- budgets after the ceiling (R193) -/
  budgetInit : Nat := 0
  budgetCont : Nat := 0
  budgetLeft : Nat := 0
  /-- the budget has reached 0 at a boundary and the pre-emption is due (R86) -/
  preemptDue : Bool := false
  /-- boundaries since READY (R274, R278) -/
  readyTides : Nat := 0
  /-- the timeout count has been reached and TIMEOUT is due (R93, R279) -/
  timeoutDue : Bool := false
  /-- boundaries since first start (ELAPSED of R187) and whether it has started -/
  started : Bool := false
  elapsed : Nat := 0
  resumes : Nat := 0
  parts : List PartState := []
  /-- parts whose last instruction has retired (R178) and parts whose abort has finished -/
  retired : NSet := []
  released : NSet := []
  exitValue : Word32 := 0
  /-- order in which the entry became READY, and in which it was saved (R205) -/
  readySeq : Nat := 0
  savedSeq : Nat := 0
  /-- boundaries stayed ready and unplaced (R207) -/
  unplaced : Nat := 0
  /-- part states captured before ABORTING (R281) -/
  capture : List PartCapture := []
  /-- state of the entry when its cause arose, for the capture record (R283) -/
  capState : Nat := 0
  capSeq : Option Word32 := none
  /-- part and error of the cause (R284) -/
  causePart : Nat := 0
  /-- DETERMINISTIC bit of the binary, or of a scan's submitter (R181, R229) -/
  det : Bool := true
  /-- graph run of a KIND 2 launch -/
  run : Option GraphRun := none
  /-- graph launch and node index of a node entry (R320) -/
  node : Option (Nat × Nat) := none
  /-- the entry is a Mill scan with its scan record (R224) -/
  scan : Option Nat := none
  /-- placement waits for evictions on these places (R135) -/
  evictWait : NSet := []
  deriving DecidableEq, Repr

/-- A signal on its way to the dependency unit (R302): fence, value and error bit; and the launch-table entry whose completion sent it. -/
structure Signal where
  fon : Nat
  value : Word
  err : Bool
  entry : Option Nat := none
  deriving DecidableEq, Repr

/-- A record in the tail of the mirror log (R287, R289): the launch-table entry, the completion record and the capture record with the
context and virtual address each is written at, and the launch's signals. -/
structure LogRec where
  entry : Nat
  context : Nat
  cplAt : Option Nat := none
  cpl : List Word := []
  capAt : Option Nat := none
  cap : List Word := []
  signals : List Signal := []
  deriving DecidableEq, Repr

/-- The Harbourmaster's registers and tables (R254–R295). -/
structure Hm where
  activeDie : Nat := 0
  standby : Bool := true
  pilotVersion : Nat := 0
  gen : BitVec 8 := 0
  takeover : Bool := false
  /-- LOST: no instance is active (R291); and the boundary it takes effect has passed -/
  lost : Bool := false
  lostApplied : Bool := false
  cDbReject : Half := 0
  cCaptureDrop : Half := 0
  cFailovers : Half := 0
  cCfgRefused : Half := 0
  /-- heartbeats missed by the standby, µs (R288) -/
  sinceBeat : Nat := 0
  /-- tide and offset of the takeover's detection (R292) -/
  takeoverTide : Word := 0
  takeoverNs : Nat := 0
  /-- records rewritten and slots returned to READY by the takeover (R292) -/
  rewritten : Nat := 0
  returned : Nat := 0
  /-- the tail of the mirror log: records that are not marked done, since their signals are still on their way, oldest first (R287, R289) -/
  tail : List LogRec := []
  /-- dispatch wheel: harbour of each assigned position (R261); pending change -/
  wheel : Tab Nat := []
  wheelNext : Tab Nat := []
  /-- HARBOUR as last written of a position that is not assigned (R294) -/
  wheelIdle : Tab Nat := []
  /-- launch-table quotas, units of 16; pending change (R271) -/
  quota : Tab Nat := []
  quotaNext : Tab Nat := []
  /-- berth last served of each harbour (R261) -/
  lastServed : Tab Nat := []
  /-- the manifest fetch in progress (R270 step 2): berth -/
  fetching : NSet := []
  launches : Tab Launch := []
  /-- next launch-table key, next ready and saved order numbers -/
  nextEntry : Nat := 0
  nextSeq : Nat := 0
  deriving DecidableEq, Repr

/-- A fence object (R298). -/
structure Fence where
  value : Word := 0
  errFloor : Word := 0
  error : Bool := false
  abandoned : Bool := false
  closed : Bool := false
  harbour : Nat := 0
  owner : Nat := 0
  refs : Nat := 0
  /-- signaller berths with their SB position (R298) -/
  signallers : Tab Nat := []
  deriving DecidableEq, Repr

/-- One fence-space entry (R300). -/
structure FenceEnt where
  fon : Nat := 0
  wait : Bool := false
  signal : Bool := false
  hgen : BitVec 8 := 0
  valid : Bool := false
  mirrorVa : Nat := 0
  deriving DecidableEq, Repr

/-- A candidate of a wait-graph snapshot (R311): berth, head entry, and the signaller berths of each unreached closed wait. -/
structure CycleCand where
  berth : Nat
  entry : Nat
  waits : List (List Nat)
  deriving DecidableEq, Repr

/-- A wait-graph snapshot with its tide (R311). -/
structure CycleSnap where
  tide : Word := 0
  cands : List CycleCand := []
  deriving DecidableEq, Repr

/-- A wait-cycle result that waits for its boundary (R313): snapshot tide and members. -/
structure CycleResult where
  tide : Word := 0
  members : List Nat := []
  deriving DecidableEq, Repr

/-- Fence store, fence spaces, fence cache and the wait-cycle unit (R297–R315, R326). -/
structure FenceUnit where
  storeBase : Nat := 0
  storeLog2 : Nat := 0
  fences : Tab Fence := []
  /-- fence-space entries by context × 2^24 + index -/
  space : Tab FenceEnt := []
  /-- cached fences, least recently accessed first (R309, R310) -/
  cache : List Nat := []
  /-- FENCE_SPILL_REQ raised in the current tide (R310); store accesses in the tide (R325) -/
  spillRaised : Bool := false
  tideAccesses : Nat := 0
  cStale : Half := 0
  cSpills : Half := 0
  cStoreAccess : Half := 0
  cHostReject : Half := 0
  cSnapshots : Half := 0
  cFound : Half := 0
  cMembers : Half := 0
  cDropped : Half := 0
  bufBase : Nat := 0
  cyclePending : Bool := false
  snap : Option CycleSnap := none
  /-- hardware-mode or answered result that the next boundary applies (R313, R314) -/
  result : Option CycleResult := none
  /-- the result's boundary has come and its application is due -/
  resultDue : Bool := false
  /-- signals on their way to the dependency unit, in order of arrival: FON, value, error -/
  inflight : List Signal := []
  deriving DecidableEq, Repr

/-- A graph-table entry (R316, R318). -/
structure Graph where
  context : Nat := 0
  gen : BitVec 8 := 0
  valid : Bool := false
  /-- memory object and byte offset of the graph object -/
  obj : Nat := 0
  offset : Nat := 0
  unregistering : Bool := false
  nodes : Nat := 0
  exitNode : Nat := 0
  curVersion : Nat := 0
  curSlot : Nat := 0
  slotVersion : Tab Nat := []
  deriving DecidableEq, Repr

/-- The states of a Mill query slot (R231). -/
inductive MillSt where
  | free | loading | scanning | draining | saving | restoring | aborting | zeroing
  deriving DecidableEq, Repr

/-- The 4-bit code of a Mill slot state (R231). -/
def MillSt.code : MillSt → Nat
  | .free => 0 | .loading => 1 | .scanning => 2 | .draining => 3 | .saving => 4 | .restoring => 5 | .aborting => 6
  | .zeroing => 7

/-- A range compare of a predicate (R222). -/
structure RangeCmp where
  enable : Bool := false
  lsb : Nat := 0
  width : Nat := 0
  lo : Nat := 0
  hi : Nat := 0
  deriving DecidableEq, Repr

/-- A resident query (R222, R225): its header and its data bytes, and its list with its counts (R230). -/
structure Query where
  tag : Nat := 0
  a : RangeCmp := {}
  b : RangeCmp := {}
  classLsb : Nat := 0
  classMode : Nat := 0
  mask : Nat := 0
  data : List Byte := []
  /-- entries (score, identifier) in list order (R221) -/
  list : List (Int × Nat) := []
  /-- candidate buffer, oldest first (R234) -/
  buf : List (Int × Nat) := []
  itemsRead : Nat := 0
  itemsPassed : Nat := 0
  poisonSkipped : Nat := 0
  deriving DecidableEq, Repr

/-- A scan on one Mill (R233): its slots, its position in the segment table, its queries. -/
structure MillScan where
  entry : Nat := 0
  /-- scan channel index i = LCH − CH_FIRST (R230) -/
  idx : Nat := 0
  slots : List Nat := []
  st : MillSt := .loading
  /-- descriptor index and record index of the next record (R218) -/
  seg : Nat := 0
  recIx : Nat := 0
  queries : List Query := []
  deriving DecidableEq, Repr

/-- A member of a harbour that spans modules (R337): its node, and how many tiles and channels its local harbour holds. -/
structure SpanPeer where
  node : Nat
  tiles : Nat := 0
  channels : Nat := 0
  deriving DecidableEq, Repr

/-- A harbour as the module's map holds it (R328–R338). -/
structure Harbour where
  /-- physical place of each local logical tile; retired places keep their number (R334) -/
  tiles : List Nat := []
  channels : List Nat := []
  /-- Mill slots held on a physical channel (R328) -/
  millSlots : Tab Nat := []
  laneGroups : NSet := []
  poolMib : Nat := 0
  /-- SPAN_ID, MEMBER and SPAN (R360), and the members in ascending index (R337) -/
  spanId : Nat := 0
  member : Nat := 0
  span : Bool := false
  peers : List SpanPeer := []
  /-- records in the pool: reserve and eviction area (R336) -/
  poolReserve : List SavedRec := []
  poolEvicted : List SavedRec := []
  /-- saved Mill slot records in the reserve (R241) -/
  poolScans : List MillScan := []
  /-- POOL_FULL (R336) -/
  poolFull : Bool := false
  /-- SEQ of the pacing area, and the berth entries its last update wrote (R208–R210) -/
  pacingSeq : Nat := 0
  pacingBerths : Nat := 0
  /-- tiles and channels of the last member, as it sent them, which apply at the next boundary (R338) -/
  spanNext : Option (Nat × Nat) := none
  /-- tide in which a CREATE made the harbour; none for one of the loaded map (R434) -/
  born : Option Word := none
  deriving DecidableEq, Repr

/-- What has been earned for one entry of a procedure (R353). -/
structure ProcEntry where
  dstZeroed : Bool := false
  xferDone : Bool := false
  restored : Bool := false
  srcReleased : Bool := false
  /-- 4 KiB units at the last 1 MiB mark -/
  xferPos : Nat := 0
  dstWasUngated : Bool := false
  deriving DecidableEq, Repr

/-- A procedure in a journal slot (R347, R353). -/
structure Proc where
  /-- STEP: 1–8 = DRAIN … COMMIT; 0 = accepted, no step yet -/
  step : Nat := 0
  done : Bool := false
  back : Bool := false
  harbour : Nat := 0
  op : Nat := 0
  oldHgen : BitVec 8 := 0
  newHgen : BitVec 8 := 0
  seq : Nat := 0
  acceptTide : Word := 0
  stepTide : Word := 0
  reqAddr : Nat := 0
  /-- request words 0x000–0x83F as accepted -/
  request : List Word := []
  entries : List ProcEntry := []
  /-- boundaries passed since acceptance (R24, R79) -/
  boundaries : Nat := 0
  /-- steps 1 to 3, which overlap, have started (R347, R354) -/
  drainOn : Bool := false
  saveOn : Bool := false
  zeroOn : Bool := false
  /-- finished parts of the concurrent steps: DRAIN, SAVE, ZERO (R347) -/
  drainDone : Bool := false
  saveDone : Bool := false
  zeroDone : Bool := false
  restoreDone : Bool := false
  releaseDone : Bool := false
  /-- steps its OP uses (R347), and `boundaries` when its last finished step ended -/
  steps : List Nat := []
  mark : Nat := 0
  /-- units that leave at BUMP: TYPE and physical number -/
  leaving : List (Nat × Nat) := []
  /-- hold-bound launches resident on a source place at DRAIN (R347 step 6) -/
  moved : NSet := []
  deriving DecidableEq, Repr

/-- Harbours, the unit map, the journal and the HB_ counts (R328–R360). -/
structure HarbourMap where
  harbours : Tab Harbour := []
  /-- HGEN of each harbour number (R340) -/
  hgen : Tab (BitVec 8) := []
  /-- checker entries of channels and lane groups (R329, R341); those of places stand in Place -/
  channels : Tab Cond := []
  laneGroups : Tab Cond := []
  chDirty : NSet := []
  fencedCh : NSet := []
  fencedLg : NSet := []
  /-- credential registers of channels and lane groups (R341) -/
  credCh : Tab (Nat × Nat) := []
  credLg : Tab (Nat × Nat) := []
  /-- journal slots 0–3 (R353), in the always-on store -/
  journal : Tab Proc := []
  /-- copies A and B of each slot as last written, by slot × 2 + copy (R353) -/
  copies : Tab Proc := []
  /-- a channel that left through MOVE forwards to its successor until RELEASE begins (R348) -/
  forward : Tab Nat := []
  cStaleSpeaker : Half := 0
  cFencedDrop : Half := 0
  cRolledBack : Half := 0
  cRefused : Half := 0
  /-- HB_BUDGET_CEIL of each harbour number (R193, R642) -/
  budgetCeil : Tab Nat := []
  deriving DecidableEq, Repr

end Sys2Proof.Machine
end

