-- ==== Sys2Proof/Machine/StateMem.lean ====
section
/-! DEFINITION. The state of the Mills (06_mill), of the HBM channels, their page code, remap tables and scrubs
(11_memory), of translation and the fault queues (12_translation_and_faults), and of regulation and slices
(13_regulation_and_isolation). -/
namespace Sys2Proof.Machine
open Sys2Proof

/-- A Mill (R231, R248). -/
structure Mill where
  /-- state of each slot (default FREE) -/
  slots : Tab MillSt := []
  /-- harbour of each bound slot (ML_SLOT_HARBOUR) -/
  bound : Tab Nat := []
  scans : Tab MillScan := []
  backpressure : Bool := false
  records : Word := 0
  cPoison : Half := 0
  cStalls : Half := 0
  cScans : Half := 0
  cSaves : Half := 0
  failed : Bool := false
  failCause : Nat := 0
  misses : Nat := 0
  /-- boundaries each slot has stayed in ABORTING or ZEROING (R516) -/
  stuck : Tab Nat := []
  deriving DecidableEq, Repr

/-- A placed Mill scan as the Harbourmaster and the merge tree hold it (R226, R228, R236). -/
structure Scan where
  mode : Nat := 0
  q : Nat := 0
  k : Nat := 0
  codeWords : Nat := 0
  chFirst : Nat := 0
  chCount : Nat := 0
  segPin : Nat := 0
  segOff : Nat := 0
  qryPin : Nat := 0
  qryOff : Nat := 0
  resPin : Nat := 0
  resOff : Nat := 0
  /-- host-assisted merge recorded at placement (R228) -/
  hostMerge : Bool := false
  /-- deterministic mode (R229) -/
  det : Bool := true
  /-- resolved pins: windows of the scan -/
  windows : List Window := []
  /-- lists the tree has accepted, by scan channel index (R236) -/
  lists : Tab (List Query) := []
  /-- lists written to the result area (R238) -/
  written : NSet := []
  deriving DecidableEq, Repr

/-- One half of the merge tree (R249). -/
structure MergeHalf where
  merges : Half := 0
  joins : Half := 0
  discards : Half := 0
  deriving DecidableEq, Repr

/-- A running scrub of a channel (R388, R390). -/
structure Scrub where
  cls : Nat := 0
  first : Nat := 0
  pages : Nat := 0
  summary : Nat := 0
  tag : Word := 0
  /-- chunk limit of host-assisted mode recorded at the request (R390) -/
  chunk : Bool := false
  /-- sums of the summary record (R389) -/
  pagesRead : Nat := 0
  pagesSkipped : Nat := 0
  cwCorrected : Nat := 0
  symCorrected : Nat := 0
  cwUncorrectable : Nat := 0
  candidates : Nat := 0
  firstUe : Option Nat := none
  startTide : Word := 0
  deriving DecidableEq, Repr

/-- A column history of a channel (R385): bank, word, and the rows corrected with the boundaries since each was last, oldest first. -/
structure ColHist where
  bank : Nat
  word : Nat
  rows : List (Nat × Nat) := []
  deriving DecidableEq, Repr

/-- A remap entry or candidate (R383, R396). -/
structure Remap where
  channel : Nat := 0
  bank : Nat := 0
  row : Nat := 0
  word : Nat := 0
  spare : Nat := 0
  column : Bool := false
  /-- ORIGIN: installed by the manager -/
  byManager : Bool := false
  valid : Bool := false
  deriving DecidableEq, Repr

/-- An HBM channel controller (R368–R395). -/
structure Chan where
  level : Nat := 0
  scrub : Option Scrub := none
  remapBusy : Bool := false
  clearing : Bool := false
  /-- TRANSFER of a procedure, with the granules below this byte copied (R348) -/
  transfer : Bool := false
  copied : Nat := 0
  /-- destination of the transfer -/
  transferTo : Option Nat := none
  /-- corrected codewords that wait to be written back: page × 2 + codeword (R374) -/
  writeback : NSet := []
  /-- codewords found uncorrectable and not coded anew since: they bear the marks of R377 -/
  marked : NSet := []
  hist : List ColHist := []
  /-- candidates that wait for the next boundary or for the manager (R386) -/
  candidates : List Remap := []
  cCeCw : Half := 0
  cUeCw : Half := 0
  cPoisonRead : Half := 0
  cHostEp : Half := 0
  cCeSym : Word32 := 0
  cCfgRefused : Half := 0
  cScrubs : Half := 0
  /-- MC_RAS (R522, R540) -/
  retired : Bool := false
  retireCause : Nat := 0
  misses : Nat := 0
  deriving DecidableEq, Repr

/-- An interleave set (R365, R397). -/
structure ISet where
  baseCh : Nat := 0
  log2Ways : Nat := 0
  gran : Nat := 0
  valid : Bool := false
  deriving DecidableEq, Repr

/-- The HBM system (R367–R397). Bytes are keyed physical channel × 2^31 + byte; granules byte key ÷ 64. -/
structure Memory where
  /-- bytes; an unlisted byte reads zero (R375) -/
  bytes : List Host.Cell := []
  /-- granules whose WRITTEN bit and block bit are 1 (R375) -/
  written : NSet := []
  /-- granules whose POISON bit is 1 (R377) -/
  poison : NSet := []
  /-- what the array holds other than was written (R371, R374): by channel × 2^21 + page × 2 + codeword, the symbols that differ, rising,
  with the exclusive or of what is held and what was written -/
  damage : Tab (List (Nat × Nat)) := []
  chans : Tab Chan := []
  /-- remap entries by stack × 32 + entry, in the always-on store (R383) -/
  remap : Tab Remap := []
  /-- bytes of the always-on store that a kernel or a peer has written over where the module writes records of its own only at
  an entry to WATCH or HOLD (R486, log entry 42); an unlisted byte there is a free value -/
  aon : Tab Byte := []
  /-- the model's own: number of the free values that the ranges of the store without a layout read as (log entry 42) -/
  aonTick : Nat := 0
  /-- interleave sets by harbour × 16 + set -/
  isets : Tab ISet := []
  deriving DecidableEq, Repr

/-- A cached leaf translation (R408): address-space tag, page number in 4 KiB units, page size, output, rights. -/
structure Tlb where
  asid : Nat
  va : Nat
  size : Nat
  output : Nat
  r : Bool
  w : Bool
  a : Bool
  /-- in a shared cache: the harbour that filled the entry, and whether it stands in the common pool (R426, R430) -/
  harbour : Nat := 0
  common : Bool := false
  deriving DecidableEq, Repr

/-- A cached pointer (R408): the level of the entry it stands in, the address bits that select it, the table it names. -/
structure WalkEnt where
  asid : Nat
  level : Nat
  sel : Nat
  table : Nat
  deriving DecidableEq, Repr

/-- A fault-queue entry as the fault unit mirrors it (R413). -/
structure FaultEnt where
  index : Word32 := 0
  state : Nat := 0
  kind : Nat := 0
  access : Nat := 0
  level : Nat := 0
  va : Nat := 0
  context : Nat := 0
  merged : Nat := 0
  firstTide : Word := 0
  launch : Word := 0
  /-- engines held: 2 × local logical tile + engine, with the launch part held (R413) -/
  engines : NSet := []
  deriving DecidableEq, Repr

/-- An invalidation in flight (R409, R410). -/
structure Inval where
  /-- 0 range, 1 whole ASID, 2 every ASID of the harbour -/
  scope : Nat
  asid : Nat
  va : Nat
  pages : Nat
  deriving DecidableEq, Repr

/-- The fault page, fault queue and invalidations of one harbour (R413–R424). -/
structure FaultQ where
  enable : Bool := false
  irqMode : Nat := 0
  msiVector : Nat := 0
  base : Nat := 0
  produced : Word32 := 0
  consumed : Word32 := 0
  entries : Tab FaultEnt := []
  /-- an entry was created in the current tide (IRQ_MODE 2) -/
  created : Bool := false
  invAddr : Nat := 0
  issued : Word32 := 0
  doneCnt : Word32 := 0
  invs : List Inval := []
  cFaults : Half := 0
  cMerges : Half := 0
  cOvf : Half := 0
  cRespIgnored : Half := 0
  cInvRefused : Half := 0
  cHwResumed : Half := 0
  deriving DecidableEq, Repr

/-- Translation (R398–R424). -/
structure Xlate where
  ctxBase : Nat := 0
  /-- a context entry has been made valid since module reset (R423) -/
  anyValid : Bool := false
  walks : Word32 := 0
  cUnrec : Half := 0
  cCfgRefused : Half := 0
  /-- engine caches by DMA engine (2 × physical place + engine), 64 entries each, least recently used first (R408) -/
  engineTlb : Tab (List Tlb) := []
  /-- shared caches of the two dies, 16,384 entries each (R408) -/
  sharedTlb : Tab (List Tlb) := []
  /-- walk caches of the two dies, 1,024 pointers each (R408) -/
  walkTlb : Tab (List WalkEnt) := []
  fq : Tab FaultQ := []
  /-- order number of the next latch (R415) -/
  nextLatch : Nat := 0
  deriving DecidableEq, Repr

/-- Regulation fields of a harbour (R441). -/
structure RegFields where
  /-- CMAX of classes 0–7 -/
  cmax : List Nat := [0, 0, 0, 0, 0, 0, 0, 0]
  meshW : Nat := 0
  meshLend : Bool := false
  brqRes : Nat := 0
  brqLend : Bool := false
  xlatRes : Nat := 0
  xlatLend : Bool := false
  cq0Res : Nat := 0
  cq0Lend : Bool := false
  deriving DecidableEq, Repr

/-- A slice-table entry (R435, R441). -/
structure Slice where
  valid : Bool := false
  func : Nat := 0
  pasidLog2 : Nat := 0
  pasidBase : Nat := 0
  harbours : Word := 0
  deriving DecidableEq, Repr

/-- A slow-down report of one harbour (R433, R442). -/
structure Slow where
  cq : Nat := 0
  xlat : Nat := 0
  bridge : Nat := 0
  mesh : Nat := 0
  link : Nat := 0
  host : Nat := 0
  freq : Nat := 0
  deriving DecidableEq, Repr

/-- Urgency of a buffer with its last sample (R431). -/
structure Urg where
  urg : Nat := 0
  /-- samples in succession below the urgency's lower bound -/
  below : Nat := 0
  deriving DecidableEq, Repr

/-- A boundary whose steps 3, 5 and 6 wait for the end of a takeover (R290): the tide it ended, that tide's length in ns, the mode of the
wait-cycle function before it, and what was measured. -/
structure HeldBoundary where
  ended : Word
  len : Nat
  cycleHost : Bool
  slow : List (Nat × SlowMeas) := []
  deriving DecidableEq, Repr

/-- Regulation, slow-down reports and slices (R425–R442). -/
structure Regul where
  cCfgRefused : Half := 0
  regrant : NSet := []
  /-- fields as written, and as in force since the last boundary (R426) -/
  fields : Tab RegFields := []
  inForce : Tab RegFields := []
  slices : Tab Slice := []
  /-- measured report of tide j − 1 waiting for its boundary, with its tide (R434) -/
  slowPrep : Tab (Word × Slow) := []
  slowPub : Tab (Word × Slow) := []
  /-- boundaries that fell inside a takeover, oldest first: their steps 3, 5 and 6 wait (R290) -/
  held : List HeldBoundary := []
  /-- urgency of lane groups 0–63 and of PCIe links 64–67 -/
  urgency : Tab Urg := []
  deriving DecidableEq, Repr

end Sys2Proof.Machine
end

