-- ==== Sys2Proof/Machine/StateLink.lean ====
section
/-! DEFINITION. The state of the Shomea links, their streams, the route and span tables' bases, the pool role and the
ownership map (14_shomea_links_and_pools), and of the node epochs (16_reliability_and_recovery, R528). -/
namespace Sys2Proof.Machine
open Sys2Proof

/-- Port states (R445). -/
inductive PortSt where
  | off | sleep | training | up | retrain | down | failed
  deriving DecidableEq, Repr

/-- The 3-bit code of a port state (R445). -/
def PortSt.code : PortSt → Nat
  | .off => 0 | .sleep => 1 | .training => 2 | .up => 3 | .retrain => 4 | .down => 5 | .failed => 6

/-- A port (R445, R477). -/
structure Port where
  st : PortSt := .off
  disable : Bool := false
  cRetry : Half := 0
  cTagFail : Half := 0
  cUncorr : Half := 0
  cRetrains : Half := 0
  corrSym : Word32 := 0
  deriving DecidableEq, Repr

/-- A key of a lane group and direction: the AES-256-GCM key, and the fixed high 32 bits of its IV (R452, R546). -/
structure LaneKey where
  key : BitVec 256 := 0
  ivHigh : Word32 := 0
  deriving DecidableEq, Repr

/-- A lane group (R444, R450–R453). -/
structure LaneGroup where
  /-- key-phase count n (R546) -/
  keyN : Nat := 0
  /-- partner identifiers presented in training: own and the far end's (R546) -/
  ownId : Nat := 0
  farId : Nat := 0
  /-- the keys in use for what is sent and what is received (R452, R546) -/
  txKey : LaneKey := {}
  rxKey : LaneKey := {}
  txSeq : BitVec 12 := 0
  rxNext : BitVec 12 := 0
  /-- retry buffer, oldest first (R450) -/
  retry : List Flit := []
  /-- credits per virtual channel (R451) -/
  credits : Tab Nat := []
  /-- flit buffers freed here, to be returned to the partner (R449) -/
  owed : Tab Nat := []
  keyPhase : Bool := false
  /-- flits sent under the key (R452) -/
  keyCount : Nat := 0
  keyStall : Bool := false
  nextKey : Bool := false
  /-- NAKs in succession of the oldest flit (R446) -/
  nakRun : Nat := 0
  /-- tag failures in the tide, and whether an uncorrectable codeword occurred in it (R453) -/
  tagFails : Nat := 0
  fecBad : Bool := false
  /-- an acknowledgement is owed: none, ACK or NAK (R450) -/
  ackOwed : Nat := 0
  /-- transmit-buffer fill (R457) -/
  fill : Nat := 0
  /-- routes to a destination are used in rotation (R457): last route used by destination -/
  lastRoute : Tab Nat := []
  deriving DecidableEq, Repr

/-- A flit that waits for its end-to-end acknowledgement (R459). -/
structure Unacked where
  flit : Flit
  /-- lane group it was last sent on; 64 while it waits for one (R457) -/
  lg : Nat
  /-- harbour whose lane groups it may use (R457) -/
  harbour : Nat := 0
  resends : Nat := 0
  deriving DecidableEq, Repr

/-- The sending side of a stream (R459), by destination × 4 + VC. -/
structure TxStream where
  next : Half := 0
  unacked : List Unacked := []
  deriving DecidableEq, Repr

/-- The receiving side of a stream (R459), by source × 4 + VC. -/
structure RxStream where
  next : Half := 0
  /-- reorder buffer: flits that arrived ahead, by stream sequence -/
  ahead : Tab Flit := []
  /-- flits delivered since the last end-to-end acknowledgement -/
  sinceAck : Nat := 0
  /-- words still to come of the transaction the stream is inside (R455) -/
  left : Nat := 0
  deriving DecidableEq, Repr

/-- A request of this module outstanding at another node (R460, R461): who waits for it. -/
structure RemoteReq where
  node : Nat
  /-- place, slot and engine of the requesting DMA engine -/
  place : Nat
  slot : Nat
  engine : Nat
  /-- the engine's number of the request -/
  req : Nat
  va : Nat
  len : Nat
  access : Access
  /-- ASID it carries (R585), and its launch part has left the slot: its answer goes nowhere -/
  context : Nat := 0
  gone : Bool := false
  deriving DecidableEq, Repr

/-- Ownership tokens (R466). -/
inductive Token where
  | none | held | giving | taking | released | origin
  deriving DecidableEq, Repr

/-- The 3-bit code of a token (R466). -/
def Token.code : Token → Nat
  | .none => 0 | .held => 1 | .giving => 2 | .taking => 3 | .released => 4 | .origin => 5

/-- An ownership-map entry (R466), with what the pilot keeps beside it. -/
structure Own where
  epoch : Word := 0
  acked : Word := 0
  token : Token := .none
  holder : Nat := 0
  peer : Nat := 0xFFF
  ckptNode : Nat := 0
  leaseLeft : Nat := 0
  wait : Nat := 0
  phase : Nat := 0
  stateAddr : Word := 0
  ckptAddr : Word := 0
  len : Nat := 0
  /-- entry of the map at MAP_BASE that holds the record (R466, log entry 139) -/
  slot : Nat := 0
  /-- context that created the record (R460, R577) -/
  context : Nat := 0
  /-- a RENEW was accepted since the last boundary (R469) -/
  renewed : Bool := false
  /-- boundaries without RENEW_ACK (R469) -/
  unackedBoundaries : Nat := 0
  /-- epoch at which this node holds the token, and renews until it releases it (R467, R469, R470) -/
  heldEpoch : Word := 0
  /-- the copy of the state or image is complete (R468, R473) -/
  copied : Bool := false
  /-- the copy is of a checkpoint image (R473) -/
  restoring : Bool := false
  /-- a phase end waits for CKPT_ACK: function to answer (R472, R577) -/
  ckptPending : Option Nat := Option.none
  /-- a state move waits to end: function to answer (R577) -/
  movePending : Option Nat := Option.none
  deriving DecidableEq, Repr

/-- A node-table entry (R528). -/
structure Node where
  epoch : Nat := 0
  fenced : Bool := false
  deriving DecidableEq, Repr

/-- Links, streams, pool role, ownership and node epochs (R443–R477, R528–R532). -/
structure Links where
  nodeId : Nat := 0
  remoteTimeout : Nat := 0
  leaseTides : Nat := 0
  routeBase : Nat := 0
  spanBase : Nat := 0
  mapBase : Nat := 0
  mapLog2 : Nat := 0
  /-- ROLE: pool (R464) -/
  pool : Bool := false
  shifting : Bool := false
  /-- accepted role request and boundaries since (R465) -/
  roleReq : Option Bool := Option.none
  /-- berth enables outside harbour 0 wait for the boundary after a shift to compute (R465) -/
  berthWait : Bool := false
  cResends : Half := 0
  cUnreachable : Half := 0
  cStaleEpoch : Half := 0
  cCfgRefused : Half := 0
  cExpired : Half := 0
  cResolved : Half := 0
  cReplays : Half := 0
  cOrphaned : Half := 0
  cMalformed : Half := 0
  cStaleNode : Half := 0
  cFencedDrop : Half := 0
  cUnadmitted : Half := 0
  /-- Harbourmaster messages dropped for want of a reachable node (R461) -/
  droppedMsgs : Nat := 0
  ports : Tab Port := []
  lgs : Tab LaneGroup := []
  tx : Tab TxStream := []
  rx : Tab RxStream := []
  /-- nodes declared unreachable since their last delivery (R459) -/
  unreachable : NSet := []
  /-- outstanding remote requests by TXN_TAG (R455) -/
  reqs : Tab RemoteReq := []
  nextTag : Half := 0
  own : Tab Own := []
  nodes : Tab Node := []
  /-- messages delivered to mailboxes: mailbox and words (R455) -/
  mailbox : List (Nat × List Word) := []
  /-- last F_ALLOW received from each slave node (R495) -/
  slaveAllow : Tab Nat := []
  deriving DecidableEq, Repr

end Sys2Proof.Machine
end

