-- ==== Sys2Proof/Machine/StatePower.lean ====
section
/-! DEFINITION. The state of power, capping, droop, heat and ageing (15_power_and_health) and of the event ring and the
watchdogs (16_reliability_and_recovery). -/
namespace Sys2Proof.Machine
open Sys2Proof

/-- Power states (R478). -/
inductive PState where
  | active | idle | watch | hold | off
  deriving DecidableEq, Repr

/-- The 3-bit code of a power state (R478, R511). -/
def PState.code : PState → Nat
  | .active => 0 | .idle => 1 | .watch => 2 | .hold => 3 | .off => 0

/-- A margin table (R491): reference powers in 10 mW by point, and voltages in mV by region × 64 + point. -/
structure Margin where
  planTide : Word := 0
  pref : Tab Nat := []
  volt : Tab Nat := []
  crcOk : Bool := true
  deriving DecidableEq, Repr

/-- A rail voltage request in progress (R489): millivolts asked and retries made. -/
structure AvsReq where
  mv : Nat
  tries : Nat := 0
  /-- the request has been written and its Status is polled -/
  sent : Bool := true
  deriving DecidableEq, Repr

/-- An AVSBus rail, 0–3 (R487). -/
structure Rail where
  mv : Nat := 0
  req : Option AvsReq := none
  fault : Bool := false
  lastAck : Nat := 0
  deriving DecidableEq, Repr

/-- One WATCH log entry (R485, R509): sample time in ms, sensor or port, value, alert flag. -/
structure WatchEnt where
  ms : Nat
  source : Nat
  value : Nat
  alert : Bool
  deriving DecidableEq, Repr

/-- The register set saved at entry to WATCH or HOLD (R484) is kept with the registers; what the entry and the resume
need beside it. -/
structure Power where
  st : PState := .active
  /-- TRANSIT and the target of an entry in progress (R482) -/
  transit : Bool := false
  target : PState := .active
  /-- step 2 of R482 is done -/
  entered : Bool := false
  /-- a wake arrived during entry (R483, R508), or a wake in IDLE waits for its boundary -/
  waking : Bool := false
  /-- resume in progress: rails in regulation (R483 steps 1–2) -/
  resuming : Bool := false
  /-- clusters ungated before entry (R483) -/
  savedUngated : NSet := []
  brown : Bool := false
  brownHold : Bool := false
  /-- boundaries since recovery (R501) -/
  holdCount : Nat := 0
  /-- dies whose THROTTLE bit is 1, and the throttle frequency of each clock region (R504) -/
  throttle : NSet := []
  thr : Tab Nat := []
  capShort : Bool := false
  capDeferred : Bool := false
  watchAlert : Bool := false
  fAllow : Nat := 0
  capW : Nat := 0
  /-- SOURCE: 0 image, 1 manager, 2 sideband -/
  source : Nat := 0
  boost : Bool := false
  boostNext : Option Bool := none
  safeFreq : Nat := 0
  freqCeil : Nat := 0
  guardMv : Nat := 0
  droopMv : Nat := 0
  dieWarn : Nat := 95
  dieThrottle : Nat := 105
  hbmWarn : Nat := 90
  hbmThrottle : Nat := 95
  periodMs : Nat := 0
  linkAlert : Bool := false
  coolantMax : Nat := 0
  carrierMax : Nat := 0
  /-- PW_POWER: measured module and tile power of the last tide (R511) -/
  moduleW : Nat := 0
  tileW : Nat := 0
  powerTide : Word := 0
  /-- measured tile power of each harbour in the last tide, W (R498) -/
  harbourW : Tab Nat := []
  cBrown : Half := 0
  cThrottles : Half := 0
  cAvsRetry : Half := 0
  cReplans : Half := 0
  cDroop : Word32 := 0
  cAvsLate : BitVec 8 := 0
  cFlashFail : BitVec 8 := 0
  cCfgRefused : Half := 0
  hsub : Tab Nat := []
  /-- sub-budgets in force since the last boundary (R91) -/
  hsubInForce : Tab Nat := []
  /-- region frequency of each clock region, MHz; 0 while its clock is stopped (R129) -/
  region : Tab Nat := []
  /-- region frequencies the boost controller has set for the next boundary (R498) -/
  regionNext : Tab Nat := []
  /-- region frequencies that the boost controller has set, in force since the last boundary (R498) -/
  regionSet : Tab Nat := []
  rails : Tab Rail := []
  margin : Margin := {}
  /-- always-on copies A and B, and those of the flash (R491, R507, R593) -/
  marginA : Option Margin := none
  marginB : Option Margin := none
  flashA : Option Margin := none
  flashB : Option Margin := none
  /-- a measured plan that takes effect at the next boundary allowed (R507, R508) -/
  planNext : Option Margin := none
  /-- the voltage of VDD_F in that plan, mV (R506) -/
  planFabric : Nat := 0
  flashWriting : Bool := false
  /-- boundaries since the last measurement (R506) -/
  sincePlan : Nat := 0
  measuring : Bool := false
  /-- sensors above their warn threshold (R504) -/
  warm : NSet := []
  /-- the 64 KiB WATCH log, oldest first, at most 4,096 entries (R485) -/
  watchLog : List WatchEnt := []
  /-- entry of the log that the next sample writes (R485, R486) -/
  watchNext : Nat := 0
  /-- light state of each port at its last sample (R485) -/
  light : Tab Nat := []
  /-- a job frequency proposed under the host-assisted policy waits for the manager: frequency and tide (R588) -/
  policyReq : Option (Nat × Word) := none
  /-- what F_ALLOW was last computed from: tiles counted for the module and for each harbour with a sub-budget (R493) -/
  counted : Nat × List Nat := (0, [])
  /-- job frequency of the last decision (R494, R495) -/
  lastDecision : Nat := 0
  deriving DecidableEq, Repr

/-- An event kept in the always-on store until it can be raised (R513, R607): its code, unit, tide and record contents. -/
structure KeptEvent where
  code : Nat
  kind : Nat
  unit : Nat
  tide : Word
  items : List Word
  deriving DecidableEq, Repr

/-- The event ring and the recovery registers (R534–R541), and the events kept in the always-on store for the next
start-up (R513). -/
structure Ras where
  base : Nat := 0
  log2 : Nat := 0
  enable : Bool := false
  irqMode : Nat := 0
  msiVector : Nat := 0
  seq : Word32 := 0
  dropped : Half := 0
  consumed : Word32 := 0
  hangTides : Nat := 0
  cCfgRefused : Half := 0
  /-- a record was written in the current tide (IRQ_MODE 2) -/
  wrote : Bool := false
  /-- occurrences per event code and the SEQ of the last (R30, R632) -/
  counts : Tab Word32 := []
  lastSeq : Tab Word32 := []
  /-- events kept until start-up or resume can raise them (R502, R513, R607), oldest first -/
  kept : List KeptEvent := []
  /-- contexts marked lost (R525) and the boundary at which their entries fall due has come (R526) -/
  lost : NSet := []
  /-- working modules of the die-to-die bridge (R57) -/
  bridge : Nat := 128
  deriving DecidableEq, Repr

end Sys2Proof.Machine
end

