-- ==== Sys2Proof/Machine/StateHost.lean ====
section
/-! DEFINITION. The state of the security controller (17_security), of the host interface and the Eweas objects
(18_host_interface), of start-up, freeze and the dump (19_startup_freeze_cascade), of the register interface's own
counters and the configuration CRC (20_register_map), of the connector's pins (21_module_connector_and_electrical),
and what leaves the module. -/
namespace Sys2Proof.Machine
open Sys2Proof

/-- A key slot of one bank (R554). The key itself is one number: no register returns it. -/
structure KeySlot where
  usage : Nat := 0
  partner : Nat := 0
  key : BitVec 256 := 0
  /-- the slot's tag verifies -/
  tagOk : Bool := true
  /-- the update counter at which the slot was written -/
  counter : Word := 0
  deriving DecidableEq, Repr

/-- A PCIe IDE stream, by link × 16 + stream (0 link stream, 1–8 selective; R544). -/
structure IdeStream where
  /-- key sets 0 and 1 programmed -/
  prog0 : Bool := false
  prog1 : Bool := false
  /-- active key set -/
  active : Option Nat := none
  secure : Bool := false
  deriving DecidableEq, Repr

/-- The keys that the security controller derives from the root secret and the seed: pairs of private and public key, and the slot-tag
key (R550). -/
structure SecKeys where
  attest : Nat × Nat
  mlKem : Nat × Nat
  ecdh : Nat × Nat
  slotTag : Nat
  deriving DecidableEq, Repr

/-- The security controller (R549–R563). -/
structure Security where
  rootValid : Bool := true
  /-- the root secret, in key memory (R549) -/
  rootSecret : BitVec 256 := 0
  /-- the provisioning seed and the owner record, in fuses: ML-DSA-87 and ECDSA P-384 public keys (R549) -/
  seed : Nat := 0
  ownerMldsa : Nat := 0
  ownerEcdsa : Nat := 0
  /-- the keys derived at start-up, in registers (R550) -/
  keys : Option SecKeys := none
  /-- a tamper cause is present (R551): bit i for cause i -/
  tamperCause : Nat := 0
  battLow : Bool := false
  counter : Word := 0
  bankA : Tab KeySlot := []
  bankB : Tab KeySlot := []
  /-- bank B is selected (R555) -/
  selB : Bool := false
  /-- tamper record: cause, tide, powered (R549, R552) -/
  tamperRec : Option (Nat × Word × Bool) := none
  /-- its TAMPER event has been raised (R552) -/
  tamperTold : Bool := false
  /-- message under check: address and its COUNTER and OPS words when it has been read (R556) -/
  upd : Option Nat := none
  results : Half := 0
  reason : Nat := 0
  /-- SC_PORTKEY: slot and valid of each port -/
  portKey : Tab (Nat × Bool) := []
  ideRequired : Nat := 0
  cReject : Half := 0
  cSlotBad : Half := 0
  cIde : Half := 0
  cUrNoIde : Half := 0
  partnerId : Nat := 0
  /-- slots whose KEY_SLOT_BAD has been raised since last written (R554) -/
  slotBad : NSet := []
  streams : Tab IdeStream := []
  /-- open SPDM sessions (R558) -/
  sessions : Nat := 0
  deriving DecidableEq, Repr

/-- A PCIe link (R564, R570). -/
structure Link where
  /-- PRESENT (R564, R601) -/
  pres : Bool := false
  up : Bool := false
  width : Nat := 0
  speed : Nat := 0
  miss : Half := 0
  hostErr : Half := 0
  hostEp : Half := 0
  numVfs : Nat := 0
  /-- left L0 other than under R482; the grace timer of R590 runs -/
  grace : Bool := false
  /-- in L2/L3 Ready (R482) -/
  l23 : Bool := false
  deriving DecidableEq, Repr

/-- MSI-X of a function (R566, R569): unmasked vectors, and PBA bits. -/
structure Msix where
  unmasked : NSet := []
  pba : NSet := []
  deriving DecidableEq, Repr

/-- What a command waits for before its result (R577): an invalidation of a harbour, alone or before a released handle's
reference is dropped; an object's zeroing; a berth's entries; a graph's versions; a hand-over of a state record. -/
inductive PageWait where
  | inval (h : Nat) (i : Inval)
  | release (h : Nat) (i : Inval) (obj : Nat)
  | zero (obj : Nat)
  | berth (b : Nat)
  | graph (k : Nat)
  | state (id : Nat)
  deriving DecidableEq, Repr

/-- A command page (R575). -/
structure CmdPage where
  words : List Word := []
  busy : Bool := false
  /-- TAG of the command in progress -/
  tag : Word32 := 0
  status : Nat := 0
  reason : Nat := 0
  rejects : BitVec 8 := 0
  doneTag : Word32 := 0
  res : List Word := []
  irqVector : Nat := 0
  irqEnable : Bool := false
  /-- what the command in progress waits for -/
  wait : Option PageWait := none
  deriving DecidableEq, Repr

/-- A memory object (R573, R578, R579). -/
structure MemObj where
  harbour : Nat
  /-- device physical address without node (region 0x0 or 0x1), as the harbour views it -/
  addr : Nat
  len : Nat
  pins : Nat := 0
  refs : Nat := 1
  /-- the range is exactly the harbour's pacing area (R208) -/
  pacing : Bool := false
  deriving DecidableEq, Repr

/-- An entry of a context's object table (R574): object and rights, R, W, A in bits 0–2. -/
structure Handle where
  gen : Nat := 0
  /-- `none`: the entry is free -/
  obj : Option Nat := none
  rights : Nat := 0
  deriving DecidableEq, Repr

/-- An entry of the module's export table (R574). -/
inductive Export where
  | mem (obj rights : Nat)
  | fence (fon : Nat) (wait signal : Bool)
  deriving DecidableEq, Repr

/-- A mapped range of a context (R580): `handle` is the handle it was mapped through; `none` for host memory. -/
structure Mapping where
  va : Nat
  len : Nat
  handle : Option Nat
  /-- memory object, and the byte of it that `va` names -/
  obj : Option Nat
  off : Nat
  /-- 0 = 4 KiB, 1 = 64 KiB, 2 = 2 MiB, 3 = 1 GiB -/
  page : Nat
  rights : Nat
  deriving DecidableEq, Repr

/-- A context as the pilot holds it (R573, R576, R580, R585). -/
structure Ctx where
  func : Nat
  pasid : Nat
  pasidEn : Bool
  harbour : Nat
  vaBits : Nat
  poolAddr : Nat
  poolLen : Nat
  /-- bytes of the pool in use by tables -/
  poolUsed : Nat := 0
  handles : Tab Handle := []
  maps : List Mapping := []
  /-- interrupt vectors bound (R577) -/
  events : NSet := []
  /-- teardown step reached, 0 = none (R585); cause (R592); function whose command waits for its result -/
  teardown : Nat := 0
  cause : Nat := 0
  waiter : Option Nat := none
  /-- entries completed ABORTED in step 3 (R592) -/
  aborted : Nat := 0
  deriving DecidableEq, Repr

/-- A request the module sent to a PCIe link (R583). -/
structure HostReq where
  link : Nat
  place : Nat
  slot : Nat
  engine : Nat
  /-- the engine's number of the request -/
  req : Nat
  va : Nat
  len : Nat
  access : Access
  hostAddr : Nat
  /-- ASID it carries (R585), and its launch part has left the slot: its answer goes nowhere -/
  context : Nat := 0
  gone : Bool := false
  deriving DecidableEq, Repr

/-- The host interface and the Eweas object model (R564–R592). -/
structure HostIf where
  links : Tab Link := []
  msix : Tab Msix := []
  pages : Tab CmdPage := []
  /-- CF_HOSTBIND.BASE and CF_BAR2_BASE.BASE, as byte addresses -/
  hostBind : Nat := 0
  bar2Base : Nat := 0
  /-- BAR2 size of each function in GiB (R567); default 16 -/
  bar2Gib : Tab Nat := []
  /-- aperture → (context, handle, object, 2 MiB offset) as the pilot knows it, by FUNC × 2^17 + aperture -/
  apertures : Tab (Nat × Nat × Nat × Nat) := []
  objs : Tab MemObj := []
  nextObj : Nat := 0
  exports : Tab (Nat × Option Export) := []
  ctxs : Tab Ctx := []
  /-- generation last used of each handle entry of an ASID whose context has ended, by ASID × 2^24 + index -/
  handleGen : Tab Nat := []
  /-- FUNC_MODE as written and in force (R640) -/
  mode : Nat := 0
  modeInForce : Nat := 0
  reqs : Tab HostReq := []
  nextReq : Nat := 0
  /-- objects being zeroed after release, with the channels still clearing (R382) -/
  zeroing : Tab NSet := []
  deriving DecidableEq, Repr

/-- A harbour of the load image that spans modules: the span registers of its view page and its members (R337, R360). -/
structure SpanCfg where
  harbour : Nat
  spanId : Nat := 0
  member : Nat := 0
  span : Bool := false
  peers : List SpanPeer := []
  deriving DecidableEq, Repr

/-- An image slot of the flash as the start-up reads it (R595–R602): header fields, what verification finds, the
configuration records and the requests of the default harbour map. -/
structure Image where
  wellFormed : Bool := true
  parts : Nat := 7
  cascade : Nat := 0
  raiseSvn : Bool := false
  bifur0 : Bool := false
  bifur1 : Bool := false
  svn : Nat := 0
  version : Word := 0
  len : Nat := 0x4000
  groupId : Nat := 0
  masterNode : Nat := 0
  members : List Nat := []
  keysOk : Bool := true
  mldsaOk : Bool := true
  ecdsaOk : Bool := true
  digestsOk : Bool := true
  /-- configuration records: REG and VALUE (R599) -/
  records : List (Nat × Word) := []
  /-- requests of the default map: words 0x000–0x83F each (R602) -/
  map : List (List Word) := []
  /-- span members of that map's harbours (R337, R360) -/
  spans : List SpanCfg := []
  deriving DecidableEq, Repr

/-- Where the module stands in its life (R603–R613). -/
inductive Life where
  | unpowered | inReset | starting | running | stopped | frozen | tripped
  deriving DecidableEq, Repr

/-- CF_START and what start-up and freeze hold (R593–R622). -/
structure Boot where
  life : Life := .inReset
  step : Nat := 0
  done : Bool := false
  stop : Nat := 0
  cause : Nat := 0
  slotB : Bool := false
  fallback : Bool := false
  mapStored : Bool := false
  marginSource : Nat := 0
  timeUs : Nat := 0
  version : Word := 0
  svn : Nat := 0
  floor : Nat := 0
  failRecord : Nat := 0
  failA : Nat := 0
  failB : Nat := 0
  imageA : Image := {}
  imageB : Image := {}
  /-- fused SVN being raised within 1 s (R598) -/
  svnRaise : Option Nat := none
  /-- the always-on store holds a harbour map with a good CRC: its harbours and the conditions of the units (R604) -/
  mapCopy : Option (Tab Harbour) := none
  /-- binding generation of each bound unit of that map, by TYPE × 1,024 + unit (R340) -/
  mapGens : Tab Nat := []
  /-- slaves of the accepted image (R610) -/
  members : List Nat := []
  /-- cause the next start-up records (R603) -/
  nextCause : Nat := 0
  /-- freeze source (0 pin, 1 SOFT) and tide at the freeze (R613, R621) -/
  freezeSoft : Bool := false
  freezeTide : Word := 0
  /-- DUMP_EN as it stood at the freeze, and frames sent on the scan-dump port (R614, R615) -/
  dumpAll : Bool := false
  frame : Nat := 0
  /-- frame position of the test access port's DUMP (R616) -/
  tapFrame : Nat := 0
  /-- instruction of the test access port: 0 BYPASS, 1 IDCODE, 2 SAMPLE, 3 EXTEST, 4 DUMP -/
  tap : Nat := 1
  dumpEn : Bool := false
  dumpHolds : Bool := false
  deriving DecidableEq, Repr

/-- The configuration CRC and the access counters (R627–R639). -/
structure Crc where
  ref : Word32 := 0
  run : Word32 := 0
  valid : Bool := false
  drift : Bool := false
  adopting : Bool := false
  passes : Half := 0
  drifts : Half := 0
  /-- passes completed since the last REF or ADOPT (R638) -/
  since : Nat := 0
  rwpIgnored : Word32 := 0
  size : BitVec 8 := 0
  unmapped : BitVec 8 := 0
  refused : Half := 0
  lastMaster : Nat := 0
  lastFunc : Nat := 0
  lastOffset : Nat := 0
  lastTide : Nat := 0
  deriving DecidableEq, Repr

/-- The pins of the connector and the rail-group sequence (R646, R649–R654, R664). True is asserted. -/
structure Pins where
  modRst : Bool := true
  freeze : Bool := false
  perst : Bool := true
  pcieRdy : Bool := false
  alert : Bool := false
  thermTrip : Bool := false
  mate0 : Bool := true
  mate1 : Bool := true
  enA : Bool := false
  enB : Bool := false
  enC : Bool := false
  pgA : Bool := false
  pgB : Bool := false
  pgC : Bool := false
  /-- rail sequence in progress: 0 none, 1 power-on, 2 power-off, 3 power-off after a power-good fault (R651–R653) -/
  seq : Nat := 0
  deriving DecidableEq, Repr

/-- What leaves the module: the model's own record of it, newest last. -/
inductive Out where
  /-- a master's tick message (R96) -/
  | tick (node : Nat) (m : TickMsg)
  /-- a slave's echo request to its master (R97) -/
  | echo (node : Nat)
  /-- an MSI-X interrupt (R569) -/
  | msix (func vector : Nat)
  /-- an ownership message to a node (R467) -/
  | own (node : Nat) (m : OwnMsg)
  /-- a Shomea transaction of opcode `op` to a node: address or item words (R455) -/
  | txn (node op : Nat) (words : List Word)
  /-- a flit on a lane group (R449) -/
  | flit (lg : Nat) (f : Flit)
  /-- a wake pattern on a port (R447) -/
  | wake (port : Nat)
  /-- a PCIe request of the module (R583): link, write, host address, bytes -/
  | pcie (link : Nat) (write : Bool) (addr : Nat) (data : List Byte) (poison : Bool)
  /-- a completion of a host read through BAR2 (R568) -/
  | readData (func : Nat) (data : List Byte) (poison : Bool)
  /-- Unsupported Request (R545) -/
  | unsupportedRequest (link : Nat)
  /-- an SPDM response (R558–R560): code of the request, and blocks; `error` for ERROR Unspecified -/
  | spdm (code : Nat) (error : Bool) (words : List Word)
  /-- an AVSBus frame: rail, command code, data (R488, R489) -/
  | avs (rail cmd data : Nat)
  /-- a frame of the scan dump or of the DUMP instruction: segment, unit, frame, block, the CRC of its header and payload, and the
  payload (R615, R616) -/
  | frame (tap : Bool) (segment unit frame block : Nat) (crc : Word32) (payload : List Byte)
  /-- data shifted out of the test access port (R616) -/
  | tdo (instruction : Nat)
  deriving DecidableEq, Repr

end Sys2Proof.Machine
end

