-- ==== Sys2Proof/Machine/Image.lean ====
section
/-! DEFINITION. The default load image that every module ships with (R667), as the flash holds it: its configuration records
(R599) and the requests of its harbour map (R602). -/
namespace Sys2Proof.Machine
open Sys2Proof

/-! Present units (R1, R2, R9) -/

/-- Cluster of a usable tile place (R9). -/
def clusterOf (p : Nat) : Nat := p / 256 * 16 + p % 256 / 16 / 4 * 4 + p % 16 / 4

/-- The disabled clusters of a part, exactly four on each die of a KLN-8160 and none elsewhere: the die's first four of the list, made up
from its lowest clusters where the list names fewer (R1, R2, R49). -/
def disabledClusters (part : Part) (d : NSet) : NSet :=
  let die (k : Nat) : NSet :=
    let own := (List.range 16).map (k * 16 + ·)
    ((own.filter d.contains ++ own.filter fun c => !d.contains c).take 4)
  if part = .kln8160 then (die 0 ++ die 1).foldl setIns [] else []

/-- The cluster is present on a part; a KLN-8160 has disabled ones (R1, R2). -/
def clusterOn (part : Part) (disabled : NSet) (c : Nat) : Bool := decide (c < 32) && !(part == .kln8160 && disabled.contains c)

/-- The channel is present on a part (R1). -/
def channelOn (part : Part) (c : Nat) : Bool :=
  match part with
  | .kln8160 => decide (c < 96 ∨ (128 ≤ c ∧ c < 224))
  | _ => decide (c < 256)

/-! Configuration records (R667) -/

/-- A record: BAR0 offset and a value made of fields (lowest bit, value). -/
def imageRecord (offset : Nat) (fields : List (Nat × Nat)) : Nat × Word :=
  (offset, BitVec.ofNat 64 (fields.map fun f => f.2 * 2 ^ f.1).sum)

/-- Records of registers `offset + step · i`, `i < n`, that take one value. -/
def imageRecords (offset step n : Nat) (fields : List (Nat × Nat)) : List (Nat × Word) :=
  (List.range n).map fun i => imageRecord (offset + step * i) fields

/-- The records of the CF_, PW_, XL_, LK_ and HM_ blocks that are written once (R667). -/
def imageSingles : List (Nat × Word) :=
  [imageRecord 0x10100 [(0, 100), (12, 80)], imageRecord 0x10200 [(0, 0x300000), (48, 12), (63, 1)], imageRecord 0x10208 [(0, 2)],
   imageRecord 0x10220 [(0, 64)], imageRecord 0x10300 [(0, 0x200000)], imageRecord 0x10308 [(0, 0x8000000)],
   imageRecord 0x20018 [(0, 3600)], imageRecord 0x20020 [(4, 800), (16, 1750), (28, 15), (36, 40)],
   imageRecord 0x20030 [(0, 100), (16, 42), (24, 70)], imageRecord 0x100008 [],
   imageRecord 0x180008 [(16, 50), (32, 8)], imageRecord 0x180010 [(0, 0x800000)], imageRecord 0x180018 [(0, 0x900000)],
   imageRecord 0x180020 [(0, 0xA00000), (48, 16)], imageRecord 0x1000200 [(0, 256)],
   imageRecord 0x1000400 [(0, 0x600000), (48, 16)], imageRecord 0x1000420 [(0, 0x400000)]]

/-- The fault queue of each harbour, 1 MiB apart, enabled for harbour 0 (R667). -/
def imageQueues : List (Nat × Word) :=
  (List.range 64).map fun h => imageRecord (0x100100 + 8 * h) [(0, if h = 0 then 1 else 0), (1, 2), (0, 0x1000000 + h * 0x100000)]

/-- Budget ceilings, eight harbours to a register, and CMAX of every class of every harbour (R667). -/
def imageHarbours : List (Nat × Word) :=
  imageRecords 0x80C00 8 8 [(0, 2 ^ 64 - 1)] ++ imageRecords 0x80400 16 64 [(0, 0x88888888)]

/-- LEVEL 1 on every present channel (R667). -/
def imageLevels (part : Part) : List (Nat × Word) :=
  ((List.range 256).filter (channelOn part)).map fun c => imageRecord (0x800008 + c * 0x1000) [(0, 1)]

/-! The harbour map (R344, R345, R602, R667) -/

/-- A unit entry that adds a unit (R345). -/
def addUnit (type n : Nat) : Word := BitVec.ofNat 64 (type + n * 2 ^ 14)

/-- A request on harbour 0, words 0x000 to 0x83F (R344). -/
def mapRequest (op pool : Nat) (units : List Word) : List Word :=
  BitVec.ofNat 64 (op + units.length * 2 ^ 16 + pool * 2 ^ 48) :: (List.replicate 7 0 ++ units ++ List.replicate (256 - units.length) 0)

/-- GROW requests for units, 256 to a request. -/
def growRequests : Nat → List Word → List (List Word)
  | 0, _ => []
  | n + 1, us => if us.isEmpty then [] else mapRequest 1 0 (us.take 256) :: growRequests n (us.drop 256)

/-- Harbour 0 with every present place and channel, in rising order (R667). POOL_MIB of its CREATE is the model's choice (log
entry 8). -/
def defaultMap (part : Part) (disabled : NSet) : List (List Word) :=
  let ts := ((List.range 512).filter fun p => clusterOn part disabled (clusterOf p)).map (addUnit 0)
  let cs := ((List.range 256).filter (channelOn part)).map (addUnit 1)
  mapRequest 0 1024 (ts.take 128 ++ cs.take 128) :: growRequests 3 (ts.drop 128 ++ cs.drop 128)

/-- The default load image of a part (R667). -/
def defaultImage (part : Part) (disabled : NSet) : Image :=
  { records := imageSingles ++ imageQueues ++ imageHarbours ++ imageLevels part, map := defaultMap part disabled }

end Sys2Proof.Machine
end

