-- ==== Sys2Proof/Machine/State.lean ====
section
/-! DEFINITION. The state of the module as plain data, and its value at reset. -/
namespace Sys2Proof.Machine
open Sys2Proof

/-- Why the machine stops. The spec gives every command an effect or says that it has none, so no constructor. -/
inductive Fault where
  deriving DecidableEq, Repr

/-- Why the model refuses a command. -/
inductive Refusal where
  /-- Raised by an arm whose meaning is not written; safe. -/
  | notModelled (mnemonic : String)
  deriving DecidableEq, Repr

/-- The module. -/
structure State where
  /-- the part (R1) and, on a KLN-8160, its disabled clusters (R2) -/
  part : Part := .kln8200
  disabled : NSet := []
  /-- DEVICE UID (R549), accepted FORMAT_IDs (R182), FRENOR_MAJOR mask (R180) -/
  uid : Word := 0
  formats : List Nat := []
  frenor : Nat := 0
  tide : Tide := {}
  places : Tab Place := []
  tiles : Tab PhysTile := []
  clusters : Tab Cluster := []
  hm : Hm := {}
  berths : Tab Berth := []
  fu : FenceUnit := {}
  graphs : Tab Graph := []
  hb : HarbourMap := {}
  mills : Tab Mill := []
  scans : Tab Scan := []
  mergeHalves : Tab MergeHalf := []
  mem : Memory := {}
  xl : Xlate := {}
  rg : Regul := {}
  lk : Links := {}
  pw : Power := {}
  ras : Ras := {}
  sec : Security := {}
  hif : HostIf := {}
  boot : Boot := {}
  crc : Crc := {}
  pins : Pins := {}
  /-- what has left the module, newest last -/
  out : List Out := []
  /-- the model's own: numbers the free values drawn so far -/
  freeTick : Nat := 0
  /-- commands that wait, first in first out -/
  pending : List Instr := []
  deriving DecidableEq, Repr

/-- A module of a part, with the clusters that are disabled on it (R2, R49), right after module reset, before start-up begins (R27, R603): no unit has been started, the flash holds the
default load image in both slots (R667), and one FORMAT_ID is accepted (log entry 9). -/
def State.resetOf (part : Part) (disabled : NSet) : State :=
  let off := disabledClusters part disabled
  { part := part, disabled := off, formats := [1], frenor := 1
    boot := { imageA := defaultImage part off, imageB := defaultImage part off } }

/-- The KLN-8200 right after module reset. -/
def State.reset : State := State.resetOf .kln8200 []

end Sys2Proof.Machine
end

