-- ==== Sys2Proof/Machine/Ops.lean ====
section
/-! DEFINITION. The operations every family uses: which units the part has, updates of one block of the state, events
and interrupts, and who may write a register. -/
namespace Sys2Proof.Machine
open Sys2Proof

/-! Units of the part (R1, R2, R7–R12) -/

/-- C-die of a usable tile place or of a spare (R7, R8). -/
def dieOfTile (p : Nat) : Nat := if p < 512 then p / 256 else (p - 512) / 16

/-- The spare tile of a place's column (R8, R46). -/
def spareOf (p : Nat) : Nat := 512 + p / 256 * 16 + p % 16

/-- Clock region of a cluster (R10). -/
def regionOf (c : Nat) : Nat := c / 2

/-- The cluster is present (R1, R2). -/
def State.clusterPresent (s : State) (c : Nat) : Bool :=
  clusterOn s.part s.disabled c

/-- The usable tile place is present. -/
def State.placePresent (s : State) (p : Nat) : Bool := decide (p < 512) && s.clusterPresent (clusterOf p)

/-- The physical tile, usable or spare, is present (R3). -/
def State.tilePresent (s : State) (t : Nat) : Bool := s.placePresent t || decide (512 ≤ t ∧ t < 544)

/-- The channel is present (R1). -/
def State.channelPresent (s : State) (c : Nat) : Bool := channelOn s.part c

/-- The Mill is present (R1). -/
def State.millPresent (s : State) (c : Nat) : Bool := s.part != .kln8120 && s.channelPresent c

/-- The optical port is present (R1). -/
def State.portPresent (s : State) (p : Nat) : Bool :=
  match s.part with
  | .kln8200 => decide (p < 16)
  | .kln8160 => decide (p < 6 ∨ (8 ≤ p ∧ p < 14))
  | .kln8120 => decide (p < 4 ∨ (8 ≤ p ∧ p < 12))

/-- Every number below `n` that satisfies `p`, rising. -/
def numbersBelow (n : Nat) (p : Nat → Bool) : List Nat := (List.range n).filter p

/-! Updates of one block -/

def State.onTide (f : Tide → Tide) (s : State) : State := { s with tide := f s.tide }
def State.onHm (f : Hm → Hm) (s : State) : State := { s with hm := f s.hm }
def State.onFu (f : FenceUnit → FenceUnit) (s : State) : State := { s with fu := f s.fu }
def State.onHb (f : HarbourMap → HarbourMap) (s : State) : State := { s with hb := f s.hb }
def State.onMem (f : Memory → Memory) (s : State) : State := { s with mem := f s.mem }
def State.onXl (f : Xlate → Xlate) (s : State) : State := { s with xl := f s.xl }
def State.onRg (f : Regul → Regul) (s : State) : State := { s with rg := f s.rg }
def State.onLk (f : Links → Links) (s : State) : State := { s with lk := f s.lk }
def State.onPw (f : Power → Power) (s : State) : State := { s with pw := f s.pw }
def State.onRas (f : Ras → Ras) (s : State) : State := { s with ras := f s.ras }
def State.onSec (f : Security → Security) (s : State) : State := { s with sec := f s.sec }
def State.onHif (f : HostIf → HostIf) (s : State) : State := { s with hif := f s.hif }
def State.onBoot (f : Boot → Boot) (s : State) : State := { s with boot := f s.boot }
def State.onCrc (f : Crc → Crc) (s : State) : State := { s with crc := f s.crc }
def State.onPins (f : Pins → Pins) (s : State) : State := { s with pins := f s.pins }

def State.place (s : State) (p : Nat) : Place := tabGet {} s.places p
def State.onPlace (p : Nat) (f : Place → Place) (s : State) : State := { s with places := tabMod {} s.places p f }
def State.tile (s : State) (t : Nat) : PhysTile := tabGet {} s.tiles t
def State.onTile (t : Nat) (f : PhysTile → PhysTile) (s : State) : State := { s with tiles := tabMod {} s.tiles t f }
def State.cluster (s : State) (c : Nat) : Cluster := tabGet {} s.clusters c
def State.onCluster (c : Nat) (f : Cluster → Cluster) (s : State) : State :=
  { s with clusters := tabMod {} s.clusters c f }
def State.slotAt (s : State) (p k : Nat) : Slot := tabGet {} (s.place p).slots k
def State.setSlot (p k : Nat) (v : Slot) (s : State) : State :=
  s.onPlace p fun q => { q with slots := tabSet {} q.slots k v }
def State.onSlot (p k : Nat) (f : Slot → Slot) (s : State) : State := s.setSlot p k (f (s.slotAt p k))
def State.onCtx (p k : Nat) (f : PartCtx → PartCtx) (s : State) : State :=
  s.onSlot p k fun v => { v with ctx := f v.ctx }
def State.berth (s : State) (b : Nat) : Berth := tabGet {} s.berths b
def State.onBerth (b : Nat) (f : Berth → Berth) (s : State) : State := { s with berths := tabMod {} s.berths b f }
def State.launch (s : State) (l : Nat) : Option Launch := tabFind s.hm.launches l
def State.onLaunch (l : Nat) (f : Launch → Launch) (s : State) : State :=
  match s.launch l with
  | none => s
  | some e => s.onHm fun h => { h with launches := tabPut h.launches l (f e) }
def State.fence (s : State) (f : Nat) : Option Fence := tabFind s.fu.fences f
def State.chan (s : State) (c : Nat) : Chan := tabGet {} s.mem.chans c
def State.onChan (c : Nat) (f : Chan → Chan) (s : State) : State :=
  s.onMem fun m => { m with chans := tabMod {} m.chans c f }
def State.mill (s : State) (c : Nat) : Mill := tabGet {} s.mills c
def State.onMill (c : Nat) (f : Mill → Mill) (s : State) : State := { s with mills := tabMod {} s.mills c f }
def State.harbour (s : State) (h : Nat) : Option Harbour := tabFind s.hb.harbours h
def State.onHarbour (h : Nat) (f : Harbour → Harbour) (s : State) : State :=
  match s.harbour h with
  | none => s
  | some e => s.onHb fun m => { m with harbours := tabPut m.harbours h (f e) }
def State.hgen (s : State) (h : Nat) : BitVec 8 := tabGet 0 s.hb.hgen h
def State.port (s : State) (p : Nat) : Port := tabGet {} s.lk.ports p
def State.onPort (p : Nat) (f : Port → Port) (s : State) : State :=
  s.onLk fun l => { l with ports := tabMod {} l.ports p f }
def State.lg (s : State) (g : Nat) : LaneGroup := tabGet {} s.lk.lgs g
def State.onLg (g : Nat) (f : LaneGroup → LaneGroup) (s : State) : State :=
  s.onLk fun l => { l with lgs := tabMod {} l.lgs g f }
def State.own (s : State) (i : Nat) : Option Own := tabFind s.lk.own i
def State.node (s : State) (n : Nat) : Node := tabGet {} s.lk.nodes n
def State.link (s : State) (l : Nat) : Link := tabGet {} s.hif.links l
def State.onLink (l : Nat) (f : Link → Link) (s : State) : State :=
  s.onHif fun h => { h with links := tabMod {} h.links l f }
def State.ctx (s : State) (a : Nat) : Option Ctx := tabFind s.hif.ctxs a
def State.onAsid (a : Nat) (f : Ctx → Ctx) (s : State) : State :=
  match s.ctx a with
  | none => s
  | some e => s.onHif fun h => { h with ctxs := tabPut h.ctxs a (f e) }
def State.page (s : State) (f : Nat) : CmdPage := tabGet {} s.hif.pages f
def State.onPage (n : Nat) (f : CmdPage → CmdPage) (s : State) : State :=
  s.onHif fun h => { h with pages := tabMod {} h.pages n f }
def State.fq (s : State) (h : Nat) : FaultQ := tabGet {} s.xl.fq h
def State.onFq (h : Nat) (f : FaultQ → FaultQ) (s : State) : State :=
  s.onXl fun x => { x with fq := tabMod {} x.fq h f }
def State.rail (s : State) (r : Nat) : Rail := tabGet {} s.pw.rails r
def State.onRail (r : Nat) (f : Rail → Rail) (s : State) : State :=
  s.onPw fun w => { w with rails := tabMod {} w.rails r f }

/-- The module is running: start-up has ended, and it is not stopped, frozen or tripped (R604, R606, R611). -/
def State.running (s : State) : Bool := s.boot.life == .running

/-- Function `i` of R587 is host-assisted, in force (R640). -/
def State.hostMode (s : State) (i : Nat) : Bool := bitsN s.hif.modeInForce i 1 == 1

/-- One command of a list of updates after another. -/
def foldState {α : Type} (xs : List α) (f : State → α → State) (s : State) : State := xs.foldl f s

/-- A fresh free value (log entry 3). -/
def State.fresh (s : State) : Word := Config.freeWord s.freeTick

/-- The next free value has been drawn. -/
def State.drawn (s : State) : State := { s with freeTick := s.freeTick + 1 }

/-! What leaves the module -/

/-- Something leaves the module. -/
def State.emit (o : Out) (s : State) : State := { s with out := s.out ++ [o] }

/-- An MSI-X interrupt: sent, or its PBA bit set while its vector is masked (R569). -/
def State.msix (f v : Nat) (s : State) : State :=
  let m := tabGet {} s.hif.msix f
  if m.unmasked.contains v then s.emit (.msix f v)
  else s.onHif fun h => { h with msix := tabPut h.msix f { m with pba := setIns m.pba v } }

/-! Memory of the channels (R361–R382) -/

/-- Data pages P of a level (R369). -/
def dataPages (level : Nat) : Nat :=
  match level with
  | 0 => 1031799
  | 1 => 1016071
  | 2 => 999293
  | _ => 983040

/-- Symbols corrected per codeword at a level (R369). -/
def correction (level : Nat) : Nat := 4 * (level + 1)

/-- Bytes of a channel's data space (R370). -/
def State.dataBytes (s : State) (c : Nat) : Nat := dataPages (s.chan c).level * 2048

/-- Key of a byte of a physical channel. -/
def byteKey (c b : Nat) : Nat := c * 2147483648 + b

/-- Granule number of a byte. -/
def granule (c b : Nat) : Nat := byteKey c b / 64

/-- Write bytes one by one. -/
def putBytes (t : List Host.Cell) (k : Nat) : List Byte → List Host.Cell
  | [] => t
  | d :: ds => putBytes (tabSet 0 t k d) (k + 1) ds

/-- Poison of the granules a write touches: a whole granule takes the data's poison, a poisoned part marks it, a clean
part leaves it (R378, R380). -/
def poisonAfter (t : NSet) (k n : Nat) (p : Bool) : NSet :=
  let g0 := k / 64
  let gs := (List.range ((k + n + 63) / 64 - g0)).map (g0 + ·)
  gs.foldl (fun t g =>
    if p then setIns t g
    else if k ≤ g * 64 ∧ g * 64 + 64 ≤ k + n then setDel t g else t) t

/-! Remap entries (R383, R384) -/

/-- The register image of a remap entry (R396). -/
def remapWord (r : Remap) : Word :=
  BitVec.ofNat 64 (r.channel + r.bank * 2 ^ 5 + r.row * 2 ^ 10 + r.word * 2 ^ 25 + r.spare * 2 ^ 34
    + (if r.column then 2 ^ 37 else 0) + (if r.byManager then 2 ^ 38 else 0) + (if r.valid then 2 ^ 63 else 0))

/-- Entry `e` of a stack's remap table. -/
def State.remapEntry (s : State) (stack e : Nat) : Remap := tabGet {} s.mem.remap (stack * 32 + e)

/-- The valid entries of a stack's table. -/
def State.remapsOf (s : State) (stack : Nat) : List Remap :=
  ((List.range 32).map (s.remapEntry stack)).filter (·.valid)

/-- Words of the column entries on half `half` of a channel's bank (R383, R384). -/
def State.columnWords (s : State) (c bank half : Nat) : List Nat :=
  ((s.remapsOf (c / 32)).filter fun r =>
    r.column && r.channel == c % 32 && r.bank == bank && r.word / 256 == half).map (·.word)

/-! Codewords and their errors (R371, R374, R377, R383, R384). Codeword `cw` of a channel is page × 2 + half; byte b of the channel lies
in codeword b ÷ 1024. -/

/-- Key of a codeword. -/
def cwKey (c cw : Nat) : Nat := c * 2097152 + cw

/-- Codewords that a range of a channel touches. -/
def codewordsOf (b n : Nat) : List Nat := (List.range ((b + n + 1023) / 1024 - b / 1024)).map (b / 1024 + ·)

/-- The four symbols that a word of a page occupies in its codeword (R371, R383). -/
def wordSymbols (word : Nat) : List Nat := (List.range 4).map (32 * (word % 256) / 10 + ·)

/-- Words, 0–511 of the page, that a data symbol of a codeword holds bits of (R371). -/
def symbolWords (half sym : Nat) : List Nat :=
  ([10 * sym / 32, (10 * sym + 9) / 32].eraseDups.filter fun w => decide (w < 256)).map (half * 256 + ·)

/-- A page holds a written granule (R374, R375). -/
def State.pageWritten (s : State) (c d : Nat) : Bool :=
  s.mem.written.any fun g => decide (granule c (d * 2048) ≤ g ∧ g < granule c (d * 2048) + 32)

/-- The damaged symbols of a codeword that the controller does not decode as erasures, with what they differ by (R371, R383). -/
def State.symbolErrors (s : State) (c cw : Nat) : List (Nat × Nat) :=
  match tabFind s.mem.damage (cwKey c cw) with
  | none => []
  | some es =>
    let gone := (s.columnWords c (cw / 2 % 32) (cw % 2)).flatMap wordSymbols
    es.filter fun e => !gone.contains e.1

/-- Symbol errors that a codeword can correct: floor((2t − 4c) ÷ 2) (R369, R384). -/
def State.cwLimit (s : State) (c cw : Nat) : Nat :=
  (2 * correction (s.chan c).level - 4 * (s.columnWords c (cw / 2 % 32) (cw % 2)).length) / 2

/-- A codeword of a page with a written granule is uncorrectable, and not yet found so (R374, R377). -/
def State.beyond (s : State) (c cw : Nat) : Bool :=
  match s.symbolErrors c cw with
  | [] => false
  | es => decide (s.cwLimit c cw < es.length) && s.pageWritten c (cw / 2)

/-- A stored byte of a channel; a byte of an unwritten granule, or of a retired channel, is zero (R375, R522). -/
def State.storedByte (s : State) (c b : Nat) : Byte :=
  if (s.chan c).retired then 0 else tabGet 0 s.mem.bytes (byteKey c b)

/-- The 1,024 data bytes of a codeword as the array holds them, uncorrected; what it holds where nothing has been written is a free
value (R375, R377; log entry 3). -/
def State.arrayBytes (s : State) (c cw : Nat) : List Byte :=
  let raw := (List.range 1024).map fun i =>
    if s.mem.written.contains (granule c (cw * 1024 + i)) then s.storedByte c (cw * 1024 + i)
    else (Config.freeWord (s.freeTick + i)).truncate 8
  let flips := ((tabGet [] s.mem.damage (cwKey c cw)).map fun e => e.2 % 1024 * 2 ^ (10 * e.1)).foldl Nat.xor 0
  natBytes 1024 (Nat.xor (leNat raw) flips)

/-- One byte of a channel as it is delivered: corrected, or uncorrected where its codeword is uncorrectable (R374, R375, R377). -/
def State.hbmByte (s : State) (c b : Nat) : Byte :=
  if s.beyond c (b / 1024) then (s.arrayBytes c (b / 1024)).getD (b % 1024) 0 else s.storedByte c b

/-- `n` bytes of a channel. -/
def State.hbmBytes (s : State) (c b n : Nat) : List Byte := (List.range n).map fun i => s.hbmByte c (b + i)

/-- Some byte of the range lies in a poisoned granule, or in a retired channel (R377, R522). -/
def State.storedPoison (s : State) (c b n : Nat) : Bool :=
  (s.chan c).retired || s.mem.poison.any fun g => decide (g * 64 < byteKey c b + n ∧ byteKey c b < g * 64 + 64)

/-- Some byte of the range is delivered with poison (R377). -/
def State.hbmPoison (s : State) (c b n : Nat) : Bool := s.storedPoison c b n || (codewordsOf b n).any (s.beyond c)

/-- A codeword found uncorrectable is marked: it holds what was delivered, its granules become written and poisoned, and it is counted
(R377). -/
def State.markCodeword (c cw : Nat) (s : State) : State :=
  let g0 := granule c (cw * 1024)
  let s1 := s.onMem fun m => { m with
    bytes := putBytes m.bytes (byteKey c (cw * 1024)) (s.arrayBytes c cw)
    written := setInsRange m.written g0 16
    poison := setInsRange m.poison g0 16
    damage := tabDel m.damage (cwKey c cw) }
  { s1.onChan c fun x => { x with cUeCw := x.cUeCw + 1, marked := setIns x.marked cw } with freeTick := s.freeTick + 1024 }

/-- Store data with its poison state: every granule touched becomes written, and the codewords touched are coded anew (R376, R380). A
retired channel discards it (R522). -/
def State.hbmStore (c b : Nat) (data : List Byte) (p : Bool) (s : State) : State :=
  if data.isEmpty ∨ (s.chan c).retired then s else
  let k := byteKey c b
  let n := data.length
  let cws := codewordsOf b n
  let s1 := s.onMem fun m => { m with
    bytes := putBytes m.bytes k data
    written := setInsRange m.written (k / 64) ((k + n + 63) / 64 - k / 64)
    poison := poisonAfter m.poison k n p
    damage := cws.foldl (fun t w => tabDel t (cwKey c w)) m.damage }
  if (s.chan c).marked.isEmpty then s1 else s1.onChan c fun x => { x with marked := cws.foldl setDel x.marked }

/-- Clear the written-bits of a range of a channel: it reads as zero, without poison, and its check records are written anew (R375,
R376). -/
def State.hbmClear (c b n : Nat) (s : State) : State :=
  let k := byteKey c b
  let inside (w : Nat) : Bool := decide (b < w * 1024 + 1024 ∧ w * 1024 < b + n)
  let s1 := s.onMem fun m => { m with
    bytes := m.bytes.filter fun x => decide (x.1 < k / 64 * 64 ∨ (k + n + 63) / 64 * 64 ≤ x.1)
    written := setDelRange m.written (k / 64) ((k + n + 63) / 64 - k / 64)
    poison := setDelRange m.poison (k / 64) ((k + n + 63) / 64 - k / 64)
    damage := m.damage.filter fun x => !(x.1 / 2097152 == c && inside (x.1 % 2097152)) }
  if (s.chan c).marked.isEmpty then s1 else s1.onChan c fun x => { x with marked := x.marked.filter fun w => !inside w }

/-- A channel makes a range unwritten, and during a TRANSFER that of the destination with it (R348, R382). -/
def State.hbmWipe (c b n : Nat) (s : State) : State :=
  let s1 := s.hbmClear c b n
  match (s.chan c).transferTo.filter fun _ => decide (b < (s.chan c).copied) with
  | some d => s1.hbmClear d b n
  | none => s1

/-! Device physical addresses (R361–R366) -/

/-- A piece of a resolved range: physical channel, byte, length. -/
structure Piece where
  ch : Nat
  byte : Nat
  len : Nat
  deriving DecidableEq, Repr

/-- Split an interleaved range at its chunk boundaries (R365). -/
def interleavePieces (x : ISet) : Nat → Nat → Nat → List (Nat × Nat × Nat)
  | 0, _, _ => []
  | fuel + 1, a, n =>
    if n = 0 then [] else
    let g := if x.gran = 0 then 2048 else if x.gran = 1 then 4096 else 65536
    let w := 2 ^ x.log2Ways
    let chunk := a / g
    let m := min n (g - a % g)
    (x.baseCh + chunk % w, chunk / w * g + a % g, m) :: interleavePieces x fuel (a + m) (n - m)

/-- A piece on a logical channel of a harbour, checked against its data space (R364, R370). -/
def State.logicalPiece (s : State) (h : Nat) (x : Nat × Nat × Nat) : Option Piece :=
  match s.harbour h with
  | none => none
  | some e =>
    match e.channels[x.1]? with
    | none => none
    | some c => if x.2.1 + x.2.2 ≤ s.dataBytes c then some ⟨c, x.2.1, x.2.2⟩ else none

/-- The channel that a request which reaches a channel is forwarded to: a channel that a MOVE has taken from its harbour forwards to its
successor until it is released (R348). -/
def State.forwarded (s : State) (c : Nat) : Nat := (tabFind s.hb.forward c).getD c

/-- Resolve a range of device physical addresses, without node, of regions 0x0 to 0x2 in a harbour's view (R361, R364,
R365). -/
def State.resolve (s : State) (h da n : Nat) : Option (List Piece) :=
  let off := bitsN da 0 48
  match bitsN da 48 4 with
  | 0 => if 2 ^ 39 ≤ off then none
      else (s.logicalPiece h (off / 2 ^ 31, off % 2 ^ 31, n)).map fun p => [p]
  | 1 =>
    let x := tabGet {} s.mem.isets (h * 16 + off / 2 ^ 44)
    if !x.valid then none
    else (interleavePieces x (n / 2048 + 2) (off % 2 ^ 44) n).mapM (s.logicalPiece h)
  | 2 => if h ≠ 0 ∨ 2 ^ 39 ≤ off ∨ !s.channelPresent (off / 2 ^ 31) then none
      else if off % 2 ^ 31 + n ≤ s.dataBytes (off / 2 ^ 31) then some [⟨s.forwarded (off / 2 ^ 31), off % 2 ^ 31, n⟩] else none
  | _ => none


/-- Start of a harbour's pacing area: the highest aligned MiB of its logical channel 0 (R208). -/
def State.pacingByte (s : State) (h : Nat) : Option (Nat × Nat) :=
  match s.harbour h with
  | none => none
  | some e => e.channels.head?.map fun c => (c, (s.dataBytes c / 1048576 - 1) * 1048576)

/-! Harbours that span modules (R337) -/

/-- TILE_BASE: the tiles of the members below this one. -/
def Harbour.tileBase (x : Harbour) : Nat := ((x.peers.take x.member).map (·.tiles)).sum

/-- The harbour's logical channel that is this member's local channel 0. -/
def Harbour.chanBase (x : Harbour) : Nat := ((x.peers.take x.member).map (·.channels)).sum

/-- Members, counted less one (R360). -/
def Harbour.membersM1 (x : Harbour) : Nat := x.peers.length - 1

/-- Tiles of the harbour on all its members. -/
def Harbour.spanTiles (x : Harbour) : Nat := x.tileBase + x.tiles.length + ((x.peers.drop (x.member + 1)).map (·.tiles)).sum

/-- Channels of the harbour on all its members. -/
def Harbour.spanChannels (x : Harbour) : Nat :=
  x.chanBase + x.channels.length + ((x.peers.drop (x.member + 1)).map (·.channels)).sum

/-- The piece touches a harbour's pacing area (R208). -/
def State.touchesPacing (s : State) (p : Piece) : Bool :=
  s.hb.harbours.any fun h => match s.pacingByte h.1 with
    | none => false
    | some (c, b) => p.ch == c && decide (p.byte < b + 131072 ∧ b < p.byte + p.len)

/-- Bytes and poison of resolved pieces. -/
def State.readPieces (s : State) (ps : List Piece) : List Byte × Bool :=
  (ps.flatMap fun p => s.hbmBytes p.ch p.byte p.len, ps.any fun p => s.hbmPoison p.ch p.byte p.len)

/-- Each piece with its share of the data. -/
def shares : List Piece → List Byte → List (Piece × List Byte)
  | [], _ => []
  | p :: ps, data => (p, data.take p.len) :: shares ps (data.drop p.len)

/-- The poison of each piece's share of the data: that of any of its bytes. -/
def shareFlags : List Piece → List Bool → List Bool
  | [], _ => []
  | p :: ps, bad => (bad.take p.len).any id :: shareFlags ps (bad.drop p.len)

/-- Read a range in a harbour's view. -/
def State.readH (s : State) (h da n : Nat) : Option (List Byte × Bool) := (s.resolve h da n).map s.readPieces

/-- A 64-bit word of a structure in harbour 0's view (R363), with its poison. -/
def State.word0 (s : State) (a : Nat) : Option (Word × Bool) :=
  (s.readH 0 a 8).map fun x => (BitVec.ofNat 64 (leNat x.1), x.2)

/-! Events (R38, R39, R534–R536, R632) -/

/-- A word made of two 32-bit items (R536). -/
def pair (x y : Nat) : Word := BitVec.ofNat 64 (x % 2 ^ 32 + y % 2 ^ 32 * 2 ^ 32)

/-- A number as an item. -/
def w64 (n : Nat) : Word := BitVec.ofNat 64 n

/-- Where the next event record goes, when the ring is enabled and has room (R534, R535). -/
def State.eventSlot (s : State) : Option Nat :=
  let r := s.ras
  if r.enable ∧ (r.seq - r.consumed).toNat < 2 ^ r.log2 then some (r.base + r.seq.toNat % 2 ^ r.log2 * 64) else none

/-- The channel that a write to a byte goes through to as well: the destination of a TRANSFER that has copied the byte (R348). -/
def State.throughTo (s : State) (c b : Nat) : Option Nat := (s.chan c).transferTo.filter fun _ => decide (b < (s.chan c).copied)

/-- Store data in a channel, and during a TRANSFER in the destination too (R348). -/
def State.storeThrough (c b : Nat) (data : List Byte) (p : Bool) (s : State) : State :=
  let s1 := s.hbmStore c b data p
  match (s.throughTo c b).filter fun _ => !(s.chan c).retired with
  | some d => s1.hbmStore d b data p
  | none => s1

/-- Raise an event: it takes the next SEQ and is counted; its record is written to the ring when the ring is enabled and
has room, otherwise DROPPED counts it (R39, R534, R535, R632). The codewords it writes are not decoded here: one that is uncorrectable is
marked only. -/
def State.eventStored (tide : Word) (code kind unit : Nat) (items : List Word) (s : State) : State :=
  let r := s.ras
  let s1 := s.onRas fun r => { r with
    seq := r.seq + 1
    counts := tabMod 0 r.counts code (· + 1)
    lastSeq := tabPut r.lastSeq code r.seq }
  match s.eventSlot with
  | none => if r.enable then s1.onRas fun r => { r with dropped := r.dropped + 1 } else s1
  | some a =>
    let rec64 := w64 (code % 65536 + kind % 16 * 65536 + unit % 4096 * 1048576 + r.seq.toNat * 2 ^ 32) :: tide
      :: (items ++ List.replicate (6 - items.length) 0).take 6
    let store (t : State) (x : Piece × List Byte) : State :=
      (foldState ((codewordsOf x.1.byte x.1.len).filter (t.beyond x.1.ch)) (fun u w => u.markCodeword x.1.ch w) t).storeThrough
        x.1.ch x.1.byte x.2 false
    let s2 := match s.resolve 0 a 64 with
      | none => s1
      | some ps => foldState (shares ps (rec64.flatMap wordBytes)) store s1
    let s3 := s2.onRas fun r => { r with wrote := true }
    if r.irqMode = 1 then s3.msix 0 r.msiVector else s3

/-! What a decode finds (R374, R377, R380, R385, R386) -/

/-- The same row or column of a channel (R386: candidates merge). -/
def sameRemap (a b : Remap) : Bool :=
  a.channel == b.channel && a.bank == b.bank && a.column == b.column && (if a.column then a.word == b.word else a.row == b.row)

/-- A candidate arises (R385, R386): it merges with a pending or installed one; in host-assisted mode it is proposed to
the manager. -/
def State.remapCandidate (c : Nat) (r : Remap) (s : State) : State :=
  if (s.chan c).candidates.any (sameRemap r) ∨ (s.remapsOf (c / 32)).any (sameRemap r) then s
  else
    let s1 := s.onChan c fun x => { x with candidates := x.candidates ++ [r] }
    if s.hostMode 5 then s1.eventStored s.tide.num 0x0601 10 (c / 32) [remapWord { r with valid := true }, w64 (c / 32)] else s1

/-- Row candidate of a page. -/
def rowOf (c page : Nat) : Remap := { channel := c % 32, bank := page % 32, row := page / 32 }

/-- A correction touches a word: the column history of its bank and word gains the row; the fourth row within 2¹⁶ tides
makes a column candidate; sixteen histories are kept and the oldest is replaced (R385). -/
def State.columnTouch (c page word : Nat) (s : State) : State :=
  let bank := page % 32
  let hist := (s.chan c).hist
  let rows := match hist.find? fun h => h.bank == bank && h.word == word with
    | some h => h.rows.filter fun r => r.1 != page / 32 && decide (r.2 < 65536)
    | none => []
  let rest := hist.filter fun h => !(h.bank == bank && h.word == word)
  let rest := if rest.length = hist.length ∧ 16 ≤ rest.length then rest.drop 1 else rest
  let s1 := s.onChan c fun x => { x with hist := rest ++ [{ bank := bank, word := word, rows := rows ++ [(page / 32, 0)] }] }
  if 3 ≤ rows.length then s1.remapCandidate c { channel := c % 32, bank := bank, word := word, column := true } else s1

/-- The harbour that holds a channel, or 0 when it is free or retired. -/
def State.channelHarbour (s : State) (c : Nat) : Nat :=
  match tabGet .free s.hb.channels c with | .bound h _ => h | _ => 0

/-- A unit has left its harbour at a BUMP and its RELEASE has not ended: it is not free yet (R329, R330). -/
def State.unitLeaving (s : State) (type n : Nat) : Bool :=
  s.hb.journal.any fun j => !j.2.releaseDone && j.2.leaving.contains (type, n)

/-- The channel is free (R329, R330). -/
def State.channelFree (s : State) (c : Nat) : Bool := tabGet .free s.hb.channels c == .free && !s.unitLeaving 1 c

/-- A codeword is found uncorrectable (R377): it is marked, MEM_UE is raised, and its row becomes a candidate (R385). -/
def State.uncorrectable (c cw : Nat) (s : State) : State :=
  ((s.markCodeword c cw).eventStored s.tide.num 0x0600 3 c
    [w64 c, w64 (cw / 2), w64 (cw % 2), w64 (s.channelHarbour c)]).remapCandidate c (rowOf c (cw / 2))

/-- A codeword is corrected (R374): counted, its row a candidate when at least t ÷ 2 symbols were, its words' columns touched
(R385). -/
def State.corrected (c cw : Nat) (es : List (Nat × Nat)) (s : State) : State :=
  let s1 := s.onChan c fun x => { x with cCeCw := x.cCeCw + 1, cCeSym := x.cCeSym + BitVec.ofNat 32 es.length }
  let s2 := if correction (s.chan c).level / 2 ≤ es.length then s1.remapCandidate c (rowOf c (cw / 2)) else s1
  foldState ((es.flatMap fun e => symbolWords (cw % 2) e.1).eraseDups) (fun a w => a.columnTouch c (cw / 2) w) s2

/-- The decode of one codeword of a page with a written granule. `back`: a corrected codeword waits to be written back; otherwise it is
written back at once (R374, R377, R380). -/
def State.decodeOne (c cw : Nat) (back : Bool) (s : State) : State :=
  if s.beyond c cw then s.uncorrectable c cw
  else match s.symbolErrors c cw with
  | [] => s
  | es =>
    if !s.pageWritten c (cw / 2) then s
    else
      let s1 := s.corrected c cw es
      if back then s1.onChan c fun x => { x with writeback := setIns x.writeback cw }
      else s1.onMem fun m => { m with damage := tabDel m.damage (cwKey c cw) }

/-- A read of a range decodes both codewords of each of its pages that has a written granule (R374). -/
def State.decodeRange (c b n : Nat) (s : State) : State :=
  if s.mem.damage.isEmpty then s
  else foldState ((codewordsOf (b / 2048 * 2048) ((b + n + 2047) / 2048 * 2048 - b / 2048 * 2048))) (fun a w => a.decodeOne c w true) s

/-- What a read of a piece does to its channel: its pages are decoded, and stored poison that it delivers is counted (R374, R377,
R522). -/
def State.readEffect (p : Piece) (s : State) : State :=
  let s1 := s.decodeRange p.ch p.byte p.len
  if s.storedPoison p.ch p.byte p.len then s1.onChan p.ch fun c => { c with cPoisonRead := c.cPoisonRead + 1 } else s1

/-- What a read of pieces does to their channels. -/
def State.readEffects (ps : List Piece) (s : State) : State := foldState ps (fun a p => a.readEffect p) s

/-- What a read of a range by a unit of the module does to the channels (R374, R377). -/
def State.readEffectH (h da n : Nat) (s : State) : State :=
  match s.resolve h da n with | none => s | some ps => s.readEffects ps

/-- Write data with its poison state to a channel: the codewords it touches are decoded first where their page has a written granule, and
coded anew (R376, R380). During a TRANSFER it goes through to the destination (R348). -/
def State.hbmPut (c b : Nat) (data : List Byte) (p : Bool) (s : State) : State :=
  if data.isEmpty ∨ (s.chan c).retired then s
  else
    let s1 := if s.mem.damage.isEmpty then s else foldState (codewordsOf b data.length) (fun a w => a.decodeOne c w false) s
    s1.storeThrough c b data p

/-- Write data over resolved pieces. -/
def State.writePieces (ps : List Piece) (data : List Byte) (p : Bool) (s : State) : State :=
  foldState (shares ps data) (fun a x => a.hbmPut x.1.ch x.1.byte x.2 p) s

/-- Write a range in a harbour's view, as the module itself does. -/
def State.writeH (h da : Nat) (data : List Byte) (p : Bool) (s : State) : State :=
  match s.resolve h da data.length with
  | none => s
  | some ps => s.writePieces ps data p

/-- Write 64-bit words in harbour 0's view. -/
def State.put0 (a : Nat) (ws : List Word) (s : State) : State := s.writeH 0 a (ws.flatMap wordBytes) false

/-- Raise an event, after a decode of the codewords that its record writes (R39, R380, R534, R535). -/
def State.eventAt (tide : Word) (code kind unit : Nat) (items : List Word) (s : State) : State :=
  let s1 := if s.mem.damage.isEmpty then s else match s.eventSlot.bind fun a => s.resolve 0 a 64 with
    | none => s
    | some ps => foldState (ps.flatMap fun p => (codewordsOf p.byte p.len).map fun w => (p.ch, w)) (fun a x => a.decodeOne x.1 x.2 false) s
  s1.eventStored tide code kind unit items

/-- Raise an event in the current tide. -/
def State.event (code kind unit : Nat) (items : List Word) (s : State) : State := s.eventAt s.tide.num code kind unit items

/-- An event that waits in the always-on store for the next start-up or resume (R502, R513, R607). -/
def State.keepEvent (code kind unit : Nat) (items : List Word) (s : State) : State :=
  s.onRas fun r => { r with kept := r.kept ++ [⟨code, kind, unit, s.tide.num, items⟩] }

/-- Raise the kept events in order of occurrence (R607). -/
def State.raiseKept (s : State) : State :=
  foldState s.ras.kept (fun a e => a.eventAt e.tide e.code e.kind e.unit e.items) (s.onRas fun r => { r with kept := [] })

/-! Register access (R625–R629) -/

/-- A write outside the master's reach is ignored and counted, and CF_ACCESS_LAST describes it (R628, R639). -/
def State.rwpIgnored (m : Master) (offset : Nat) (s : State) : State :=
  s.onCrc fun c => { c with
    rwpIgnored := c.rwpIgnored + 1
    lastMaster := match m with | .sideband => 1 | _ => 0
    lastFunc := match m with | .func n => n | _ => 0
    lastOffset := offset / 8
    lastTide := bitsN s.tide.num.toNat 0 16 }

/-- The offset lies in the page of an absent unit (R5, R624). -/
def State.absentUnit (s : State) (o : Nat) : Bool :=
  if 0x190000 ≤ o ∧ o < 0x1A0000 then !s.portPresent ((o - 0x190000) / 0x1000)
  else if 0x200000 ≤ o ∧ o < 0x400000 then
    s.part == .kln8120 || (decide (o < 0x300000) && !s.millPresent ((o - 0x200000) / 0x1000))
  else if 0x400000 ≤ o ∧ o < 0x800000 then !s.tilePresent ((o - 0x400000) / 0x1000)
  else if 0x800000 ≤ o ∧ o < 0x900000 then !s.channelPresent ((o - 0x800000) / 0x1000)
  else decide (0x900000 ≤ o ∧ o < 0x908000) && !s.channelPresent ((o - 0x900000) / 0x1000 * 32)

/-- Do a register write that only the manager may make; one to an absent unit is ignored and not counted (R5, R28, R628). -/
def State.privWrite (m : Master) (offset : Nat) (f : State → State) (s : State) : State :=
  if s.absentUnit offset then s else if m.privileged then f s else s.rwpIgnored m offset

/-- A write refused for its value, in a block without a CFG_REFUSED field (R629). -/
def State.refusedWrite (s : State) : State := s.onCrc fun c => { c with refused := c.refused + 1 }

/-! The CRC of records and of the configuration (R634) -/

/-- One bit of the reflected CRC-32C. -/
def crcBit (c : Word32) : Word32 := if c.getLsbD 0 then (c >>> 1) ^^^ 0x82F63B78 else c >>> 1

/-- One byte of the CRC. -/
def crcByte (c : Word32) (b : Byte) : Word32 :=
  crcBit (crcBit (crcBit (crcBit (crcBit (crcBit (crcBit (crcBit (c ^^^ b.setWidth 32))))))))

/-- CRC-32C of a byte string (R634). -/
def crc32c (bs : List Byte) : Word32 := bs.foldl crcByte 0xFFFFFFFF ^^^ 0xFFFFFFFF

/-! The margin table in use (R491) -/

/-- P_REF(i), in 10 mW: the table's, else the load image's (R71, R491, R493). -/
def State.pref (s : State) (i : Nat) : Nat :=
  match tabFind s.pw.margin.pref i with
  | some v => v
  | none => if i = 46 then 500 else if i = 28 then 310 else if i = 27 then 302 else Config.factoryPref i

/-- V(r, i) of a margin table, in mV. -/
def Margin.at (m : Margin) (r i : Nat) : Nat := (tabFind m.volt (r * 64 + i)).getD (Config.factoryVolt r i)

/-- The next state, as exec answers it. -/
def done (s : State) : Host.Outcome State Fault Refusal := .next s

/-- Every clock of the module stands still: it is frozen, or a sensor tripped (R505, R611). -/
def State.halted (s : State) : Bool := s.boot.life == .frozen || s.boot.life == .tripped

/-- The next state of a command of a unit with a clock: a module whose clocks stand still keeps its state. What acts then carries no such
gate: the controls of reset, freeze and supply, the dump and test access, the trip path, and the security controller (R611, R613–R616). -/
def State.clocked (s t : State) : Host.Outcome State Fault Refusal := .next (if s.halted then s else t)

end Sys2Proof.Machine
end

