-- ==== Sys2Proof/Machine/RequestOps.lean ====
section
/-! DEFINITION. Requests of harbour procedures as the manager lays them out, and what the procedures in progress name
(10_harbours, R344, R345, R347); and the checkers of the units' traffic (R341–R343). -/
namespace Sys2Proof.Machine
open Sys2Proof

/-- A unit entry (R345). -/
structure UnitEntry where
  type : Nat
  src : Nat
  dst : Nat
  slots : Nat
  deriving DecidableEq, Repr

/-- Words of a request that the module reads: 0x000–0x83F (R344, R353). -/
def requestWords : Nat := 264

/-- OP of a request. -/
def reqOp (ws : List Word) : Nat := bits (wordAt ws 0) 0 4

/-- HARBOUR of a request. -/
def reqHarbour (ws : List Word) : Nat := bits (wordAt ws 0) 4 6

/-- HOLD_WAIT of a request. -/
def reqHoldWait (ws : List Word) : Nat := bits (wordAt ws 0) 32 10

/-- POOL_MIB of a request. -/
def reqPool (ws : List Word) : Nat := bits (wordAt ws 0) 48 16

/-- The unit entries of a request (R345). -/
def reqEntries (ws : List Word) : List UnitEntry :=
  (List.range (min 256 (bits (wordAt ws 0) 16 9))).map fun i =>
    let w := wordAt ws (8 + i)
    ⟨bits w 0 3, bits w 4 10, bits w 14 10, bits w 24 7⟩

/-- The entry adds a unit: CREATE, GROW and MOVE of TYPE 0, 1 and 3. -/
def addsUnit (op : Nat) (e : UnitEntry) : Bool := e.type != 2 && (op == 0 || op == 1 || op == 3)

/-- The entry removes or moves a unit: SHRINK and MOVE of TYPE 0, 1 and 3. -/
def takesUnit (op : Nat) (e : UnitEntry) : Bool := e.type != 2 && (op == 2 || op == 3)

/-- Units an entry names: TYPE and physical number. -/
def namedUnits (op : Nat) (e : UnitEntry) : List (Nat × Nat) :=
  (if takesUnit op e then [(e.type, e.src)] else []) ++ (if addsUnit op e then [(e.type, e.dst)] else [])
  ++ (if e.type = 2 then [(2, e.src)] else [])

/-- Units of a procedure in progress (R346). -/
def Proc.units (j : Proc) : List (Nat × Nat) := (reqEntries j.request).flatMap (namedUnits j.op) ++ j.leaving

/-- The procedures in progress. -/
def State.procs (s : State) : List Proc := s.hb.journal.map (·.2)

/-- A unit is named by a procedure in progress. -/
def State.unitNamed (s : State) (type n : Nat) : Bool := s.procs.any fun j => j.units.contains (type, n)

/-! The journal (R353, R354) -/

/-- The fields of a procedure's entry that the journal holds (R353). -/
def ProcEntry.word (e : ProcEntry) : Word :=
  let b (p : Bool) (n : Nat) : Nat := if p then n else 0
  w64 (b e.dstZeroed 1 + b e.xferDone 2 + b e.restored 4 + b e.srcReleased 8 + e.xferPos % 2 ^ 20 * 256)

/-- The 528 words of a copy of a journal slot (R353). -/
def Proc.image (j : Proc) : List Word :=
  let head := [w64 (j.step % 16 + (if j.done then 16 else 0) + (if j.back then 32 else 0) + j.harbour * 2 ^ 6 + j.op * 2 ^ 12
      + j.oldHgen.toNat * 2 ^ 16 + j.newHgen.toNat * 2 ^ 24 + j.seq % 2 ^ 32 * 2 ^ 32), j.acceptTide, j.stepTide, w64 (j.reqAddr % 2 ^ 48)]
  let body := (List.range requestWords).map (wordAt j.request)
    ++ (List.range 256).map fun i => match j.entries[i]? with | some e => e.word | none => 0
  head ++ [w64 (crc32c ((head ++ body).flatMap wordBytes)).toNat, 0, 0, 0] ++ body

/-- A write of a journal slot goes to its older copy, with the next SEQ (R353). -/
def HarbourMap.writeCopy (m : HarbourMap) (slot : Nat) (x : Proc) : Proc × Tab Proc :=
  let seq (c : Nat) : Nat := match tabFind m.copies (2 * slot + c) with | some y => y.seq | none => 0
  let y := { x with seq := max (seq 0) (seq 1) + 1 }
  (y, tabPut m.copies (2 * slot + if seq 1 < seq 0 then 1 else 0) y)

/-- The journal slot of a procedure is written. -/
def State.journalPut (slot : Nat) (x : Proc) (s : State) : State :=
  s.onHb fun m => let y := m.writeCopy slot x; { m with journal := tabPut m.journal slot y.1, copies := y.2 }

/-- The journal slot of a procedure is cleared: what is written last has STEP 0 (R347, R353, log entry 135). -/
def State.journalClear (slot : Nat) (s : State) : State :=
  match tabFind s.hb.journal slot with
  | none => s
  | some x => s.onHb fun m => { m with
      journal := tabDel m.journal slot, copies := (m.writeCopy slot { x with step := 0, done := false, back := false }).2 }

/-- STEP and DONE of a procedure whose first three steps overlap: the lowest one that runs, else the last one that has ended (R353, R354,
log entry 135). -/
def Proc.front (j : Proc) : Nat × Bool :=
  if j.drainOn && !j.drainDone then (1, false)
  else if j.saveOn && !j.saveDone then (2, false)
  else if j.zeroOn && !j.zeroDone then (3, false)
  else if j.zeroDone then (3, true)
  else if j.saveDone then (2, true)
  else (if j.drainDone then 1 else 0, j.drainDone)

/-- STEP, DONE and STEP_TIDE follow the steps before TRANSFER. -/
def Proc.sync (tide : Word) (j : Proc) : Proc :=
  if 4 ≤ j.step then j
  else { j with step := j.front.1, done := j.front.2, stepTide := if j.front.1 = j.step then j.stepTide else tide }

/-- A step from TRANSFER on begins or ends: STEP and DONE (R354). -/
def Proc.at (j : Proc) (step : Nat) (ended : Bool) (tide : Word) : Proc :=
  { j with step := step, done := ended, stepTide := if j.step = step then j.stepTide else tide }

/-- Change a procedure; each change is a write of its journal slot (R354). -/
def State.onProc (slot : Nat) (f : Proc → Proc) (s : State) : State :=
  match tabFind s.hb.journal slot with
  | none => s
  | some x => s.journalPut slot ((f x).sync s.tide.num)

/-- A procedure stops the harbour's flits on the lane group until its BUMP (R347). -/
def State.lgDraining (s : State) (g : Nat) : Bool :=
  s.procs.any fun j => j.drainOn && decide (j.step < 5) && (reqEntries j.request).any fun e =>
    takesUnit j.op e && e.type == 3 && e.src == g

/-- A SHRINK that drains names the place (R349). -/
def State.shrinks (s : State) (p : Nat) : Bool :=
  s.procs.any fun j => j.op == 2 && (reqEntries j.request).any fun e => e.type == 0 && e.src == p

/-- Mill slots of a harbour on a Mill, rising. -/
def State.boundSlots (s : State) (m h : Nat) : List Nat :=
  (List.range 64).filter fun k => tabFind (s.mill m).bound k == some h

/-- Mill slots that a procedure in its DRAIN takes from a harbour on a Mill: the highest numbers (R347, log entry 45). -/
def State.leavingSlots (s : State) (m h : Nat) : List Nat :=
  let b := s.boundSlots m h
  (s.procs.filter fun j => j.harbour == h && j.drainOn && decide (j.step < 5)).flatMap fun j => (reqEntries j.request).flatMap fun e =>
    if j.op = 5 ∧ e.src = m then b.drop e.slots
    else if j.op = 2 ∧ e.type = 1 ∧ e.src = m then b
    else []

/-- The physical tile that serves a place (R47). -/
def State.servingTile (s : State) (p : Nat) : Nat := if (s.place p).spare.isSome then spareOf p else p

/-- A MOVE is past its BUMP and its RESTORE has not ended: what it restores goes ahead of any placement on its destinations (R241,
R347). -/
def State.restoreAhead (s : State) (type n : Nat) : Bool :=
  s.procs.any fun j => j.op == 3 && decide (5 ≤ j.step) && !j.restoreDone && (reqEntries j.request).any fun e => e.type == type && e.dst == n

/-! Stale speakers (R289, R341–R343) -/

/-- UNIT_KIND and number of a speaker (R535). -/
def speakerUnit : Speaker → Nat × Nat
  | .tile n => (1, n)
  | .channel n => (3, n)
  | .laneGroup n => (6, n)
  | .harbourmaster n => (11, n)

/-- Harbour and generation in the checker's entry of a speaker, or `none` where every pair is dropped (R331, R341). An instance of the
Harbourmaster carries no harbour, and HM_GEN (R289, log entry 133). -/
def State.checkerEntry (s : State) : Speaker → Option (Nat × Nat)
  | .tile n =>
    let place := if (s.tile n).failed then none else if n < 512 then (if (s.place n).spare.isSome then none else some n) else (s.tile n).standsFor
    (match place.map fun p => (s.place p).cond with | some (.bound h g) => some (h, g) | _ => none)
  | .channel n => match tabGet .free s.hb.channels n with | .bound h g => some (h, g) | _ => none
  | .laneGroup n => match tabGet .free s.hb.laneGroups n with | .bound h g => some (h, g) | .free => some (0, 0) | .retired => none
  | .harbourmaster _ => some (0, s.hm.gen.toNat)

/-- The speaker's checker entry is fenced. -/
def State.speakerFenced (s : State) : Speaker → Bool
  | .tile n => (s.tile n).fenced
  | .channel n => s.hb.fencedCh.contains n
  | .laneGroup n => s.hb.fencedLg.contains n
  | .harbourmaster _ => false

/-- Fence a speaker; an instance of the Harbourmaster stays gated instead (R289). -/
def State.fenceSpeaker (x : Speaker) (s : State) : State :=
  match x with
  | .tile n => s.onTile n fun t => { t with fenced := true }
  | .channel n => s.onHb fun m => { m with fencedCh := setIns m.fencedCh n }
  | .laneGroup n => s.onHb fun m => { m with fencedLg := setIns m.fencedLg n }
  | .harbourmaster _ => s

/-- The drop is one by binding generation, which HB_COUNT counts (R341, R359). -/
def bindingDrop : Speaker → Bool
  | .harbourmaster _ => false
  | _ => true

/-- The checker of a speaker passes traffic that carries a harbour and a generation (R341). -/
def State.passesChecker (s : State) (x : Speaker) (h gen : Nat) : Bool := !s.speakerFenced x && s.checkerEntry x == some (h, gen)

/-- A checker drops traffic of a unit: the first drop fences the unit and raises STALE_SPEAKER, later ones are counted (R342, R343). -/
def State.dropSpeech (x : Speaker) (h gen : Nat) (s : State) : State :=
  if s.speakerFenced x then s.onHb fun m => { m with cFencedDrop := m.cFencedDrop + 1 }
  else
    let (k, n) := speakerUnit x
    let held := (s.checkerEntry x).getD (0, 0)
    (if bindingDrop x then (s.fenceSpeaker x).onHb fun m => { m with cStaleSpeaker := m.cStaleSpeaker + 1 } else s).event 0x0002 k n
      [pair k n, pair h gen, pair held.1 held.2]

/-- Harbour and generation in a unit's credential register (R341). -/
def State.credential (s : State) : Speaker → Nat × Nat
  | .tile n => ((s.tile n).credH, (s.tile n).credGen)
  | .channel n => tabGet (0, 0) s.hb.credCh n
  | .laneGroup n => tabGet (0, 0) s.hb.credLg n
  | .harbourmaster _ => (0, s.hm.gen.toNat)

/-- What a unit emits passes its checker (R341). -/
def State.heard (s : State) (x : Speaker) : Bool := s.passesChecker x (s.credential x).1 (s.credential x).2

/-- What a unit emits is dropped (R342). -/
def State.unheard (x : Speaker) (s : State) : State := s.dropSpeech x (s.credential x).1 (s.credential x).2

/-- The unit that emits what a place's tile emits. -/
def State.placeSpeaker (s : State) (p : Nat) : Speaker := .tile (s.servingTile p)

/-- A unit emits something that has an effect, unless its checker drops it (R341, R342). -/
def State.speak (x : Speaker) (f : State → State) (s : State) : State := if s.heard x then f s else s.unheard x

/-- A checker sees traffic of a unit that carries a harbour and a generation: it passes, or it is dropped (R289, R341–R343). -/
def execStaleSpeaker (source : Speaker) (h gen : Nat) (s : State) : Host.Outcome State Fault Refusal :=
  s.clocked <| if s.passesChecker source h gen then s else s.dropSpeech source h gen

end Sys2Proof.Machine
end

