-- ==== Sys2Proof/Machine/CrcOps.lean ====
section
/-! DEFINITION. The covered registers as they enter the configuration CRC, and the CRC itself (20_register_map R633–R638). -/
namespace Sys2Proof.Machine
open Sys2Proof

/-- A word made of fields: lowest bit and value. -/
def packFields (xs : List (Nat × Nat)) : Word := w64 ((xs.map fun x => x.2 * 2 ^ x.1).sum)

/-- A flag as a field's value. -/
def one (b : Bool) : Nat := if b then 1 else 0

/-! The covered registers (R633): their RWP fields -/

def State.tideCfgWord (s : State) : Word := packFields [(0, s.tide.nextPeriod), (12, s.tide.nextSlack)]
def State.evtBaseWord (s : State) : Word := packFields [(0, s.ras.base), (48, s.ras.log2), (63, one s.ras.enable)]
def State.evtIrqWord (s : State) : Word := packFields [(0, s.ras.irqMode), (4, s.ras.msiVector)]
def State.pwModeWord (s : State) : Word :=
  packFields [(0, one (s.pw.boostNext.getD s.pw.boost)), (4, s.pw.safeFreq), (16, s.pw.freqCeil), (28, s.pw.guardMv), (36, s.pw.droopMv)]
def State.pwThermWord (s : State) : Word :=
  packFields [(0, s.pw.dieWarn), (8, s.pw.dieThrottle), (16, s.pw.hbmWarn), (24, s.pw.hbmThrottle)]
def State.pwWatchWord (s : State) : Word :=
  packFields [(0, s.pw.periodMs), (10, one s.pw.linkAlert), (16, s.pw.coolantMax), (24, s.pw.carrierMax)]
def State.hsubWord (s : State) (j : Nat) : Word :=
  packFields ((List.range 4).map fun i => (16 * i, tabGet 0 s.pw.hsub (4 * j + i)))

/-- SC_PORTKEY_j (R563). -/
def State.portKeyWord (s : State) (j : Nat) : Word :=
  packFields ((List.range 8).flatMap fun i => match tabFind s.sec.portKey (8 * j + i) with
    | some (k, v) => [(8 * i, k), (8 * i + 7, one v)]
    | none => [])

/-- HB_REGA_h (R441). -/
def regaWord (x : RegFields) : Word :=
  packFields ((x.cmax.zipIdx.map fun c => (4 * c.2, c.1)) ++ [(32, x.meshW), (39, one x.meshLend), (40, x.brqRes), (48, one x.brqLend)])

/-- HB_REGB_h (R441). -/
def regbWord (x : RegFields) : Word :=
  packFields [(0, x.xlatRes), (9, one x.xlatLend), (16, x.cq0Res), (23, one x.cq0Lend)]

/-- Word 0 of HB_SLICE_s without QUIESCED (R441). -/
def sliceWord (x : Slice) : Word :=
  packFields [(0, one x.valid), (1, x.func), (8, x.pasidLog2), (16, x.pasidBase)]

def State.ceilWord (s : State) (j : Nat) : Word :=
  packFields ((List.range 8).map fun i => (8 * i, tabGet 0 s.hb.budgetCeil (8 * j + i)))
def State.fqCfgWord (s : State) (h : Nat) : Word :=
  let q := s.fq h
  packFields [(0, one q.enable), (1, q.irqMode), (4, q.msiVector), (0, q.base)]
def State.lkCfgWord (s : State) : Word := packFields [(0, s.lk.nodeId), (16, s.lk.remoteTimeout), (32, s.lk.leaseTides)]
def State.lkMapWord (s : State) : Word := packFields [(0, s.lk.mapBase), (48, s.lk.mapLog2)]

/-- EPOCH fields of LK_NODE_j (R540). -/
def State.nodeWord (s : State) (j : Nat) : Word :=
  packFields ((List.range 4).map fun i => (16 * i, (s.node (4 * j + i)).epoch))

def State.levelWord (s : State) (c : Nat) : Word := if s.channelPresent c then w64 (s.chan c).level else 0
def State.isetWord (s : State) (k : Nat) : Word :=
  let x := tabGet {} s.mem.isets k
  packFields [(0, x.baseCh), (8, x.log2Ways), (12, x.gran), (15, one x.valid)]

/-- HM_WHEEL_j as it reads: positions 0 and 64 are harbour 0's, and a position that is not assigned reads the HARBOUR last written
(R28, R294). -/
def State.wheelWord (s : State) (j : Nat) : Word :=
  packFields ((List.range 8).flatMap fun i =>
    let n := 8 * j + i
    if n = 0 ∨ n = 64 then [(8 * i + 7, 1)]
    else match tabFind s.hm.wheelNext n with
    | some h => [(8 * i, h), (8 * i + 7, 1)]
    | none => [(8 * i, tabGet 0 s.hm.wheelIdle n)])

def State.quotaWord (s : State) (j : Nat) : Word :=
  packFields ((List.range 4).map fun i => (16 * i, tabGet 0 s.hm.quotaNext (4 * j + i)))
def State.fenceCfgWord (s : State) : Word := packFields [(0, s.fu.storeBase), (48, s.fu.storeLog2)]

/-- The covered registers in ascending BAR0 offset (R633, R634). -/
def State.coveredWords (s : State) : List Word :=
  [s.tideCfgWord, s.evtBaseWord, s.evtIrqWord, w64 s.ras.hangTides, w64 s.hif.hostBind, w64 s.hif.bar2Base, w64 s.hif.mode,
   s.pwModeWord, s.pwThermWord, s.pwWatchWord] ++ (List.range 16).map s.hsubWord
  ++ [s.portKeyWord 0, s.portKeyWord 1, w64 s.sec.ideRequired]
  ++ ((List.range 64).flatMap fun h => [regaWord (tabGet {} s.rg.fields h), regbWord (tabGet {} s.rg.fields h)])
  ++ ((List.range 64).flatMap fun i => [sliceWord (tabGet {} s.rg.slices i), (tabGet {} s.rg.slices i).harbours])
  ++ (List.range 8).map s.ceilWord ++ [w64 s.xl.ctxBase] ++ (List.range 64).map s.fqCfgWord
  ++ [s.lkCfgWord, w64 s.lk.routeBase, w64 s.lk.spanBase, s.lkMapWord] ++ (List.range 1024).map s.nodeWord
  ++ (List.range 16).map (fun p => if s.portPresent p then w64 (2 * one (s.port p).disable) else 0)
  ++ (List.range 256).map s.levelWord ++ (List.range 1024).map s.isetWord
  ++ (List.range 16).map s.wheelWord ++ (List.range 16).map s.quotaWord ++ [s.fenceCfgWord, w64 s.fu.bufBase]

/-- The running CRC of the configuration (R634). -/
def State.configCrc (s : State) : Word32 := crc32c (s.coveredWords.flatMap wordBytes)

/-- The module itself has changed covered fields since `old`: REF changes by the difference of the CRCs (R637). -/
def State.followRef (old s : State) : State := s.onCrc fun c => { c with ref := c.ref ^^^ old.configCrc ^^^ s.configCrc }

/-- The running pass ends and is compared with REF, or adopted (R635, R636, R638). -/
def execCrcPassEnd (s : State) : Host.Outcome State Fault Refusal :=
  s.clocked <|
    if !s.running then s
    else
      let run := s.configCrc
      let c := s.crc
      let s1 := s.onCrc fun c => { c with run := run, valid := true, passes := c.passes + 1, since := c.since + 1 }
      if c.adopting then s1.onCrc fun c => { c with ref := run, adopting := false }
      else if run = c.ref then s1.onCrc fun c => { c with drift := false }
      else if c.drift then s1
      else (s1.onCrc fun c => { c with drift := true, drifts := c.drifts + 1 }).event 0x0001 0 0
        [pair run.toNat c.ref.toNat, w64 s1.crc.since]

/-- A write of CF_CRC_COMMIT: REF, then ADOPT (R636, R639). -/
def State.writeCommit (v : Word) (s : State) : State :=
  s.onCrc fun c => { c with ref := v.truncate 32, adopting := bit v 63, since := 0 }

/-- The manager commits a reference (R636). -/
def execCrcRefWrite (m : Master) (v : Word) (s : State) : Host.Outcome State Fault Refusal :=
  s.clocked <| s.privWrite m 0x10010 fun s => s.writeCommit v

/-- The manager adopts the next pass, keeping REF until then (R636). -/
def execCrcAdopt (m : Master) (s : State) : Host.Outcome State Fault Refusal :=
  s.clocked <| s.privWrite m 0x10010 fun s => s.writeCommit (w64 (s.crc.ref.toNat + 2 ^ 63))

end Sys2Proof.Machine
end

