-- ==== Sys2Proof/Machine/Arith.lean ====
section
/-! DEFINITION. Number formats, exact accumulation, FP32 arithmetic, conversion and rounding (04_arithmetic). Values are
exact: a sign, a natural mantissa and a power of two. -/
namespace Sys2Proof

/-! Formats (R141, R145, R148) -/

/-- Bits of an element. -/
def Fmt.width : Fmt → Nat
  | .fp32 => 32 | .bf16 => 16 | .e4m3 | .e5m2 | .int8 | .mxint8 => 8 | .e3m2 | .e2m3 => 6 | .e2m1 => 4 | .ternary => 2

/-- Bits of the mantissa field of a floating-point format. -/
def Fmt.man : Fmt → Nat
  | .fp32 => 23 | .bf16 => 7 | .e4m3 => 3 | .e5m2 => 2 | .e3m2 => 2 | .e2m3 => 3 | .e2m1 => 1 | _ => 0

/-- Exponent bias. -/
def Fmt.bias : Fmt → Int
  | .fp32 => 127 | .bf16 => 127 | .e4m3 => 7 | .e5m2 => 15 | .e3m2 => 3 | .e2m3 => 1 | .e2m1 => 1 | _ => 0

/-- Code of the largest finite magnitude of a floating-point format. -/
def Fmt.maxCode : Fmt → Nat
  | .fp32 => 0x7F7FFFFF | .bf16 => 0x7F7F | .e4m3 => 0x7E | .e5m2 => 0x7B | .e3m2 => 0x1F | .e2m3 => 0x1F | .e2m1 => 7
  | _ => 0

/-- Code of +infinity, where the format has one. -/
def Fmt.infCode : Fmt → Option Nat
  | .fp32 => some 0x7F800000 | .bf16 => some 0x7F80 | .e5m2 => some 0x7C | _ => none

/-- Code of the canonical NaN, where the format has NaNs (R164, R167). That of FP8 E5M2 the spec does not give (log entry 109). -/
def Fmt.nanCode : Fmt → Option Nat
  | .fp32 => some 0x7FC00000 | .bf16 => some 0x7FC0 | .e5m2 => some 0x7E | .e4m3 => some 0x7F | _ => none

/-- Unit exponent, largest positive and largest negative magnitude of the integer formats (R141, R145, R167). -/
def Fmt.intForm : Fmt → Option (Int × Nat × Nat)
  | .int8 => some (0, 127, 128) | .mxint8 => some (-6, 127, 128) | .ternary => some (0, 1, 1) | _ => none

/-- Exponent of the largest binade, for the scale of a block (R168). -/
def Fmt.emax : Fmt → Int
  | .e4m3 => 8 | .e5m2 => 15 | .e3m2 => 4 | .e2m3 => 2 | .e2m1 => 2 | _ => 0

/-- An exact value: (−1)^neg × m × 2^e, an infinity, or NaN. -/
inductive Num where
  | fin (neg : Bool) (m : Nat) (e : Int)
  | inf (neg : Bool)
  | nan
  deriving DecidableEq, Repr

/-- The value an element encodes (R141, R145). A product's weight is the power of two of its factors. -/
def decodeElem (f : Fmt) (x : Nat) : Num :=
  match f.intForm with
  | some (u, _, _) =>
    if f = .ternary then (if x = 1 then .fin false 1 0 else if x = 3 then .fin true 1 0 else .fin false 0 0)
    else if x < 128 then .fin false x u else .fin true (256 - x) u
  | none =>
    let w := f.width
    let neg := bitsN x (w - 1) 1 == 1
    let p := f.man
    let ef := bitsN x p (w - 1 - p)
    let m := bitsN x 0 p
    let mag := bitsN x 0 (w - 1)
    if f.infCode = some mag then .inf neg
    else if f.maxCode < mag then .nan
    else if ef = 0 then .fin neg m (1 - f.bias - p)
    else .fin neg (m + 2 ^ p) (ef - f.bias - p)

/-- Element `i` of packed data: elements are packed from the low end of the little-endian number (R144). -/
def element (w : Nat) (data : Nat) (i : Nat) : Nat := bitsN data (w * i) w

/-- Power of two of an E8M0 scale byte; `none` is NaN (R142). -/
def scaleExp (b : Nat) : Option Int := if b = 255 then none else some (b - 127)

/-- The row of the format table that operands must share (R108, R148). -/
def fmtRow (f : Fmt) (scaled : Bool) : Option Nat :=
  match f, scaled with
  | .bf16, false => some 0
  | .e4m3, _ | .e5m2, _ | .int8, false | .mxint8, true => some 1
  | .e3m2, true | .e2m3, true => some 2
  | .e2m1, true => some 3
  | .ternary, true => some 4
  | _, _ => none

/-- Elements along the reduction axis of one tensor instruction (R108). -/
def rowK : Nat → Nat
  | 0 => 64 | 1 => 128 | 2 => 256 | 3 => 256 | _ => 512

/-! Rounding (R164, R166, R167, R169) -/

/-- How a value is rounded: to nearest even, or stochastically with 24 random bits. -/
inductive Rounding where
  | nearest
  | stochastic (r : Nat)
  deriving DecidableEq, Repr

/-- m × 2^e in units of 2^u, rounded to a whole number. -/
def roundTo (m : Nat) (e u : Int) (r : Rounding) : Nat :=
  if u ≤ e then m * 2 ^ (e - u).toNat
  else
    let d := 2 ^ (u - e).toNat
    let lo := m / d
    let rem := m % d
    match r with
    | .nearest => if d < 2 * rem ∨ (d = 2 * rem ∧ lo % 2 = 1) then lo + 1 else lo
    | .stochastic x => if x < rem * 2 ^ 24 / d then lo + 1 else lo

/-- Bits of a natural number. -/
def bitLen (m : Nat) : Nat := if m = 0 then 0 else Nat.log2 m + 1

/-- The code of a magnitude in a floating-point format, which may pass the largest finite code. -/
def floatCode (f : Fmt) (m : Nat) (e : Int) (r : Rounding) : Nat :=
  if m = 0 then 0
  else
    let umin : Int := 1 - f.bias - f.man
    let u := max (e + bitLen m - 1 - f.man) umin
    (u - umin).toNat * 2 ^ f.man + roundTo m e u r

/-- Sign bit of a format. -/
def signBit (f : Fmt) (neg : Bool) : Nat := if neg then 2 ^ (f.width - 1) else 0

/-- Convert a value to a format, with the mask bit of R167. A −0 converted to a format with neither infinity nor NaN gives +0 (log
entry 110). -/
def convert (f : Fmt) (r : Rounding) : Num → Nat × Bool
  | .fin neg m e =>
    match f.intForm with
    | some (u, hi, lo) =>
      let q := roundTo m e u r
      let top := if neg then lo else hi
      let v := min q top
      ((if f = .ternary then (if v = 0 then 0 else if neg then 3 else 1) else if neg then (256 - v) % 256 else v), decide (top < q))
    | none =>
      let c := floatCode f m e r
      let c2 := min c f.maxCode
      let neg2 := neg && (c2 != 0 || (f.infCode.isSome || f.nanCode.isSome))
      (c2 + signBit f neg2, decide (f.maxCode < c))
  | .inf neg =>
    match f.intForm with
    | some (_, hi, lo) => ((if f = .ternary then (if neg then 3 else 1) else if neg then (256 - lo) % 256 else hi), true)
    | none =>
      match f.infCode with
      | some c => (c + signBit f neg, false)
      | none => (f.maxCode + signBit f neg, true)
  | .nan => match f.nanCode with
    | some c => (c, false)
    | none => (0, true)

/-- The 24 random bits of an output element (R169). -/
def srBits (seed : Word) (shard index : Nat) : Nat :=
  let x := seed ^^^ (BitVec.ofNat 64 shard <<< 40) ^^^ BitVec.ofNat 64 index
  let x := (x ^^^ (x >>> 30)) * 0xBF58476D1CE4E5B9
  let x := (x ^^^ (x >>> 27)) * 0x94D049BB133111EB
  let x := x ^^^ (x >>> 31)
  x.toNat % 2 ^ 24

/-- Multiply a value by 2^k. -/
def Num.shift (k : Int) : Num → Num
  | .fin neg m e => .fin neg m (e + k)
  | x => x

/-- Exponent of a value's leading bit; an infinity stands above every exponent (log entry 111); `none` for zero and NaN. -/
def Num.lead : Num → Option Int
  | .fin _ m e => if m = 0 then none else some (e + bitLen m - 1)
  | .inf _ => some 1000000
  | .nan => none

/-- Scale byte of a block of results (R168). -/
def blockScale (f : Fmt) (vs : List Num) : Nat :=
  if vs.contains .nan then 255
  else match (vs.filterMap Num.lead).max? with
    | none => 0
    | some a => (max (-127) (min 127 (a - f.emax)) + 127).toNat

/-- Convert the results of one block under a scale: the codes and the mask bits (R168). In a block with scale byte 0xFF only the NaN
results of a format without NaN set their mask bits (log entry 112). -/
def convertBlock (f : Fmt) (vs : List Num) (r : Nat → Rounding) : Nat × List (Nat × Bool) :=
  let b := blockScale f vs
  match scaleExp b with
  | none => (b, vs.map fun v => (0, v == .nan && f.nanCode.isNone))
  | some x => (b, vs.zipIdx.map fun v => convert f (r v.2) (v.1.shift (-x)))

/-- Pack codes of a width from the low end, into bytes (R144). -/
def packCodes (w : Nat) (cs : List Nat) : List Byte :=
  natBytes ((cs.length * w + 7) / 8) ((cs.zipIdx.map fun c => c.1 * 2 ^ (w * c.2)).sum)

/-! FP32 arithmetic (R164, R165) -/

/-- The value of an FP32 pattern. -/
def fpVal (x : Word32) : Num := decodeElem .fp32 x.toNat

/-- The canonical quiet NaN (R164). -/
def qnan : Word32 := 0x7FC00000

/-- Every NaN the module produces is the canonical one (R164). -/
def canonNan (x : Word32) : Word32 := if fpVal x = .nan then qnan else x

/-- Round a value to FP32: an overflow gives infinity (R164). -/
def fpRound : Num → Word32
  | .fin neg m e =>
    let c := floatCode .fp32 m e .nearest
    BitVec.ofNat 32 ((if 0x7F7FFFFF < c then 0x7F800000 else c) + signBit .fp32 neg)
  | .inf neg => BitVec.ofNat 32 (0x7F800000 + signBit .fp32 neg)
  | .nan => qnan

/-- A signed mantissa. -/
def signed (neg : Bool) (m : Nat) : Int := if neg then -(m : Int) else m

/-- Exact sum of two values; a zero sum is −0 only when both are −0 (R164). -/
def numAdd : Num → Num → Num
  | .nan, _ => .nan
  | _, .nan => .nan
  | .inf a, .inf b => if a = b then .inf a else .nan
  | .inf a, _ => .inf a
  | _, .inf b => .inf b
  | .fin na ma ea, .fin nb mb eb =>
    let e := min ea eb
    let x := signed na (ma * 2 ^ (ea - e).toNat) + signed nb (mb * 2 ^ (eb - e).toNat)
    if x = 0 then .fin (na && nb) 0 0 else .fin (decide (x < 0)) x.natAbs e

/-- Exact product of two values. -/
def numMul : Num → Num → Num
  | .nan, _ => .nan
  | _, .nan => .nan
  | .inf a, .inf b => .inf (a != b)
  | .inf a, .fin b m _ => if m = 0 then .nan else .inf (a != b)
  | .fin a m _, .inf b => if m = 0 then .nan else .inf (a != b)
  | .fin na ma ea, .fin nb mb eb => .fin (na != nb) (ma * mb) (ea + eb)

/-- The other sign. -/
def Num.neg : Num → Num
  | .fin n m e => .fin (!n) m e
  | .inf n => .inf (!n)
  | .nan => .nan

/-- FP32 addition (R164). -/
def fpAdd (a b : Word32) : Word32 := fpRound (numAdd (fpVal a) (fpVal b))
/-- FP32 multiplication (R164). -/
def fpMul (a b : Word32) : Word32 := fpRound (numMul (fpVal a) (fpVal b))
/-- FP32 fused multiply-add: one rounding (R113). -/
def fpFma (a b c : Word32) : Word32 := fpRound (numAdd (numMul (fpVal a) (fpVal b)) (fpVal c))

/-- A key that orders FP32 values, +0 above −0 (R165). -/
def fpKey (x : Word32) : Int := if x.toNat < 2 ^ 31 then x.toNat else -((x.toNat - 2 ^ 31 : Nat) : Int) - 1

/-- FP32 minimum or maximum: any NaN gives the canonical NaN (R165). -/
def fpPick (most : Bool) (a b : Word32) : Word32 :=
  if fpVal a = .nan ∨ fpVal b = .nan then qnan
  else if most then (if fpKey a < fpKey b then b else a) else (if fpKey b < fpKey a then b else a)

/-- One level of the canonical tree (R165). -/
def treeLevel {α : Type} (f : α → α → α) : List α → List α
  | a :: b :: t => f a b :: treeLevel f t
  | t => t

/-- Levels of the canonical tree, as many as `n`. -/
def treeLevels {α : Type} (f : α → α → α) : Nat → List α → List α
  | 0, t => t
  | n + 1, t => treeLevels f n (treeLevel f t)

/-- The canonical tree (R165): the value of an empty list is `z`. -/
def tree {α : Type} (f : α → α → α) (z : α) (t : List α) : α := ((treeLevels f (bitLen t.length) t).head?).getD z

/-- One lane operation (R113). -/
def fpLane (f : FpOp) (a b c : Word32) : Word32 :=
  match f with
  | .add => fpAdd a b
  | .sub => fpRound (numAdd (fpVal a) (fpVal b).neg)
  | .mul => fpMul a b
  | .fma => fpFma a b c
  | .min => fpPick false a b
  | .max => fpPick true a b

/-- One integer lane operation (R113); a shift takes the low five bits of its count. -/
def intLane (f : IntOp) (a b : Word32) : Word32 :=
  match f with
  | .add => a + b
  | .sub => a - b
  | .mul => a * b
  | .and => a &&& b
  | .or => a ||| b
  | .xor => a ^^^ b
  | .shl => a <<< (b.toNat % 32)
  | .shr => a >>> (b.toNat % 32)
  | .sar => a.sshiftRight (b.toNat % 32)
  | .smin => if a.slt b then a else b
  | .smax => if a.slt b then b else a
  | .umin => if a.ult b then a else b
  | .umax => if a.ult b then b else a

/-- A reduction of FP32 values by the canonical tree; the minimum or maximum of one NaN is the canonical NaN too (R165). -/
def fpReduce (f : FpOp) (vs : List Word32) : Word32 :=
  match f with
  | .max => canonNan (tree (fpPick true) 0 vs)
  | .min => canonNan (tree (fpPick false) 0 vs)
  | _ => tree fpAdd 0 vs

/-! Exact accumulation (R150–R158) -/

/-- A split pair: either operand is FP8 E5M2 (R152). -/
def splitPair (a b : Fmt) : Bool := a == .e5m2 || b == .e5m2

/-- What the products of a block give: a signed sum in the high half, a signed sum in the low half (each an integer with
the weights of its products), the infinite products of positive sign less those of negative sign, and whether a special input takes
part (R151, R152, R157). -/
structure BlockPart where
  high : Int := 0
  low : Int := 0
  ceil : Int := 0
  special : Bool := false
  deriving DecidableEq, Repr

/-- The lowest product weight of a pair that any element can have, used as the unit of both halves of the block. -/
def pairUnit (a b : Fmt) : Int :=
  let u (f : Fmt) : Int := match f.intForm with | some (u, _, _) => u | none => 1 - f.bias - f.man
  u a + u b

/-- Add one product to a block, in units of 2^pairUnit. -/
def addProduct (split : Bool) (unit : Int) (b : BlockPart) (x y : Num) : BlockPart :=
  match x, y with
  | .nan, _ => { b with special := true }
  | _, .nan => { b with special := true }
  | .fin nx mx ex, .fin ny my ey =>
    let v := signed (nx != ny) (mx * my) * (2 ^ (ex + ey - unit).toNat : Nat)
    if !split ∨ 0 ≤ ex + ey then { b with high := b.high + v } else { b with low := b.low + v }
  | .inf n, .fin m k _ => { b with special := true, ceil := if k = 0 then b.ceil else b.ceil + (if n = m then 1 else -1) }
  | .fin m k _, .inf n => { b with special := true, ceil := if k = 0 then b.ceil else b.ceil + (if n = m then 1 else -1) }
  | .inf n, .inf m => { b with special := true, ceil := b.ceil + (if n = m then 1 else -1) }

/-- The largest contribution (R156). -/
def ceiling : Int := 2 ^ 103 - 1

/-- floor(x × 2^k) (R155). -/
def floorShift (x : Int) (k : Int) : Int := if 0 ≤ k then x * (2 ^ k.toNat : Nat) else x / (2 ^ (-k).toNat : Nat)

/-- A contribution clamped to the ceiling, with whether it met it (R156). -/
def clampContribution (c : Int) : Int × Bool :=
  if ceiling < c then (ceiling, true) else if c < -ceiling then (-ceiling, true) else (c, false)

/-- The signed value of an accumulator entry. -/
def accInt (v : BitVec 128) : Int := v.toInt

/-- Add to a 128-bit accumulator, saturating as the backstop of R158. -/
def accAdd (a : Int) (c : Int) : Int × Bool :=
  let x := a + c
  if 2 ^ 127 - 1 < x then (2 ^ 127 - 1, true) else if x < -(2 ^ 127) then (-(2 ^ 127), true) else (x, false)

/-- The contributions of one block to one output, added to an accumulator: (value, RANGE) before and after (R152,
R155–R158). `scale` is the sum of the two scale exponents, `none` when either scale byte is NaN. Each infinite product contributes the
clamped ceiling with its sign, after the block's sums. -/
def addBlock (split : Bool) (unit : Int) (scale : Option Int) (anchor : Int) (p : BlockPart) (a : Int × Bool) : Int × Bool :=
  match scale with
  | none => (a.1, true)
  | some x =>
    let k := unit + x - anchor + 64
    let one (a : Int × Bool) (c : Int) : Int × Bool :=
      let (c1, m) := clampContribution c
      let (v, sat) := accAdd a.1 c1
      (v, a.2 || m || sat)
    let h := one a (floorShift p.high k)
    let l := if split then one h (floorShift p.low k) else h
    let (v, sat) := accAdd l.1 (p.ceil * ceiling)
    (v, l.2 || sat || p.special)

/-- The value of an exact entry, A × 2^(ANCHOR − 64) (R153). -/
def exactVal (v : BitVec 128) (anchor : Int) : Num := .fin (decide (accInt v < 0)) (accInt v).natAbs (anchor - 64)

end Sys2Proof
end

