-- ==== Sys2Proof/Machine/MemoryOps.lean ====
section
/-! DEFINITION. The channels: reads and writes with the page code, poison, written-bits, remap tables, scrubs and
interleave sets (11_memory). -/
namespace Sys2Proof.Machine
open Sys2Proof

/-- Data pages of a channel, from `first`, `n` of them, that hold a written granule, rising (R374, R388). -/
def State.writtenPages (s : State) (c first n : Nat) : List Nat :=
  ((s.mem.written.filter fun g => decide (granule c (first * 2048) ≤ g ∧ g < granule c ((first + n) * 2048))).map
    fun g => (g - granule c 0) / 32).eraseDups

/-- A refused write of the MC_ block is counted on the channel's page (R395). -/
def State.mcRefused (c : Nat) (s : State) : State := s.onChan c fun x => { x with cCfgRefused := x.cCfgRefused + 1 }

/-! Remap tables (R383–R387) -/

/-- Spare rows in use by a channel (R383). -/
def State.sparesUsed (s : State) (c : Nat) : List Nat :=
  ((s.remapsOf (c / 32)).filter fun r => !r.column && r.channel == c % 32).map (·.spare)

/-- A table refuses an entry (R384): the channel's spare rows are all used, its codeword would keep fewer than two
symbols, or the table's 32 entries are all in force. -/
def State.remapFull (s : State) (c : Nat) (r : Remap) : Bool :=
  if r.column then decide (2 * (s.chan c).level + 1 < (s.columnWords c r.bank (r.word / 256)).length + 1)
  else decide (8 ≤ (s.sparesUsed c).length)

/-- Put an entry in force: a row entry takes the lowest unused spare row and its page is copied corrected, with its poison (R387). A
data page keeps its number; `physPage` says where it lies. -/
def State.remapPut (c e : Nat) (r : Remap) (s : State) : State :=
  let spare := if r.column then 0 else ((List.range 8).find? fun i => !(s.sparesUsed c).contains i).getD 0
  let page := r.row * 32 + r.bank
  let s1 := s.onMem fun m => { m with remap := tabPut m.remap (c / 32 * 32 + e) { r with spare := spare, valid := true } }
  if r.column then s1
  else
    let copy (a : State) (w : Nat) : State := (a.decodeOne c w false).onMem fun m => { m with damage := tabDel m.damage (cwKey c w) }
    ((s1.onChan c fun x => { x with writeback := x.writeback.filter fun w => w / 2 != page }) |> copy (w := page * 2)) |> copy (w := page * 2 + 1)

/-- Symbols of the array that have come to differ from what was written (R371): a codeword's entry of Memory.damage takes them. A
codeword that bears the marks of R377 has no correct contents to differ from. -/
def State.damaged (errs : List CwError) (s : State) : State :=
  foldState (errs.filter fun e => s.channelPresent e.ch && !(s.chan e.ch).marked.contains e.cw
      && decide (e.cw < 2 * dataPages (s.chan e.ch).level)) (fun a e =>
    let n := 823 + 2 * correction (a.chan e.ch).level
    let es := (e.symbols.filter fun x => decide (x.1 < n ∧ 0 < x.2 ∧ x.2 < 1024)).foldl (fun t x => tabPut t x.1 x.2)
      (tabGet [] a.mem.damage (cwKey e.ch e.cw))
    if es.isEmpty then a else a.onMem fun m => { m with damage := tabPut m.damage (cwKey e.ch e.cw) es }) s

/-- A channel serves a read of a range: pages with a written granule are decoded; stored poison that is delivered is
counted (R374–R377). -/
def State.serveRead (c b n : Nat) (s : State) : (List Byte × Bool) × State :=
  ((s.hbmBytes c b n, s.hbmPoison c b n), s.readEffect ⟨c, b, n⟩)

/-- A channel serves a write of a range: a page with a written granule is decoded and re-coded, corrected codewords with
the write (R376, R380). -/
def State.serveWrite (c b : Nat) (data : List Byte) (p : Bool) (s : State) : State := s.hbmPut c b data p

/-- Bytes of an atomic's operand (R455). -/
def atomicWidth (a : AtomicOp) : Nat := if a.op = 3 then 4 else 8

/-- The value an atomic stores (R164, R404, R455). -/
def atomicResult (a : AtomicOp) (old : Nat) : Nat :=
  match a.op with
  | 0 => (old + a.operand.toNat) % 2 ^ 64
  | 1 => a.operand.toNat
  | 2 => if old = a.compare.toNat then a.operand.toNat else old
  | _ => (fpAdd (BitVec.ofNat 32 old) (BitVec.ofNat 32 a.operand.toNat)).toNat

/-- A channel serves an atomic: a poisoned target is not performed; the stored value is returned (R376, R380). -/
def State.serveAtomic (c b : Nat) (a : AtomicOp) (s : State) : (List Byte × Bool) × State :=
  let ((bs, p), s1) := s.serveRead c b (atomicWidth a)
  if p then ((bs, p), s1) else ((bs, false), s1.hbmPut c b (natBytes (atomicWidth a) (atomicResult a (leNat bs))) false)

/-! Registers of the MC_ block -/

/-- The clear of a whole channel's written-bits begins; the channel reads as zero (R375). -/
def State.clearChannel (c : Nat) (s : State) : State :=
  (s.hbmClear c 0 2147483648).onChan c fun x => { x with clearing := true, writeback := [] }

/-- MC_CFG.LEVEL (R373). -/
def execMcLevelWrite (m : Master) (ch : Nat) (v : Word) (s : State) : Host.Outcome State Fault Refusal :=
  s.clocked <| s.privWrite m (0x800000 + ch * 0x1000 + 8) fun s =>
    if !s.channelPresent ch then s
    else if !s.channelFree ch then s.mcRefused ch
    else if (s.chan ch).level = bits v 0 2 then s
    else (s.clearChannel ch).onChan ch fun x => { x with level := bits v 0 2 }

/-- A corrected codeword is written back (R374). -/
def execCorrectedWriteback (ch : Nat) (s : State) : Host.Outcome State Fault Refusal :=
  s.clocked <| match (s.chan ch).writeback with
  | [] => s
  | w :: rest => (s.onChan ch fun x => { x with writeback := rest }).onMem fun m => { m with damage := tabDel m.damage (cwKey ch w) }

/-- A refused entry raises REMAP_FULL (R384, R392). -/
def State.remapFullEvent (c : Nat) (r : Remap) (s : State) : State :=
  s.event 0x0602 10 (c / 32) [remapWord { r with valid := true }, w64 (c / 32), w64 (s.remapsOf (c / 32)).length]

/-- A free entry of a stack's table. -/
def State.freeRemap (s : State) (stack : Nat) : Option Nat := (List.range 32).find? fun e => !(s.remapEntry stack e).valid

/-- The channel's oldest candidate is installed in hardware mode, or refused (R384, R386, R387). -/
def State.installCandidate (ch : Nat) (s : State) : State :=
  match (s.chan ch).candidates with
  | [] => s
  | r :: rest =>
    let s1 := s.onChan ch fun x => { x with candidates := rest }
    match s1.freeRemap (ch / 32) with
    | none => s1.remapFullEvent ch r
    | some e => if s1.remapFull ch r then s1.remapFullEvent ch r else s1.remapPut ch e r

/-- Installation of a candidate at a boundary, in hardware mode (R386). -/
def execRemapInstall (ch : Nat) (s : State) : Host.Outcome State Fault Refusal :=
  s.clocked <| if s.hostMode 5 then s else s.installCandidate ch

/-- The manager writes a remap table entry (R386, R387, R396). -/
def execMcRemapWrite (m : Master) (stack entry : Nat) (v : Word) (s : State) : Host.Outcome State Fault Refusal :=
  s.clocked <| s.privWrite m (0x900000 + stack * 0x1000 + entry * 8) fun s =>
    let ch := stack * 32 + bits v 0 5
    let old := s.remapEntry stack entry
    let r : Remap := { channel := bits v 0 5, bank := bits v 5 5, row := bits v 10 15, word := bits v 25 9,
                       column := bit v 37, byManager := true }
    if !s.channelPresent (stack * 32) ∨ 32 ≤ entry then s
    else if !s.hostMode 5 then s.mcRefused ch
    else if old.valid ∧ !s.channelFree (stack * 32 + old.channel) then s.mcRefused (stack * 32 + old.channel)
    else
      let s1 := s.onMem fun x => { x with remap := tabDel x.remap (stack * 32 + entry) }
      if !bit v 63 then s1
      else if s1.remapFull ch r then s.remapFullEvent ch r
      else (s1.remapPut ch entry r).onChan ch fun x => { x with candidates := x.candidates.filter fun q => !sameRemap r q }

/-! Scrubs (R388–R390) -/

/-- The manager submits a scrub (R388, R389, R390). -/
def execMcScrub (m : Master) (ch : Nat) (v : Word) (s : State) : Host.Outcome State Fault Refusal :=
  s.clocked <| s.privWrite m (0x800000 + ch * 0x1000 + 0x28) fun s =>
    let a := bits v 6 42 * 64
    if !s.channelPresent ch then s
    else match s.readH 0 a 64 with
    | none => s.mcRefused ch
    | some (bs, _) =>
      let s := s.readEffectH 0 a 64
      let ws := bytesWords 8 bs
      let first := bits (wordAt ws 1) 0 20
      let pages := bits (wordAt ws 1) 20 21
      let sum := bits (wordAt ws 2) 6 42 * 64
      if (s.chan ch).scrub.isSome ∨ (s.readH 0 sum 64).isNone ∨ pages = 0
          ∨ dataPages (s.chan ch).level < first + pages then s.mcRefused ch
      else s.onChan ch fun x => { x with scrub := some {
        cls := bits (wordAt ws 0) 0 3, first := first, pages := pages, summary := sum, tag := wordAt ws 3,
        chunk := s.hostMode 6, startTide := s.tide.num } }

/-- A scrub ends: the summary record is written, SCRUB_DONE is raised (R388, R389). -/
def State.endScrub (ch status next : Nat) (s : State) : State :=
  match (s.chan ch).scrub with
  | none => s
  | some x =>
    let ue := match x.firstUe with | some p => p + 2 ^ 20 | none => 0
    let s1 := s.put0 x.summary [w64 (status + ch * 256 + 2 ^ 63), pair x.pagesRead x.pagesSkipped,
      pair x.cwCorrected x.symCorrected, pair x.cwUncorrectable x.candidates, w64 (ue + next * 2 ^ 32),
      x.startTide, s.tide.num, x.tag]
    (s1.onChan ch fun y => { y with scrub := none, cScrubs := y.cScrubs + 1 }).event 0x0603 3 ch
      [w64 ch, w64 status, w64 x.cwUncorrectable, x.tag]

/-- The engine has read its range, or its chunk of 1,024 pages: the sums are those of the pages decoded (R388, R390). -/
def execScrubDone (ch : Nat) (errs : List CwError) (s : State) : Host.Outcome State Fault Refusal :=
  s.clocked <| match (s.chan ch).scrub with
  | none => s
  | some x =>
    let n := if x.chunk then min 1024 x.pages else x.pages
    let s0 := s.damaged errs
    let pages := s0.writtenPages ch x.first n
    let cws := if s0.mem.damage.isEmpty then [] else pages.flatMap fun d => [2 * d, 2 * d + 1]
    let s1 := foldState cws (fun a w => a.decodeOne ch w false) s0
    let bad := cws.filter (s0.beyond ch)
    let fixed := cws.filter fun w => !s0.beyond ch w && !(s0.symbolErrors ch w).isEmpty
    let cands := (s1.chan ch).candidates.length - (s.chan ch).candidates.length
    let y : Scrub := { x with
      pagesRead := pages.length, pagesSkipped := n - pages.length
      cwCorrected := fixed.length, symCorrected := (fixed.map fun w => (s0.symbolErrors ch w).length).sum
      cwUncorrectable := bad.length, candidates := cands
      firstUe := (bad.map fun w => w / 2).min? }
    let s2 := s1.onChan ch fun q => { q with scrub := some y }
    if n < x.pages then s2.endScrub ch 1 (x.first + n) else s2.endScrub ch 0 0

/-- CANCEL ends the running scrub with STATUS 3 (R395). -/
def execScrubCancel (m : Master) (ch : Nat) (s : State) : Host.Outcome State Fault Refusal :=
  s.clocked <| s.privWrite m (0x800000 + ch * 0x1000 + 0x28) fun s => s.endScrub ch 3 0

/-! Interleave sets (R365, R366, R397) -/

/-- A memory object of the harbour uses the set. -/
def State.isetUsed (s : State) (h set : Nat) : Bool :=
  s.hif.objs.any fun o => o.2.harbour == h && bitsN o.2.addr 48 4 == 1 && bitsN o.2.addr 44 4 == set

/-- MC_ISET (R366). -/
def execMcIsetWrite (m : Master) (h set : Nat) (v : Word) (s : State) : Host.Outcome State Fault Refusal :=
  s.clocked <| s.privWrite m (0xA00000 + h * 0x80 + set * 8) fun s =>
    let n := match s.harbour h with | some e => e.channels.length | none => 0
    let x : ISet := { baseCh := bits v 0 8, log2Ways := bits v 8 4, gran := bits v 12 2, valid := bit v 15 }
    if s.isetUsed h set ∨ 8 < x.log2Ways ∨ x.gran = 3 ∨ (x.valid ∧ n < x.baseCh + 2 ^ x.log2Ways) then s.mcRefused 0
    else s.onMem fun q => { q with isets := tabSet {} q.isets (h * 16 + set) x }

end Sys2Proof.Machine
end

