-- ==== Sys2Proof/Machine/PageCode.lean ====
section
/-! DEFINITION. The page code of a channel and where its pages lie: physical pages, spare rows, the check area, codewords, check symbols
and check records (11_memory, R368–R371, R383). No request reads them; they are views of the bytes and bits that State holds. -/
namespace Sys2Proof.Machine
open Sys2Proof

/-! Where pages lie (R368, R370, R383) -/

/-- Bytes S of a check record at a level (R369). -/
def checkBytes (level : Nat) : Nat := 32 * (level + 1)

/-- First physical page of a channel's spare rows (R370, R383). -/
def firstSpare : Nat := 1048568

/-- Physical page of a data page: the page itself, or the spare row that a row entry sends it to (R370, R383). -/
def State.physPage (s : State) (c d : Nat) : Nat :=
  match (s.remapsOf (c / 32)).find? fun r => !r.column && r.channel == c % 32 && r.bank == d % 32 && r.row == d / 32 with
  | some r => firstSpare + r.spare
  | none => d

/-- Controller bank and row of a physical page (R368). -/
def bankRow (page : Nat) : Nat × Nat := (page % 32, page / 32)

/-- Byte of the channel at which a data page's check record lies: the check area follows the data space (R370). -/
def State.checkByte (s : State) (c d : Nat) : Nat := s.dataBytes c + d * checkBytes (s.chan c).level

/-! The field GF(2^10) and the Reed–Solomon code (R371) -/

/-- Multiply by α = x modulo x^10 + x^3 + 1. -/
def gfDouble (a : Nat) : Nat := if 512 ≤ a then Nat.xor (a * 2) 0x409 else a * 2

/-- The product of two elements, over the low `n` bits of the second. -/
def gfMulBits : Nat → Nat → Nat → Nat
  | 0, _, _ => 0
  | n + 1, a, b => Nat.xor (if b % 2 = 1 then a else 0) (gfMulBits n (gfDouble a) (b / 2))

/-- The product of two elements. -/
def gfMul (a b : Nat) : Nat := gfMulBits 10 a b

/-- α^i. -/
def gfPow : Nat → Nat
  | 0 => 1
  | i + 1 => gfDouble (gfPow i)

/-- A polynomial, highest degree first, times (x − r). -/
def polyTimesRoot (r : Nat) (p : List Nat) : List Nat :=
  (List.zip (p ++ [0]) (0 :: p)).map fun x => Nat.xor x.1 (gfMul r x.2)

/-- The generator of the code with `n` check symbols: the product of (x − α^i) for i from 0 to n − 1, highest degree first. -/
def generator : Nat → List Nat
  | 0 => [1]
  | n + 1 => polyTimesRoot (gfPow n) (generator n)

/-- One data symbol enters the division by the generator: `g` without its leading 1, `st` the remainder so far. -/
def divideStep (g st : List Nat) (d : Nat) : List Nat :=
  let f := Nat.xor d (st.headD 0)
  (List.zip (st.drop 1 ++ [0]) g).map fun x => Nat.xor x.1 (gfMul f x.2)

/-- The check symbols of a codeword, highest degree first: the remainder of its data symbols, the first of the highest degree, times
x^n (R371; log entry 116). -/
def checkSymbols (n : Nat) (data : List Nat) : List Nat :=
  data.foldl (divideStep ((generator n).drop 1)) (List.replicate n 0)

/-- The value of a polynomial, highest degree first, at a point. -/
def polyAt (x : Nat) (p : List Nat) : Nat := p.foldl (fun a c => Nat.xor (gfMul a x) c) 0

/-! Codewords and check records (R371) -/

/-- The metadata word of a data page: WRITTEN and POISON of its 32 granules (R371). -/
def State.metadata (s : State) (c d : Nat) : Nat :=
  let g0 := granule c (d * 2048)
  let bits (t : NSet) (lo : Nat) : Nat := ((List.range 16).map fun i => if t.contains (g0 + lo + i) then 2 ^ i else 0).sum
  bits s.mem.written 0 + bits s.mem.poison 0 * 2 ^ 16 + bits s.mem.written 16 * 2 ^ 32 + bits s.mem.poison 16 * 2 ^ 48

/-- The 823 data symbols of a codeword: its 1,024 bytes and its half of the metadata word, least significant bit first (R371). -/
def State.dataSymbols (s : State) (c cw : Nat) : List Nat :=
  let x := leNat ((List.range 1024).map fun i => s.storedByte c (cw * 1024 + i))
    + bitsN (s.metadata c (cw / 2)) (cw % 2 * 32) 32 * 2 ^ 8192
  (List.range 823).map fun j => bitsN x (10 * j) 10

/-- The check symbols of a codeword at its channel's level (R369, R371). -/
def State.cwCheck (s : State) (c cw : Nat) : List Nat :=
  checkSymbols (2 * correction (s.chan c).level) (s.dataSymbols c cw)

/-- A whole codeword: data symbols, then check symbols (R371). -/
def State.codeword (s : State) (c cw : Nat) : List Nat := s.dataSymbols c cw ++ s.cwCheck c cw

/-- The check record of a data page: the metadata word, the check symbols of both codewords as a stream of 10-bit symbols, and zeros
(R371). -/
def State.checkRecord (s : State) (c d : Nat) : List Byte :=
  let syms := s.cwCheck c (2 * d) ++ s.cwCheck c (2 * d + 1)
  natBytes (checkBytes (s.chan c).level)
    (s.metadata c d + (syms.zipIdx.map fun x => x.1 * 2 ^ (10 * x.2)).sum * 2 ^ 64)

end Sys2Proof.Machine
end

