-- ==== Sys2Proof/Machine/LaunchOps.lean ====
section
/-! DEFINITION. Launches: manifest fields, pinned objects, fault-latch bits, capture records, completion records and
signals, aborts and lost contexts (05_execution_model, 08_harbourmaster, 16_reliability_and_recovery). -/
namespace Sys2Proof.Machine
open Sys2Proof

/-! Manifest fields (R264) -/

def Launch.kind (e : Launch) : Nat := bits (wordAt e.entry 0) 0 4
def Launch.payloadWords (e : Launch) : Nat := bits (wordAt e.entry 0) 8 6
def Launch.gang (e : Launch) : Nat := bits (wordAt e.entry 0) 16 16 + 1
def Launch.lsGranules (e : Launch) : Nat := bits (wordAt e.entry 1) 0 8
def Launch.rowGroups (e : Launch) : Nat := bits (wordAt e.entry 1) 8 4
def Launch.regGroups (e : Launch) : Nat := bits (wordAt e.entry 1) 12 4
def Launch.pinCount (e : Launch) : Nat := bits (wordAt e.entry 1) 16 5
def Launch.waitCount (e : Launch) : Nat := bits (wordAt e.entry 1) 21 4
def Launch.signalCount (e : Launch) : Nat := bits (wordAt e.entry 1) 25 4
def Launch.tagCount (e : Launch) : Nat := bits (wordAt e.entry 1) 29 3
/-- Input tag `t` with its mode bit; 0 = none (R204, R266). -/
def Launch.inTag (e : Launch) (t : Nat) : Nat := if t < e.tagCount then bits (wordAt e.ext (64 + t)) 0 40 else 0
def Launch.tagMode (e : Launch) (t : Nat) : Bool := bit (wordAt e.entry 0) (36 + t)
/-- Launch identifier (R274). -/
def Launch.ident (e : Launch) : Word := w64 (e.berth * 2 ^ 32 + e.index.toNat)
/-- Bytes of a part's saved record (R134). -/
def Launch.recordSize (e : Launch) : Nat := 2240 + 4096 * e.lsGranules + 9216 * e.rowGroups + 1024 * e.regGroups
/-- Some window of the launch targets the hold (R198). -/
def Launch.holdBound (e : Launch) : Bool :=
  (List.range e.pinCount).any fun i => bits (wordAt e.ext (2 * i)) 57 2 == 1

/-! Pinned objects (R255, R266, R579) -/

/-- Mapped ranges cover `[va, va+n)` with the bytes of an object from `off` on. -/
def mapsCover (ms : List Mapping) (o : Nat) : Nat → Nat → Nat → Nat → Bool
  | 0, _, _, _ => false
  | fuel + 1, va, off, n =>
    match ms.find? fun m => decide (m.va ≤ va ∧ va < m.va + m.len) with
    | none => false
    | some m =>
      let left := m.va + m.len - va
      m.obj == some o && m.off + (va - m.va) == off
        && (decide (n ≤ left) || mapsCover ms o fuel (va + left) (off + left) (n - left))

/-- The object and device physical address that a mapped range of a context names. -/
def State.objAt (s : State) (asid va n : Nat) : Option (Nat × Nat) :=
  match s.ctx asid with
  | none => none
  | some c =>
    match c.maps.find? fun m => decide (m.va ≤ va ∧ va < m.va + m.len) with
    | none => none
    | some m => m.obj.bind fun o => (tabFind s.hif.objs o).bind fun x =>
      let off := m.off + (va - m.va)
      if mapsCover c.maps o (c.maps.length + 1) va off n then some (o, x.addr + off) else none

/-- Every context of a resident or saved launch part. -/
def State.allCtxs (s : State) : List PartCtx :=
  (s.places.flatMap fun p => (p.2.slots.map fun k => k.2.ctx) ++ p.2.heap.map (·.ctx))
  ++ s.hb.harbours.flatMap fun h => (h.2.poolReserve ++ h.2.poolEvicted).map (·.ctx)

/-- The object is pinned: by its count, by a window of a resident or saved launch, by an enabled berth, or by a placed
scan (R579). -/
def State.objPinned (s : State) (o : Nat) : Bool :=
  (match tabFind s.hif.objs o with | some x => decide (0 < x.pins) | none => false)
  || s.allCtxs.any (fun c => c.windows.any fun w => w.target == .hbm && w.obj == o)
  || s.berths.any (fun b => b.2.enable && b.2.objs.contains o)
  || s.scans.any (fun x => x.2.windows.any fun w => w.obj == o)

/-- Read a range of a context through a pinned object. -/
def State.vaRead (s : State) (asid va n : Nat) : Option (List Byte × Bool) :=
  match s.objAt asid va n, s.ctx asid with
  | some (_, da), some c => s.readH c.harbour da n
  | _, _ => none

/-- Count the stored poison of a range that the Harbourmaster reads (R377). -/
def State.readEffectVa (asid va n : Nat) (s : State) : State :=
  match s.objAt asid va n, s.ctx asid with
  | some (_, da), some c => s.readEffectH c.harbour da n
  | _, _ => s

/-- Write a range of a context through an object, as the Harbourmaster does. -/
def State.vaWrite (asid va : Nat) (data : List Byte) (s : State) : State :=
  match s.objAt asid va data.length, s.ctx asid with
  | some (_, da), some c => s.writeH c.harbour da data false
  | _, _ => s

/-! Berth status area (R257) -/

/-- Some launch-table entry of the berth exists, or is being fetched (BUSY, R271, R295). -/
def State.berthBusy (s : State) (b : Nat) : Bool := s.hm.fetching.contains b || s.hm.launches.any fun l => l.2.berth == b

/-- Write the berth's status area (R257). -/
def State.statusArea (b : Nat) (s : State) : State :=
  let x := s.berth b
  let st := if !x.enable then 0 else if x.stop then 2 else 1
  s.vaWrite x.context x.statusVa ([pair x.fetch.toNat x.cplWritten.toNat, s.tide.num, pair x.capWritten.toNat st,
    pair x.dbRejects.toNat 0, 0, 0, 0, 0].flatMap wordBytes)

/-! Fault-queue entries (R413, R419) -/

/-- Write a fault entry's image into its slot of the queue (R413). -/
def State.putFault (h slot : Nat) (e : FaultEnt) (s : State) : State :=
  let map (q : Nat) : Word := w64 ((e.engines.filter fun b => b / 64 == q).map fun b => 2 ^ (b % 64)).sum
  let s1 := s.onFq h fun q => { q with entries := tabPut q.entries slot e }
  s1.put0 ((s.fq h).base + slot * 256) ([pair e.index.toNat (e.state + e.kind * 16 + e.access * 256 + e.level * 2048),
    w64 (e.va / 4096 * 4096), w64 (e.context + e.merged * 65536), e.firstTide, e.launch, 0, 0, 0]
    ++ (List.range 16).map map ++ List.replicate 8 0)

/-- Local logical tile of a place in a harbour. -/
def State.logicalTile (s : State) (h p : Nat) : Nat :=
  match s.harbour h with | some e => e.tiles.findIdx (· == p) | none => 0

/-- Logical tile number of a place in its harbour, over all members (R187, R337). -/
def State.logicalNumber (s : State) (h p : Nat) : Nat :=
  s.logicalTile h p + (match s.harbour h with | some x => x.tileBase | none => 0)

/-- The harbour a place is bound to. -/
def State.placeHarbour (s : State) (p : Nat) : Option Nat :=
  match (s.place p).cond with | .bound h _ => some h | _ => none

/-- An engine leaves its fault latch other than by an answer: its bit is cleared, the entry stays (R419). -/
def State.dropLatch (h p engine : Nat) (x : Option FaultLatch) (s : State) : State :=
  match x.bind (·.entry) with
  | none => s
  | some slot =>
    let e := tabGet {} (s.fq h).entries slot
    s.putFault h slot { e with engines := setDel e.engines (2 * s.logicalTile h p + engine) }

/-- Both engines of a part leave their latches. -/
def State.dropLatches (p k : Nat) (s : State) : State :=
  let c := (s.slotAt p k).ctx
  let h := (s.placeHarbour p).getD 0
  ((s.dropLatch h p 0 c.dma0.latch).dropLatch h p 1 c.dma1.latch).onCtx p k fun c => { c with
    dma0 := { c.dma0 with latch := none }, dma1 := { c.dma1 with latch := none } }

/-! Statuses (R34, R36) and lost contexts (R525) -/

/-- The status of lower precedence number (R36). -/
def worse (a : Option Status) (b : Status) : Status :=
  match a with | none => b | some a => if a.prec ≤ b.prec then a else b

/-- Mark a context lost; CONTEXT_LOST the first time (R525). -/
def State.markLost (asid h : Nat) (ident : Word) (st : Status) (s : State) : State :=
  if s.ras.lost.contains asid then s
  else (s.onRas fun r => { r with lost := setIns r.lost asid }).event 0x0900 7 h [pair asid h, ident, w64 st.code]

/-- No instance of the Harbourmaster serves: a takeover is under way or none is left (R289, R291). -/
def State.hmSilent (s : State) : Bool := s.hm.takeover || s.hm.lostApplied

/-! Capture records (R281–R284) -/

/-- Outstanding requests of an engine (R121, R284). -/
def DmaCtx.outstanding (d : DmaCtx) : Nat := d.reqs.length

/-- The 32 words of a part state (R284). -/
def partStateWords (c : PartCapture) : List Word :=
  let x := c.ctx
  let b (p : Bool) (n : Nat) : Nat := if p then n else 0
  let seq := b x.stopped 1 + b x.wait.isSome 2 + b x.blockedRed 4 + b x.trapTaken 8 + (if x.trapTaken then x.trapCode * 256 else 0)
    + bits x.loopPred 0 16 * 65536
  let va (d : DmaCtx) : Nat := match d.latch with | some l => l.va | none => 0
  let out (d : DmaCtx) : Nat := d.outstanding % 65536 + b d.latch.isSome 65536
  [w64 (c.part + c.logicalTile * 2 ^ 16 + c.slotState * 2 ^ 32 + b c.cause (2 ^ 36)), x.pc,
   w64 (seq + x.errCode * 2 ^ 32), x.errAddr]
  ++ (List.range 16).map (fun r => tabGet 0 x.sregs r)
  ++ [w64 (out x.dma0), w64 (va x.dma0), w64 (out x.dma1), w64 (va x.dma1), w64 x.reds.length]
  ++ List.replicate 7 0

/-- Code of the entry state in a capture record (R283). -/
def captureCode : LaunchState → Nat
  | .waiting => 0 | .ready => 1 | .active => 2 | .saved => 3 | .completing => 2

/-- Where the capture record of a launch goes, when its status calls for one and the ring has room (R281, R282). -/
def State.captureAt (s : State) (e : Launch) (st : Status) : Option Nat :=
  let b := s.berth e.berth
  if (st ≠ .fault ∧ st ≠ .timeout ∧ st ≠ .poison) ∨ b.capVa = 0 ∨ 2 ^ b.capLog2 ≤ (b.capWritten - b.capConsumed).toNat then none
  else some (b.capVa + b.capWritten.toNat % 2 ^ b.capLog2 * 4096)

/-- The words of a capture record (R283). -/
def State.captureWords (s : State) (e : Launch) (st : Status) : List Word :=
  let ps := (e.capture.filter (·.cause) ++ e.capture.filter fun c => !c.cause).take 8
  [e.ident, w64 (st.code + e.harbour * 2 ^ 8 + e.context * 2 ^ 16 + (s.hgen e.harbour).toNat * 2 ^ 32
      + ps.length * 2 ^ 40 + e.capState * 2 ^ 44), s.tide.num, w64 e.ringVa, pair e.readyTides 0]
    ++ List.replicate 11 0 ++ (List.range 64).map (wordAt e.entry) ++ (List.range 68).map (wordAt e.ext)
    ++ List.replicate 12 0 ++ ps.flatMap partStateWords ++ List.replicate ((8 - ps.length) * 32 + 96) 0

/-- Write the capture record of a launch when its status calls for one and the ring has room; otherwise the drop is
counted (R281–R283). Answers the capture count it was written at. A node's first record is its graph launch's (R321). -/
def State.writeCapture (e : Launch) (st : Status) (s : State) : Option Word32 × State :=
  if st ≠ .fault ∧ st ≠ .timeout ∧ st ≠ .poison then (none, s)
  else
    let b := s.berth e.berth
    match s.captureAt e st with
    | none => (none, s.onHm fun h => { h with cCaptureDrop := h.cCaptureDrop + 1 })
    | some va =>
      let s1 := s.vaWrite b.context va ((s.captureWords e st).flatMap wordBytes)
      let s2 := (s1.onBerth e.berth fun b => { b with capWritten := b.capWritten + 1 }).statusArea e.berth
      (some b.capWritten, match e.node with
        | none => s2
        | some (g, _) => s2.onLaunch g fun x => if x.capSeq.isNone then { x with capSeq := some b.capWritten } else x)

/-- Every entry that satisfies `f`. -/
def State.entriesOf (s : State) (f : Launch → Bool) : List Nat := (s.hm.launches.filter fun x => f x.2).map (·.1)

/-! Fence handles (R300) -/

/-- Resolve a handle in a context's fence space (R300). -/
def State.fenceEnt (s : State) (asid : Nat) (handle : Word32) : Option FenceEnt :=
  match tabFind s.fu.space (asid * 2 ^ 24 + bitsN handle.toNat 0 24) with
  | none => none
  | some x => if x.valid && x.hgen == BitVec.ofNat 8 (handle.toNat / 2 ^ 24) then some x else none

/-- The manifest's signal entries that resolve, as signals on their way to the dependency unit (R266, R276). A manifest whose extension
could not be read names none, and no entry beyond the eighth exists. -/
def State.signalsOf (s : State) (l : Nat) (e : Launch) (err : Bool) : List Signal :=
  (List.range (if e.ext.isEmpty then 0 else min e.signalCount 8)).filterMap fun i =>
    match s.fenceEnt e.context (BitVec.ofNat 32 (bits (wordAt e.ext (48 + 2 * i)) 0 32)) with
    | none => none
    | some x =>
      match s.fence x.fon with
      | none => none
      | some f => if x.signal && (!f.closed || ((f.signallers.any fun b => b.2 == e.berth) && (s.berth e.berth).serial))
          then some { fon := x.fon, value := wordAt e.ext (49 + 2 * i), err := err, entry := some l } else none

/-! Graph images (R316–R319) -/

/-- The graph a handle names in a context: graph-table key context × 4096 + index (R318). -/
def State.graphOf (s : State) (asid : Nat) (handle : Nat) : Option (Nat × Graph) :=
  let k := asid * 4096 + bitsN handle 0 12
  match tabFind s.graphs k with
  | none => none
  | some g => if g.valid ∧ bitsN handle 12 12 = 0 ∧ g.gen.toNat = bitsN handle 24 8 then some (k, g) else none

/-- Address of a byte of a graph object, without node, in its harbour's view. -/
def State.graphAddr (s : State) (g : Graph) (off : Nat) : Nat :=
  match tabFind s.hif.objs g.obj with | some o => o.addr + g.offset + off | none => 0

/-- Read part of a graph object. -/
def State.graphRead (s : State) (g : Graph) (off n : Nat) : Option (List Byte × Bool) :=
  match tabFind s.hif.objs g.obj with
  | none => none
  | some o => s.readH o.harbour (o.addr + g.offset + off) n

/-- Offset of a node record in a version slot (R316, R317). -/
def nodeOffset (nodes slot i : Nat) : Nat := 0x100 + slot * nodes * 0x440 + i * 0x440

/-- The 136 words of a node record, with their poison. -/
def State.nodeRecord (s : State) (g : Graph) (slot i : Nat) : List Word × Bool :=
  match s.graphRead g (nodeOffset g.nodes slot i) 0x440 with
  | none => (List.replicate 136 0, true)
  | some (b, p) => (bytesWords 136 b, p)

/-- Predecessors of a node with their PROCEED bits (R317). -/
def nodePreds (ws : List Word) : List (Nat × Bool) :=
  let c := wordAt ws 132
  (List.range (min 8 (bits c 0 4))).map fun p =>
    (bits (wordAt ws (133 + p / 4)) (16 * (p % 4)) 10, bit c (8 + p))

/-- The 68 extension words with the entries beyond the counts zero (R266, R283). -/
def maskExt (e : Launch) (ws : List Word) : List Word :=
  (List.range 68).map fun i =>
    let keep := if i < 32 then decide (i / 2 < e.pinCount) else if i < 48 then decide ((i - 32) / 2 < e.waitCount)
      else if i < 64 then decide ((i - 48) / 2 < e.signalCount) else decide (i - 64 < e.tagCount)
    if keep then wordAt ws i else 0

/-- The launch-table entry of a node, from its record in the slot that its graph launch bound (R317, R320). -/
def State.nodeLaunch (s : State) (gl : Nat) (e : Launch) (r : GraphRun) (g : Graph) (i : Nat) : Launch :=
  let ws := (s.nodeRecord g r.slot i).1
  let n : Launch := { berth := e.berth, index := e.index, harbour := e.harbour, context := e.context
                      entry := ws.take 64, ringVa := s.graphAddr g (nodeOffset g.nodes r.slot i)
                      det := e.det, node := some (gl, i) }
  { n with ext := maskExt n (ws.drop 64) }

/-- The signals of nodes that complete without being instantiated, with the error bit (R276, R320). -/
def State.unrunSignals (gl : Nat) (e : Launch) (r : GraphRun) (is : List Nat) (s : State) : State :=
  match tabFind s.graphs r.graph with
  | none => s
  | some g => s.onFu fun f => { f with
      inflight := f.inflight ++ is.flatMap fun i => s.signalsOf gl (s.nodeLaunch gl e r g i) true }

/-- Slots of a graph's live versions (R321). -/
def State.liveSlots (s : State) (k : Nat) (g : Graph) : NSet :=
  s.hm.launches.foldl (fun t x => match x.2.run with
    | some r => if r.graph = k then setIns t r.slot else t
    | none => t) [g.curSlot]

/-- A version slot is live through a graph launch. -/
def State.slotRun (s : State) (k slot : Nat) : Bool :=
  s.hm.launches.any fun x => match x.2.run with | some r => r.graph == k && r.slot == slot | none => false

/-- The header words of a graph object (R316). -/
def State.graphHeader (s : State) (k : Nat) (g : Graph) : List Word :=
  let v (i : Nat) : Nat := tabGet 0 g.slotVersion i
  [w64 (g.nodes + g.exitNode * 2 ^ 16 + 2 ^ 32), w64 (g.curVersion + g.curSlot * 2 ^ 32), pair (v 0) (v 1), pair (v 2) (v 3),
   w64 ((s.liveSlots k g).map fun i => 2 ^ i).sum]

/-- Write part of a graph object. -/
def State.graphWrite (g : Graph) (off : Nat) (data : List Byte) (s : State) : State :=
  match tabFind s.hif.objs g.obj with
  | none => s
  | some o => s.writeH o.harbour (o.addr + g.offset + off) data false

/-! Ends of launches -/

/-- Release the stored record of a launch part, on whichever place holds it, for zeroing (R94, R135, R382). -/
def State.releaseRecord (l part : Nat) (s : State) : State :=
  { s with places := s.places.map fun q =>
      let gone := q.2.heap.filter fun r => r.entry == l && r.part == part
      if gone.isEmpty then q
      else (q.1, { q.2 with heap := q.2.heap.filter fun r => !(r.entry == l && r.part == part)
                            zeroing := q.2.zeroing ++ gone.map (·.size) }) }

/-- Drop a launch part's record from the save pool. -/
def State.dropPoolRecord (h l part : Nat) (s : State) : State :=
  s.onHarbour h fun x => { x with
    poolReserve := x.poolReserve.filter fun r => !(r.entry == l && r.part == part)
    poolEvicted := x.poolEvicted.filter fun r => !(r.entry == l && r.part == part) }

/-- The answers of requests that a slot's part has outstanding go nowhere any more. -/
def State.orphan (p k : Nat) (s : State) : State :=
  (s.onHif fun h => { h with reqs := h.reqs.map fun r => if r.2.place = p ∧ r.2.slot = k then (r.1, { r.2 with gone := true }) else r }).onLk
    fun x => { x with reqs := x.reqs.map fun r => if r.2.place = p ∧ r.2.slot = k then (r.1, { r.2 with gone := true }) else r }

/-- A slot becomes FREE. -/
def State.freeSlot (p k : Nat) (s : State) : State := (s.orphan p k).setSlot p k {}

/-- Free or release whatever one part of a launch still holds. -/
def State.releasePart (l : Nat) (e : Launch) (i : Nat) (x : PartState) (s : State) : State :=
  match x with
  | .slot p k => s.freeSlot p k
  | .heap _ => s.releaseRecord l i
  | .pool _ => s.dropPoolRecord e.harbour l i
  | _ => s

/-- Release whatever every part holds. -/
def State.releaseParts (l : Nat) (e : Launch) (s : State) : State :=
  foldState e.parts.zipIdx (fun a x => a.releasePart l e x.2 x.1) s

/-- A graph node has completed: the graph's run records its status, exit value and resumes (R320, R321). -/
def State.nodeDone (g i : Nat) (e : Launch) (st : Status) (s : State) : State :=
  s.onLaunch g fun x => { x with run := x.run.map fun r => { r with
    done := tabPut r.done i st
    resumes := r.resumes + e.resumes
    exitValue := if i = r.exitNode then e.exitValue else r.exitValue } }

/-- A graph launch has ended: a version that is no longer live gives up its slot, and the graph's header says so (R316, R321). -/
def State.retireVersion (k : Nat) (s : State) : State :=
  match tabFind s.graphs k with
  | none => s
  | some g =>
    let g1 := { g with slotVersion := g.slotVersion.filter fun x => (s.liveSlots k g).contains x.1 }
    if !g.valid then s
    else ({ s with graphs := tabPut s.graphs k g1 }).graphWrite g1 0 ((s.graphHeader k g1).flatMap wordBytes)

/-- The words of a completion record (R274). -/
def completionWords (b : Berth) (e : Launch) (st : Status) (cap : Option Word32) : List Word :=
  let ex := match e.run with | some r => if e.kind = 2 then r.exitValue else e.exitValue | none => e.exitValue
  let resumes := e.resumes + (match e.run with | some r => r.resumes | none => 0)
  [e.ident, w64 (st.code + (match cap with | some n => 2 ^ 8 + n.toNat % 65536 * 2 ^ 16 | none => 0)
      + (if st = .ok then ex.toNat else 0) * 2 ^ 32),
    wordAt e.entry 5,
    w64 (e.readyTides % 2 ^ 32 + resumes % 65536 * 2 ^ 32 + (1 - b.cplWritten.toNat / 2 ^ b.log2 % 2) * 2 ^ 63)]

/-- The end of a launch: capture record, completion record, fence signals, interrupt, then its slots and its entry are freed (R270
steps 9 and 10, R274–R277, R281). A record whose signals are on their way stays in the tail of the mirror log (R287). -/
def State.writeEnd (l : Nat) (s : State) : State :=
  match s.launch l with
  | none => s
  | some e =>
    let st := e.status.getD .ok
    let capAt := s.captureAt e st
    let (own, s1) := s.writeCapture e st
    let cap := e.capSeq.orElse fun _ => own
    let sigs := s.signalsOf l e (st != .ok)
    let b := s1.berth e.berth
    let at_ := b.cplVa + b.cplWritten.toNat % 2 ^ b.log2 * 32
    let words := completionWords b e st cap
    let s2 := (s1.releaseParts l e).onFu fun f => { f with inflight := f.inflight ++ sigs }
    let rec_ : LogRec := { entry := l, context := b.context
                           cplAt := if e.node.isSome then none else some at_, cpl := if e.node.isSome then [] else words
                           capAt := capAt, cap := if capAt.isSome then s.captureWords e st else [], signals := sigs }
    let s3 := s2.onHm fun h => { h with launches := tabDel h.launches l, tail := if sigs.isEmpty then h.tail else h.tail ++ [rec_] }
    let s4 := { s3 with scans := match e.scan with | some x => tabDel s3.scans x | none => s3.scans }
    match e.node with
    | some (g, i) => s4.nodeDone g i e st
    | none =>
      let s5 := s4.vaWrite b.context at_ (words.flatMap wordBytes)
      let s6 := (s5.onBerth e.berth fun b => { b with cplWritten := b.cplWritten + 1, wrote := true }).statusArea e.berth
      let s7 := match e.run with | some r => s6.retireVersion r.graph | none => s6
      if b.irqMode = 1 then s7.msix b.func b.msiVector else s7

/-- A launch's status is fixed: it takes its place in the order of its berth's records (R275). -/
def State.stamp (l : Nat) (s : State) : State :=
  match s.launch l with
  | none => s
  | some e =>
    if e.fixedSeq.isSome then s
    else (s.onLaunch l fun e => { e with fixedSeq := some s.hm.nextSeq }).onHm fun h => { h with nextSeq := h.nextSeq + 1 }

/-- The entry of a berth whose status was fixed first among those whose records are still to be written (R275). -/
def State.nextRecord (s : State) (b : Nat) : Option (Nat × Launch) :=
  (s.hm.launches.filter fun x => x.2.berth == b && x.2.node.isNone && x.2.fixedSeq.isSome).foldl
    (fun (o : Option (Nat × Launch)) x => match o with
      | none => some x
      | some y => if x.2.fixedSeq.getD 0 < y.2.fixedSeq.getD 0 then some x else some y) none

/-- Write the records of a berth that are due, in the order in which their statuses were fixed; none while no instance of the
Harbourmaster serves (R275, R289, R291). -/
def State.flushBerth (b : Nat) : Nat → State → State
  | 0, s => s
  | n + 1, s =>
    match s.nextRecord b with
    | none => s
    | some (l, e) => if e.ended ∧ !s.hmSilent then State.flushBerth b n (s.writeEnd l) else s

/-- Nothing but its record and its signals is left of a launch, whose status is fixed, OK when nothing else fixed it: the record follows
in its turn (R270, R275). A graph node writes no completion record and waits for no other (R320). -/
def State.complete (l : Nat) (s : State) : State :=
  match s.launch l with
  | none => s
  | some e =>
    let s1 := (s.stamp l).onLaunch l fun e => { e with ended := true, state := .completing, status := some (e.status.getD .ok) }
    if e.node.isNone then s1.flushBerth e.berth (s1.hm.launches.length + 1)
    else if s.hmSilent then s1 else s1.writeEnd l

/-- What waited for an instance of the Harbourmaster to serve again is written (R289). -/
def State.flushAll (s : State) : State :=
  let s1 := foldState (s.entriesOf fun e => e.ended && e.node.isSome) (fun a l => a.writeEnd l) s
  foldState (s1.berths.map (·.1)) (fun a b => a.flushBerth b (a.hm.launches.length + 1)) s1

/-- Slot states an abort moves to ABORTING (R106). -/
def abortable : SlotState → Bool
  | .loading | .restoring | .running | .draining | .saving => true
  | _ => false

/-- The part states of a launch's resident parts as they stand, those that retire among them (R281). -/
def State.captureParts (s : State) (e : Launch) (cause : Option Nat) : List PartCapture :=
  e.parts.zipIdx.filterMap fun x =>
    match x.1 with
    | .slot p k =>
      let v := s.slotAt p k
      if v.state ≠ .free then
        some ⟨x.2, s.logicalNumber e.harbour p, v.state.code, cause == some x.2, v.ctx⟩ else none
    | _ => none

/-- One part of an aborted launch: a resident part goes to ABORTING, a saved record is released for zeroing (R94, R106,
R138, R279). -/
def State.abortPart (l : Nat) (e : Launch) (i : Nat) (x : PartState) (s : State) : State :=
  match x with
  | .slot p k =>
    let v := s.slotAt p k
    if !abortable v.state then s
    else
      let s1 := (s.dropLatches p k).onSlot p k fun v => { v with state := .aborting, stuck := 0 }
      let s2 := (s1.releaseRecord l i).dropPoolRecord e.harbour l i
      if v.state = .saving then s2.onPlace p fun q => { q with zeroing := q.zeroing ++ [e.recordSize] } else s2
  | .heap _ => (s.releaseRecord l i).onLaunch l fun e => { e with parts := e.parts.set i .ended }
  | .pool _ => (s.dropPoolRecord e.harbour l i).onLaunch l fun e => { e with parts := e.parts.set i .ended }
  | _ => s

/-- Slots of an aborted scan go to ABORTING (R232, R244). -/
def State.abortScanSlots (l : Nat) (s : State) : State :=
  { s with mills := s.mills.map fun m => (m.1, { m.2 with
      slots := m.2.slots.map fun k =>
        if m.2.scans.any (fun x => x.2.entry == l && x.2.slots.contains k.1) ∧ k.2 ≠ .free ∧ k.2 ≠ .zeroing
        then (k.1, .aborting) else k
      scans := m.2.scans.map fun x => if x.2.entry == l then (x.1, { x.2 with st := .aborting }) else x }) }

/-- The harbour's channels of this module in a scan's range: the scan channel index of the first, and the physical channels (R224,
R337). -/
def State.scanLocal (s : State) (h : Nat) (x : Scan) : Nat × List Nat :=
  match s.harbour h with
  | none => (0, [])
  | some e =>
    let lo := max x.chFirst e.chanBase
    (lo - x.chFirst, (e.channels.drop (lo - e.chanBase)).take (x.chFirst + x.chCount - lo))

/-- Physical channels of a scan on this module, in ascending scan channel index. -/
def State.scanChannels (s : State) (h : Nat) (x : Scan) : List Nat := (s.scanLocal h x).2

/-- Halves of the merge tree that a scan's channels use. -/
def State.halvesOf (s : State) (h : Nat) (x : Scan) : List Nat := ((s.scanChannels h x).map (· / 128)).eraseDups

/-- Change the counters of a merge-tree half. -/
def State.onHalf (d : Nat) (f : MergeHalf → MergeHalf) (s : State) : State :=
  { s with mergeHalves := tabMod {} s.mergeHalves d f }

/-- The half of the merge tree that holds the list of a scan channel index: that of its channel; that of the scan's first channel here
for a list of another module (R236, log entry 134). -/
def State.listHalf (s : State) (h : Nat) (x : Scan) (i : Nat) : Nat :=
  let (first, cs) := s.scanLocal h x
  match (if i < first then none else cs[i - first]?) with
  | some c => c / 128
  | none => (cs.head?.getD 0) / 128

/-- The merge tree discards the lists it holds of a scan (R244, R249). -/
def State.discardLists (l : Nat) (s : State) : State :=
  match tabFind s.scans l, s.launch l with
  | some x, some e =>
    foldState ((x.lists.map fun y => s.listHalf e.harbour x y.1).eraseDups) (fun a d => a.onHalf d fun y => { y with discards := y.discards + 1 })
      { s with scans := tabPut s.scans l { x with lists := [] } }
  | _, _ => s

/-- Some part still holds a slot that has not been released, or some Mill still works for the launch. -/
def State.stillBusy (s : State) (l : Nat) : Bool :=
  match s.launch l with
  | none => false
  | some e =>
    (e.parts.zipIdx.any fun x => match x.1 with
      | .slot p k => (s.slotAt p k).state == .aborting && !e.released.contains x.2
      | _ => false)
    || s.mills.any fun m => m.2.scans.any fun x => x.2.entry == l && x.2.st == .aborting

/-- Fix a status and stop a launch: part states are captured before ABORTING releases the partitions, every part and Mill
slot aborts, the merge tree discards the lists it has, and a launch with nothing resident completes at once (R36, R179, R281, R285). A part that retires stays in RETIRING until the
launch ends, since R106 gives it no way to ABORTING (log entry 127). -/
def State.abortOne (l : Nat) (st : Status) (cause : Option Nat) (s : State) : State :=
  match s.launch l with
  | none => s
  | some e =>
    let needs := st == .fault || st == .timeout || st == .poison
    let caps := if needs && e.capture.isEmpty then s.captureParts e cause else e.capture
    let s1 := (s.onLaunch l fun e => { e with
      status := some (worse e.status st), capture := caps
      capState := if e.state = .completing then e.capState else captureCode e.state
      state := .completing, causePart := cause.getD e.causePart }).stamp l
    let s2 := foldState e.parts.zipIdx (fun a x => a.abortPart l e x.2 x.1) s1
    let s3 := if e.kind = 1 then (s2.abortScanSlots l).discardLists l else s2
    let retiring := e.parts.any fun x => match x with
      | .slot p k => (s.slotAt p k).state == .retiring | _ => false
    if s3.stillBusy l ∨ (retiring ∧ e.parts.length = e.retired.length) ∨ e.run.isSome then s3 else s3.complete l

/-- Every part has retired its last instruction: the launch is finished and only retires (R87). -/
def Launch.retiring (e : Launch) : Bool := !e.parts.isEmpty && e.retired.length == e.parts.length

/-- A graph launch whose nodes have all completed completes, with the status of lowest precedence number over its nodes' statuses and its
own causes (R36, R321). -/
def State.finishGraph (gl : Nat) (s : State) : State :=
  match s.launch gl with
  | none => s
  | some e =>
    match e.run with
    | none => s
    | some r =>
      if r.done.length < r.nodes then s
      else
        let st := r.done.foldl (fun (o : Option Status) x => some (worse o x.2)) e.status
        (s.onLaunch gl fun x => { x with status := st, state := .completing }).complete gl

/-- Fix a status and stop a launch; a graph launch's live nodes stop with it, and the nodes not yet instantiated complete
with the same status and send their signals (R320, R324). A timeout leaves a node that retires or completes alone (R279). -/
def State.abortLaunch (l : Nat) (st : Status) (cause : Option Nat) (s : State) : State :=
  match s.launch l with
  | none => s
  | some e =>
    match e.run with
    | none => s.abortOne l st cause
    | some r =>
      let live := s.hm.launches.filter fun x => match x.2.node with | some (g, _) => g == l | none => false
      let unrun := (List.range r.nodes).filter fun i => (tabFind r.done i).isNone && !live.any fun y => y.2.node == some (l, i)
      let s1 := ((s.abortOne l st cause).onLaunch l fun x => { x with run := x.run.map fun r => { r with
        pending := [], done := unrun.foldl (fun t i => tabPut t i st) r.done } }).unrunSignals l e r unrun
      let spared (y : Launch) : Bool := st == .timeout && (y.retiring || y.state == .completing)
      (foldState (live.filter fun y => !spared y.2) (fun a y => a.abortOne y.1 st none) s1).finishGraph l

/-- A cause in one part of a launch: its error is recorded, the gang aborts, and the context is marked lost where the
cause says so (R116, R179, R184, R412, R513, R525). -/
def State.failPart (p k code : Nat) (addr : Word) (st : Status) (lost : Bool) (s : State) : State :=
  let v := s.slotAt p k
  match s.launch v.entry with
  | none => s
  | some e =>
    if v.state = .free then s
    else
      let s1 := s.onCtx p k fun c => { c with errCode := code, errAddr := addr, stopped := true }
      let s2 := if lost then s1.markLost e.context e.harbour e.ident (worse e.status st) else s1
      s2.abortLaunch v.entry st (some v.part)

/-- A tile error (R116, R179, R184): FAULT, context lost. -/
def State.tileErr (p k code : Nat) (addr : Word) (s : State) : State := s.failPart p k code addr .fault true

/-- Consumption of poison by a compute engine: POISON, context lost (R379). -/
def State.poisonErr (p k : Nat) (addr : Word) (s : State) : State := s.failPart p k 3 addr .poison true

end Sys2Proof.Machine
end

