-- ==== Sys2Proof/Machine/SaveOps.lean ====
section
/-! DEFINITION. Saved records as bytes, and where the save pool of a harbour keeps them (03_tile R134; 10_harbours R336; 06_mill
R241). -/
namespace Sys2Proof.Machine
open Sys2Proof

/-! The bytes of a record (R134) -/

/-- Sideband word of an entry (R111). -/
def sideband (e : AccEntry) : Nat :=
  e.anchor.toNat + (if e.range then 512 else 0) + (match e.mode with | .unused => 0 | .exact => 1024 | .fp32 => 2048)

/-- The items of a record with their sizes, in the order of their bytes: header, sequencer, DMA and signal-port contexts, local-store
partition, accumulator rows, their sidebands, vector register groups (R134). -/
def SavedRec.items (r : SavedRec) : List Nat :=
  [64, 1024, 2 * 512, 128, r.lsGranules * 4096, r.rowGroups * 8192, r.rowGroups * 1024, r.regGroups * 1024]

/-- The bytes of a record's partitions, which follow the 2,240 bytes of its header and contexts (R134). -/
def SavedRec.partitions (r : SavedRec) : List Byte :=
  let es := (List.range (r.rowGroups * 8 * 64)).map fun i => tabGet ({} : AccEntry) r.ctx.acc i
  (List.range (r.lsGranules * 4096)).map (fun i => tabGet 0 r.ctx.ls i)
  ++ es.flatMap (fun e => natBytes 16 e.value.toNat) ++ es.flatMap (fun e => natBytes 2 (sideband e))
  ++ (List.range (r.regGroups * 8 * 32)).flatMap fun i => natBytes 4 (tabGet (0 : Word32) r.ctx.vec i).toNat

/-- Bytes of a record that the spec lists without a layout: free values (log entries 3 and 132). -/
def State.unlaid (s : State) (n : Nat) : List Byte := (List.range n).map fun i => (Config.freeWord (s.freeTick + i)).truncate 8

/-- The bytes of a record: its header and contexts have no layout; a granule with a poisoned word of the local-store partition carries
poison (R134, R381). -/
def State.recordBeats (s : State) (r : SavedRec) : Beats :=
  let bs := s.unlaid 2240 ++ r.partitions
  (List.range (r.size / 64)).map fun g =>
    ((bs.drop (64 * g)).take 64, decide (35 ≤ g) && r.ctx.lsPoison.any fun w => w / 8 == g - 35)

/-- The bytes of a Mill slot's record: a 64-byte header without layout, the query data, and the list, whose entries stand as in a result
list (R230, R241, log entry 132). -/
def State.slotBeats (s : State) (q : Query) : Beats :=
  let bs := s.unlaid 64 ++ q.data ++ q.list.flatMap fun x => wordBytes (w64 (x.2 + (x.1 % 2 ^ 24).toNat * 2 ^ 40))
  (List.range ((bs.length + 63) / 64)).map fun g => let b := (bs.drop (64 * g)).take 64; (b ++ List.replicate (64 - b.length) 0, false)

/-! The save pool (R336) -/

/-- Reserve of a save pool, MiB (R336). -/
def Harbour.reserveMib (h : Harbour) : Nat :=
  h.tiles.length + ((h.millSlots.map (·.2)).sum * 16 + 1023) / 1024

/-- Eviction area of a harbour's pool, bytes (R336). -/
def Harbour.evictArea (h : Harbour) : Nat := (h.poolMib - h.reserveMib) * 1048576

/-- Start of a harbour's save pool: physical channel of its logical channel 0, and byte (R336). -/
def State.poolByte (s : State) (h : Nat) : Option (Nat × Nat) :=
  match s.harbour h, s.pacingByte h with
  | some x, some (c, b) => some (c, b - x.poolMib * 1048576)
  | _, _ => none

/-- Pieces of a range that a list of pieces, in rising order, leaves free. -/
def freePieces (lo hi : Nat) : List (Nat × Nat) → List (Nat × Nat)
  | [] => if lo < hi then [(lo, hi - lo)] else []
  | (b, n) :: t =>
    if b + n ≤ lo ∨ hi ≤ b then freePieces lo hi t
    else (if lo < b then [(lo, b - lo)] else []) ++ freePieces (b + n) hi t

/-- The first `n` bytes of a list of pieces. -/
def takePieces : List (Nat × Nat) → Nat → List (Nat × Nat)
  | [], _ => []
  | (b, k) :: t, n => if n = 0 then [] else if n ≤ k then [(b, n)] else (b, k) :: takePieces t (n - k)

/-- A piece goes into a list of pieces in rising order. -/
def putPiece (x : Nat × Nat) : List (Nat × Nat) → List (Nat × Nat)
  | [] => [x]
  | y :: t => if x.1 < y.1 then x :: y :: t else y :: putPiece x t

/-- The lowest free bytes of a part of the pool, `lo` to `hi` from the pool's start (log entry 132). -/
def State.poolRoom (s : State) (h lo hi n : Nat) : List (Nat × Nat) :=
  match s.poolByte h, s.harbour h with
  | some (_, b), some x =>
    let used := ((x.poolReserve ++ x.poolEvicted).flatMap (·.poolAt)).foldl (fun t p => putPiece p t) []
    takePieces (freePieces (b + lo) (b + hi) used) n
  | _, _ => []

/-- Write beats over pieces of a harbour's pool. -/
def State.poolWrite (h : Nat) (at_ : List (Nat × Nat)) (data : Beats) (s : State) : State :=
  match s.poolByte h with
  | none => s
  | some (c, _) =>
    let granules := at_.flatMap fun p => (List.range (p.2 / 64)).map fun i => p.1 + 64 * i
    { foldState (granules.zip data) (fun a x => a.hbmPut c x.1 x.2.1 x.2.2) s with freeTick := s.freeTick + 2240 }

/-- A record goes into a part of its harbour's pool: where it lies there, and the state with its bytes written. -/
def State.poolPut (h lo hi : Nat) (r : SavedRec) (s : State) : SavedRec × State :=
  let at_ := s.poolRoom h lo hi r.size
  ({ r with poolAt := at_ }, s.poolWrite h at_ (s.recordBeats r))

/-- The share of a place in the reserve: 1 MiB, in the order of the local logical tiles (R336, log entry 132). -/
def State.reservePut (h p : Nat) (r : SavedRec) (s : State) : SavedRec × State :=
  let i := s.logicalTile h p
  s.poolPut h (i * 1048576) ((i + 1) * 1048576) r

/-- The eviction area: what follows the reserve (R336, log entry 132). -/
def State.evictPut (h : Nat) (r : SavedRec) (s : State) : SavedRec × State :=
  match s.harbour h with
  | none => (r, s)
  | some x => s.poolPut h (x.reserveMib * 1048576) (x.poolMib * 1048576) r

/-- A Mill slot's record goes to a share of the reserve of its local logical channel `c`: 16 KiB, after the places' shares, channel by
channel, the `rank`-th of the channel (R241, R336, log entry 132). -/
def State.slotRecordPut (h c rank : Nat) (q : Query) (s : State) : State :=
  match s.harbour h, s.poolByte h with
  | some x, some (_, b) =>
    let before := ((x.channels.take c).map fun m => tabGet 0 x.millSlots m).sum
    let lo := b + x.tiles.length * 1048576 + (before + rank) * 16384
    let bs := s.slotBeats q
    s.poolWrite h [(lo, bs.length * 64)] bs
  | _, _ => s

end Sys2Proof.Machine
end

