-- ==== Sys2Proof/Machine/MillOps.lean ====
section
/-! DEFINITION. The Mills: scan payloads and placement, records, predicates and scores, lists (06_mill). -/
namespace Sys2Proof.Machine
open Sys2Proof

/-- Bytes of a result list (R230). -/
def listStride (k : Nat) : Nat := (64 + 8 * k + 63) / 64 * 64

/-- Bytes of a query entry (R225). -/
def queryStride (mode words : Nat) : Nat := if mode = 1 then 64 + 256 * words else 64 + (8 * words + 63) / 64 * 64

/-- Bytes of query data (R220). -/
def queryBytes (mode words : Nat) : Nat := if mode = 1 then 256 * words else 8 * words

/-- Pin entry `i` as an HBM window, when it names a pinned object of the context (R266). -/
def State.hbmPin (s : State) (e : Launch) (i : Nat) : Option Window :=
  let a := wordAt e.ext (2 * i)
  let n := bits (wordAt e.ext (2 * i + 1)) 0 48
  if e.pinCount ≤ i ∨ bits a 57 2 ≠ 2 then none
  else match s.objAt e.context (bits a 0 57) n with
  | none => none
  | some (o, da) => if s.objPinned o then some ⟨.hbm, da, n, bit a 59, bit a 60, o⟩ else none

/-- The scan that a manifest's payload describes, when the payload meets R224 for a merge mode. -/
def State.scanOf (s : State) (e : Launch) (hostMerge : Bool) : Option Scan :=
  let w (i : Nat) := wordAt e.entry (8 + i)
  let mode := bits (w 0) 0 2
  let q := bits (w 0) 8 7
  let k := bits (w 0) 16 11
  let cw := bits (w 0) 32 6
  let first := bits (w 1) 0 20
  let count := bits (w 1) 20 20
  let limit := if mode = 0 then 16 else if mode = 1 then 8 else 32
  let reserved := bits (w 0) 2 6 + bits (w 0) 15 1 + bits (w 0) 27 5 + bits (w 0) 38 26 + bits (w 1) 40 24
    + bits (w 2) 4 4 + bits (w 2) 56 8 + bits (w 3) 4 4 + bits (w 3) 56 8 + bits (w 4) 4 4 + bits (w 4) 56 8
  let channels := match s.harbour e.harbour with | some h => h.spanChannels | none => 0
  if e.payloadWords < 5 ∨ mode = 3 ∨ q = 0 ∨ 64 < q ∨ k = 0 ∨ 1024 < k ∨ cw = 0 ∨ limit < cw ∨ count = 0 ∨ reserved ≠ 0
      ∨ channels < first + count ∨ bits (w 2) 8 48 % 8 ≠ 0 ∨ bits (w 3) 8 48 % 64 ≠ 0 ∨ bits (w 4) 8 48 % 64 ≠ 0 then none
  else match s.hbmPin e (bits (w 2) 0 4), s.hbmPin e (bits (w 3) 0 4), s.hbmPin e (bits (w 4) 0 4) with
  | some ws, some wq, some wr =>
    let lists := if hostMerge then count * q else q
    if wr.len < bits (w 4) 8 48 + lists * listStride k then none
    else some { mode := mode, q := q, k := k, codeWords := cw, chFirst := first, chCount := count,
                segPin := bits (w 2) 0 4, segOff := bits (w 2) 8 48, qryPin := bits (w 3) 0 4, qryOff := bits (w 3) 8 48,
                resPin := bits (w 4) 0 4, resOff := bits (w 4) 8 48, hostMerge := hostMerge, det := e.det,
                windows := [ws, wq, wr] }
  | _, _, _ => none

/-- Read a part of a scan's pinned object: 0 segment table, 1 query block, 2 result area. -/
def State.scanRead (s : State) (h : Nat) (x : Scan) (i off n : Nat) : Option (List Byte × Bool) :=
  match x.windows[i]? with
  | none => none
  | some w => if off + n ≤ w.len then s.readH h (w.addr + off) n else none

/-- Count the stored poison of a part of a scan's pinned object (R377). -/
def State.scanPoison (h : Nat) (x : Scan) (i off n : Nat) (s : State) : State :=
  match x.windows[i]? with | none => s | some w => s.readEffectH h (w.addr + off) n

/-! Placement (R226) -/

/-- Free slots of a Mill bound to a harbour, those that a procedure drains left out (R347). -/
def State.freeMillSlots (s : State) (m h : Nat) : List Nat :=
  ((s.boundSlots m h).filter fun k => tabGet .free (s.mill m).slots k == .free).filter fun k => !(s.leavingSlots m h).contains k

/-- Slots that a scan may hold on a Mill under its class cap (R429). -/
def State.millCap (s : State) (e : Launch) (m : Nat) : Nat :=
  (tabGet {} s.rg.inForce e.harbour).cmax.getD (bits (wordAt e.entry 0) 32 3) 0 * (s.boundSlots m e.harbour).length / 8

/-- Put a scan on Q free slots of one Mill. -/
def State.loadMill (l : Nat) (x : Scan) (h : Nat) (m i : Nat) (s : State) : State :=
  let ks := (s.freeMillSlots m h).take x.q
  s.onMill m fun y => { y with
    slots := ks.foldl (fun t k => tabPut t k .loading) y.slots
    scans := tabPut y.scans l { entry := l, idx := i, slots := ks } }

/-- Place a ready scan on all its Mills of this module, or on none. A payload that no longer meets R224, a failed Mill or a retired
channel in its range completes it with FAULT (R224, R226, R228, R522, R523). -/
def State.placeScan (l : Nat) (s : State) : State :=
  match s.launch l with
  | none => s
  | some e =>
    let fail := (s.onLaunch l fun e => { e with status := some (worse e.status .fault), capState := 1 }).complete l
    match s.scanOf e (s.hostMode 1) with
    | none => fail
    | some x =>
      let (first, chans) := s.scanLocal e.harbour x
      if chans.any fun m => (s.mill m).failed || (s.chan m).retired then fail
      else if chans.any (s.restoreAhead 1) then s
      else if chans.all fun m => decide (x.q ≤ (s.freeMillSlots m e.harbour).length ∧ x.q ≤ s.millCap e m) then
        let s1 := foldState (chans.zipIdx first) (fun a c => a.loadMill l x e.harbour c.1 c.2) s
        { s1.onLaunch l fun e => { e with state := .active, unplaced := 0, scan := some l, started := true } with
          scans := tabPut s1.scans l x }
      else s

/-! Queries -/

/-- A range compare from its control and bounds words (R225). -/
def rangeCmp (c b : Word) : RangeCmp :=
  { enable := bit c 11, lsb := bits c 0 6, width := bits c 6 5 + 1, lo := bits b 0 32, hi := bits b 32 32 }

/-- A query entry: its header and data, or `none` when the header is malformed (R225). -/
def parseQuery (ws : List Word) (data : List Byte) : Option Query :=
  let w := wordAt ws
  let bad := 64 < bits (w 1) 0 6 + bits (w 1) 6 5 + 1 ∨ 64 < bits (w 3) 0 6 + bits (w 3) 6 5 + 1 ∨ 32 < bits (w 5) 0 6
    ∨ bits (w 0) 32 32 + bits (w 1) 12 52 + bits (w 3) 12 52 + bits (w 5) 8 24 + bits (w 6) 0 64 + bits (w 7) 0 64 ≠ 0
  if bad then none
  else some { tag := bits (w 0) 0 32, a := rangeCmp (w 1) (w 2), b := rangeCmp (w 3) (w 4), classLsb := bits (w 5) 0 6,
              classMode := bits (w 5) 6 2, mask := bits (w 5) 32 32, data := data }

/-- The predicate of a query on a record's tag (R222). -/
def passes (tag : Nat) (q : Query) : Bool :=
  let ok (r : RangeCmp) : Bool := !r.enable || decide (r.lo ≤ bitsN tag r.lsb r.width ∧ bitsN tag r.lsb r.width ≤ r.hi)
  let c := bitsN tag q.classLsb 32 &&& q.mask
  ok q.a && ok q.b && (match q.classMode with
    | 1 => c != 0
    | 2 => c == q.mask
    | 3 => c == 0
    | _ => true)

/-- A signed byte. -/
def sbyte (b : Byte) : Int := b.toInt

/-- Ones in a number below 256. -/
def popcount (n : Nat) : Nat := ((List.range 8).map fun i => bitsN n i 1).sum

/-- The score of a code under a mode (R220). -/
def score (mode : Nat) (query code : List Byte) : Int :=
  match mode with
  | 0 => ((query.zip code).map fun x => popcount (x.1.toNat ^^^ x.2.toNat)).sum
  | 1 => (code.zipIdx.map fun x =>
      (query.getD (32 * x.2 + x.1.toNat % 16) 0).toNat + (query.getD (32 * x.2 + 16 + x.1.toNat / 16) 0).toNat).sum
  | _ => ((query.zip code).map fun x => sbyte x.1 * sbyte x.2).sum

/-- Rank key of a score (R220). -/
def rankKey (mode : Nat) (x : Int) : Int := if mode = 2 then -x else x

/-- An entry stands before another: by key, then by identifier; with deterministic mode off the order of equal keys is
open (R221, R240, log entry 6). -/
def before (mode : Nat) (det : Bool) (a b : Int × Nat) : Bool :=
  if rankKey mode a.1 = rankKey mode b.1 then (if det then decide (a.2 < b.2) else Config.tieOrder a.2 b.2)
  else decide (rankKey mode a.1 < rankKey mode b.1)

/-- Insert an entry into an ordered list. -/
def insertEntry (mode : Nat) (det : Bool) (x : Int × Nat) : List (Int × Nat) → List (Int × Nat)
  | [] => [x]
  | y :: t => if before mode det x y then x :: y :: t else y :: insertEntry mode det x t

/-- A candidate beats the query's current k-th key, the largest possible until the list holds K entries (R234). -/
def Query.beaten (q : Query) (x : Scan) (c : Int × Nat) : Bool :=
  decide (q.list.length < x.k) || (match q.list.getLast? with | some y => before x.mode x.det c y | none => true)

/-- One record under one query: what beats the k-th key enters the candidate buffer (R222, R223, R234, R242). -/
def Query.take (q : Query) (x : Scan) (poison : Bool) (tag ident : Nat) (code : List Byte) : Query :=
  if poison then { q with itemsRead := q.itemsRead + 1, poisonSkipped := q.poisonSkipped + 1 }
  else if !passes tag q then { q with itemsRead := q.itemsRead + 1 }
  else
    let c := (score x.mode q.data code, ident)
    { q with itemsRead := q.itemsRead + 1, itemsPassed := q.itemsPassed + 1, buf := if q.beaten x c then q.buf ++ [c] else q.buf }

/-- The list absorbs the oldest candidate of its buffer (R234). -/
def Query.absorb (x : Scan) (q : Query) : Query :=
  match q.buf with
  | [] => q
  | c :: rest => { q with list := (insertEntry x.mode x.det c q.list).take x.k, buf := rest }

/-- The list absorbs every candidate of its buffer. -/
def Query.settle (x : Scan) (q : Query) : Query :=
  { q with list := q.buf.foldl (fun t c => (insertEntry x.mode x.det c t).take x.k) q.list, buf := [] }

/-- Some candidate buffer of a scan on a Mill is full (R234). -/
def MillScan.full (z : MillScan) : Bool := z.queries.any fun q => decide (64 ≤ q.buf.length)

/-- BACKPRESSURE follows the candidate buffers; each episode is counted (R234, R248). -/
def State.pressure (m : Nat) (s : State) : State :=
  let full := (s.mill m).scans.any fun z => z.2.full
  if full = (s.mill m).backpressure then s
  else s.onMill m fun y => { y with backpressure := full, cStalls := if full then y.cStalls + 1 else y.cStalls }

/-- End a whole scan: every Mill aborts; the context is kept (R218, R224, R243, R244). -/
def State.endScan (l : Nat) (st : Status) (s : State) : State := s.abortLaunch l st none

/-- One record of a Mill's current descriptor (R217, R242). -/
def State.millOne (m l : Nat) (x : Scan) (tagP idE : Bool) (stride addr base ix : Nat) (s : State) : State :=
  let ((bs, p), s1) := s.serveRead m (addr + ix * stride * 8) (stride * 8)
  let ws := bytesWords stride bs
  let tag := if tagP then (wordAt ws 0).toNat else 0
  let ident := if idE then bits (wordAt ws (if tagP then 1 else 0)) 0 40 else (base + ix) % 2 ^ 40
  let skip := ((if tagP then 1 else 0) + (if idE then 1 else 0)) * 8
  let code := (bs.drop skip).take (x.codeWords * 8)
  s1.onMill m fun y => { y with
    records := y.records + 1
    cPoison := if p then y.cPoison + 1 else y.cPoison
    scans := tabMod {} y.scans l fun z => { z with recIx := ix + 1, queries := z.queries.map fun q => q.take x p tag ident code } }

/-- Records `ix` to `ix + n − 1`, until a candidate buffer is full (R234). -/
def State.millMany (m l : Nat) (x : Scan) (tagP idE : Bool) (stride addr base ix : Nat) : Nat → State → State
  | 0, s => s
  | n + 1, s =>
    if (match tabFind (s.mill m).scans l with | some z => z.full | none => true) then s
    else State.millMany m l x tagP idE stride addr base (ix + 1) n (s.millOne m l x tagP idE stride addr base ix)

/-- A segment of this Mill with records left: TAG_PRESENT, ID_EXPLICIT, STRIDE, CH_ADDR, BASE_ID and COUNT (R216). -/
structure MillSeg where
  tagP : Bool
  idE : Bool
  stride : Nat
  addr : Nat
  base : Nat
  count : Nat
  deriving DecidableEq, Repr

/-- A Mill passes over descriptors, checking each as it reaches it, to the next one that gives it a record, or to the end of the table
(R218, R243). The data space of a channel of another module is checked there. -/
def State.millSeek (m l : Nat) (h : Nat) (x : Scan) : Nat → State → Option MillSeg × State
  | 0, s => (none, s)
  | fuel + 1, s =>
    match tabFind (s.mill m).scans l with
    | none => (none, s)
    | some z =>
      match s.scanRead h x 0 x.segOff 32 with
      | none => (none, s.endScan l .fault)
      | some (hb, hp) =>
        let segments := bits (wordAt (bytesWords 4 hb) 0) 0 32
        if hp then (none, (s.scanPoison h x 0 x.segOff 32).endScan l .poison)
        else if segments ≤ z.seg then (none, s)
        else match s.scanRead h x 0 (x.segOff + 32 + 32 * z.seg) 32 with
        | none => (none, s.endScan l .fault)
        | some (db, dp) =>
          let w := wordAt (bytesWords 4 db)
          let lch := bits (w 0) 0 20
          let stride := bits (w 0) 24 6
          let need := bits (w 0) 20 1 + bits (w 0) 21 1 + x.codeWords
          let addr := bits (w 1) 0 48
          let count := bits (w 3) 0 40
          let inScan := decide (x.chFirst ≤ lch ∧ lch < x.chFirst + x.chCount)
          let (first, chans) := s.scanLocal h x
          let here := if lch - x.chFirst < first then none else chans[lch - x.chFirst - first]?
          let past : Bool := match here with | some c => decide (s.dataBytes c < addr + count * stride * 8) | none => false
          let reserved := bits (w 0) 22 2 + bits (w 0) 30 34 + bits (w 1) 48 16 + bits (w 2) 40 24 + bits (w 3) 40 24
          let next (a : State) : State := a.onMill m fun y => { y with
            scans := tabMod {} y.scans l fun z => { z with seg := z.seg + 1, recIx := 0 } }
          if dp then (none, (s.scanPoison h x 0 (x.segOff + 32 + 32 * z.seg) 32).endScan l .poison)
          else if !inScan then State.millSeek m l h x fuel (next s)
          else if stride < need ∨ addr % 64 ≠ 0 ∨ reserved ≠ 0 ∨ past then (none, s.endScan l .fault)
          else if lch ≠ x.chFirst + z.idx ∨ count ≤ z.recIx then State.millSeek m l h x fuel (next s)
          else (some ⟨bit (w 0) 20, bit (w 0) 21, stride, addr, bits (w 2) 0 40, count⟩, s)

/-- Number of segments in a scan's table. -/
def State.scanSegments (s : State) (h : Nat) (x : Scan) : Nat :=
  match s.scanRead h x 0 x.segOff 32 with
  | none => 0
  | some (b, _) => bits (wordAt (bytesWords 4 b) 0) 0 32

/-- One Mill cycle of a scan: each list absorbs a candidate, and up to eight records of 64 bytes in all are taken, none while a
candidate buffer is full (R218, R234). -/
def State.millStep (m l : Nat) (h : Nat) (x : Scan) (z : MillScan) (s : State) : State :=
  let s1 := s.onMill m fun y => { y with
    scans := tabMod {} y.scans l fun z => { z with queries := z.queries.map (Query.absorb x) } }
  if z.full then s1.pressure m
  else match s1.millSeek m l h x (s.scanSegments h x + 1 - z.seg) with
  | (none, s2) => s2.pressure m
  | (some g, s2) =>
    let ix := match tabFind (s2.mill m).scans l with | some z => z.recIx | none => 0
    (s2.millMany m l x g.tagP g.idE g.stride g.addr g.base ix (min (g.count - ix) (max 1 (8 / g.stride)))).pressure m

/-- The lists of a scan on a Mill absorb what their candidate buffers hold. -/
def State.millLists (m l : Nat) (x : Scan) (s : State) : State :=
  (s.onMill m fun y => { y with
    scans := tabMod {} y.scans l fun z => { z with queries := z.queries.map (Query.settle x) } }).pressure m

/-- The slots of a scan on a Mill take a state. -/
def State.millSlots (m l : Nat) (st : MillSt) (s : State) : State :=
  s.onMill m fun y =>
    match tabFind y.scans l with
    | none => y
    | some z => { y with slots := z.slots.foldl (fun t k => tabPut t k st) y.slots
                         scans := tabPut y.scans l { z with st := st } }

/-- A scan leaves a Mill: its slots go to ZEROING (R232). -/
def State.millLeave (m l : Nat) (s : State) : State :=
  ((s.millSlots m l .zeroing).onMill m fun y => { y with scans := tabDel y.scans l }).pressure m

/-! Scans over several modules (R224, R237, R337) -/

/-- Members of a harbour with the logical channels they hold: node, first logical channel, count. -/
def memberSpans : Nat → List (Nat × Nat) → List (Nat × Nat × Nat)
  | _, [] => []
  | b, (n, c) :: t => (n, b, c) :: memberSpans (b + c) t

/-- The other modules that hold a channel of a scan's range: node, first scan channel index, count (R337). -/
def State.scanOthers (s : State) (h : Nat) (x : Scan) : List (Nat × Nat × Nat) :=
  match s.harbour h with
  | none => []
  | some e =>
    let all := (memberSpans 0 (e.peers.map fun p => (p.node, p.channels))).zipIdx.filter fun y => y.2 != e.member
    all.filterMap fun y =>
      let lo := max x.chFirst y.1.2.1
      let hi := min (x.chFirst + x.chCount) (y.1.2.1 + y.1.2.2)
      if lo < hi then some (y.1.1, lo - x.chFirst, hi - lo) else none

/-- The node of the module that merges a scan, unless it is this one: the one with the scan's lowest logical channel (R237). -/
def State.scanRoot (s : State) (h : Nat) (x : Scan) : Option Nat := ((s.scanOthers h x).find? fun y => y.2.1 == 0).map (·.1)

/-! Lists and the merge (R230, R236–R240) -/

/-- A result list in memory (R230). -/
def listWords (k : Nat) (tag items passed skipped lch : Nat) (es : List (Int × Nat)) : List Word :=
  let es := es.take k
  [w64 (tag + es.length * 2 ^ 32), w64 items, w64 passed, w64 skipped, w64 lch, 0, 0, 0]
  ++ es.map fun x => w64 (x.2 + (x.1 % 2 ^ 24).toNat * 2 ^ 40)

/-- Write a list at an index of the result area. -/
def State.writeList (h : Nat) (x : Scan) (i : Nat) (ws : List Word) (s : State) : State :=
  match x.windows[2]? with
  | none => s
  | some w => s.writeH h (w.addr + x.resOff + i * listStride x.k) (ws.flatMap wordBytes) false

/-- Merge the lists of one query, in ascending scan channel index (R239). -/
def mergeLists (x : Scan) (ls : List Query) : Query :=
  { tag := match ls.head? with | some q => q.tag | none => 0
    list := ((ls.flatMap (·.list)).foldl (fun t e => insertEntry x.mode x.det e t) []).take x.k
    itemsRead := (ls.map (·.itemsRead)).sum
    itemsPassed := (ls.map (·.itemsPassed)).sum
    poisonSkipped := (ls.map (·.poisonSkipped)).sum }

/-- A received die-level list (R237). -/
def queryOfList (tag : Nat) (m : MillList) : Query :=
  { tag := tag, list := m.entries, itemsRead := m.itemsRead, itemsPassed := m.itemsPassed, poisonSkipped := m.poisonSkipped }

/-- An aborting scan's issued reads have returned: its slots go to ZEROING, and the launch completes when its last Mill
has (R232, R244). -/
def State.millAborted (mill entry : Nat) (s : State) : State :=
  match tabFind (s.mill mill).scans entry with
  | none => s
  | some z =>
    if z.st ≠ .aborting then s
    else
      let s1 := s.millLeave mill entry
      if s1.stillBusy entry then s1
      else s1.complete entry

end Sys2Proof.Machine
end

