-- ==== Sys2Proof/Machine/PlaceOps.lean ====
section
/-! DEFINITION. Placement: which places take a launch, evictions, the order of a plan and the reserving gang
(05_execution_model, R103, R135, R205–R207, R226). -/
namespace Sys2Proof.Machine
open Sys2Proof

/-- A place of a harbour that takes placements (R46, R94, R127, R341, R512, R520). -/
def State.placeUsable (s : State) (h p : Nat) : Bool :=
  let x := s.place p
  let c := s.cluster (clusterOf p)
  let t := s.tile (s.servingTile p)
  s.placeHarbour p == some h && s.placePresent p && !x.outOfService && !x.draining && !t.fenced && !x.holdFailed
  && !c.gated && c.request != some true && c.accepts && !c.inReset && !t.failed && !t.inReset && !t.retired

/-- The launches resident on a place. -/
def State.residents (s : State) (p : Nat) : List Launch := (s.place p).slots.filterMap fun k => s.launch k.2.entry

/-- A part of a launch fits on a place (R103): a slot is free and its partitions fit in what remains. -/
def State.fits (s : State) (p : Nat) (e : Launch) : Bool :=
  let rs := s.residents p
  decide ((s.place p).slots.length < 32) && decide ((rs.map (·.lsGranules)).sum + e.lsGranules ≤ 192)
  && decide ((rs.map (·.rowGroups)).sum + e.rowGroups ≤ 8) && decide ((rs.map (·.regGroups)).sum + e.regGroups ≤ 8)

/-- Tag that part `p` of a launch wants for input tag `t`; 0 = none (R204). -/
def Launch.wantedTag (e : Launch) (t p : Nat) : Nat :=
  let w := e.inTag t
  if w = 0 then 0 else if e.tagMode t then (w + p) % 2 ^ 40 else w

/-- The place where a part's record was saved. -/
def PartState.savedOn : PartState → Option Nat
  | .heap p | .pool p => some p
  | _ => none

/-- Score of a place for a part (R206), with the tags that the last plan read (R205). -/
def State.placeScore (s : State) (e : Launch) (part p : Nat) : Nat :=
  let saved := if e.state = .saved ∧ (e.parts[part]?.bind PartState.savedOn) = some p then 32 else 0
  let tags := (List.range 4).filter fun i =>
    let w := e.wantedTag i part
    decide (w ≠ 0) && (s.place p).planTags.any fun t => t.tag == w
  saved + 4 * tags.length

/-- The best place of a part: the higher score, then the fewer slots in use, then the lower logical number (R206). -/
def State.bestPlace (s : State) (e : Launch) (tiles : List Nat) (chosen : List (Nat × Nat)) (part : Nat) (positive : Bool) :
    Option Nat :=
  let cands := if e.state = .saved ∧ e.holdBound then
      (match e.parts[part]?.bind PartState.savedOn with | some p => tiles.filter (· == p) | none => [])
    else tiles
  let ok := cands.filter fun p => !(chosen.any fun c => c.2 == p) && s.fits p e && (!positive || decide (0 < s.placeScore e part p))
  let key (p : Nat) : Nat := s.placeScore e part p * 64 + (32 - (s.place p).slots.length)
  (ok.foldl (fun (b : Option Nat) p => match b with
    | none => some p
    | some q => if key q < key p then some p else b) none)

/-- The parts of a launch that placement must find a place for. -/
def Launch.toPlace (e : Launch) : List Nat :=
  (List.range e.gang).filter fun i => match e.parts[i]? with
    | none | some .unplaced | some (.heap _) | some (.pool _) => true
    | _ => false

/-- Places for every part of a launch, or none (R176, R206). -/
def State.choosePlaces (s : State) (e : Launch) : Option (List (Nat × Nat)) :=
  let own (p : Nat) : Bool := e.state == .saved && e.holdBound && s.shrinks p
    && (s.onPlace p fun x => { x with draining := false }).placeUsable e.harbour p
  let tiles := match s.harbour e.harbour with
    | some h => h.tiles.filter fun p => (s.placeUsable e.harbour p || own p)
        && (!s.restoreAhead 0 p || (e.state == .saved && e.holdBound))
    | none => []
  let held := e.parts.zipIdx.filterMap fun x => match x.1 with | .slot p _ => some (x.2, p) | _ => none
  let todo := e.toPlace
  let pass1 := todo.foldl (fun ch i => match s.bestPlace e tiles ch i true with | some p => ch ++ [(i, p)] | none => ch) held
  let pass2 := todo.foldl (fun (o : Option (List (Nat × Nat))) i => o.bind fun ch =>
    if ch.any (fun c => c.1 == i) then some ch else (s.bestPlace e tiles ch i false).map fun p => ch ++ [(i, p)]) (some pass1)
  pass2.map fun ch => ch.drop held.length

/-! Save heaps and evictions (R135, R336) -/

/-- Bytes of a place's save heap that count in the inequality of R135: stored records, space being zeroed, and the
largest record of every resident launch. -/
def State.heapLoad (s : State) (p : Nat) : Nat :=
  ((s.place p).heap.map (·.size)).sum + (s.place p).zeroing.sum + ((s.residents p).map (·.recordSize)).sum

/-- How many of the oldest records must go so that `need` bytes are freed. -/
def evictCount : List Nat → Nat → Nat
  | [], _ => 0
  | z :: t, need => if need = 0 then 0 else 1 + evictCount t (need - z)

/-- Records a place is evicting, oldest first. -/
def Place.evictNow (p : Place) : List SavedRec := p.heap.take p.evicting

/-- Free bytes of a harbour's eviction area, evictions under way counted. -/
def State.evictFree (s : State) (h : Nat) : Nat :=
  match s.harbour h with
  | none => 0
  | some x => x.evictArea - ((x.poolEvicted.map (·.size)).sum
      + (x.tiles.map fun p => ((s.place p).evictNow.map (·.size)).sum).sum)

/-- One place of a launch's placement: room under R135, or evictions begun; `false` when the launch must wait. -/
def State.makeRoom (h : Nat) (size p : Nat) (s : State) : Bool × State :=
  if s.heapLoad p + size ≤ 1048576 then (true, s)
  else
    let x := s.place p
    let excess := s.heapLoad p + size - 1048576
    let coming := x.zeroing.sum + (x.evictNow.map (·.size)).sum
    let n := evictCount ((x.heap.drop x.evicting).map (·.size)) (excess - coming)
    let bytes := (((x.heap.drop x.evicting).take n).map (·.size)).sum
    if s.evictFree h < bytes then (false, s.onHarbour h fun y => { y with poolFull := true })
    else (false, s.onPlace p fun y => { y with evicting := y.evicting + n })

/-- Room on every place chosen. -/
def State.makeRooms (h size : Nat) (ps : List Nat) (s : State) : Bool × State :=
  ps.foldl (fun a p => let r := a.2.makeRoom h size p; (a.1 && r.1, r.2)) (true, s)

/-! Putting a launch on its places -/

/-- Lowest free slot of a place. -/
def State.freeSlotOf (s : State) (p : Nat) : Nat :=
  ((List.range 32).find? fun k => (tabFind (s.place p).slots k).isNone).getD 0

/-- One part goes to a slot. -/
def State.putPart (l : Nat) (st : SlotState) (part p : Nat) (s : State) : State :=
  let k := s.freeSlotOf p
  (s.setSlot p k { state := st, entry := l, part := part }).onLaunch l fun e => { e with
    parts := (e.parts ++ List.replicate (e.gang - e.parts.length) PartState.unplaced).set part (.slot p k) }

/-- Place a ready kernel launch, or restore a saved one (R106, R176, R195, R201, R206). -/
def State.placeKernel (l : Nat) (s : State) : State :=
  match s.launch l with
  | none => s
  | some e =>
    match s.choosePlaces e with
    | none => s
    | some ch =>
      let (ok, s1) := s.makeRooms e.harbour e.recordSize (ch.map (·.2))
      if !ok then s1.onLaunch l fun e => { e with evictWait := ch.foldl (fun t c => setIns t c.2) [] }
      else
        let st : SlotState := if e.state = .saved then .restoring else .loading
        (foldState ch (fun a c => a.putPart l st c.1 c.2) s1).onLaunch l fun x => { x with
          state := .active, unplaced := 0, evictWait := []
          budgetLeft := if e.state = .saved then x.budgetCont else x.budgetInit
          resumes := if e.state = .saved then x.resumes + 1 else x.resumes }

/-! Reservations and order (R205, R207, R226) -/

/-- Present places of a harbour outside gated clusters. -/
def State.placesUngated (s : State) (h : Nat) : Nat :=
  match s.harbour h with
  | none => 0
  | some x => (x.tiles.filter fun p => s.placePresent p && (s.place p).cond != .retired && !(s.cluster (clusterOf p)).gated).length

/-- The entry may hold the reservation of its kind: ready, unplaced through two boundaries, and of a size its harbour can
place (R207, R226). -/
def State.mayReserve (s : State) (kind : Nat) (e : Launch) : Bool :=
  e.state == .ready && e.kind == kind && decide (2 ≤ e.unplaced)
  && (if kind = 0 then decide (e.gang ≤ s.placesUngated e.harbour)
      else match s.scanOf e (s.hostMode 1) with
        | none => false
        | some x => (s.scanChannels e.harbour x).all fun m =>
            decide (x.q ≤ (((s.mill m).bound.filter fun b => b.2 == e.harbour)).length))

/-- The harbour's reserving gang, or its reserving scan: the one that has been ready longest (R207, R226). -/
def State.reserving (s : State) (h kind : Nat) : Option Nat :=
  (s.hm.launches.foldl (fun (b : Option (Nat × Nat)) x =>
    if x.2.harbour = h ∧ s.mayReserve kind x.2 then
      (match b with | some (q, y) => if x.2.readySeq < q then some (x.2.readySeq, x.1) else some (q, y)
                    | none => some (x.2.readySeq, x.1))
    else b) none).map (·.2)

/-- The Harbourmaster places launches: an instance is active, no takeover is under way, and the module is ACTIVE (R289,
R291, R478). -/
def State.placing (s : State) : Bool :=
  !s.hm.lostApplied && !s.hm.takeover && s.pw.st == .active && !s.pw.transit

/-- Try to place one entry (R85, R206, R207, R226). -/
def State.tryPlace (l : Nat) (s : State) : State :=
  match s.launch l with
  | none => s
  | some e =>
    if !s.placing ∨ e.timeoutDue then s
    else match e.state with
    | .saved => if e.kind = 0 then s.placeKernel l else s
    | .ready =>
      if e.kind = 0 then (if (s.reserving e.harbour 0).all (· == l) then s.placeKernel l else s)
      else if e.kind = 1 then (if (s.reserving e.harbour 1).all (· == l) then s.placeScan l else s)
      else s
    | _ => s

/-- A stands before B in a plan (R205): saved launches by save, then ready launches in the order their fences were
reached. -/
def planBefore (a b : Launch) : Bool :=
  match a.state, b.state with
  | .saved, .saved => decide (a.savedSeq < b.savedSeq)
  | .saved, _ => true
  | _, .saved => false
  | _, _ => decide (a.readySeq < b.readySeq)

/-- Insert an entry into a plan. -/
def planInsert (x : Nat × Launch) : List (Nat × Launch) → List (Nat × Launch)
  | [] => [x]
  | y :: t => if planBefore x.2 y.2 then x :: y :: t else y :: planInsert x t

/-- Every saved or ready entry that satisfies `p`, in the order of R205. -/
def State.plan (s : State) (p : Launch → Bool) : List Nat :=
  ((s.hm.launches.filter fun x => (x.2.state == .saved || x.2.state == .ready) && p x.2).foldl
    (fun t x => planInsert x t) []).map (·.1)

/-- Nothing of any harbour waits for the eviction area any more, until an attempt finds it full (R336). -/
def State.clearPoolFull (s : State) : State :=
  s.onHb fun m => { m with harbours := m.harbours.map fun h => (h.1, { h.2 with poolFull := false }) }

/-- Launches of a plan that have not been placed start as slots become free (R84, R90, R135). -/
def State.placePlanned (s : State) : State :=
  foldState (s.plan fun e => decide (1 ≤ e.unplaced) || !e.evictWait.isEmpty) (fun a l => a.tryPlace l) s.clearPoolFull

end Sys2Proof.Machine
end

