-- ==== Sys2Proof/Machine/FenceOps.lean ====
section
/-! DEFINITION. Fences, their cache and mirrors, waits and signals, wait cycles, and the settling of launches whose waits
change (09_fences_and_graphs; R269, R273). -/
namespace Sys2Proof.Machine
open Sys2Proof

/-! The fence store (R298–R303) -/

/-- A value reaches a target (R302). -/
def reached (cur v : Word) : Bool := decide ((cur - v).toNat < 2 ^ 63)

/-- The signaller word of a fence (R298). -/
def signallerWord (f : Fence) : Word :=
  w64 ((f.signallers.map fun x => x.2 * 2 ^ (13 * x.1) + 2 ^ (52 + x.1)).sum)

/-- The 32-byte record of a fence (R298). -/
def fenceWords (f : Fence) : List Word :=
  let b (p : Bool) (n : Nat) : Nat := if p then n else 0
  [f.value, f.errFloor,
   w64 (1 + b f.error 2 + b f.abandoned 4 + b f.closed 8 + f.harbour * 16 + f.owner * 2 ^ 16 + f.refs * 2 ^ 32), signallerWord f]

/-- Write a fence object and its record (R297, R298). -/
def State.putFence (fon : Nat) (f : Fence) (s : State) : State :=
  (s.onFu fun u => { u with fences := tabPut u.fences fon f }).put0 (s.fu.storeBase + 32 * fon) (fenceWords f)

/-- Some wait refers to the fence: an unreleased manifest wait of an entry, or an in-kernel wait of a resident or saved part, until it
returns the fence's value to its kernel (R185). -/
def State.fenceWaited (s : State) (fon : Nat) : Bool :=
  s.hm.launches.any (fun l => l.2.state == .waiting && l.2.waits.any fun w => w.fon == fon && !w.released)
  || s.allCtxs.any fun c => match c.wait with | some w => w.fon == fon | none => false

/-- A record whose last reference and last wait are gone is zeroed (R298). -/
def State.reapFence (fon : Nat) (s : State) : State :=
  match s.fence fon with
  | none => s
  | some f =>
    if f.refs ≠ 0 ∨ s.fenceWaited fon then s
    else ((s.onFu fun u => { u with fences := tabDel u.fences fon, cache := u.cache.filter (· != fon) }).onHif fun h => { h with
      exports := h.exports.map fun e => match e.2.2 with
        | some (.fence f _ _) => if f = fon then (e.1, (e.2.1, none)) else e
        | _ => e }).put0 (s.fu.storeBase + 32 * fon) [0, 0, 0, 0]

/-- Write every mirror of a fence (R301). -/
def State.writeMirrors (fon : Nat) (s : State) : State :=
  match s.fence fon with
  | none => s
  | some f =>
    let v := (if f.error then 1 else 0) + (if f.abandoned then 2 else 0)
    foldState (s.fu.space.filter fun x => x.2.valid && x.2.fon == fon && x.2.mirrorVa != 0)
      (fun a x => a.vaWrite (x.1 / 2 ^ 24) x.2.mirrorVa (wordBytes f.value ++ wordBytes (w64 v))) s

/-- Change the context of every resident and saved part. -/
def State.mapCtxs (f : PartCtx → PartCtx) (s : State) : State :=
  let r (x : SavedRec) : SavedRec := { x with ctx := f x.ctx }
  { s with
    places := s.places.map fun p => (p.1, { p.2 with
      slots := p.2.slots.map fun k => (k.1, { k.2 with ctx := f k.2.ctx })
      heap := p.2.heap.map r })
    hb := { s.hb with harbours := s.hb.harbours.map fun h => (h.1, { h.2 with
      poolReserve := h.2.poolReserve.map r, poolEvicted := h.2.poolEvicted.map r }) } }

/-- A wait on a fence with a target is released now, with or without the error bit (R304). -/
def releasedBy (f : Fence) (target : Word) : Bool := f.abandoned || reached f.value target

/-- The error bit of a released wait (R304). -/
def waitErr (f : Fence) (target : Word) : Bool := f.error && !reached f.errFloor target

/-- Release the waits on a fence (R304, R305). -/
def State.releaseWaits (fon : Nat) (s : State) : State :=
  match s.fence fon with
  | none => s
  | some f =>
    let s1 := s.onHm fun h => { h with launches := h.launches.map fun l => (l.1, { l.2 with
      waits := l.2.waits.map fun w =>
        if w.fon == fon && !w.released && releasedBy f w.target then { w with released := true, err := waitErr f w.target }
        else w }) }
    s1.mapCtxs fun c => { c with wait := c.wait.map fun w =>
      if w.fon == fon && !w.released && releasedBy f w.target then { w with released := true, err := waitErr f w.target } else w }

/-- A fence that has been read is abandoned (R303). -/
def State.abandonNow (fon : Nat) (s : State) : State :=
  match s.fence fon with
  | none => s
  | some f =>
    if f.abandoned then s
    else ((s.putFence fon { f with
      errFloor := if f.error then f.errFloor else f.value, error := true, abandoned := true }).writeMirrors fon).releaseWaits fon

/-! The fence cache (R309, R310) -/

/-- The victim of a full cache: the least recently accessed fence that no wait refers to, else the least recent. -/
def State.fenceVictim (s : State) : Option Nat :=
  match s.fu.cache.find? fun f => !s.fenceWaited f with
  | some f => some f
  | none => s.fu.cache.head?

/-- Access a fence: a cached one becomes the most recent; an uncached one is read in the store, where poison abandons it
(R379), and fills the cache as the spill mode allows. -/
def State.touchFence (fon : Nat) (s : State) : State :=
  if s.fu.cache.contains fon then s.onFu fun u => { u with cache := u.cache.filter (· != fon) ++ [fon] }
  else
    let s0 := match s.word0 (s.fu.storeBase + 32 * fon) with
      | some (_, true) => (s.readEffectH 0 (s.fu.storeBase + 32 * fon) 8).abandonNow fon
      | _ => s
    let s1 := s0.onFu fun u => { u with cStoreAccess := u.cStoreAccess + 1, tideAccesses := u.tideAccesses + 1 }
    if s1.fu.cache.length < 65536 then s1.onFu fun u => { u with cache := u.cache ++ [fon] }
    else if s1.hostMode 7 then
      if s1.fu.spillRaised then s1
      else (s1.onFu fun u => { u with spillRaised := true }).event 0x0402 0 0
        [w64 s1.fu.cache.length, w64 s1.fu.tideAccesses]
    else match s1.fenceVictim with
    | none => s1
    | some v => s1.onFu fun u => { u with cache := u.cache.filter (· != v) ++ [fon], cSpills := u.cSpills + 1 }

/-- Abandon a fence, which is read through the cache as any access is (R303, R307, R309). -/
def State.abandonFence (fon : Nat) (s : State) : State := if (s.fence fon).isSome then (s.touchFence fon).abandonNow fon else s

/-- A signal is ignored as stale (R302). -/
def State.staleSignal (fon : Nat) (v cur : Word) (s : State) : State :=
  (s.onFu fun u => { u with cStale := u.cStale + 1 }).event 0x0003 0 0 [w64 fon, v, cur]

/-- Apply a signal (R302). -/
def State.applySignal (fon : Nat) (v : Word) (err : Bool) (s : State) : State :=
  let s0 := s.touchFence fon
  match s0.fence fon with
  | none => s
  | some f =>
    if f.abandoned then s0.staleSignal fon v f.value
    else if v = f.value then s0
    else if 2 ^ 63 ≤ (v - f.value).toNat then s0.staleSignal fon v f.value
    else
      let first := err && !f.error
      ((s0.putFence fon { f with
        errFloor := if first then f.value else f.errFloor, error := f.error || err, value := v }).writeMirrors fon).releaseWaits fon

/-! Graph launches (R320) -/

/-- Nodes whose predecessors have all completed become pending, or complete with DEP_ERROR (R320). -/
def State.advanceNodes (gl : Nat) (g : Graph) : List Nat → State → State
  | [], s => s
  | i :: t, s =>
    match s.launch gl with
    | none => s
    | some e =>
      match e.run with
      | none => s
      | some r =>
        let live := s.hm.launches.any fun x => x.2.node == some (gl, i)
        if (tabFind r.done i).isSome ∨ r.pending.contains i ∨ live then State.advanceNodes gl g t s
        else
          let ps := nodePreds (s.nodeRecord g r.slot i).1
          if !ps.all fun p => (tabFind r.done p.1).isSome then State.advanceNodes gl g t s
          else
            let bad := ps.any fun p => !p.2 && tabFind r.done p.1 != some .ok
            State.advanceNodes gl g t <|
              if bad then (s.onLaunch gl fun x => { x with run := some { r with done := tabPut r.done i .depError } }).unrunSignals gl e r [i]
              else s.onLaunch gl fun x => { x with run := some { r with pending := setIns r.pending i } }

/-- A graph launch goes on: nodes become pending; when every node has completed, the launch completes with the status of
lowest precedence number (R36, R321). -/
def State.advanceGraph (gl : Nat) (s : State) : State :=
  match s.launch gl with
  | none => s
  | some e =>
    match e.run with
    | none => s
    | some r =>
      if e.state = .waiting then s
      else
        let s1 := if e.state = .completing then s
          else match tabFind s.graphs r.graph with
            | none => s
            | some g => s.advanceNodes gl g (List.range r.nodes)
        s1.finishGraph gl

/-! Settling -/

/-- The waits of an entry: every wait released, and the manifest before it in a SERIAL berth completed (R269, R273). -/
def State.waitsDone (s : State) (e : Launch) : Bool :=
  e.waits.all (·.released) && (match e.serialOn with | none => true | some p => (s.launch p).isNone)

/-- A waiting entry whose waits have changed completes with DEP_ERROR or becomes READY; a fence operation completes, and
a launch is placed when slots are free (R85, R265, R269, R278). -/
def State.tryReady (l : Nat) (s : State) : State :=
  match s.launch l with
  | none => s
  | some e =>
    if e.state ≠ .waiting then s
    else if e.waits.any fun w => w.released && w.err && !w.proceed then
      (s.onLaunch l fun e => { e with status := some (worse e.status .depError), state := .completing }).complete l
    else if !s.waitsDone e then s
    else
      let s1 := (s.onLaunch l fun e => { e with state := .ready, readySeq := s.hm.nextSeq, readyTides := 0 }).onHm
        fun h => { h with nextSeq := h.nextSeq + 1 }
      match e.kind with
      | 0 => s1.tryPlace l
      | 1 => s1.tryPlace l
      | 2 => s1.advanceGraph l
      | 3 => (s1.onLaunch l fun e => { e with status := some .ok, state := .completing }).complete l
      | _ => s1

/-- Ascending berth, then ring position (R205). -/
def State.waiters (s : State) : List Nat :=
  ((s.hm.launches.filter fun x => x.2.state == .waiting).foldl (fun (t : List (Nat × Nat)) x =>
    let k := x.2.berth
    (t.takeWhile fun y => decide (y.1 ≤ k)) ++ (k, x.1) :: t.dropWhile fun y => decide (y.1 ≤ k)) []).map (·.2)

/-- One round: waiting entries, graph launches, and unless the plan is late launches of the plan. -/
def State.settleOnce (late : Bool) (s : State) : State :=
  let s1 := foldState s.waiters (fun a l => a.tryReady l) s
  let s2 := foldState (s1.entriesOf fun e => e.kind == 2) (fun a l => a.advanceGraph l) s1
  if late then s2 else s2.placePlanned

/-- Rounds until nothing more can follow. -/
def State.settleRounds (late : Bool) : Nat → State → State
  | 0, s => s
  | n + 1, s =>
    let t := s.settleOnce late
    if t.hm = s.hm then t else State.settleRounds late n t

/-- Records whose last reference and last wait are gone are zeroed (R298). -/
def State.reapFences (s : State) : State := foldState ((s.fu.fences.filter fun f => f.2.refs == 0).map (·.1)) (fun a f => a.reapFence f) s

/-- Everything that follows at once from changed waits, completions and freed slots. -/
def State.settle (s : State) : State := (s.settleRounds false (s.hm.launches.length + 2)).reapFences

/-- The same at a boundary whose plan is late: the launches of the plan wait (R90). -/
def State.settleLate (s : State) : State := (s.settleRounds true (s.hm.launches.length + 2)).reapFences

/-! Wait cycles (R311–R315) -/

/-- The head of a berth: its oldest fetched manifest that has not completed. Graph nodes hold no place in a ring. -/
def State.berthHead (s : State) (b : Nat) : Option (Nat × Launch) :=
  s.hm.launches.find? fun x => x.2.berth == b && x.2.node.isNone

/-- The closed, unreached, not abandoned waits of an entry, as the fences they wait on (R311). -/
def State.closedWaits (s : State) (e : Launch) : List Fence :=
  e.waits.filterMap fun w => if w.released then none else match s.fence w.fon with
    | none => none
    | some f => if f.closed && !f.abandoned then some f else none

/-- The candidates of a snapshot, in ascending berth order (R311). -/
def State.cycleCands (s : State) : List CycleCand :=
  s.berths.filterMap fun b =>
    if !b.2.enable ∨ !b.2.serial then none
    else match s.berthHead b.1 with
    | none => none
    | some (l, e) =>
      let ws := s.closedWaits e
      if e.state ≠ .waiting ∨ ws.isEmpty then none else some ⟨b.1, l, ws.map fun f => f.signallers.map (·.2)⟩

/-- Every signaller of a wait is stuck (R312). -/
def blockedBy (stuck : List CycleCand) (w : List Nat) : Bool := w.all fun b => stuck.any fun c => c.berth == b

/-- Remove candidates that some wait can still release, until none is left to remove (R312). -/
def stuckOf : Nat → List CycleCand → List CycleCand
  | 0, cs => cs
  | n + 1, cs => stuckOf n (cs.filter fun c => c.waits.any (blockedBy cs))

/-- The berths that a candidate's blocked waits name (R312). -/
def cycleEdges (stuck : List CycleCand) (b : Nat) : List Nat :=
  match stuck.find? fun c => c.berth == b with
  | none => []
  | some c => (c.waits.filter (blockedBy stuck)).flatMap id

/-- A path of one or more edges leads to a berth (R312): `seen` grows by the berths reached. -/
def cycleReach (stuck : List CycleCand) : Nat → NSet → NSet
  | 0, seen => seen
  | n + 1, seen => cycleReach stuck n (seen.foldl (fun t b => (cycleEdges stuck b).foldl setIns t) seen)

/-- The members of wait cycles (R312). -/
def cycleMembers (cs : List CycleCand) : List CycleCand :=
  let stuck := stuckOf cs.length cs
  stuck.filter fun c => (cycleReach stuck stuck.length ((cycleEdges stuck c.berth).foldl setIns [])).contains c.berth

/-- Take the wait-graph snapshot of a boundary; in host-assisted mode write it to the cycle buffer and ask the manager
(R83 step 6, R314, R315). -/
def State.takeSnapshot (s : State) : State :=
  if s.hostMode 3 ∧ s.fu.cyclePending then s
  else
    let cs := s.cycleCands
    let s1 := s.onFu fun u => { u with snap := some ⟨s.tide.num, cs⟩, cSnapshots := u.cSnapshots + 1 }
    if !s.hostMode 3 then s1
    else
      let entry (c : CycleCand) : List Word := match s.launch c.entry with
        | none => List.replicate 10 0
        | some e =>
          let ws := (s.closedWaits e).map signallerWord
          e.ident :: w64 ws.length :: (ws ++ List.replicate (8 - ws.length) 0)
      let s2 := s1.put0 s.fu.bufBase ([s.tide.num, w64 cs.length, 0, 0, 0, 0, 0, 0] ++ cs.flatMap entry)
      (s2.onFu fun u => { u with cyclePending := true }).event 0x0401 0 0 [w64 cs.length]

/-- Apply a wait-cycle result (R313). -/
def State.applyCycle (x : CycleResult) (s : State) : State :=
  let ok := x.members.all fun l => match s.launch l with | some e => e.state == .waiting | none => false
  if !ok then s.onFu fun u => { u with cDropped := u.cDropped + 1 }
  else
    let idents := x.members.filterMap fun l => (s.launch l).map fun e => e.ident.toNat
    let s1 := foldState x.members (fun a l => (a.onLaunch l fun e => { e with
      status := some (worse e.status .waitCycle), state := .completing }).stamp l) s
    let s2 := foldState x.members (fun a l => a.complete l) s1
    (s2.onFu fun u => { u with cFound := u.cFound + 1, cMembers := u.cMembers + BitVec.ofNat 16 x.members.length }).eventAt x.tide
      0x0400 0 0 [w64 x.members.length, w64 (idents.min?.getD 0)]

end Sys2Proof.Machine
end

