-- ==== Sys2Proof/Machine/BerthOps.lean ====
section
/-! DEFINITION. Berths: doorbells, the dispatch wheel, the fetch checks, berth control, failover (08_harbourmaster), and
the commands on fences, wait cycles and graph patches (09_fences_and_graphs). -/
namespace Sys2Proof.Machine
open Sys2Proof

/-! Doorbell pages (R258–R263, R308) -/

/-- The master is PCIe function `f`; the manager is function 0. -/
def isFunc (m : Master) (f : Nat) : Bool :=
  match m with | .func n => n == f | .manager => f == 0 | _ => false

/-- The write takes effect on the berth's doorbell page (R258). -/
def State.ownsPage (s : State) (m : Master) (pasid : Option Nat) (b : Nat) : Bool :=
  let x := s.berth b
  decide (b < 8192) && isFunc m x.func && (!x.pasidCheck || pasid == some x.pasid)

/-- A write to a doorbell page is ignored or rejected: DB_REJECT; `rejected` also counts DB_REJECTS, in the status area of an enabled
berth too (R257–R259, R263). -/
def State.dbReject (b : Nat) (rejected : Bool) (s : State) : State :=
  let s1 := s.onHm fun h => { h with cDbReject := h.cDbReject + 1 }
  if !rejected then s1
  else
    let s2 := s1.onBerth b fun x => { x with dbRejects := x.dbRejects + 1 }
    if (s.berth b).enable then s2.statusArea b else s2

/-- A doorbell value is accepted as the producer index or rejected (R259). -/
def State.doorbell (b : Nat) (v : Word32) (s : State) : State :=
  let x := s.berth b
  if (v - x.fetch).toNat ≤ 2 ^ x.log2 ∧ (v - x.producer).toNat ≤ 2 ^ x.log2 then s.onBerth b fun x => { x with producer := v }
  else s.dbReject b true

/-- DB_SUBMIT (R258, R259). -/
def execDbSubmit (m : Master) (pasid : Option Nat) (berth : Nat) (v : Word32) (s : State) : Host.Outcome State Fault Refusal :=
  s.clocked <| if !s.ownsPage m pasid berth ∨ !(s.berth berth).hostSubmit then s.dbReject berth false else s.doorbell berth v

/-- DB_CPL_CONSUMED (R263). -/
def execDbCplConsumed (m : Master) (pasid : Option Nat) (berth : Nat) (v : Word32) (s : State) :
    Host.Outcome State Fault Refusal :=
  s.clocked <| if !s.ownsPage m pasid berth then s.dbReject berth false
    else
      let x := s.berth berth
      if (v - x.cplConsumed).toNat ≤ (x.cplWritten - x.cplConsumed).toNat then s.onBerth berth fun x => { x with cplConsumed := v }
      else s.dbReject berth true

/-- DB_CAP_CONSUMED (R263, R282). -/
def execDbCapConsumed (m : Master) (pasid : Option Nat) (berth : Nat) (v : Word32) (s : State) :
    Host.Outcome State Fault Refusal :=
  s.clocked <| if !s.ownsPage m pasid berth then s.dbReject berth false
    else
      let x := s.berth berth
      if (v - x.capConsumed).toNat ≤ (x.capWritten - x.capConsumed).toNat then s.onBerth berth fun x => { x with capConsumed := v }
      else s.dbReject berth true

/-- DB_FENCE_SIGNAL: the signal of the handle staged on the page is on its way, or is rejected (R299, R308). -/
def execDbFenceSignal (m : Master) (pasid : Option Nat) (berth : Nat) (v : Word) (s : State) : Host.Outcome State Fault Refusal :=
  s.clocked <| if !s.ownsPage m pasid berth then s.dbReject berth false
    else
      let x := s.berth berth
      let reject := s.onFu fun u => { u with cHostReject := u.cHostReject + 1 }
      match s.fenceEnt x.context x.stagedHandle with
      | none => reject
      | some e =>
        match s.fence e.fon with
        | none => reject
        | some f => if !e.signal ∨ f.closed then reject
          else s.onFu fun u => { u with inflight := u.inflight ++ [{ fon := e.fon, value := v, err := x.stagedError }] }

/-! The fetch checks (R264–R267) -/

/-- The manifest has an extension. -/
def Launch.hasExt (e : Launch) : Bool := decide (0 < e.pinCount + e.waitCount + e.signalCount + e.tagCount)

/-- A pin entry resolves (R266). -/
def State.pinOk (s : State) (e : Launch) (i : Nat) : Bool :=
  let a := wordAt e.ext (2 * i)
  let n := wordAt e.ext (2 * i + 1)
  let addr := bits a 0 57
  let len := bits n 0 48
  bits a 61 3 == 0 && bits n 48 16 == 0 && decide (0 < len) && len % 64 == 0 &&
  match bits a 57 2 with
  | 0 => e.kind == 0 && decide (addr + len ≤ e.lsGranules * 4096)
  | 1 => e.kind == 0 && decide (addr + len ≤ 0x1F00000)
  | 2 => (match s.objAt e.context addr len with | some (o, _) => s.objPinned o | none => false)
  | _ => false

/-- A wait entry resolves (R266, R300). -/
def State.waitOk (s : State) (e : Launch) (i : Nat) : Bool :=
  let w := wordAt e.ext (32 + 2 * i)
  bits w 33 31 == 0 && (match s.fenceEnt e.context (BitVec.ofNat 32 (bits w 0 32)) with
    | some x => x.wait && (s.fence x.fon).isSome
    | none => false)

/-- A signal entry names a fence that the context, and this berth, may signal (R266, R299). -/
def State.signalOk (s : State) (e : Launch) (i : Nat) : Bool :=
  let w := wordAt e.ext (48 + 2 * i)
  bits w 32 32 == 0 && (match s.fenceEnt e.context (BitVec.ofNat 32 (bits w 0 32)) with
    | none => false
    | some x => match s.fence x.fon with
      | none => false
      | some f => x.signal && (!f.closed || ((f.signallers.any fun b => b.2 == e.berth) && (s.berth e.berth).serial)))

/-- A wait target lies more than 2⁶³ − 1 ahead of its fence's value (R306). -/
def State.waitFar (s : State) (e : Launch) (i : Nat) : Bool :=
  match s.fenceEnt e.context (BitVec.ofNat 32 (bits (wordAt e.ext (32 + 2 * i)) 0 32)) with
  | none => false
  | some x => match s.fence x.fon with
    | none => false
    | some f => decide ((wordAt e.ext (33 + 2 * i) - f.value).toNat = 2 ^ 63)

/-- Some word of a range lies in a pinned object of the context. -/
def State.inPinned (s : State) (asid va n : Nat) : Bool :=
  match s.objAt asid va n with | some (o, _) => s.objPinned o | none => false

/-- Tiles of a harbour on all its modules (R267, R337). -/
def State.harbourTiles (s : State) (h : Nat) : Nat :=
  match s.harbour h with
  | none => 0
  | some x => x.spanTiles

/-- Reserved header fields are zero, counts and VERSION are in range (R264, R265). -/
def Launch.headerOk (e : Launch) : Bool :=
  let w (i : Nat) := wordAt e.entry i
  bits (w 0) 4 4 == 0 && bits (w 0) 14 2 == 0 && bits (w 0) 56 8 == 1 && bits (w 1) 32 32 == 0 && bits (w 2) 57 7 == 0
  && bits (w 3) 57 7 == 0 && decide (e.waitCount ≤ 8) && decide (e.signalCount ≤ 8)
  && (match e.kind with
    | 0 => w 6 == 0 && w 7 == 0 && decide (e.payloadWords ≤ 56) && decide (e.lsGranules ≤ 192) && decide (e.rowGroups ≤ 8)
        && decide (e.regGroups ≤ 8) && decide (e.pinCount ≤ 16) && decide (e.tagCount ≤ 4)
        && decide ((e.payloadWords * 8 + 4095) / 4096 ≤ e.lsGranules) && bits (w 2) 0 12 == 0
        && (List.range e.tagCount).all fun t => bits (wordAt e.ext (64 + t)) 40 24 == 0
    | 1 => w 6 == 0 && w 7 == 0 && decide (e.payloadWords ≤ 56) && decide (e.pinCount ≤ 16)
    | 2 => bits (w 6) 32 32 == 0 && w 7 == 0 && e.pinCount == 0 && e.tagCount == 0
    | 3 => w 6 == 0 && w 7 == 0
    | _ =>
      let n := bits (w 7) 0 5
      bits (w 7) 5 59 == 0 && decide (1 ≤ n ∧ n ≤ 28) && decide (2 * n ≤ e.payloadWords) && decide (e.payloadWords ≤ 56)
      && (List.range n).all fun i =>
        bits (w (8 + 2 * i)) 10 6 == 0 && bits (w (8 + 2 * i)) 27 5 == 0 && bits (w (8 + 2 * i)) 36 28 == 0)

/-- The Mill scan payload meets R224 in the merge mode now in force, or would in the other (R228). -/
def State.scanPayloadOk (s : State) (e : Launch) : Bool := (s.scanOf e (s.hostMode 1)).isSome

/-- The checks that fail with FAULT (R267). `ext` says whether the extension could be read. -/
def State.faultChecks (s : State) (e : Launch) (ext : Bool) : Bool :=
  let pins := if e.kind = 0 ∨ e.kind = 1 then min e.pinCount 16 else 0
  let ok := e.headerOk && ext && (List.range (min e.waitCount 8)).all (s.waitOk e)
    && (List.range (min e.signalCount 8)).all (s.signalOk e) && (List.range pins).all (s.pinOk e)
    && (match e.kind with
      | 0 => decide (e.gang ≤ s.harbourTiles e.harbour) && s.inPinned e.context (bits (wordAt e.entry 2) 0 57) 8
      | 1 => s.scanPayloadOk e
      | 2 => (match s.graphOf e.context (bits (wordAt e.entry 6) 0 32) with | some (_, g) => !g.unregistering | none => false)
      | _ => true)
  !ok

/-- The first word of the binary, with its poison (R181, R182). -/
def State.binaryWord (s : State) (e : Launch) : Option (Word × Bool) :=
  (s.vaRead e.context (bits (wordAt e.entry 2) 0 57) 8).map fun x => (BitVec.ofNat 64 (leNat x.1), x.2)

/-- The status of a manifest that fails its fetch checks (R36, R267, R268, R379, R464); `none` when it passes. -/
def State.fetchStatus (s : State) (e : Launch) (ext poison : Bool) : Option Status :=
  if s.ras.lost.contains e.context then some .lost
  else
    let add (c : Bool) (st : Status) (o : Option Status) : Option Status := if c then some (worse o st) else o
    let bin := s.binaryWord e
    let noUnit := decide (5 ≤ e.kind) || (e.kind == 1 && s.part == .kln8120) || (s.lk.pool && (e.kind == 0 || e.kind == 2))
    let badFormat := e.kind == 0 && match bin with | some (w, _) => !s.formats.contains (bits w 0 32) | none => false
    let binPoison := e.kind == 0 && match bin with | some (_, p) => p | none => false
    add (noUnit || badFormat) .unsupported <| add ((List.range (min e.waitCount 8)).any (s.waitFar e)) .waitRange <|
    add (poison || binPoison) .poison <| add (s.faultChecks e ext) .fault none

/-- Lower a budget to the harbour's ceiling (R193). -/
def State.lowerBudget (s : State) (h b : Nat) : Nat := min b (tabGet 0 s.hb.budgetCeil h)

/-- The waits of a manifest as they stand at its fetch (R304, R305). -/
def State.waitsOf (s : State) (e : Launch) : List MWait :=
  (List.range e.waitCount).filterMap fun i =>
    let w := wordAt e.ext (32 + 2 * i)
    let t := wordAt e.ext (33 + 2 * i)
    match s.fenceEnt e.context (BitVec.ofNat 32 (bits w 0 32)) with
    | none => none
    | some x => match s.fence x.fon with
      | none => none
      | some f => some { fon := x.fon, target := t, proceed := bit w 32, released := releasedBy f t
                         err := releasedBy f t && waitErr f t }

/-- A fetched entry goes into the launch table, is checked, and waits, becomes READY or completes (R267, R269, R270); an entry of a lost
context completes with LOST, and nothing else of it is looked at (R268). -/
def State.admitLaunch (e : Launch) (ext poison : Bool) (s : State) : State :=
  let l := s.hm.nextEntry
  let fons := (List.range (min e.waitCount 8)).filterMap fun i =>
    (s.fenceEnt e.context (BitVec.ofNat 32 (bits (wordAt e.ext (32 + 2 * i)) 0 32))).map (·.fon)
  let s0 := if s.ras.lost.contains e.context then s else foldState fons (fun a f => a.touchFence f) s
  let st := s0.fetchStatus e ext poison
  let e1 : Launch := { e with
    status := st
    state := if st.isSome then .completing else .waiting
    waits := if st.isSome then [] else s0.waitsOf e
    budgetInit := s0.lowerBudget e.harbour (bits (wordAt e.entry 0) 40 8)
    budgetCont := s0.lowerBudget e.harbour (bits (wordAt e.entry 0) 48 8)
    det := if e.kind = 0 then (match s0.binaryWord e with | some (w, _) => bit w 32 | none => true) else e.det
    run := if e.kind = 2 then (match s0.graphOf e.context (bits (wordAt e.entry 6) 0 32) with
      | some (k, g) => if st.isSome then none
          else some { graph := k, slot := g.curSlot, version := g.curVersion, nodes := g.nodes, exitNode := g.exitNode }
      | none => none) else none }
  let s1 := s0.onHm fun h => { h with launches := tabPut h.launches l e1, nextEntry := l + 1 }
  if st.isSome then s1.complete l else s1

/-! The dispatch wheel (R261, R262, R320) -/

/-- Launch-table entries of a harbour, fetches in progress counted (R262, R271). -/
def State.tableCount (s : State) (h : Nat) : Nat :=
  (s.hm.launches.filter fun x => x.2.harbour == h).length + (s.hm.fetching.filter fun b => (s.berth b).harbour == h).length

/-- The harbour's launch table has room (R262). -/
def State.quotaRoom (s : State) (h : Nat) : Bool := decide (s.tableCount h < tabGet 0 s.hm.quota h * 16)

/-- A fetch from the berth may start (R261, R262). -/
def State.fetchable (s : State) (h : Nat) (x : Nat × Berth) : Bool :=
  x.2.harbour == h && x.2.enable && !x.2.stop && x.2.producer != x.2.fetch && !s.hm.fetching.contains x.1
  && decide ((x.2.fetch - x.2.cplConsumed).toNat < 2 ^ x.2.log2)

/-- The harbour's next berth with a manifest to fetch, in rotating ascending order (R261). -/
def State.nextBerth (s : State) (h : Nat) : Option Nat :=
  let bs := (s.berths.filter (s.fetchable h)).map (·.1)
  match tabFind s.hm.lastServed h with
  | none => bs.head?
  | some b => match bs.find? fun x => decide (b < x) with
    | some x => some x
    | none => bs.head?

/-- The graph launch of a harbour with the lowest table entry that has a pending node. -/
def State.pendingNode (s : State) (h : Nat) : Option (Nat × Nat) :=
  s.hm.launches.findSome? fun x =>
    if x.2.harbour ≠ h ∨ x.2.state = .completing then none
    else match x.2.run with
    | none => none
    | some r => r.pending.head?.map fun i => (x.1, i)

/-- Instantiate a pending node (R320): a launch-table entry from the node record. -/
def State.instantiate (gl i : Nat) (s : State) : State :=
  match s.launch gl with
  | none => s
  | some e =>
    match e.run with
    | none => s
    | some r =>
      let s1 := s.onLaunch gl fun x => { x with run := some { r with pending := setDel r.pending i } }
      match tabFind s.graphs r.graph with
      | none => s1
      | some g =>
        let p := (s1.nodeRecord g r.slot i).2
        let s2 := match tabFind s.hif.objs g.obj with
          | some o => s1.readEffectH o.harbour (o.addr + g.offset + nodeOffset g.nodes r.slot i) 1088
          | none => s1
        (s2.admitLaunch (s1.nodeLaunch gl e r g i) true p).settle

/-- The harbour of a wheel position (R261, R294, R333). -/
def State.wheelHarbour (s : State) (pos : Nat) : Option Nat :=
  let h := if pos = 0 ∨ pos = 64 then some 0 else tabFind s.hm.wheel pos
  h.filter fun h => (s.harbour h).isSome

/-- A wheel position (R261, R320). -/
def execWheelPosition (pos : Nat) (s : State) : Host.Outcome State Fault Refusal :=
  s.clocked <| match s.wheelHarbour pos with
  | none => s
  | some h =>
    if s.hmSilent ∨ 128 ≤ pos ∨ !s.quotaRoom h then s
    else match s.pendingNode h with
    | some (gl, i) => s.instantiate gl i
    | none => match s.nextBerth h with
      | none => s
      | some b => s.onHm fun m => { m with fetching := setIns m.fetching b, lastServed := tabPut m.lastServed h b }

/-- The bytes of the extension that the counts name: offset and length (R266). -/
def Launch.extRanges (e : Launch) : List (Nat × Nat) :=
  [(0, 16 * min e.pinCount 16), (256, 16 * min e.waitCount 8), (384, 16 * min e.signalCount 8), (512, 8 * min e.tagCount 4)].filter
    fun x => decide (0 < x.2)

/-- Read the extension of a manifest (R266): whether it lies in a pinned object, its words and their poison. -/
def State.readExt (s : State) (e : Launch) : Bool × List Word × Bool :=
  let va := bits (wordAt e.entry 3) 0 57
  if !e.hasExt then (true, [], false)
  else if va % 64 ≠ 0 ∨ !s.inPinned e.context va 544 then (false, [], false)
  else match s.vaRead e.context va 544 with
  | none => (false, [], false)
  | some (b, _) => (true, maskExt e (bytesWords 68 b), e.extRanges.any fun x => (s.vaRead e.context (va + x.1) x.2).any (·.2))

/-- The entry is copied into the launch table and checked; FETCH_INDEX advances (R257, R267, R270, R273). -/
def State.fetchManifest (b : Nat) (s : State) : State :=
  let x := s.berth b
  let va := x.subVa + x.fetch.toNat % 2 ^ x.log2 * 512
  let (bs, p) := (s.vaRead x.context va 512).getD ([], false)
  let n : Launch := { berth := b, index := x.fetch, harbour := x.harbour, context := x.context
                      entry := bytesWords 64 bs, ringVa := va, det := !x.nondet.contains x.fetch.toNat
                      serialOn := if x.serial then x.lastEntry else none }
  let (ok, ext, p2) := s.readExt n
  let s1 := (s.onHm fun h => { h with fetching := setDel h.fetching b }).onBerth b fun x => { x with
    fetch := x.fetch + 1, lastEntry := some s.hm.nextEntry, nondet := setDel x.nondet x.fetch.toNat }
  let s2 := foldState (if ext.isEmpty then [] else n.extRanges) (fun a r => a.readEffectVa x.context (bits (wordAt n.entry 3) 0 57 + r.1) r.2)
    (s1.readEffectVa x.context va 512)
  let s3 := if n.kind = 0 ∧ !s.ras.lost.contains x.context then s2.readEffectVa x.context (bits (wordAt n.entry 2) 0 57) 8 else s2
  ((s3.statusArea b).admitLaunch { n with ext := ext } ok (p || p2)).settle

/-- A started fetch reads its entry (R270 steps 2 to 4). -/
def execManifestFetch (berth : Nat) (s : State) : Host.Outcome State Fault Refusal :=
  s.clocked <| if s.hm.fetching.contains berth ∧ !s.hmSilent then s.fetchManifest berth else s

/-! Berth configuration and control (R255, R280, R285, R295) -/

/-- Offset of a berth's configuration register in BAR0. -/
def berthOffset (b r : Nat) : Nat := 0x1000000 + 0x100000 + b * 0x40 + r * 8

/-- A refused configuration write of the HM_ block. -/
def State.hmRefused (s : State) : State := s.onHm fun h => { h with cCfgRefused := h.cCfgRefused + 1 }

/-- Memory objects of an enabled berth (R255). -/
def State.berthObjs (s : State) (x : Berth) : Option (List Nat) :=
  let one (va n : Nat) : Option Nat := match s.objAt x.context va n with
    | some (o, _) => if s.objPinned o then some o else none
    | none => none
  match one x.subVa (2 ^ x.log2 * 512), one x.cplVa (2 ^ x.log2 * 32), one x.statusVa 64 with
  | some a, some b, some c =>
    if x.capVa = 0 then some [a, b, c] else (one x.capVa (2 ^ x.capLog2 * 4096)).map fun d => [a, b, c, d]
  | _, _, _ => none

/-- The harbour holds a position on the dispatch wheel (R255, R261). -/
def State.onWheel (s : State) (h : Nat) : Bool := h == 0 || s.hm.wheel.any fun p => p.1 != 0 && p.1 != 64 && p.2 == h

/-- A disabled berth with the fields of HM_BERTH_CFG0 (R295). -/
def Berth.withCfg0 (x : Berth) (v : Word) : Berth :=
  { x with harbour := bits v 1 6, context := bits v 8 16, log2 := bits v 24 5, serial := bit v 29, hostSubmit := bit v 30
           deviceSubmit := bit v 31, timeout := bits v 32 20 }

/-- An enable write of a disabled berth's HM_BERTH_CFG0 (R255): refused during a low-power entry (R482), and, outside harbour 0,
in pool role and until the boundary after a shift to compute (R464, R465). -/
def State.enableBerth (b : Nat) (v : Word) (s : State) : State :=
  let x := (s.berth b).withCfg0 v
  let aligned := x.subVa % 4096 = 0 ∧ x.cplVa % 4096 = 0 ∧ x.statusVa % 64 = 0 ∧ x.capVa % 4096 = 0
  match s.berthObjs x with
  | none => s.hmRefused
  | some os => if !aligned ∨ !s.onWheel x.harbour ∨ s.pw.transit ∨ (x.harbour ≠ 0 ∧ (s.lk.pool ∨ s.lk.berthWait)) then s.hmRefused
    else (s.onBerth b fun _ => { x with enable := true, objs := os }).statusArea b

/-- TIMEOUT of an enabled berth changes at the next boundary; a write of any other field of its HM_BERTH_CFG0 is refused
(R280, R295). -/
def State.cfg0Enabled (b : Nat) (v : Word) (s : State) : State :=
  let x := s.berth b
  let y := x.withCfg0 v
  let s1 := s.onBerth b fun x => { x with timeoutNext := some y.timeout }
  if { y with timeout := x.timeout } = x then s1 else s1.hmRefused

/-- Disable a berth (R285). The write's TIMEOUT is taken; a change of another field is refused and counted (R295). -/
def State.disableBerth (b : Nat) (v : Word) (s : State) : State :=
  let x := s.berth b
  let y := x.withCfg0 v
  if !x.enable then s.onBerth b fun x => x.withCfg0 v
  else if !x.stop ∨ s.berthBusy b then s.hmRefused
  else
    let s1 := (s.onBerth b fun x => { x with enable := false, objs := [], timeout := y.timeout, timeoutNext := none }).statusArea b
    if { y with timeout := x.timeout } = x then s1 else s1.hmRefused

/-- ENABLE = 1 in HM_BERTH_CFG0 (R255, R295, R629). -/
def execBerthEnable (m : Master) (berth : Nat) (v : Word) (s : State) : Host.Outcome State Fault Refusal :=
  s.clocked <| s.privWrite m (berthOffset berth 0) fun s =>
    if 8192 ≤ berth then s
    else if bits v 24 5 < 4 ∨ 16 < bits v 24 5 then s.hmRefused
    else if (s.berth berth).enable then s.cfg0Enabled berth v
    else s.enableBerth berth v

/-- ENABLE = 0 in HM_BERTH_CFG0 (R285, R295, R629). -/
def execBerthDisable (m : Master) (berth : Nat) (v : Word) (s : State) : Host.Outcome State Fault Refusal :=
  s.clocked <| s.privWrite m (berthOffset berth 0) fun s =>
    if 8192 ≤ berth then s
    else if bits v 24 5 < 4 ∨ 16 < bits v 24 5 then s.hmRefused
    else s.disableBerth berth v

/-- Set or clear STOP of a berth: no fetch starts while it is set (R285). -/
def State.stopBerth (b : Nat) (on : Bool) (s : State) : State :=
  (s.onBerth b fun x => { x with stop := on }).statusArea b

/-- STOP = 1 (R285). -/
def execBerthStop (m : Master) (berth : Nat) (s : State) : Host.Outcome State Fault Refusal :=
  s.clocked <| s.privWrite m (berthOffset berth 6) fun s => if 8192 ≤ berth then s else s.stopBerth berth true

/-- Every entry of a berth is fixed as ABORTED; what is left of it at the next boundary ends there (R285). -/
def State.abortBerth (b : Nat) (s : State) : State :=
  let s1 := s.onHm fun h => { h with launches := h.launches.map fun x => if x.2.berth = b then (x.1, { x.2 with abortDue := true }) else x }
  (foldState (s1.entriesOf fun e => e.berth == b && e.node.isNone) (fun a l => a.abortLaunch l .aborted none) s1).settle

/-- ABORT = 1 (R285). -/
def execBerthAbort (m : Master) (berth : Nat) (s : State) : Host.Outcome State Fault Refusal :=
  s.clocked <| s.privWrite m (berthOffset berth 6) fun s => if 8192 ≤ berth then s else s.abortBerth berth

/-- HM_LT_QUOTA_j: accepted when the sum stays within 65,536; in force from the next boundary (R271, R294). -/
def execLtQuotaWrite (m : Master) (j : Nat) (v : Word) (s : State) : Host.Outcome State Fault Refusal :=
  s.clocked <| s.privWrite m (0x1000000 + 0x200 + 8 * j) fun s =>
    if 16 ≤ j then s
    else
      let q := (List.range 4).foldl (fun t i => tabPut t (4 * j + i) (bits v (16 * i) 13)) s.hm.quotaNext
      let range := (List.range 4).all fun i => decide (bits v (16 * i) 13 ≤ 4096)
      if !range ∨ 65536 < (q.map (·.2)).sum * 16 then s.hmRefused
      else s.onHm fun h => { h with quotaNext := q }

/-! Failover (R287–R292) -/

/-- A heartbeat reaches the standby (R288). -/
def execHeartbeat (s : State) : Host.Outcome State Fault Refusal := s.clocked <| s.onHm fun h => { h with sinceBeat := 0 }

/-- The slots of a launch that the log does not show as placed are FREE again and it is READY (R289 step 3). -/
def State.unplace (l : Nat) (e : Launch) (s : State) : State :=
  (foldState e.parts (fun a x => match x with | .slot p k => a.freeSlot p k | _ => a) s).onLaunch l fun x => { x with
    state := .ready, parts := [] }

/-- Takeover begins: TAKEOVER reads 1, HM_GEN increments and the old instance is gated (R289 steps 1 and 2). The offset of D in its tide
is a free value (R292, log entry 3). -/
def State.takeover (s : State) : State :=
  if !s.hm.standby ∨ s.hm.takeover then s
  else
    let loading := s.hm.launches.filter fun x => x.2.state == .active && x.2.kind == 0 && !x.2.parts.isEmpty &&
      x.2.parts.all fun p => match p with | .slot q k => (s.slotAt q k).state == .loading | _ => false
    let s1 := s.onHm fun h => { h with
      takeover := true, gen := h.gen + 1, takeoverTide := s.tide.num, takeoverNs := s.fresh.toNat % (s.tide.period * 1000), rewritten := 0
      returned := (loading.map fun x => x.2.parts.length).sum, fetching := [] }
    foldState loading (fun a x => a.unplace x.1 x.2) s1.drawn

/-- No heartbeat for 4 µs (R288, R289). -/
def execHeartbeatLoss (s : State) : Host.Outcome State Fault Refusal :=
  s.clocked <| (s.onHm fun h => { h with sinceBeat := 4 }).takeover

/-- A self-check failure report of the active instance (R288, R289). -/
def execSelfCheckReport (s : State) : Host.Outcome State Fault Refusal := s.clocked s.takeover

/-- No instance is left: HM_LOST is raised at once, and MODULE_FAIL at the next start-up (R291, R513). -/
def State.hmLost (s : State) : State :=
  if s.hm.lost then s
  else ((s.onHm fun h => { h with lost := true, takeover := false, standby := false }).event 0x0301 11 s.hm.activeDie [w64 s.hm.launches.length]).keepEvent 0x0909 0 0 [4]

/-- The remaining instance fails (R291, R606). With a standby present its failure begins a takeover instead. -/
def execHmLost (standbyReady : Bool) (s : State) : Host.Outcome State Fault Refusal :=
  s.clocked <| if s.hm.standby ∧ standbyReady ∧ !s.hm.takeover then s.takeover else s.hmLost

/-- The oldest signal on its way is taken; with the last of a launch, the launch's record leaves the tail of the mirror log (R287). -/
def State.takeSignal (x : Signal) (t : List Signal) (s : State) : State :=
  let more := match x.entry with | some l => t.any fun y => y.entry == some l | none => true
  (s.onFu fun u => { u with inflight := t }).onHm fun h => { h with
    tail := if more then h.tail else h.tail.filter fun r => some r.entry != x.entry }

/-- A signal reaches the dependency unit (R302, R304), when an instance of the Harbourmaster serves (R289, R291). -/
def execFenceSignalApply (s : State) : Host.Outcome State Fault Refusal :=
  s.clocked <| match s.fu.inflight with
  | [] => s
  | x :: t => if s.hmSilent then s else (((s.takeSignal x t).applySignal x.fon x.value x.err).settle).reapFence x.fon

/-- HM_FENCE_EVICT (R310, R326). -/
def execHmFenceEvict (m : Master) (v : Word) (s : State) : Host.Outcome State Fault Refusal :=
  s.clocked <| s.privWrite m 0x1000430 fun s =>
    let f := bits v 0 24
    if s.fu.cache.contains f then
      s.onFu fun u => { u with cache := u.cache.filter (· != f), cSpills := u.cSpills + 1 }
    else s

/-- The result that is due at a boundary is applied, then the boundary's snapshot is taken (R83 step 6, R313). -/
def execWaitCycleApply (s : State) : Host.Outcome State Fault Refusal :=
  s.clocked <| if s.hmSilent then s else match s.fu.resultDue, s.fu.result with
  | true, some x =>
    ((((s.onFu fun u => { u with result := none, resultDue := false }).applyCycle x).settleLate).takeSnapshot)
  | _, _ => s

/-- HM_CYCLE_ANSWER (R314, R315, R326); a COUNT out of its range is refused first (R629). The members are taken in ascending berth order,
each once (R313). -/
def execHmCycleAnswer (m : Master) (v : Word) (s : State) : Host.Outcome State Fault Refusal :=
  s.clocked <| s.privWrite m 0x1000428 fun s =>
    let drop := s.onFu fun u => { u with cDropped := u.cDropped + 1, cyclePending := false }
    let n := bits v 0 14
    if 8192 < n then s.hmRefused else
    match s.fu.cyclePending, s.fu.snap with
    | true, some x =>
      let ids := (List.range n).filterMap fun i => (s.word0 (s.fu.bufBase + 0xA0040 + 8 * i)).map (·.1)
      let ls := ids.map fun w => (x.cands.find? fun c => match s.launch c.entry with
        | some e => e.ident == w
        | none => false).map (·.entry)
      let members := (x.cands.map (·.entry)).filter fun l => ls.contains (some l)
      if bits v 16 16 ≠ bits x.tide 0 16 ∨ ids.length ≠ n ∨ ls.any (·.isNone) then drop
      else s.onFu fun u => { u with cyclePending := false, result := some ⟨x.tide, members⟩ }
    | _, _ => s.onFu fun u => { u with cDropped := u.cDropped + 1 }

/-! Graph patches (R322, R323) -/

/-- The bytes of a patch entry lie in a patchable range (R322). -/
def patchable (off len : Nat) : Bool :=
  let inside (a n : Nat) : Bool := decide (a ≤ off ∧ off + len ≤ a + n)
  decide (1 ≤ len ∧ len ≤ 8) && (inside 0x20 16 || inside 0x40 0x1C0 || inside 0x200 0x100
    || (List.range 8).any fun w => inside (0x308 + 16 * w) 8 || inside (0x388 + 16 * w) 8)

/-- The reserved bits of the extension entries that a manifest names are zero (R266, R318). -/
def Launch.extOk (e : Launch) : Bool :=
  ((List.range (if e.kind ≤ 1 then min e.pinCount 16 else 0)).all fun i =>
    bits (wordAt e.ext (2 * i)) 61 3 == 0 && bits (wordAt e.ext (2 * i + 1)) 48 16 == 0)
  && ((List.range (min e.waitCount 8)).all fun i => bits (wordAt e.ext (32 + 2 * i)) 33 31 == 0)
  && (List.range (min e.signalCount 8)).all fun i => bits (wordAt e.ext (48 + 2 * i)) 32 32 == 0

/-- One node of an image meets R318. -/
def nodeImageOk (i : Nat) (r : List Word × Bool) : Bool :=
  let ws := r.1
  let n : Launch := { entry := ws.take 64 }
  let e : Launch := { n with ext := maskExt n (ws.drop 64) }
  let c := wordAt ws 132
  let np := bits c 0 4
  let high (w : Word) : Bool := (List.range 4).all fun p => bits w (16 * p + 10) 6 == 0
  !r.2 && (e.kind == 0 || e.kind == 1 || e.kind == 3) && e.headerOk && e.extOk && decide (np ≤ 8) && bits c 4 4 == 0 && bits c 16 48 == 0
  && high (wordAt ws 133) && high (wordAt ws 134) && wordAt ws 135 == 0 && (nodePreds ws).all fun p => decide (p.1 < i)

/-- Some node of a version image is poisoned (R379). -/
def State.imagePoisoned (s : State) (g : Graph) (slot : Nat) : Bool :=
  (List.range g.nodes).any fun i => (s.nodeRecord g slot i).2

/-- Copy a version image to another slot, granule by granule, poison and all (R323, R378). -/
def State.graphCopy (g : Graph) (a b : Nat) (s : State) : State :=
  match tabFind s.hif.objs g.obj with
  | none => s
  | some o =>
    let base := o.addr + g.offset
    foldState (List.range (g.nodes * 17)) (fun t i =>
      match s.readH o.harbour (base + nodeOffset g.nodes a 0 + 64 * i) 64 with
      | none => t
      | some (bs, p) => t.writeH o.harbour (base + nodeOffset g.nodes b 0 + 64 * i) bs p)
      (s.readEffectH o.harbour (base + nodeOffset g.nodes a 0) (g.nodes * 0x440))

/-- A whole version image meets R318. -/
def State.imageOk (s : State) (g : Graph) (slot : Nat) : Bool :=
  (List.range g.nodes).all fun i => nodeImageOk i (s.nodeRecord g slot i)

/-- Write the patch entries into a slot, in ascending order (R323 step 3). -/
def State.writePatches (g : Graph) (slot : Nat) (e : Launch) (s : State) : State :=
  foldState (List.range (bits (wordAt e.entry 7) 0 5)) (fun a i =>
    let w := wordAt e.entry (8 + 2 * i)
    a.graphWrite g (nodeOffset g.nodes slot (bits w 0 10) + bits w 16 11)
      ((wordBytes (wordAt e.entry (9 + 2 * i))).take (bits w 32 4))) s

/-- End a patch with a status. -/
def State.endPatch (l : Nat) (st : Status) (v : Word32) (s : State) : State :=
  ((s.onLaunch l fun e => { e with status := some (worse e.status st), capState := 1, state := .completing, exitValue := v }).complete
    l).settle

/-- Apply a patch that is first among the ready ones (R323). -/
def State.applyPatch (l : Nat) (e : Launch) (s : State) : State :=
  match s.graphOf e.context (bits (wordAt e.entry 6) 0 32) with
  | none => s.endPatch l .fault 0
  | some (k, g) =>
    let base := bits (wordAt e.entry 6) 32 32
    let ok := (List.range (bits (wordAt e.entry 7) 0 5)).all fun i =>
      let w := wordAt e.entry (8 + 2 * i)
      patchable (bits w 16 11) (bits w 32 4) && decide (bits w 0 10 < g.nodes)
    if g.unregistering ∨ (base ≠ 0 ∧ base ≠ g.curVersion) ∨ !ok then s.endPatch l .fault 0
    else
      let live := s.liveSlots k g
      let dst := if s.slotRun k g.curSlot then (List.range 4).find? fun i => !live.contains i else some g.curSlot
      match dst with
      | none => s.endPatch l .graphBusy 0
      | some d =>
        let s1 := if d = g.curSlot then s else s.graphCopy g g.curSlot d
        let s2 := s1.writePatches g d e
        if s2.imagePoisoned g d then s.endPatch l .poison 0
        else if !s2.imageOk g d then s.endPatch l .fault 0
        else
          let v := if g.curVersion = 0xFFFFFFFF then 1 else g.curVersion + 1
          let old := if d = g.curSlot ∨ s.slotRun k g.curSlot then g.slotVersion else tabPut g.slotVersion g.curSlot 0
          let g2 := { g with curVersion := v, curSlot := d, slotVersion := tabPut old d v }
          let s3 := { s2 with graphs := tabPut s2.graphs k g2 }
          (s3.graphWrite g2 0 ((s3.graphHeader k g2).flatMap wordBytes)).endPatch l .ok (BitVec.ofNat 32 v)

/-- A READY patch is applied in the order in which patches became READY (R323). -/
def execPatchApply (l : Nat) (s : State) : Host.Outcome State Fault Refusal :=
  s.clocked <| match s.launch l with
  | none => s
  | some e =>
    let first := s.hm.launches.all fun x => x.2.kind != 4 || x.2.state != .ready || decide (e.readySeq ≤ x.2.readySeq)
    if e.kind = 4 ∧ e.state = .ready ∧ first ∧ !s.hmSilent then s.applyPatch l e else s

end Sys2Proof.Machine
end

