-- ==== Sys2Proof/Machine/SlotOps.lean ====
section
/-! DEFINITION. Launch slots: loading, restoring, pre-emption and saves, retirement, aborts, evictions (03_tile
R105–R107, R127–R138; 05_execution_model R178, R187, R195–R201). -/
namespace Sys2Proof.Machine
open Sys2Proof

/-! Loading and restoring -/

/-- Window `i` of a launch, resolved from its pin entry; `none` when an HBM pin no longer names a pinned object (R115,
R266, R286). -/
def State.window (s : State) (e : Launch) (i : Nat) : Option Window :=
  let a := wordAt e.ext (2 * i)
  let n := bits (wordAt e.ext (2 * i + 1)) 0 48
  match bits a 57 2 with
  | 0 => some ⟨.localStore, bits a 0 57, n, bit a 59, bit a 60, 0⟩
  | 1 => some ⟨.hold, bits a 0 57, n, bit a 59, bit a 60, 0⟩
  | _ => s.hbmPin e i

/-- The tag-table entry that part `part` wants for input tag `t` on a place (R187, R204). -/
def State.tagFor (s : State) (e : Launch) (p part t : Nat) : Option TagEntry :=
  let w := e.wantedTag t part
  if w = 0 then none else (s.place p).tags.find? fun x => x.tag == w

/-- The context of a part as LOADING leaves it: partitions zero, the payload at offset 0, the window table and the
special scalars (R112, R187). -/
def State.loadedCtx (s : State) (e : Launch) (p part : Nat) (ws : List Window) : PartCtx :=
  let found := (List.range 4).map fun t => s.tagFor e p part t
  { windows := ws
    ls := putBytes [] 0 (((List.range (min e.payloadWords 56)).map fun i => wordAt e.entry (8 + i)).flatMap wordBytes)
    residentMask := (found.zipIdx.map fun x => if x.1.isSome then 2 ^ x.2 else 0).sum
    tagBase := found.map fun x => match x with | some t => t.base * 65536 | none => 2 ^ 64 - 1
    logicalTile := s.logicalNumber e.harbour p }

/-- The slot is inside a save window. -/
def Slot.inWindow (v : Slot) : Bool := v.state == .draining || v.state == .saving

/-- The last window of the place was opened at the boundary of this tide and is still open: launches pre-empted at that boundary share it
(R132). -/
def State.sharesWindow (s : State) (p : Nat) : Bool :=
  (s.place p).windowTide == some s.tide.num
  && (s.place p).slots.any fun k => k.2.inWindow && k.2.window == (s.place p).windows

/-- A slot starts to drain: a save window opens, or at a boundary the slot joins the one that opened there (R106, R132, R140). -/
def State.startDrain (boundary : Bool) (p k : Nat) (s : State) : State :=
  let s1 := if boundary ∧ s.sharesWindow p then s
    else (s.onTile (s.servingTile p) fun t => { t with cSaves := t.cSaves + 1 }).onPlace p fun x => { x with
      windows := x.windows + 1, windowTide := if boundary then some s.tide.num else none }
  s1.onSlot p k fun v => { v with state := .draining, stuck := 0, due := false, window := (s1.place p).windows }

/-- A slot whose load or restore ends drains at once: a pre-emption met it on the way, or a re-bind drains its place (R94, R106, R107,
R201). A hold-bound launch restored on its own place while a SHRINK drains it runs until the next boundary (R349, log entry 118). -/
def State.drainsNow (s : State) (p k : Nat) : Bool :=
  let v := s.slotAt p k
  let own := match s.launch v.entry with | some e => v.state == .restoring && e.holdBound && s.shrinks p | none => false
  v.due || ((s.place p).draining && !own)

/-- A loaded or restored slot goes to RUNNING, or to DRAINING where it is pre-empted before it issues anything (R94, R106, R107). -/
def State.enterRun (p k : Nat) (s : State) : State :=
  if s.drainsNow p k then s.startDrain false p k else s.onSlot p k fun v => { v with state := .running, stuck := 0 }

/-- What LOADING copies into the window table, while the binary's object and every pinned object are still there (R187, R257, R286). -/
def State.loadWindows (s : State) (e : Launch) : Option (List Window) :=
  if s.inPinned e.context (bits (wordAt e.entry 2) 0 57) 8 then (List.range e.pinCount).mapM (s.window e) else none

/-- Loading of a launch slot completes (R106, R187, R286). -/
def execLoadComplete (place slot : Nat) (s : State) : Host.Outcome State Fault Refusal :=
  s.clocked <|
    let v := s.slotAt place slot
    match s.launch v.entry with
    | none => s
    | some e =>
      if v.state ≠ .loading then s
      else match s.loadWindows e with
      | none => (s.abortLaunch v.entry .fault (some v.part)).settle
      | some ws =>
        let c := s.loadedCtx e place v.part ws
        ((s.onCtx place slot fun _ => c).enterRun place slot).onLaunch v.entry fun e => { e with started := true }

/-- The saved record of a part: in some save heap, or in a pool. -/
def State.recordOf (s : State) (l part h : Nat) : Option SavedRec :=
  let is (r : SavedRec) : Bool := r.entry == l && r.part == part
  match s.places.findSome? fun p => p.2.heap.find? is with
  | some r => some r
  | none => match s.harbour h with
    | none => none
    | some x => (x.poolReserve ++ x.poolEvicted).find? is

/-- A restore completes (R136, R137, R187, R198). -/
def execRestoreComplete (place slot : Nat) (crcOk poisoned : Bool) (s : State) : Host.Outcome State Fault Refusal :=
  s.clocked <|
    let v := s.slotAt place slot
    match s.launch v.entry with
    | none => s
    | some e =>
      if v.state ≠ .restoring then s
      else match s.recordOf v.entry v.part e.harbour with
      | none => s
      | some r =>
        let s1 := (s.releaseRecord v.entry v.part).dropPoolRecord e.harbour v.entry v.part
        if !crcOk then (s1.failPart place slot 7 0 .fault true).settle
        else if poisoned then (s1.poisonErr place slot 0).settle
        else ((s1.onCtx place slot fun _ => { r.ctx with logicalTile := s.logicalNumber e.harbour place }).onTile
            (s.servingTile place) fun t => { t with cRestores := t.cRestores + 1 }).enterRun place slot

/-! Pre-emption and saves -/

/-- A read or a copy whose data has not come. -/
def DmaReq.unread (r : DmaReq) : Bool := r.atomic.isNone && r.buf.isNone

/-- An atomic that has not returned. -/
def DmaReq.pending (r : DmaReq) : Bool := r.atomic.isSome && r.buf.isNone

/-- The first request of a descriptor whose data has not come (R130). -/
def DmaCtx.rewindPoint (d : DmaCtx) (desc : Nat) : Option Nat := ((d.reqs.filter fun r => r.desc == desc && r.unread).map (·.pos)).min?

/-- An engine at a pre-emption: reads are cancelled and each descriptor is rewound to its first unreturned request; a write that has been
issued and not acknowledged keeps its bytes and is issued again after the restore; an atomic stays until it returns, and the value it
returned waits for its sink (R130). -/
def DmaCtx.rewind (d : DmaCtx) : DmaCtx :=
  let kept (r : DmaReq) : Bool := !r.unread && (r.away || match d.rewindPoint r.desc with | some q => decide (r.pos < q) | none => true)
  { d with
    latch := none
    queue := d.queue.map fun x => { x with issued := (d.rewindPoint x.id).getD x.issued }
    reqs := (d.reqs.filter kept).map fun r => if r.pending then r else { r with away := false, ready := false } }

/-- The outstanding remote and host requests of a slot that are not atomics are forgotten: their data is discarded, and no
acknowledgement of an earlier issue is waited for (R130). -/
def State.cancelReqs (p k : Nat) (s : State) : State :=
  (s.onLk fun x => { x with reqs := x.reqs.filter fun r =>
    !(r.2.place == p && r.2.slot == k && r.2.access != .atomic) }).onHif fun x => { x with reqs := x.reqs.filter fun r =>
    !(r.2.place == p && r.2.slot == k && r.2.access != .atomic) }

/-- Pre-empt one part: a running one drains; one that loads or restores drains when it has done so (R86, R94, R106, R107, R130, R132). -/
def State.preemptPart (p k : Nat) (s : State) : State :=
  match (s.slotAt p k).state with
  | .running => (((s.startDrain true p k).dropLatches p k).cancelReqs p k).onCtx p k fun c => { c with
      dma0 := c.dma0.rewind, dma1 := c.dma1.rewind }
  | .loading | .restoring => s.onSlot p k fun v => { v with due := true }
  | _ => s

/-- Pre-empt every unfinished part of a launch (R201). -/
def State.preemptLaunch (l : Nat) (s : State) : State :=
  match s.launch l with
  | none => s
  | some e => foldState e.parts (fun a x => match x with | .slot p k => a.preemptPart p k | _ => a)
      (s.onLaunch l fun e => { e with preemptDue := false })

/-- A running launch whose budget was exhausted at the boundary is pre-empted (R83 step 4, R86, R94). -/
def execBudgetPreempt (l : Nat) (s : State) : Host.Outcome State Fault Refusal :=
  s.clocked <| match s.launch l with
  | none => s
  | some e => if e.preemptDue ∧ e.state = .active then s.preemptLaunch l else s

/-- The drain of a slot ends, its atomics returned: SAVING (R106, R130). -/
def execDrainComplete (place slot : Nat) (s : State) : Host.Outcome State Fault Refusal :=
  s.clocked <|
    let v := s.slotAt place slot
    if v.state = .draining ∧ !v.ctx.dma0.reqs.any (·.pending) ∧ !v.ctx.dma1.reqs.any (·.pending) ∧ s.boot.life != .frozen then
      (s.cancelReqs place slot).onSlot place slot fun v => { v with
        state := .saving, ctx := { v.ctx with dma0 := v.ctx.dma0.rewind, dma1 := v.ctx.dma1.rewind } }
    else s

/-- Every unfinished part of a launch has been saved. -/
def Launch.allSaved (e : Launch) : Bool :=
  e.parts.zipIdx.all fun x => match x.1 with
    | .heap _ | .pool _ => true
    | .slot _ _ => e.retired.contains x.2
    | _ => true

/-- The record of a slot (R134). -/
def State.recordNow (s : State) (v : Slot) (e : Launch) : SavedRec :=
  { entry := v.entry, part := v.part, ident := e.ident, harbour := e.harbour, gen := (s.hgen e.harbour).toNat, context := e.context
    lsGranules := e.lsGranules, rowGroups := e.rowGroups, regGroups := e.regGroups, size := e.recordSize, ctx := v.ctx }

/-- Put a slot's record into its place's save heap and free the slot; the launch is saved when every unfinished part is
(R132, R134, R135, R195, R269). -/
def State.saveSlot (p k : Nat) (v : Slot) (e : Launch) (s : State) : State :=
  let s1 := ((s.onPlace p fun x => { x with heap := x.heap ++ [s.recordNow v e] }).freeSlot p k).onLaunch
    v.entry fun e => { e with parts := e.parts.set v.part (.heap p) }
  match s1.launch v.entry with
  | none => s1
  | some e1 =>
    if e1.allSaved then (s1.onLaunch v.entry fun e => { e with
      state := .saved, savedSeq := s1.hm.nextSeq, unplaced := 0 }).onHm fun h => { h with nextSeq := h.nextSeq + 1 }
    else s1

/-- One save of a window ends (R89, R133). -/
def State.closeSave (p : Nat) (late : Bool) (k : Nat) (s : State) : State :=
  let v := s.slotAt p k
  match s.launch v.entry with
  | none => s
  | some e =>
    (if late ∨ s.tide.slack < 40 then s.onTide fun t => { t with cSaveOverrun := t.cSaveOverrun + 1 } else s).saveSlot p k v e

/-- A save window closes: `late` when it ends after its slack window. Every slot that shares it becomes FREE with it, once none of them
waits for an atomic (R89, R132, R133). -/
def execSaveWindowClose (place slot : Nat) (late : Bool) (s : State) : Host.Outcome State Fault Refusal :=
  s.clocked <|
    let v := s.slotAt place slot
    let shared := (s.place place).slots.filter fun k => k.2.inWindow && k.2.window == v.window
    if v.state ≠ .saving ∨ shared.any (fun k => k.2.state == .draining) ∨ s.boot.life = .frozen then s
    else (foldState (shared.map (·.1)) (fun a k => a.closeSave place late k) s).settle

/-! Retirement and completion -/

/-- The parts of a launch that are resident, with their contexts; retired parts are left out. -/
def State.liveParts (s : State) (l : Nat) : List (Nat × PartCtx) :=
  match s.launch l with
  | none => []
  | some e => e.parts.zipIdx.filterMap fun x =>
      if e.retired.contains x.2 then none
      else match x.1 with
      | .slot p k => some (x.2, (s.slotAt p k).ctx)
      | .heap _ | .pool _ => (s.recordOf l x.2 e.harbour).map fun r => (x.2, r.ctx)
      | _ => none

/-- Every part of a gang still running takes a tile error: contributions broke R189 (R190, ERR_CODE 2). -/
def State.redMismatch (l : Nat) (s : State) : State :=
  match s.launch l with
  | none => s
  | some e =>
    let mark (a : State) (x : PartState × Nat) : State := match x.1 with
      | .slot p k => if (a.slotAt p k).state = .running then
          a.onCtx p k fun c => { c with errCode := 2, stopped := true } else a
      | _ => a
    let first := e.parts.zipIdx.findSome? fun x => match x.1 with
      | .slot p k => if (s.slotAt p k).state = .running then some x.2 else none
      | _ => none
    ((foldState e.parts.zipIdx mark s).markLost e.context e.harbour e.ident (worse e.status .fault)).abortLaunch l .fault first

/-- A part's sequencer retires its last instruction (R106, R178, R184, R190). -/
def execPartRetire (place slot : Nat) (s : State) : Host.Outcome State Fault Refusal :=
  s.clocked <|
    let v := s.slotAt place slot
    match s.launch v.entry with
    | none => s
    | some _ =>
      if v.state ≠ .running then s
      else
        let s1 := (s.onSlot place slot fun v => { v with state := .retiring, stuck := 0 }).onLaunch v.entry fun e => { e with
          retired := setIns e.retired v.part
          exitValue := if v.part = 0 then v.ctx.exitValue else e.exitValue }
        let broken := (s1.liveParts v.entry).any fun x => x.2.reds.any fun r => decide (v.ctx.nextRed ≤ r.seq)
        if broken then (s1.redMismatch v.entry).settle else s1

/-- The output DMA of a part has drained, with the signals and doorbells held behind it (R87, R178, R260, R307). -/
def PartCtx.drained (c : PartCtx) : Bool :=
  c.dma0.queue.isEmpty && c.dma1.queue.isEmpty && c.held.isEmpty

/-- Every part has retired and its output has drained; a part whose tile was reset meanwhile is over (R128). -/
def State.allRetired (s : State) (e : Launch) : Bool :=
  e.parts.length == e.gang && e.parts.zipIdx.all fun x => match x.1 with
    | .slot p k => e.retired.contains x.2 && (s.slotAt p k).ctx.drained
    | .ended => true
    | _ => false

/-- The completion of a kernel launch whose parts have all retired (R178, R270 steps 8 to 10, R289). -/
def execLaunchComplete (l : Nat) (s : State) : Host.Outcome State Fault Refusal :=
  s.clocked <| match s.launch l with
  | none => s
  | some e => if e.kind = 0 ∧ s.allRetired e then (s.complete l).settle else s

/-- An aborting slot has released its partitions; the launch completes when the last one has, and its slots are freed
(R106, R285). -/
def State.abortEnds (place slot : Nat) (s : State) : State :=
  let v := s.slotAt place slot
  if v.state ≠ .aborting then s
  else
    let s1 := ((s.onLaunch v.entry fun e => { e with released := setIns e.released v.part }).orphan place slot).onCtx place slot fun _ => {}
    if s1.stillBusy v.entry then s1 else (s1.complete v.entry).settle

/-- An aborting part has stopped and released its partitions (R105, R106, R279). -/
def execAbortComplete (place slot : Nat) (s : State) : Host.Outcome State Fault Refusal := s.clocked <| s.abortEnds place slot

/-! The save heap (R135, R382) -/

/-- The oldest record of a place moves to the eviction area (R135, R336). -/
def State.evictOne (p : Nat) (s : State) : State :=
  match (s.place p).heap, s.placeHarbour p with
  | r :: t, some h =>
    let (r1, s1) := s.evictPut h r
    ((s1.onPlace p fun x => { x with heap := t, zeroing := x.zeroing ++ [r.size], evicting := x.evicting - 1 }).onHarbour h
      fun y => { y with poolEvicted := y.poolEvicted ++ [r1] }).onLaunch r.entry fun e => { e with
        parts := e.parts.set r.part (.pool p) }
  | _, _ => s

/-- A stored record's eviction completes, and the waiting placement proceeds when there is room (R135). -/
def execEvictionComplete (place : Nat) (s : State) : Host.Outcome State Fault Refusal :=
  s.clocked <| if 0 < (s.place place).evicting then (s.evictOne place).settle else s

/-- Zeroing of a released record ends: its space is free (R135, R382). -/
def execSaveHeapZeroingDone (place : Nat) (s : State) : Host.Outcome State Fault Refusal :=
  s.clocked <| if (s.place place).zeroing.isEmpty then s
    else (s.onPlace place fun x => { x with zeroing := x.zeroing.drop 1 }).settle

/-- Error codes of a tile error raised by a compute engine or the sequencer (R284). -/
def tileErrorCode (code : Nat) : Bool := code == 1 || code == 2 || code == 4 || code == 5 || code == 6 || code == 15

/-- A tile error in one launch, with its ERR_CODE and window address (R116, R179, R184, R284, R379). -/
def execTileError (place slot code : Nat) (addr : Word) (s : State) : Host.Outcome State Fault Refusal :=
  s.clocked <|
    if !abortable (s.slotAt place slot).state then s
    else if code = 3 then (s.poisonErr place slot addr).settle
    else if !tileErrorCode code then s
    else
      let s1 := if code = 1 then s.onTile (s.servingTile place) fun t => { t with cWindowErr := t.cWindowErr + 1 } else s
      (s1.tileErr place slot code addr).settle

end Sys2Proof.Machine
end

