-- ==== Sys2Proof/Machine/Transcendental.lean ====
section
/-! DEFINITION. The bound of the transcendental unit (R114): the exact value of each of its functions, to far more bits than FP32 holds,
and the results that lie within 2 units in the last place of it. -/
namespace Sys2Proof

/-- ln 2 in units of 2⁻³²⁰. -/
def ln2Fix : Nat := 0xB17217F7D1CF79ABC9E3B39803F2F6AF40F343267298B62D8A0D175B8BAAFA2BE7B876206DEBAC98

/-- π ÷ 2 in units of 2⁻⁴⁸⁰. -/
def halfPiFix : Nat :=
  0x1921FB54442D18469898CC51701B839A252049C1114CF98E804177D4C76273644A29410F31C6809BBDF2A33679A748636605614DBE4BE286E9FC26ADA

/-- Whole square root by its bits from bit `n − 1` down. -/
def rootBits : Nat → Nat → Nat → Nat
  | 0, _, r => r
  | b + 1, n, r => if (r + 2 ^ b) * (r + 2 ^ b) ≤ n then rootBits b n (r + 2 ^ b) else rootBits b n r

/-- A power series in units of 2^−`f`: each term is the one before it times `z`, divided by `d` of its number. -/
def powerSeries (f : Nat) (z : Int) (d : Nat → Nat) : Nat → Nat → Int → Int
  | 0, _, _ => 0
  | n + 1, j, t => t + powerSeries f z d n (j + 1) (t * z / 2 ^ f / (d j : Nat))

/-- e^z for |z| < 1, in units of 2⁻³²⁰. -/
def expFix (z : Int) : Int := powerSeries 320 z (fun j => j + 1) 80 0 (2 ^ 320)

/-- sin r and cos r for |r| ≤ π ÷ 4, in units of 2⁻⁴⁸⁰. -/
def sinFix (r : Int) : Int := powerSeries 480 (-(r * r / 2 ^ 480)) (fun j => (2 * j + 2) * (2 * j + 3)) 50 0 r
def cosFix (r : Int) : Int := powerSeries 480 (-(r * r / 2 ^ 480)) (fun j => (2 * j + 1) * (2 * j + 2)) 50 0 (2 ^ 480)

/-- A number in units of 2^−`f`. -/
def ofFix (f : Nat) (v : Int) : Num := .fin (decide (v < 0)) v.natAbs (-(f : Int))

/-- 2^x (R114): `none` where no FP32 number is near it. -/
def exactExp2 (neg : Bool) (m : Nat) (e : Int) : Option Num :=
  if 512 * 2 ^ (-e).toNat ≤ m * 2 ^ e.toNat then (if neg then some (.fin false 1 (-400)) else none)
  else
    let x := signed neg (m * 2 ^ (e + 320).toNat)
    let n := x / 2 ^ 320
    if 128 ≤ n then none
    else some (.fin false (expFix (x % 2 ^ 320 * ln2Fix / 2 ^ 320)).natAbs (n - 320))

/-- log2 x of m × 2^e, `m` not zero (R114). -/
def exactLog2 (m : Nat) (e : Int) : Num :=
  let l := Nat.log2 m
  let z : Int := ((m - 2 ^ l) * 2 ^ 320 / (m + 2 ^ l) : Nat)
  let half := (List.range 120).foldl (fun (a : Int × Int) j => (a.1 + a.2 / (2 * j + 1 : Nat), a.2 * z / 2 ^ 320 * z / 2 ^ 320)) (0, z)
  ofFix 320 ((e + l) * 2 ^ 320 + 2 * half.1 * 2 ^ 320 / ln2Fix)

/-- Square root of m × 2^e (R114). -/
def exactRoot (m : Nat) (e : Int) : Num :=
  let s := 100 + (e % 2).toNat
  .fin false (rootBits 64 (m * 2 ^ s) 0) ((e - s) / 2)

/-- Reciprocal square root of m × 2^e, `m` not zero (R114). -/
def exactInvRoot (m : Nat) (e : Int) : Num :=
  let s := 200 + (e % 2).toNat
  .fin false (rootBits 101 (2 ^ s / m) 0) ((-e - s) / 2)

/-- Sine, or cosine, of ± m × 2^e (R114). -/
def exactSine (cosine neg : Bool) (m : Nat) (e : Int) : Num :=
  let x := m * 2 ^ (e + 480).toNat
  let q := (x + halfPiFix / 2) / halfPiFix
  let r : Int := x - q * halfPiFix
  let v := match (q + if cosine then 1 else 0) % 4 with
    | 0 => sinFix r | 1 => cosFix r | 2 => -sinFix r | _ => -cosFix r
  ofFix 480 (if neg && !cosine then -v else v)

/-- Hyperbolic tangent of ± m × 2^e (R114). -/
def exactTanh (neg : Bool) (m : Nat) (e : Int) : Num :=
  if 64 * 2 ^ (-e).toNat ≤ m * 2 ^ e.toNat then .fin neg 1 0
  else
    let y := m * 2 ^ (e + 321).toNat
    let n := y / ln2Fix
    let t := expFix (-((y - n * ln2Fix : Nat) : Int)) / 2 ^ n
    ofFix 320 (signed neg ((2 ^ 320 - t) * 2 ^ 320 / (2 ^ 320 + t)).natAbs)

/-- The exact value of a function of the transcendental unit, 0–7 for exp2, log2, reciprocal, square root, reciprocal square root, sine,
cosine and tanh; `none` where the spec states no result: no real value, or none near an FP32 number (R114, log entry 4). -/
def transExact (fn : Nat) : Num → Option Num
  | .fin neg m e =>
    match fn with
    | 0 => exactExp2 neg m e
    | 1 => if m = 0 ∨ neg then none else some (exactLog2 m e)
    | 2 => if m * 2 ^ (e + 149).toNat ≤ 2 ^ 21 then none else some (.fin neg (2 ^ 120 / m) (-120 - e))
    | 3 => if m = 0 then some (.fin neg 0 0) else if neg then none else some (exactRoot m e)
    | 4 => if m = 0 ∨ neg then none else some (exactInvRoot m e)
    | 5 => some (if m = 0 then .fin neg 0 0 else exactSine false neg m e)
    | 6 => some (if m = 0 then .fin false 1 0 else exactSine true neg m e)
    | _ => some (if m = 0 then .fin neg 0 0 else exactTanh neg m e)
  | _ => none

/-- A result lies within 2 units in the last place of an exact value, which is known to 60 bits (R114). -/
def withinTwoUlp (y v : Num) : Bool :=
  match y, v with
  | .fin ny my ey, .fin nv mv ev =>
    let c := min (min ev ey) (-149)
    let a := signed ny (my * 2 ^ (ey - c).toNat)
    let b := signed nv (mv * 2 ^ (ev - c).toNat)
    let u := if mv = 0 then -149 else max (ev + bitLen mv - 24) (-149)
    decide ((a - b).natAbs ≤ 2 ^ (u + 1 - c).toNat + b.natAbs / 2 ^ 60)
  | _, _ => false

/-- A result of the transcendental unit: the free value where it meets the bound of R114, else the nearest FP32 number. Every NaN is the
canonical one (R164). -/
def transResult (fn : Nat) (x raw : Word32) : Word32 :=
  match transExact fn (fpVal x) with
  | none => canonNan raw
  | some v => if withinTwoUlp (fpVal raw) v then raw else fpRound v

end Sys2Proof
end

