-- ==== Sys2Proof/Machine/TileOps.lean ====
section
/-! DEFINITION. What a kernel does on its tile: window accesses, scalar, tensor and vector instructions, row merges and
conversions, fence waits and signals, doorbells, gang reductions, tags, special scalars, exit and trap (03_tile,
04_arithmetic, 05_execution_model). -/
namespace Sys2Proof.Machine
open Sys2Proof

/-! Local store, hold and windows (R115–R119, R381) -/

/-- Poison of the 64-bit words a write touches: a whole word takes the data's poison, a poisoned part marks it, a clean
part leaves it (R381). -/
def poisonWords (t : NSet) (off n : Nat) (p : Bool) : NSet :=
  ((List.range ((off + n + 7) / 8 - off / 8)).map (off / 8 + ·)).foldl (fun t g =>
    if p then setIns t g else if off ≤ g * 8 ∧ g * 8 + 8 ≤ off + n then setDel t g else t) t

/-- Some word of a range is poisoned. -/
def wordsPoisoned (t : NSet) (off n : Nat) : Bool := t.any fun g => decide (g * 8 < off + n ∧ off < g * 8 + 8)

/-- Read a part's local-store partition. -/
def State.lsRead (s : State) (p k off n : Nat) : List Byte × Bool :=
  let c := (s.slotAt p k).ctx
  ((List.range n).map fun i => tabGet 0 c.ls (off + i), wordsPoisoned c.lsPoison off n)

/-- Write a part's local-store partition. -/
def State.lsWrite (p k off : Nat) (data : List Byte) (poison : Bool) (s : State) : State :=
  s.onCtx p k fun c => { c with ls := putBytes c.ls off data, lsPoison := poisonWords c.lsPoison off data.length poison }

/-- Read a place's hold. -/
def State.holdRead (s : State) (p off n : Nat) : List Byte × Bool :=
  let x := s.place p
  ((List.range n).map fun i => tabGet 0 x.hold (off + i), wordsPoisoned x.holdPoison off n)

/-- Write a place's hold. -/
def State.holdWrite (p off : Nat) (data : List Byte) (poison : Bool) (s : State) : State :=
  s.onPlace p fun x => { x with hold := putBytes x.hold off data
                                holdPoison := poisonWords x.holdPoison off data.length poison }

/-! Data on its way (R378, R380, R381) -/

/-- Bytes of data on its way. -/
def beatBytes (b : Beats) : List Byte := b.flatMap (·.1)

/-- Poison of each byte of data on its way. -/
def beatFlags (b : Beats) : List Bool := b.flatMap fun x => List.replicate x.1.length x.2

/-- The pieces of `[off, off+n)` between multiples of `g`: start and length. -/
def cutAt (g off n : Nat) : List (Nat × Nat) :=
  (List.range ((off + n + g - 1) / g - off / g)).map fun i =>
    let a := max off ((off / g + i) * g)
    (a, min (off + n) ((off / g + i + 1) * g) - a)

/-- Data that arrived in 64-byte granules, some of them poisoned. -/
def beatsOf (data : List Byte) (bad : List Nat) : Beats :=
  (cutAt 64 0 data.length).map fun x => ((data.drop x.1).take x.2, bad.contains (x.1 / 64))

/-- Read a range of a memory in 64-byte beats. -/
def readBeats (read : Nat → Nat → List Byte × Bool) (off n : Nat) : Beats := (cutAt 64 off n).map fun x => read x.1 x.2

/-- Write data over a range of a memory whose poison is kept per `g` bytes: each piece takes the poison of its own bytes. -/
def State.writeBeats (write : Nat → List Byte → Bool → State → State) (g off : Nat) (b : Beats) (s : State) : State :=
  let data := beatBytes b
  let bad := beatFlags b
  foldState (cutAt g off data.length) (fun a x =>
    write x.1 ((data.drop (x.1 - off)).take x.2) (((bad.drop (x.1 - off)).take x.2).any id) a) s

/-- Why a compute-engine access stops: no window or no right (R116), poison (R379), or accumulator modes (R154, R159) end its launch; a
request that the tile's checker drops is never answered, and its instruction waits (R341). -/
inductive Stop where
  | window (addr : Word) | poison (addr : Word) (n : Nat) | mode | dropped
  deriving DecidableEq, Repr

/-- The window a window address names, and the byte in its target: the window's number from bit 48 up, the offset below (log entry
117). -/
def State.windowAt (s : State) (p k : Nat) (addr : Word) (n : Nat) (write : Bool) : Option (Window × Nat) :=
  match (s.slotAt p k).ctx.windows[addr.toNat / 2 ^ 48]? with
  | none => none
  | some w =>
    let off := addr.toNat % 2 ^ 48
    if off + n ≤ w.len ∧ (if write then w.w else w.r) then some (w, w.addr + off) else none

/-- Harbour of a slot's launch. -/
def State.slotHarbour (s : State) (p k : Nat) : Nat := match s.launch (s.slotAt p k).entry with | some e => e.harbour | none => 0

/-- A compute-engine read through a window (R115, R116, R119, R379). -/
def State.winRead (s : State) (p k : Nat) (addr : Word) (n : Nat) : Stop ⊕ List Byte :=
  match s.windowAt p k addr n false with
  | none => .inl (.window addr)
  | some (w, off) =>
    if w.target = .hbm ∧ !s.heard (s.placeSpeaker p) then .inl .dropped else
    let r := match w.target with
      | .localStore => some (s.lsRead p k off n)
      | .hold => some (s.holdRead p off n)
      | .hbm => s.readH (s.slotHarbour p k) off n
    match r with
    | none => .inl (.window addr)
    | some (b, true) => if b.isEmpty then .inr b else .inl (.poison addr n)
    | some (b, false) => .inr b

/-- A compute-engine write through a window; the pacing area is not reachable (R115, R116, R208). -/
def State.winWrite (p k : Nat) (addr : Word) (data : List Byte) (s : State) : Stop ⊕ State :=
  match s.windowAt p k addr data.length true with
  | none => .inl (.window addr)
  | some (w, off) =>
    if w.target = .hbm ∧ !s.heard (s.placeSpeaker p) then .inl .dropped else
    match w.target with
    | .localStore => .inr (s.lsWrite p k off data false)
    | .hold => .inr (s.holdWrite p off data false)
    | .hbm =>
      let h := s.slotHarbour p k
      match s.resolve h off data.length with
      | none => .inl (.window addr)
      | some ps => if ps.any s.touchesPacing then .inl (.window addr) else .inr (s.writePieces ps data false)

/-- A stopped access ends the launch, or is dropped (R116, R154, R179, R342, R379). -/
def State.stopPart (p k : Nat) (x : Stop) (s : State) : State :=
  match x with
  | .window a => ((s.onTile (s.servingTile p) fun t => { t with cWindowErr := t.cWindowErr + 1 }).tileErr p k 1 a).settle
  | .poison a n =>
    let s1 := match s.windowAt p k a n false with
      | some (⟨.hbm, _, _, _, _, _⟩, off) => s.readEffectH (s.slotHarbour p k) off n
      | _ => s
    (s1.poisonErr p k a).settle
  | .mode => (s.tileErr p k 5 0).settle
  | .dropped => s.unheard (s.placeSpeaker p)

/-- The part may issue an instruction: RUNNING, issue not stopped, no wait in progress (R105, R185). -/
def State.issuing (s : State) (p k : Nat) : Bool :=
  let v := s.slotAt p k
  v.state == .running && !v.ctx.stopped && v.ctx.wait.isNone

/-- The program counter after an instruction is the private binary's (R181): a free value (log entry 3). -/
def State.nextPc (p k : Nat) (s : State) : State := (s.onCtx p k fun c => { c with pc := s.fresh }).drawn

/-- An instruction's effect, or the end of its launch. -/
def State.issue (p k : Nat) (r : Stop ⊕ State) (s : State) : State :=
  match r with
  | .inl x => s.stopPart p k x
  | .inr t => t.nextPc p k

/-- Launch of a slot. -/
def State.launchAt (s : State) (p k : Nat) : Launch := (s.launch (s.slotAt p k).entry).getD {}

/-- Accumulator rows a part holds (R103). -/
def State.rowsHeld (s : State) (p k : Nat) : Nat := (s.launchAt p k).rowGroups * 8

/-- Vector registers a part holds (R103). -/
def State.regsHeld (s : State) (p k : Nat) : Nat := (s.launchAt p k).regGroups * 8

/-- A kernel names a format pair or a conversion that the module does not support: UNSUPPORTED (R143, R148). -/
def State.unsupported (p k : Nat) (s : State) : State :=
  let v := s.slotAt p k
  (s.abortLaunch v.entry .unsupported (some v.part)).settle

/-! Accumulator rows -/

/-- Entry `j` of an accumulator row. -/
def PartCtx.accAt (c : PartCtx) (row j : Nat) : AccEntry := tabGet {} c.acc (row * 64 + j)

/-- Write entries 0, 1, … of a row. -/
def PartCtx.putRow (c : PartCtx) (row : Nat) (es : List AccEntry) : PartCtx :=
  { c with acc := es.zipIdx.foldl (fun t e => tabSet {} t (row * 64 + e.2) e.1) c.acc }

/-- What one streamed row gives one output: its blocks against one column (R150–R152). -/
def columnParts (t : TensorOp) (k : Nat) (row col : Nat) : List BlockPart :=
  let split := splitPair t.fmtA t.fmtB
  let unit := pairUnit t.fmtA t.fmtB
  (List.range (k / 32)).map fun b => (List.range 32).foldl (fun x i =>
    addProduct split unit x (decodeElem t.fmtA (element t.fmtA.width row (32 * b + i)))
      (decodeElem t.fmtB (element t.fmtB.width col (32 * b + i)))) {}

/-- Scale exponent of block `b` of a row or column of an operand. -/
def blockExp (scaled : Bool) (scales : List Byte) (b : Nat) : Option Int :=
  if scaled then scaleExp (scales.getD b 0).toNat else some 0

/-- One exact entry after one streamed row (R154–R158). -/
def exactEntry (t : TensorOp) (k row col : Nat) (sa sb : List Byte) (anchor : BitVec 9) (e : AccEntry) : AccEntry :=
  let r := (columnParts t k row col).zipIdx.foldl (fun (a : Int × Bool) b =>
    let sc := match blockExp t.scaledA sa b.2, blockExp t.scaledB sb b.2 with
      | some x, some y => some (x + y)
      | _, _ => none
    addBlock (splitPair t.fmtA t.fmtB) (pairUnit t.fmtA t.fmtB) sc anchor.toInt b.1 a) (accInt e.value, e.range)
  { value := BitVec.ofInt 128 r.1, anchor := anchor, range := r.2, mode := .exact }

/-- Both are numbers: a NaN result is new (R164). -/
def newNan (a b c : Word32) : Bool := fpVal c == .nan && fpVal a != .nan && fpVal b != .nan

/-- An FP32 addition into a MODE 2 entry (R164). -/
def fpEntry (e : AccEntry) (x : Word32) : AccEntry :=
  let a : Word32 := e.value.truncate 32
  let c := fpAdd a x
  let finite (v : Word32) : Bool := match fpVal v with | .fin _ _ _ => true | _ => false
  let above := (match fpVal c with | .inf _ => true | _ => false) && finite a && finite x
  { e with value := c.zeroExtend 128, mode := .fp32, range := e.range || above || newNan a x c }

/-- Sum of one chunk of 64 BF16 products by the canonical tree (R162, R163). -/
def chunkSum (row col : Nat) : Word32 :=
  tree fpAdd 0 ((List.range 64).map fun i =>
    fpRound (numMul (decodeElem .bf16 (element 16 row i)) (decodeElem .bf16 (element 16 col i))))

/-- One streamed row into one accumulator row; `none` for a tile error of R154. -/
def tensorRow (t : TensorOp) (k : Nat) (row : Nat) (sa : List Byte) (cols : List (Nat × List Byte × BitVec 9))
    (es : List AccEntry) : Option (List AccEntry) :=
  if t.fmtA = .bf16 then
    if es.any fun e => e.mode == .exact then none
    else some ((es.zip cols).map fun x => fpEntry x.1 (chunkSum row x.2.1))
  else
    if (es.zip cols).any fun x => x.1.mode == .fp32 || (x.1.mode == .exact && x.1.anchor != x.2.2.2) then none
    else some ((es.zip cols).map fun x => exactEntry t k row x.2.1 sa x.2.2.1 x.2.2.2 x.1)

/-- Read one thing after another; the first stop wins. -/
def readMany (s : State) (p k : Nat) : List (Word × Nat) → Stop ⊕ List (List Byte)
  | [] => .inr []
  | (a, n) :: t =>
    match (if n = 0 then .inr [] else s.winRead p k a n) with
    | .inl x => .inl x
    | .inr b => match readMany s p k t with
      | .inl x => .inl x
      | .inr bs => .inr (b :: bs)

/-- Bytes from `i × n`, `n` of them. -/
def slice (b : List Byte) (i n : Nat) : List Byte := (b.drop (i * n)).take n

/-- A tensor instruction's rows, each into its accumulator row (R108, R109). A row in error (R154) ends the instruction with none of
its rows changed (log entry 115). -/
def State.tensorRows (t : TensorOp) (kk : Nat) (p k : Nat) (a sa : List Byte) (cols : List (Nat × List Byte × BitVec 9)) :
    List Nat → State → Stop ⊕ State
  | [], s => .inr s
  | i :: rest, s =>
    let c := (s.slotAt p k).ctx
    let n := kk * t.fmtA.width / 8
    match tensorRow t kk (leNat (slice a i n)) (slice sa i (kk / 32)) cols ((List.range 64).map (c.accAt i)) with
    | none => .inl .mode
    | some es => State.tensorRows t kk p k a sa cols rest (s.onCtx p k fun c => c.putRow i es)

/-- TENSOR_INSTRUCTION (R108–R110, R148, R154). -/
def State.tensor (p k : Nat) (t : TensorOp) (s : State) : State :=
  match fmtRow t.fmtA t.scaledA, fmtRow t.fmtB t.scaledB with
  | some ra, some rb =>
    if ra ≠ rb then s.unsupported p k
    else if t.rows = 0 ∨ 64 < t.rows ∨ s.rowsHeld p k < t.rows then s
    else
      let kk := rowK ra
      let na := kk * t.fmtA.width / 8
      let nb := kk * t.fmtB.width / 8
      let ns (on : Bool) (n : Nat) : Nat := if on then n * (kk / 32) else 0
      match readMany s p k [(t.b, 64 * nb), (t.bScale, ns t.scaledB 64), (t.anchors, if ra = 0 then 0 else 128),
          (t.a, t.rows * na), (t.aScale, ns t.scaledA t.rows)] with
      | .inr [b, sb, an, a, sa] =>
        let anchors := (List.range 64).map fun j => leNat (slice an j 2)
        if anchors.any fun x => decide (512 ≤ x) then s.stopPart p k .mode
        else
          let cols := (List.range 64).map fun j =>
            (leNat (slice b j nb), slice sb j (kk / 32), BitVec.ofNat 9 (anchors.getD j 0))
          s.issue p k (s.tensorRows t kk p k a sa cols (List.range t.rows))
      | .inr _ => s
      | .inl x => s.stopPart p k x
  | _, _ => s.unsupported p k

/-- The array loads a stationary operand and streams rows (R108). -/
def execTensorInstruction (place slot : Nat) (t : TensorOp) (s : State) : Host.Outcome State Fault Refusal :=
  s.clocked <| if s.issuing place slot then s.tensor place slot t else s

/-! Row images and conversions (R112, R159, R166–R170) -/

/-- Bytes of a row image (R159). -/
def rowImage (es : List AccEntry) : List Byte :=
  es.flatMap (fun e => natBytes 16 e.value.toNat) ++ es.flatMap fun e => natBytes 2 (sideband e)

/-- Entry `j` of a row image, and whether its MODE is 3 (R159). -/
def imageEntry (b : List Byte) (j : Nat) : AccEntry × Bool :=
  let x := leNat (slice (b.drop 1024) j 2)
  let m := bitsN x 10 2
  ({ value := BitVec.ofNat 128 (leNat (slice b j 16)), anchor := BitVec.ofNat 9 x, range := bitsN x 9 1 == 1
     mode := if m = 1 then .exact else if m = 2 then .fp32 else .unused }, m == 3)

/-- One image entry into one target entry; `none` for a tile error (R159). -/
def mergeEntry (x : AccEntry × Bool) (t : AccEntry) : Option AccEntry :=
  if x.2 then none
  else match x.1.mode, t.mode with
  | .unused, _ => some t
  | .exact, .unused => some x.1
  | .exact, .exact =>
    if x.1.anchor ≠ t.anchor then none
    else
      let (v, sat) := accAdd (accInt t.value) (accInt x.1.value)
      some { t with value := BitVec.ofInt 128 v, range := t.range || x.1.range || sat }
  | .exact, .fp32 => none
  | .fp32, .unused => some { t with value := (x.1.value.truncate 32).zeroExtend 128, mode := .fp32 }
  | .fp32, .fp32 => some (fpEntry t (x.1.value.truncate 32))
  | .fp32, .exact => none

/-- A row image is added into an accumulator row, or the row is stored as an image (R159). -/
def execExactRowMerge (place slot row : Nat) (addr : Word) (store : Bool) (s : State) : Host.Outcome State Fault Refusal :=
  s.clocked <|
    if !s.issuing place slot ∨ s.rowsHeld place slot ≤ row then s
    else
      let es := (List.range 64).map ((s.slotAt place slot).ctx.accAt row)
      if store then s.issue place slot (s.winWrite place slot addr (rowImage es))
      else match s.winRead place slot addr 1152 with
      | .inl x => s.stopPart place slot x
      | .inr b => match (es.zipIdx.mapM fun e => mergeEntry (imageEntry b e.2) e.1) with
        | none => s.stopPart place slot .mode
        | some es2 => (s.onCtx place slot fun c => c.putRow row es2).nextPc place slot

/-- The value of an accumulator entry for a conversion (R153, R166). -/
def entryVal (e : AccEntry) : Num :=
  match e.mode with
  | .unused => .fin false 0 0
  | .exact => exactVal e.value e.anchor.toInt
  | .fp32 => fpVal (e.value.truncate 32)

/-- Rounding of the output element at a logical index (R166, R169). -/
def Launch.rounding (e : Launch) (shard index : Nat) : Rounding :=
  if bit (wordAt e.entry 0) 35 then .stochastic (srBits (wordAt e.entry 4) shard index) else .nearest

/-- The format is one an output can take, with or without block scales (R141–R143, R167). -/
def outputFmt (f : Fmt) (scaled : Bool) : Bool :=
  match f with
  | .fp32 | .bf16 | .int8 => !scaled
  | .e4m3 | .e5m2 => true
  | .e3m2 | .e2m3 | .e2m1 | .mxint8 | .ternary => scaled

/-- Convert values to a format: packed codes, scale bytes, mask bits (R166–R168). -/
def convertAll (f : Fmt) (scaled : Bool) (vs : List Num) (r : Nat → Rounding) : List Byte × List Byte × List Bool :=
  if scaled then
    let blocks := (List.range ((vs.length + 31) / 32)).map fun b => convertBlock f ((vs.drop (32 * b)).take 32) fun i => r (32 * b + i)
    let cs := blocks.flatMap (·.2)
    (packCodes f.width (cs.map (·.1)), blocks.map fun b => BitVec.ofNat 8 b.1, cs.map (·.2))
  else
    let cs := vs.zipIdx.map fun v => convert f (r v.2) v.1
    (packCodes f.width (cs.map (·.1)), [], cs.map (·.2))

/-- Write one thing after another; the first stop wins. -/
def writeMany (p k : Nat) : List (Word × List Byte) → State → Stop ⊕ State
  | [], s => .inr s
  | (a, b) :: t, s =>
    if b.isEmpty then writeMany p k t s
    else match s.winWrite p k a b with
    | .inl x => .inl x
    | .inr s1 => writeMany p k t s1

/-- The number whose bit `j` is the `j`-th flag. -/
def maskOf (bs : List Bool) : Nat := (bs.zipIdx.map fun b => if b.1 then 2 ^ b.2 else 0).sum

/-- An accumulator row is converted to an output format, and its range mask written (R166–R170). -/
def execRowRound (place slot : Nat) (r : RoundOp) (s : State) : Host.Outcome State Fault Refusal :=
  s.clocked <|
    if !s.issuing place slot ∨ s.rowsHeld place slot ≤ r.row then s
    else if !outputFmt r.fmt r.scaled then s.unsupported place slot
    else
      let es := (List.range 64).map ((s.slotAt place slot).ctx.accAt r.row)
      let (data, scales, masks) := convertAll r.fmt r.scaled (es.map entryVal)
        fun i => (s.launchAt place slot).rounding r.shard (r.index + i)
      let mask := maskOf ((es.zip masks).map fun x => x.1.range || x.2)
      s.issue place slot (writeMany place slot [(r.dst, data), (r.scaleDst, scales), (r.maskDst, natBytes 8 mask)] s)

/-- An explicit instruction clears a row: every entry zero, MODE 0, RANGE 0 (R112). -/
def execRowClear (place slot row : Nat) (s : State) : Host.Outcome State Fault Refusal :=
  s.clocked <|
    if !s.issuing place slot ∨ s.rowsHeld place slot ≤ row then s
    else (s.onCtx place slot fun c => c.putRow row (List.replicate 64 {})).nextPc place slot

/-! The vector engine (R113, R114, R165) -/

/-- Lane `i` of a vector register. -/
def PartCtx.lane (c : PartCtx) (r i : Nat) : Word32 := tabGet 0 c.vec (r * 32 + i)

/-- Write the lanes of a register. -/
def PartCtx.putReg (c : PartCtx) (r : Nat) (vs : List Word32) : PartCtx :=
  { c with vec := vs.zipIdx.foldl (fun t v => tabSet 0 t (r * 32 + v.2) v.1) c.vec }

/-- The 32 lanes of a register. -/
def PartCtx.reg (c : PartCtx) (r : Nat) : List Word32 := (List.range 32).map (c.lane r)

/-- A scalar register; there are 64 (R134). -/
def PartCtx.sreg (c : PartCtx) (r : Nat) : Word := tabGet 0 c.sregs r

/-- Write a scalar register. -/
def PartCtx.putSreg (c : PartCtx) (r : Nat) (v : Word) : PartCtx :=
  if r < 64 then { c with sregs := tabSet 0 c.sregs r v } else c

/-- A reduction is one of the canonical-tree reductions (R165). -/
def reduces (f : FpOp) : Bool := f == .add || f == .min || f == .max

/-- A vector instruction of a part (R112, R113, R165–R167). Its conversions write no mask: only a row-round does (log entry 114). -/
def State.vector (p k : Nat) (v : VecOp) (s : State) : State :=
  let c := (s.slotAt p k).ctx
  let n := s.regsHeld p k
  match v with
  | .fp f dst a b d =>
    if n ≤ dst ∨ n ≤ a ∨ n ≤ b ∨ n ≤ d then s
    else (s.onCtx p k fun c => c.putReg dst ((List.range 32).map fun i => fpLane f (c.lane a i) (c.lane b i) (c.lane d i))).nextPc p k
  | .int f dst a b =>
    if n ≤ dst ∨ n ≤ a ∨ n ≤ b then s
    else (s.onCtx p k fun c => c.putReg dst ((List.range 32).map fun i => intLane f (c.lane a i) (c.lane b i))).nextPc p k
  | .load dst addr =>
    if n ≤ dst then s
    else match s.winRead p k addr 128 with
    | .inl x => s.stopPart p k x
    | .inr b => (s.onCtx p k fun c => c.putReg dst ((List.range 32).map fun i => BitVec.ofNat 32 (leNat (slice b i 4)))).nextPc p k
  | .store src addr =>
    if n ≤ src then s else s.issue p k (s.winWrite p k addr ((c.reg src).flatMap fun x => natBytes 4 x.toNat))
  | .widen f scaled dst addr scale =>
    if n ≤ dst then s
    else if !outputFmt f scaled then s.unsupported p k
    else match readMany s p k [(addr, 4 * f.width), (scale, if scaled then 1 else 0)] with
    | .inl x => s.stopPart p k x
    | .inr bs =>
      let data := leNat (bs.getD 0 [])
      let sc := blockExp scaled (bs.getD 1 []) 0
      let one (i : Nat) : Word32 := match sc with
        | none => qnan
        | some x => BitVec.ofNat 32 (convert .fp32 .nearest ((decodeElem f (element f.width data i)).shift x)).1
      (s.onCtx p k fun c => c.putReg dst ((List.range 32).map one)).nextPc p k
  | .narrow f scaled src addr scale shard index =>
    if n ≤ src then s
    else if !outputFmt f scaled then s.unsupported p k
    else
      let (data, scales, _) := convertAll f scaled ((c.reg src).map fpVal) fun i => (s.launchAt p k).rounding shard (index + i)
      s.issue p k (writeMany p k [(addr, data), (scale, scales)] s)
  | .readRow dst row half shard index =>
    if n ≤ dst ∨ s.rowsHeld p k ≤ row then s
    else (s.onCtx p k fun c => c.putReg dst ((List.range 32).map fun i =>
      BitVec.ofNat 32 (convert .fp32 ((s.launchAt p k).rounding shard (index + i))
        (entryVal (c.accAt row (half % 2 * 32 + i)))).1)).nextPc p k
  | .reduceReg f src count dst =>
    if n ≤ src ∨ 32 < count ∨ 64 ≤ dst ∨ !reduces f then s
    else (s.onCtx p k fun c => c.putSreg dst ((fpReduce f ((c.reg src).take count)).zeroExtend 64)).nextPc p k
  | .reduceRow f row count dst shard index =>
    if s.rowsHeld p k ≤ row ∨ 64 < count ∨ 64 ≤ dst ∨ !reduces f then s
    else (s.onCtx p k fun c => c.putSreg dst ((fpReduce f ((List.range count).map fun i =>
      BitVec.ofNat 32 (convert .fp32 ((s.launchAt p k).rounding shard (index + i)) (entryVal (c.accAt row i))).1)).zeroExtend 64)).nextPc p k

/-- The vector engine executes an operation (R113). -/
def execVectorInstruction (place slot : Nat) (v : VecOp) (s : State) : Host.Outcome State Fault Refusal :=
  s.clocked <| if s.issuing place slot then s.vector place slot v else s

/-- The transcendental unit: functions 0–7 are exp2, log2, reciprocal, square root, reciprocal square root, sine, cosine
and tanh; the result is a fixed function of the input, free within the bound of R114 (log entry 4). -/
def execTranscendentalInstruction (place slot fn dst src : Nat) (s : State) : Host.Outcome State Fault Refusal :=
  s.clocked <|
    let n := s.regsHeld place slot
    if !s.issuing place slot ∨ n ≤ dst ∨ n ≤ src ∨ 8 ≤ fn then s
    else (s.onCtx place slot fun c => c.putReg dst ((c.reg src).map fun x => transResult fn x (Config.transcendental fn x))).nextPc place slot

/-! The sequencer (R115, R191) -/

/-- Scalar arithmetic on 64 bits. -/
def alu (f : AluOp) (a b : Word) : Word :=
  match f with
  | .add => a + b
  | .sub => a - b
  | .mul => a * b
  | .and => a &&& b
  | .or => a ||| b
  | .xor => a ^^^ b
  | .shl => a <<< (b.toNat % 64)
  | .shr => a >>> (b.toNat % 64)
  | .sltu => if a.ult b then 1 else 0
  | .slt => if a.slt b then 1 else 0

/-- A scalar instruction of a part. -/
def State.scalar (p k : Nat) (i : ScalarOp) (s : State) : State :=
  let c := (s.slotAt p k).ctx
  match i with
  | .imm dst v => (s.onCtx p k fun c => c.putSreg dst v).nextPc p k
  | .load dst addr => match s.winRead p k addr 8 with
    | .inl x => s.stopPart p k x
    | .inr b => (s.onCtx p k fun c => c.putSreg dst (w64 (leNat b))).nextPc p k
  | .store src addr => s.issue p k (s.winWrite p k addr (wordBytes (c.sreg src)))
  | .alu f dst a b => (s.onCtx p k fun c => c.putSreg dst (alu f (c.sreg a) (c.sreg b))).nextPc p k
  | .branch cond target => if c.sreg cond = 0 then s.nextPc p k else s.onCtx p k fun c => { c with pc := target }
  | .jump target => s.onCtx p k fun c => { c with pc := target }
  | .loopState => ((s.onCtx p k fun c => { c with loopPred := s.fresh }).drawn).nextPc p k

/-- A scalar load, store, branch or arithmetic instruction (R115, R191). -/
def execScalarInstruction (place slot : Nat) (i : ScalarOp) (s : State) : Host.Outcome State Fault Refusal :=
  s.clocked <| if s.issuing place slot then s.scalar place slot i else s

/-! DMA descriptors, held signals and doorbells (R120, R260, R307) -/

/-- Length an operand must fit into: a part's partition, or the hold below the save heap (R118, R120). -/
def State.endFits (s : State) (p k len : Nat) : DmaEnd → Bool
  | .localStore off => decide (off + len ≤ (s.launchAt p k).lsGranules * 4096)
  | .hold off => decide (off + len ≤ 0x1F00000)
  | .va _ => true

/-- Byte of an operand, for ERR_ADDR. -/
def endOffset : DmaEnd → Nat
  | .localStore off | .hold off | .va off => off

/-- A queue of a part's engine. -/
def State.onDma (p k engine : Nat) (f : DmaCtx → DmaCtx) (s : State) : State :=
  s.onCtx p k fun c => if engine = 0 then { c with dma0 := f c.dma0 } else { c with dma1 := f c.dma1 }

/-- A kernel queues a DMA descriptor; an operand outside the launch's bounds is a tile error with ERR_CODE 1, handled as a window
error is (R116, R120; log entry 53). An atomic acts on the bytes `dst` names, as many as its operation has (R455), and delivers the value
they held to `src`. -/
def execDmaDescriptor (place slot engine : Nat) (src dst : DmaEnd) (len : Nat) (atomic : Option AtomicOp) (s : State) :
    Host.Outcome State Fault Refusal :=
  s.clocked <|
    let n := match atomic with | some a => atomicWidth a | none => len
    if !s.issuing place slot ∨ 2 ≤ engine ∨ n = 0 then s
    else if !s.endFits place slot n src then s.stopPart place slot (.window (w64 (endOffset src)))
    else if !s.endFits place slot n dst then s.stopPart place slot (.window (w64 (endOffset dst)))
    else (s.onDma place slot engine fun d => { d with
      queue := d.queue ++ [{ id := d.nextDesc, src := src, dst := dst, len := n, atomic := atomic }], nextDesc := d.nextDesc + 1 }).nextPc
      place slot

/-- A device doorbell reaches the fetch unit (R229, R258, R259). -/
def State.ringDevice (b : Nat) (v : Word32) (det : Bool) (s : State) : State :=
  let x := s.berth b
  if !x.deviceSubmit then s.dbReject b false
  else
    let s1 := s.doorbell b v
    if det ∨ (s1.berth b).producer ≠ v then s1
    else s1.onBerth b fun y => { y with nondet := setInsRange y.nondet x.producer.toNat (v - x.producer).toNat }

/-- A held signal or doorbell goes out. -/
def State.release (det : Bool) (h : Held) (s : State) : State :=
  match h.item with
  | .inl (fon, v) => s.onFu fun u => { u with inflight := u.inflight ++ [{ fon := fon, value := v, err := false }] }
  | .inr (b, v) => s.ringDevice b v det

/-- No descriptor ahead of a held item is left. -/
def PartCtx.clearOf (c : PartCtx) (h : Held) : Bool :=
  c.dma0.queue.all (fun d => decide (h.before0 ≤ d.id)) && c.dma1.queue.all fun d => decide (h.before1 ≤ d.id)

/-- Every held item with nothing ahead of it goes out, in order (R260, R307). -/
def State.releaseHeld (p k : Nat) (s : State) : State :=
  let c := (s.slotAt p k).ctx
  let out := c.held.takeWhile c.clearOf
  foldState out (fun a h => a.speak (s.placeSpeaker p) (fun b => b.release (s.launchAt p k).det h)) (s.onCtx p k fun c => { c with held := c.held.drop out.length })

/-- Hold a signal or doorbell behind the descriptors now queued (R260, R307). -/
def State.hold (p k : Nat) (item : (Nat × Word) ⊕ (Nat × Word32)) (s : State) : State :=
  (s.onCtx p k fun c => { c with held := c.held ++ [⟨item, c.dma0.nextDesc, c.dma1.nextDesc⟩] }).releaseHeld p k

/-! Fences inside a kernel (R185, R307) -/

/-- An in-kernel wait begins, or returns at once for a target out of range (R185). -/
def execKernelFenceWait (place slot : Nat) (handle : Word32) (target : Word) (dstValue dstStatus : Nat) (s : State) :
    Host.Outcome State Fault Refusal :=
  s.clocked <|
    if !s.issuing place slot then s
    else if !s.heard (s.placeSpeaker place) then s.unheard (s.placeSpeaker place)
    else
      let e := s.launchAt place slot
      match s.fenceEnt e.context handle with
      | none => (s.tileErr place slot 15 0).settle
      | some x =>
        let s1 := s.touchFence x.fon
        match s1.fence x.fon with
        | none => (s.tileErr place slot 15 0).settle
        | some f =>
          if !x.wait then (s.tileErr place slot 15 0).settle
          else if (target - f.value).toNat = 2 ^ 63 then
            let st := 2 ^ 63 + if f.abandoned then 2 + (if waitErr f target then 1 else 0) else 0
            (s1.onCtx place slot fun c => (c.putSreg dstValue f.value).putSreg dstStatus (w64 st)).nextPc place slot
          else s1.onCtx place slot fun c => { c with wait := some {
            fon := x.fon, target := target, dstValue := dstValue, dstStatus := dstStatus
            released := releasedBy f target, err := releasedBy f target && waitErr f target } }

/-- A fence-reached notice arrives: the wait returns its two scalars (R185). -/
def execFenceReachedNotice (place slot : Nat) (s : State) : Host.Outcome State Fault Refusal :=
  s.clocked <|
    let v := s.slotAt place slot
    match v.ctx.wait with
    | none => s
    | some w =>
      if v.state ≠ .running ∨ !w.released then s
      else
        let f := (s.fence w.fon).getD {}
        let st := (if w.err then 1 else 0) + (if f.abandoned then 2 else 0)
        ((s.onCtx place slot fun c => ({ c with wait := none }.putSreg w.dstValue f.value).putSreg w.dstStatus (w64 st)).nextPc
          place slot).reapFence w.fon

/-- A kernel signals a fence (R184, R299, R307). -/
def execKernelFenceSignal (place slot : Nat) (handle : Word32) (v : Word) (s : State) : Host.Outcome State Fault Refusal :=
  s.clocked <|
    if !s.issuing place slot then s
    else match s.fenceEnt (s.launchAt place slot).context handle with
    | none => (s.tileErr place slot 15 0).settle
    | some x => match s.fence x.fon with
      | none => (s.tileErr place slot 15 0).settle
      | some f => if !x.signal ∨ f.closed then (s.tileErr place slot 15 0).settle
        else (s.hold place slot (.inl (x.fon, v))).nextPc place slot

/-- A launch rings a device doorbell (R258, R260). -/
def execDeviceDoorbell (place slot berth : Nat) (v : Word32) (s : State) : Host.Outcome State Fault Refusal :=
  s.clocked <|
    if !s.issuing place slot then s
    else if 8192 ≤ berth ∨ (s.berth berth).context ≠ (s.launchAt place slot).context then
      (s.tileErr place slot 6 0).settle
    else (s.hold place slot (.inr (berth, v))).nextPc place slot

/-! Gang reductions (R124, R131, R177, R188–R190) -/

/-- Contexts of a launch's resident parts, with part numbers. -/
def State.residentParts (s : State) (l : Nat) : List (Nat × Nat × Nat × Slot) :=
  match s.launch l with
  | none => []
  | some e => e.parts.zipIdx.filterMap fun x => match x.1 with
      | .slot p k => some (x.2, p, k, s.slotAt p k)
      | _ => none

/-- A contribution breaks R189: another part's contribution carries another operation or root, or a part has retired
without one (R190). -/
def State.redBroken (s : State) (l seq : Nat) (op : RedOp) : Bool :=
  ((s.liveParts l).any fun x => x.2.reds.any fun r => r.seq == seq && r.op != op)
  || (s.residentParts l).any fun x => x.2.2.2.state == .retiring && decide (x.2.2.2.ctx.nextRed ≤ seq)

/-- A part contributes to the next reduction or broadcast of its gang; with four in flight it blocks (R124, R188). -/
def State.contribute (p k : Nat) (op : RedOp) (v : Word) (dst : Nat) (s : State) : State :=
  let x := s.slotAt p k
  let c := x.ctx
  if 4 ≤ c.reds.length then s.onCtx p k fun c => { c with blockedRed := true }
  else if !s.heard (s.placeSpeaker p) then s.unheard (s.placeSpeaker p)
  else
    let s1 := (s.onCtx p k fun c => { c with
      reds := c.reds ++ [⟨c.nextRed, op, v, dst⟩], nextRed := c.nextRed + 1, blockedRed := false }).nextPc p k
    if s.redBroken x.entry c.nextRed op then (s1.redMismatch x.entry).settle else s1

/-- GANG_REDUCTION (R124). -/
def execGangReduction (place slot : Nat) (op : RedOp) (v : Word) (dst : Nat) (s : State) : Host.Outcome State Fault Refusal :=
  s.clocked <| if s.issuing place slot then s.contribute place slot op v dst else s

/-- GANG_BROADCAST (R188). -/
def execGangBroadcast (place slot root : Nat) (v : Word) (dst : Nat) (s : State) : Host.Outcome State Fault Refusal :=
  s.clocked <| if s.issuing place slot then s.contribute place slot (.bcast root) v dst else s

/-- Combine the contributions of a gang in ascending part order by the canonical tree; a gang of one receives its own value (R124,
R165, R177, R188). -/
def reduceValues (op : RedOp) (vs : List Word) : Word :=
  let fp (f : Word32 → Word32 → Word32) (a b : Word) : Word := (f (a.truncate 32) (b.truncate 32)).zeroExtend 64
  let low := vs.map fun v => ((v.truncate 32 : Word32).zeroExtend 64 : Word)
  match op with
  | .add => tree (· + ·) 0 vs
  | .smin => tree (fun a b => if b.slt a then b else a) 0 vs
  | .smax => tree (fun a b => if a.slt b then b else a) 0 vs
  | .umin => tree (fun a b => if b.ult a then b else a) 0 vs
  | .umax => tree (fun a b => if a.ult b then b else a) 0 vs
  | .band => tree (· &&& ·) 0 vs
  | .bor => tree (· ||| ·) 0 vs
  | .bxor => tree (· ^^^ ·) 0 vs
  | .fmin => if vs.length = 1 then vs.getD 0 0 else tree (fp (fpPick false)) 0 low
  | .fmax => if vs.length = 1 then vs.getD 0 0 else tree (fp (fpPick true)) 0 low
  | .fadd => if vs.length = 1 then vs.getD 0 0 else tree (fp fpAdd) 0 low
  | .bcast root => vs.getD root 0

/-- The last contribution has arrived: the result goes to every part (R124, R131, R190). -/
def execReductionResult (l seq : Nat) (s : State) : Host.Outcome State Fault Refusal :=
  s.clocked <|
    let ps := s.residentParts l
    let pend (v : Slot) : Option RedPend := v.ctx.reds.find? fun r => r.seq == seq
    let ready := ps.all fun x => (x.2.2.2.state == .running || x.2.2.2.state == .retiring) && (pend x.2.2.2).isSome
    match s.launch l, ps.head?.bind fun x => pend x.2.2.2 with
    | some e, some r =>
      if !ready ∨ ps.length ≠ e.gang then s
      else
        let v := reduceValues r.op (ps.filterMap fun x => (pend x.2.2.2).map (·.value))
        foldState ps (fun a x => a.onCtx x.2.1 x.2.2.1 fun c => match c.reds.find? fun r => r.seq == seq with
          | none => c
          | some q => { c.putSreg q.dst v with reds := c.reds.filter (fun r => r.seq != seq), blockedRed := false }) s
    | _, _ => s

/-! Tags, special scalars, exit and trap (R184, R187, R202, R203) -/

/-- Set a residency tag on a place's table (R202, R203). -/
def setTagIn (t : List TagEntry) (x : TagEntry) : List TagEntry :=
  if t.any fun y => y.tag == x.tag then t.filter (fun y => y.tag != x.tag) ++ [x]
  else if t.length < 64 then t ++ [x] else t.drop 1 ++ [x]

/-- SET_TAG (R203): ignored when the range would pass the end of the hold below the save heap. -/
def execSetTag (place slot tag base length : Nat) (s : State) : Host.Outcome State Fault Refusal :=
  s.clocked <|
    if !s.issuing place slot then s
    else if tag = 0 ∨ 2 ^ 40 ≤ tag ∨ length = 0 ∨ 496 < base + length then s.nextPc place slot
    else (s.onPlace place fun x => { x with tags := setTagIn x.tags ⟨tag, base, length⟩ }).nextPc place slot

/-- CLEAR_TAG (R203). -/
def execClearTag (place slot tag : Nat) (s : State) : Host.Outcome State Fault Refusal :=
  s.clocked <|
    if !s.issuing place slot then s
    else (s.onPlace place fun x => { x with tags := x.tags.filter fun t => t.tag != tag }).nextPc place slot

/-- Special scalar `n`, in the order of the table of R187. -/
def State.special (s : State) (p k n : Nat) : Word :=
  let v := s.slotAt p k
  let e := s.launchAt p k
  match n with
  | 0 => e.ident
  | 1 => w64 v.part
  | 2 => w64 e.gang
  | 3 => w64 v.ctx.logicalTile
  | 4 => s.tide.num
  | 5 => w64 e.elapsed
  | 6 => w64 e.budgetLeft
  | 7 => w64 e.resumes
  | 8 => w64 v.ctx.residentMask
  | 9 | 10 | 11 | 12 => w64 (v.ctx.tagBase.getD (n - 9) (2 ^ 64 - 1))
  | _ => wordAt e.entry 4

/-- READ_SPECIAL_SCALAR (R187). -/
def execReadSpecialScalar (place slot n dst : Nat) (s : State) : Host.Outcome State Fault Refusal :=
  s.clocked <|
    if !s.issuing place slot ∨ 14 ≤ n then s
    else (s.onCtx place slot fun c => c.putSreg dst (s.special place slot n)).nextPc place slot

/-- KERNEL_EXIT: the exit value is taken and issue stops (R184). -/
def execKernelExit (place slot : Nat) (v : Word32) (s : State) : Host.Outcome State Fault Refusal :=
  s.clocked <| if s.issuing place slot then s.onCtx place slot fun c => { c with exitValue := v, stopped := true } else s

/-- KERNEL_TRAP: a tile error with ERR_CODE 4 (R184, R284). -/
def execKernelTrap (place slot code : Nat) (s : State) : Host.Outcome State Fault Refusal :=
  s.clocked <|
    if s.issuing place slot then
      ((s.onCtx place slot fun c => { c with trapTaken := true, trapCode := code % 256 }).tileErr place slot 4 0).settle
    else s

end Sys2Proof.Machine
end

