-- ==== Sys2Proof/Machine/StreamOps.lean ====
section
/-! DEFINITION. What the Shomea links carry: transactions, streams, lane groups, retry and credits (14_shomea_links_and_pools,
R449–R459), and the key slots that ports use (17_security, R546, R554). -/
namespace Sys2Proof.Machine
open Sys2Proof

/-! Key slots (R546, R554) -/

/-- The contents of a key slot in the bank selected. -/
def State.keySlot (s : State) (k : Nat) : KeySlot := tabGet {} (if s.sec.selB then s.sec.bankB else s.sec.bankA) k

/-- The slot reads as empty: its tag fails or its usage is not LINK (R554). -/
def KeySlot.empty (k : KeySlot) : Bool := !k.tagOk || k.usage != 1

/-- Ports assigned to a slot. -/
def State.portsOfSlot (s : State) (k : Nat) : List Nat :=
  (s.sec.portKey.filter fun x => x.2.1 == k && x.2.2).map (·.1)

/-- A slot's tag is checked at a use: KEY_SLOT_BAD once until it is next written (R554, R562). -/
def State.checkSlot (k : Nat) (s : State) : State :=
  let x := s.keySlot k
  if s.sec.slotBad.contains k ∨ (x.tagOk ∧ x.usage ≤ 1) then s
  else (s.onSec fun c => { c with slotBad := setIns c.slotBad k, cSlotBad := c.cSlotBad + 1 }).event 0x0A03 0 0
    [w64 k, w64 ((s.portsOfSlot k).map (2 ^ ·)).sum]

/-- A port's slot holds a link key (R546, R547). -/
def State.portKey (s : State) (p : Nat) : Option KeySlot :=
  match tabFind s.sec.portKey p with
  | some (k, true) => if (s.keySlot k).empty then none else some (s.keySlot k)
  | _ => none

/-- A port's slot is checked. -/
def State.checkPortSlot (p : Nat) (s : State) : State :=
  match tabFind s.sec.portKey p with
  | some (k, true) => s.checkSlot k
  | _ => s

/-- A number as `n` bytes, the lowest first. -/
def leBytes (n v : Nat) : List Byte := (List.range n).map fun i => BitVec.ofNat 8 (v / 2 ^ (8 * i))

/-- Context of the key of lane group `q` of a port, the sender and the key-phase count: "SHL1", the identifiers in order, the sender, the
lane group and the count (R546). -/
def laneContext (own far sender q n : Nat) : List Byte :=
  [0x53, 0x48, 0x4C, 0x31] ++ leBytes 2 (min own far) ++ leBytes 2 (max own far) ++ leBytes 2 sender ++ leBytes 1 q ++ leBytes 8 n

/-- The key of a lane group and direction: KMAC256 under the slot's key with custom string "lane" (R546). -/
def laneKey (k : BitVec 256) (own far sender q n : Nat) : LaneKey :=
  let out := Config.kmac256 k (laneContext own far sender q n) 352 [0x6C, 0x61, 0x6E, 0x65]
  { key := BitVec.ofNat 256 out, ivHigh := BitVec.ofNat 32 (out / 2 ^ 256) }

/-- A lane group takes the keys of its key-phase count from a slot's key (R452, R546). -/
def LaneGroup.keyed (x : LaneGroup) (q : Nat) (k : KeySlot) : LaneGroup :=
  { x with
    txKey := laneKey k.key x.ownId x.farId x.ownId q x.keyN
    rxKey := laneKey k.key x.ownId x.farId x.farId q x.keyN }

/-- The slot whose key a lane group's next key phase takes: a link key for the partner that the port trained with (R546, R547). -/
def State.nextSlot (s : State) (g : Nat) : Option KeySlot := (s.portKey (g / 4)).filter fun k => k.partner == (s.lg g).farId

/-! Transactions (R455) -/

/-- The 16-byte header of a transaction. -/
def txnHeader (op cls len tag status subop addr : Nat) (ext : Bool) : List Word :=
  [w64 (op + cls * 2 ^ 4 + (if ext then 2 ^ 7 else 0) + len * 2 ^ 8 + tag * 2 ^ 24 + status * 2 ^ 40 + subop * 2 ^ 44),
   w64 (addr % 2 ^ 52)]

/-- Data words padded to 16 bytes. -/
def pad16 (bs : List Byte) : List Word := bytesWords ((bs.length + 15) / 16 * 2) bs

/-- Words a transaction takes in its stream, header and all (R455). -/
def txnWords (w0 : Word) : Nat :=
  let data := match bits w0 0 4 with
    | 1 | 2 | 3 | 5 | 6 | 7 => (bits w0 8 13 + 15) / 16 * 2
    | _ => 0
  2 + (if bit w0 7 then 2 else 0) + data

/-- A header breaks R455: a reserved OP, or a non-zero reserved field. -/
def malformedHeader (w0 w1 : Word) : Bool :=
  decide (8 ≤ bits w0 0 4) || bits w0 21 3 != 0 || bits w0 52 12 != 0 || bits w1 52 12 != 0

/-- Follow the transactions of a flit's body: how many are malformed, and the words still to come of the last one. A zero
header is padding (log entry 40). -/
def scanTxns : Nat → Nat → List Word → Nat × Nat
  | 0, left, _ => (0, left)
  | fuel + 1, left, ws =>
    if ws.length ≤ left then (0, left - ws.length)
    else match ws.drop left with
    | [] => (0, 0)
    | w0 :: rest =>
      let w1 := rest.headD 0
      if w0 = 0 ∧ w1 = 0 then (0, 0)
      else
        let r := scanTxns fuel (txnWords w0) (w0 :: rest)
        (r.1 + (if malformedHeader w0 w1 then 1 else 0), r.2)

/-! Lane groups (R450, R451, R457) -/

/-- Harbour a lane group is bound to. -/
def State.lgHarbour (s : State) (g : Nat) : Option Nat :=
  match tabGet .free s.hb.laneGroups g with | .bound h _ => some h | _ => none

/-- The harbour holds a lane group. -/
def State.holdsLg (s : State) (h : Nat) : Bool := (List.range 64).any fun g => s.lgHarbour g == some h

/-- A flit of the harbour may use the lane group: a harbour that holds lane groups uses its own; harbour 0, and one that holds none, the
free ones and those bound to harbour 0 (R331, R457). -/
def State.usableLg (s : State) (h g : Nat) : Bool :=
  s.portPresent (g / 4) && (s.port (g / 4)).st == .up && !(s.lg g).keyStall && !s.lgDraining g
  && (if h ≠ 0 ∧ s.holdsLg h then s.lgHarbour g == some h else tabGet .free s.hb.laneGroups g == .free || s.lgHarbour g == some 0)

/-- Valid route-table entries of a destination, with their numbers (R456). -/
def State.routes (s : State) (dst : Nat) : List (Nat × Word) :=
  (List.range 16).filterMap fun r =>
    match s.word0 (s.lk.routeBase + (dst * 16 + r) * 8) with
    | some (w, false) => if bit w 6 && bits w 51 13 == 0 && !bit w 7 then some (r, w) else none
    | _ => none

/-- Lane groups a flit could leave by now: usable, with a valid route, a credit and room in the retry buffer (R450,
R457). -/
def State.lgChoices (s : State) (h dst vc : Nat) : List Nat :=
  let rs := s.routes dst
  (List.range 64).filter fun g => s.usableLg h g && rs.any (fun r => bits r.2 0 6 == g)
    && decide (0 < tabGet 0 (s.lg g).credits vc) && decide ((s.lg g).retry.length < 1024)

/-- The choice with the lowest transmit-buffer fill, the lowest number at a tie (R457). -/
def State.pickLg (s : State) (gs : List Nat) : Option Nat :=
  gs.foldl (fun b g => match b with
    | none => some g
    | some x => if (s.lg g).fill < (s.lg x).fill then some g else some x) none

/-- The next route of a lane group to a destination, in rotation (R457). -/
def State.nextRoute (s : State) (g dst : Nat) : Option (Nat × Word) :=
  let rs := (s.routes dst).filter fun r => bits r.2 0 6 == g
  match rs.find? fun r => decide (tabGet 16 (s.lg g).lastRoute dst < r.1) with
  | some r => some r
  | none => rs.head?

/-- The acknowledgement and credit fields that ride on an outgoing flit (R449, R450). -/
def LaneGroup.ride (x : LaneGroup) (f : Flit) : Flit × LaneGroup :=
  let vc := ((x.owed.find? fun c => decide (0 < c.2)).map (·.1)).getD 0
  let n := min 255 (tabGet 0 x.owed vc)
  ({ f with ackSeq := x.rxNext - 1, ackKind := x.ackOwed, credits := n, creditVc := vc, keyPhase := x.keyPhase },
   { x with ackOwed := 0, owed := tabSet 0 x.owed vc (tabGet 0 x.owed vc - n), keyCount := x.keyCount + 1 })

/-- A data or control flit leaves on a lane group: it takes the next SEQ and stays in the retry buffer (R450, R451). -/
def State.launchFlit (g : Nat) (f : Flit) (s : State) : State :=
  let x := s.lg g
  let (f1, x1) := x.ride { f with seq := x.txSeq }
  (s.onLg g fun _ => { x1 with
    txSeq := x.txSeq + 1, retry := x1.retry ++ [f1]
    credits := if f.type = 1 then tabSet 0 x1.credits f.vc (tabGet 0 x1.credits f.vc - 1) else x1.credits }).emit (.flit g f1)

/-- A stream flit leaves by a lane group over its next route, unless the group's checker drops it (R341, R342). -/
def State.sendOn (g : Nat) (f : Flit) (s : State) : State :=
  match s.nextRoute g f.dst with
  | none => s
  | some (r, w) => (s.readEffectH 0 (s.lk.routeBase + f.dst * 128) 128).speak (.laneGroup g) fun s => (s.onLg g fun x => { x with lastRoute := tabPut x.lastRoute f.dst r }).launchFlit g
      { f with hop := 0, hops := bits w 8 3, ports := (List.range 5).map fun h => bits w (11 + 8 * h) 8 }

/-! Streams (R459) -/

/-- Try to send a stream's flits that wait for a lane group, oldest first (R457, R459). -/
def State.sendWaiting (key : Nat) (s : State) : State :=
  let t := tabGet {} s.lk.tx key
  let step (a : State × List Unacked × Bool) (u : Unacked) : State × List Unacked × Bool :=
    if u.lg ≠ 64 ∨ a.2.2 then (a.1, a.2.1 ++ [u], a.2.2)
    else match a.1.pickLg (a.1.lgChoices u.harbour (key / 4) (key % 4)) with
    | none => (a.1, a.2.1 ++ [u], true)
    | some g => (a.1.sendOn g u.flit, a.2.1 ++ [{ u with lg := g }], false)
  let r := t.unacked.foldl step (s, [], false)
  r.1.onLk fun x => { x with tx := tabPut x.tx key { t with unacked := r.2.1 } }

/-- Every stream tries its waiting flits, those of VC 0 first (R454, log entry 140). -/
def State.sendAll (s : State) : State :=
  let ks := (s.lk.tx.filter fun t => t.2.unacked.any fun u => u.lg == 64).map (·.1)
  foldState (ks.filter (· % 4 == 0) ++ ks.filter (· % 4 != 0)) (fun a k => a.sendWaiting k) s

/-- Span identifier that a harbour's traffic carries (R449, R460). -/
def State.spanOf (s : State) (h : Nat) : Nat :=
  if h = 0 then 0 else match s.harbour h with | some x => x.spanId | none => 0

/-- Epoch of this module's own node (R528). -/
def State.ownEpoch (s : State) : Nat := (s.node s.lk.nodeId).epoch

/-- Cut words into flit bodies of 27 words. -/
def bodies : Nat → List Word → List (List Word)
  | 0, _ => []
  | n + 1, ws => if ws.length ≤ 27 then [ws] else ws.take 27 :: bodies n (ws.drop 27)

/-- The POISON field of a flit whose body words are flagged: its bits name 64-byte segments of the flit, and the body begins at byte 24
(R449). -/
def flitPoison (bad : List Bool) : Nat :=
  ((List.range 4).map fun seg => if bad.zipIdx.any fun x => x.1 && (24 + 8 * x.2) / 64 == seg then 2 ^ seg else 0).sum

/-- Send a transaction of a harbour on a stream, with the words that are poisoned: it leaves the module as flits (R378, R449, R455,
R459). -/
def State.sendTxn (h node vc : Nat) (words : List Word) (bad : List Bool) (s : State) : State :=
  let key := node * 4 + vc
  let t := tabGet {} s.lk.tx key
  let fs := (bodies (words.length / 27 + 1) words).zipIdx.map fun b => ({
    flit := { type := 1, vc := vc, poison := flitPoison ((bad.drop (27 * b.2)).take 27), dst := node, src := s.lk.nodeId
              srcEpoch := s.ownEpoch, spanId := s.spanOf h, streamSeq := t.next + BitVec.ofNat 16 b.2
              body := b.1 ++ List.replicate (27 - b.1.length) 0 }
    lg := 64, harbour := h } : Unacked)
  ((s.onLk fun x => { x with tx := tabPut x.tx key { next := t.next + BitVec.ofNat 16 fs.length
                                                     unacked := t.unacked ++ fs } }).emit
    (.txn node (bits (words.headD 0) 0 4) words)).sendWaiting key

/-- Send a transaction with data (R378, R455): header words, then the data padded to 16 bytes; a word with a poisoned byte is poisoned. -/
def State.sendData (h node vc : Nat) (header : List Word) (data : Beats) (s : State) : State :=
  let bad := beatFlags data
  s.sendTxn h node vc (header ++ pad16 (beatBytes data))
    (header.map (fun _ => false) ++ (cutAt 8 0 bad.length).map fun x => ((bad.drop x.1).take x.2).any id)

/-- Send an end-to-end acknowledgement of a stream on VC 0 (R459): a SIGNAL whose operand is the stream's VC and its
last sequence number (log entry 41). -/
def State.ackStream (node vc : Nat) (s : State) : State :=
  let r := tabGet {} s.lk.rx (node * 4 + vc)
  (s.onLk fun x => { x with rx := tabPut x.rx (node * 4 + vc) { r with sinceAck := 0 } }).sendTxn 0 node 0
    (txnHeader 7 0 16 0 0 0 (Config.signalKind 1 % 256) false ++ [w64 (vc + (r.next - 1).toNat * 65536), 0]) []

/-- Deliver a stream's flits in order (R459). -/
def State.deliverStream (key : Nat) : Nat → State → State
  | 0, s => s
  | fuel + 1, s =>
    let r := tabGet {} s.lk.rx key
    match tabFind r.ahead r.next.toNat with
    | none => s
    | some f =>
      let (bad, left) := scanTxns 14 r.left f.body
      State.deliverStream key fuel (s.onLk fun x => { x with
        cMalformed := x.cMalformed + BitVec.ofNat 16 bad
        unreachable := setDel x.unreachable (key / 4)
        rx := tabPut x.rx key { next := r.next + 1, ahead := tabDel r.ahead r.next.toNat
                                sinceAck := r.sinceAck + 1, left := left } })

/-- Flits held in the reorder buffers of a die's share of the streams (R459). -/
def State.reorderFill (s : State) : Nat := (s.lk.rx.map fun r => r.2.ahead.length).sum

/-- A flit that passed its link checks reaches its stream: duplicates and flits too far ahead are discarded (R459); VC 0
traffic that is itself an acknowledgement is acknowledged like any other. -/
def State.receiveStream (f : Flit) (s : State) : State :=
  let key := f.src * 4 + f.vc
  let r := tabGet {} s.lk.rx key
  let d := (f.streamSeq - r.next).toNat
  if 4096 < d ∨ 32768 ≤ s.reorderFill then s
  else
    let s1 := (s.onLk fun x => { x with rx := tabPut x.rx key { r with ahead := tabPut r.ahead f.streamSeq.toNat f } }).deliverStream
      key 4097
    if 64 ≤ (tabGet {} s1.lk.rx key).sinceAck then s1.ackStream f.src f.vc else s1

/-! Acknowledgements of a lane group (R450, R446) -/

/-- Flits up to a sequence number leave the retry buffer. -/
def ackedUpTo (retry : List Flit) (q : BitVec 12) : List Flit :=
  match retry with
  | [] => []
  | f :: _ => let n := (q - f.seq).toNat + 1
    if n ≤ retry.length then retry.drop n else retry

/-- A port raises LINK_DOWN; the spec gives the cause no encoding, so it is a free value (R475). -/
def State.linkDown (p : Nat) (s : State) : State := (s.event 0x0700 5 p [w64 p, s.fresh]).drawn

/-- A port leaves UP: the flits in the retry buffers of its lane groups are sent again on other lane groups (R446,
R459). -/
def State.portLeaves (p : Nat) (st : PortSt) (s : State) : State :=
  let gs := [p * 4, p * 4 + 1, p * 4 + 2, p * 4 + 3]
  let lost := gs.flatMap fun g => (s.lg g).retry
  let s1 := foldState gs (fun a g => a.onLg g fun x => { x with retry := [], nakRun := 0, ackOwed := 0 })
    (s.onPort p fun x => { x with st := st })
  let waits (u : Unacked) : Unacked :=
    if u.lg / 4 = p ∧ lost.any (fun f => f.type == 1 && f.vc == u.flit.vc && f.dst == u.flit.dst
        && f.streamSeq == u.flit.streamSeq) then { u with lg := 64 } else u
  (s1.onLk fun x => { x with tx := x.tx.map fun t => (t.1, { t.2 with unacked := t.2.unacked.map waits }) }).sendAll

/-- A port goes to RETRAIN (R446). -/
def State.retrain (p : Nat) (s : State) : State :=
  if (s.port p).st ≠ .up then s
  else (s.portLeaves p .retrain).onPort p fun x => { x with cRetrains := x.cRetrains + 1 }

/-- A port goes to DOWN (R445, R446). -/
def State.portDown (p : Nat) (s : State) : State := (s.portLeaves p .down).linkDown p

/-- The acknowledgement fields of a flit that arrived: an ACK frees the retry buffer, a NAK sends every later flit again,
and eight NAKs of one flit in succession retrain the port (R446, R450). -/
def State.takeAck (g : Nat) (f : Flit) (s : State) : State :=
  let x := s.lg g
  let rest := ackedUpTo x.retry f.ackSeq
  let moved := rest.length < x.retry.length
  if f.ackKind = 1 then s.onLg g fun x => { x with retry := rest, nakRun := if moved then 0 else x.nakRun }
  else if f.ackKind = 2 then
    let run := (if moved then 0 else x.nakRun) + 1
    let s1 := s.onLg g fun x => { x with retry := rest, nakRun := run }
    if 8 ≤ run then s1.retrain (g / 4)
    else (foldState rest (fun a f => a.emit (.flit g f)) s1).onPort (g / 4) fun p =>
      { p with cRetry := p.cRetry + BitVec.ofNat 16 rest.length }
  else s

end Sys2Proof.Machine
end

