-- ==== Sys2Proof/Machine/MillCmds.lean ====
section
/-! DEFINITION. The commands of the Mills and of the merge tree: loads, records, lists, merges over one module or several, saved slots,
aborts and zeroing (06_mill). -/
namespace Sys2Proof.Machine
open Sys2Proof

/-- A loaded slot scans, or saves when its channel has moved away (R241). -/
def State.scanningOr (s : State) (m : Nat) : MillSt := if (tabFind s.hb.forward m).isSome then .saving else .scanning

/-- Loading or restoring of a scan's slots on a Mill ends (R225, R232, R241, R243). -/
def execMillLoadComplete (mill entry : Nat) (crcOk : Bool) (s : State) : Host.Outcome State Fault Refusal :=
  s.clocked <| match tabFind (s.mill mill).scans entry, tabFind s.scans entry, s.launch entry with
  | some z, some x, some e =>
    match z.st with
    | .loading =>
      let stride := queryStride x.mode x.codeWords
      match s.scanRead e.harbour x 1 x.qryOff (x.q * stride) with
      | none => s.endScan entry .fault
      | some (bs, p) =>
        if p then (s.scanPoison e.harbour x 1 x.qryOff (x.q * stride)).endScan entry .poison
        else match (List.range x.q).mapM fun i =>
            let q := bs.drop (i * stride)
            parseQuery (bytesWords 8 q) ((q.drop 64).take (queryBytes x.mode x.codeWords)) with
        | none => s.endScan entry .fault
        | some qs => (s.millSlots mill entry (s.scanningOr mill)).onMill mill fun y => { y with
            scans := tabMod {} y.scans entry fun z => { z with queries := qs } }
    | .restoring => if crcOk then s.millSlots mill entry (s.scanningOr mill) else s.endScan entry .fault
    | _ => s
  | _, _, _ => s

/-- One Mill cycle of a scan (R218, R234). -/
def execMillRecord (mill entry : Nat) (s : State) : Host.Outcome State Fault Refusal :=
  s.clocked <| match tabFind (s.mill mill).scans entry, tabFind s.scans entry, s.launch entry with
  | some z, some x, some e => if z.st = .scanning then s.millStep mill entry e.harbour x z else s
  | _, _, _ => s

/-- A Mill has scored its last record and checked the rest of the table: its slots drain (R218, R232). -/
def execMillScanEnd (mill entry : Nat) (s : State) : Host.Outcome State Fault Refusal :=
  s.clocked <| match tabFind (s.mill mill).scans entry, tabFind s.scans entry, s.launch entry with
  | some z, some x, some e =>
    if z.st ≠ .scanning then s
    else
      let n := s.scanSegments e.harbour x
      let (g, s1) := s.millSeek mill entry e.harbour x (n + 1 - z.seg)
      let atEnd : Bool := match tabFind (s1.mill mill).scans entry with | some y => y.st == .scanning && decide (n ≤ y.seg) | none => false
      if g.isSome then s
      else if atEnd then
        ((s1.millLists mill entry x).millSlots mill entry .draining).onMill mill fun y => { y with
          cScans := y.cScans + BitVec.ofNat 16 z.slots.length }
      else s1
  | _, _, _ => s

/-- A Mill's lists are accepted by the merge tree, or written to the result area; in host-assisted mode the last one
completes the scan (R230, R232, R238). -/
def execMillListAccepted (mill entry : Nat) (s : State) : Host.Outcome State Fault Refusal :=
  s.clocked <| match tabFind (s.mill mill).scans entry, tabFind s.scans entry, s.launch entry with
  | some z, some x, some e =>
    if z.st ≠ .draining then s
    else
      let s1 := if x.hostMerge then
          foldState z.queries.zipIdx (fun a q => a.writeList e.harbour x (z.idx * x.q + q.2)
            (listWords x.k q.1.tag q.1.itemsRead q.1.itemsPassed q.1.poisonSkipped (x.chFirst + z.idx) q.1.list)) s
        else s
      let y : Scan := if x.hostMerge then { x with written := setIns x.written z.idx }
        else { x with lists := tabPut x.lists z.idx z.queries }
      let s2 := { s1.millLeave mill entry with scans := tabPut s1.scans entry y }
      if x.hostMerge ∧ y.written.length = (s.scanChannels e.harbour x).length then (s2.complete entry).settle else s2
  | _, _, _ => s

/-- The merged list of a query over some of a scan's lists. -/
def mergedWords (x : Scan) (ls : Tab (List Query)) (q : Nat) : List Word :=
  let m := mergeLists x (ls.filterMap fun y => y.2[q]?)
  listWords x.k m.tag m.itemsRead m.itemsPassed m.poisonSkipped 0xFFFFF m.list

/-- Cut words into the bodies of MESSAGE transactions, 16 bytes of header each. -/
def messageBodies : Nat → List Word → List (List Word)
  | 0, _ => []
  | n + 1, ws => if ws.length ≤ 510 then [ws ++ List.replicate (ws.length % 2) 0] else ws.take 510 :: messageBodies n (ws.drop 510)

/-- The die-level lists of a scan go to the module that merges it (R237): one MESSAGE after another of up to 4,096 bytes, each with the
lowest scan channel index of its lists, its number and the manifest's tag (log entry 134). -/
def State.sendLists (e : Launch) (x : Scan) (node d : Nat) (s : State) : State :=
  let ls := x.lists.filter fun y => s.listHalf e.harbour x y.1 == d
  let ws := (List.range x.q).flatMap (mergedWords x ls)
  let low := (ls.map (·.1)).min?.getD 0
  foldState (messageBodies (ws.length / 510 + 1) ws).zipIdx (fun a b =>
    a.sendTxn e.harbour node 3 (txnHeader 6 0 (16 + 8 * b.1.length) 0 0 0 (Config.messageBox 1 % 65536) false
      ++ [w64 (low + b.2 * 2 ^ 32), wordAt e.entry 5] ++ b.1) []) s

/-- The tree has every list of a scan: its own Mills' and, on the module that merges, die-level lists of every other module of the range
(R236, R237). -/
def State.listsHere (s : State) (h : Nat) (x : Scan) : Bool :=
  let (first, cs) := s.scanLocal h x
  (List.range cs.length).all (fun i => (tabFind x.lists (first + i)).isSome)
  && ((s.scanRoot h x).isSome || (s.scanOthers h x).all fun y => x.lists.any fun z => decide (y.2.1 ≤ z.1 ∧ z.1 < y.2.1 + y.2.2))

/-- The merge tree has every list: it writes the merged lists, or sends its die-level lists to the module that does, and the scan
completes; one whose lists cannot reach that module ends with FAULT (R236, R237, R239, R461). -/
def execMergeComplete (l : Nat) (s : State) : Host.Outcome State Fault Refusal :=
  s.clocked <| match tabFind s.scans l, s.launch l with
  | some x, some e =>
    if x.hostMerge ∨ e.state ≠ .active ∨ !s.listsHere e.harbour x then s
    else if (s.scanRoot e.harbour x).any s.lk.unreachable.contains then (s.endScan l .fault).settle
    else
      let s1 := match s.scanRoot e.harbour x with
        | none => foldState (List.range x.q) (fun a q => a.writeList e.harbour x q (mergedWords x x.lists q)) s
        | some node => foldState (s.halvesOf e.harbour x) (fun a d => a.sendLists e x node d) s
      ((foldState (s.halvesOf e.harbour x) (fun a d => a.onHalf d fun y => { y with merges := y.merges + 1 }) s1).complete l).settle
  | _, _ => s

/-- The module that merges a scan receives a die-level list of another module of its range (R237, R249). -/
def execMillListReceive (l idx : Nat) (lists : List MillList) (s : State) : Host.Outcome State Fault Refusal :=
  s.clocked <| match tabFind s.scans l, s.launch l with
  | some x, some e =>
    let known := (s.scanOthers e.harbour x).any fun y => decide (y.2.1 ≤ idx ∧ idx < y.2.1 + y.2.2)
    if x.hostMerge ∨ !known ∨ (s.scanRoot e.harbour x).isSome ∨ e.state ≠ .active then s
    else
      let tags (i : Nat) : Nat := match x.lists.head? with
        | some y => (match y.2[i]? with | some q => q.tag | none => 0)
        | none => 0
      let qs := lists.zipIdx.map fun y => queryOfList (tags y.2) y.1
      ({ s with scans := tabPut s.scans l { x with lists := tabPut x.lists idx qs } }).onHalf (s.listHalf e.harbour x idx)
        fun y => { y with joins := y.joins + BitVec.ofNat 16 lists.length }
  | _, _ => s

/-- A Mill's slot records are written to the save pool during a re-bind drain (R241). -/
def execMillSlotSaved (mill entry : Nat) (s : State) : Host.Outcome State Fault Refusal :=
  s.clocked <| match tabFind (s.mill mill).scans entry, tabFind s.scans entry, s.launch entry with
  | some z, some x, some e =>
    if z.st ≠ .saving then s
    else
      let s0 := s.millLists mill entry x
      let z := (tabFind (s0.mill mill).scans entry).getD z
      let c := x.chFirst + z.idx - (match s.harbour e.harbour with | some h => h.chanBase | none => 0)
      let saved := match s.harbour e.harbour with
        | some h => ((h.poolScans.filter fun y => match tabFind s.scans y.entry with
            | some v => v.chFirst + y.idx == x.chFirst + z.idx | none => false).map fun y => y.slots.length).sum
        | none => 0
      let s1 := foldState z.queries.zipIdx (fun a q => a.slotRecordPut e.harbour c (saved + q.2) q.1) s0
      (((s1.onHarbour e.harbour fun h => { h with poolScans := h.poolScans ++ [z] }).millLeave mill entry).onMill mill
        fun y => { y with cSaves := y.cSaves + BitVec.ofNat 16 z.slots.length }).settle
  | _, _, _ => s

/-- The abort of a scan on one Mill is complete (R232, R244, R249). -/
def execMillAbortDone (mill entry : Nat) (s : State) : Host.Outcome State Fault Refusal := s.clocked <| (s.millAborted mill entry).settle

/-- A slot's query data and list are cleared: it is FREE, and a scan that waits is placed (R226, R232, R382). -/
def execMillZeroingDone (mill slot : Nat) (s : State) : Host.Outcome State Fault Refusal :=
  s.clocked <| if tabGet .free (s.mill mill).slots slot = .zeroing then
      (s.onMill mill fun y => { y with slots := tabDel y.slots slot }).settle
    else s

end Sys2Proof.Machine
end

