-- ==== Sys2Proof/Machine/XlateOps.lean ====
section
/-! DEFINITION. Address translation, its caches and faults, the requests of DMA engines and where they are served
(12_translation_and_faults; 03_tile R120, R121, R130; 11_memory R361–R364, R374–R380; 14_shomea R460, R461; 18_host R583). -/
namespace Sys2Proof.Machine
open Sys2Proof

/-! Walks (R398–R406) -/

/-- A walk's fault: kind and level (R411). -/
structure WalkFault where
  kind : Nat
  level : Nat
  deriving DecidableEq, Repr

/-- Harbour 0's view holds the whole range. -/
def State.in0 (s : State) (a n : Nat) : Bool := (s.resolve 0 a n).isSome

/-- The four words of a context-table entry, and whether a read of it is poisoned (R398). -/
def State.ctxWords (s : State) (asid : Nat) : Option (List Word × Bool) :=
  (s.readH 0 (s.xl.ctxBase + 32 * asid) 32).map fun x => (bytesWords 4 x.1, x.2)

/-- HARBOUR of a context entry, whatever its VALID (R398, R409). -/
def ctxHarbour (ws : List Word) : Nat := bits (wordAt ws 0) 1 6

/-- VA_BITS of a context entry. -/
def ctxVaBits (ws : List Word) : Nat := bits (wordAt ws 0) 7 6

/-- ROOT of a context entry. -/
def ctxRoot (ws : List Word) : Nat := bits (wordAt ws 1) 12 36 * 4096

/-- The entry is valid and not treated as invalid (R398). -/
def State.ctxUsable (s : State) (ws : List Word) : Bool :=
  let v := ctxVaBits ws
  bit (wordAt ws 0) 0 && decide (39 ≤ v ∧ v ≤ 57) && bits (wordAt ws 0) 13 51 == 0
  && bits (wordAt ws 1) 0 12 == 0 && bits (wordAt ws 1) 48 16 == 0 && wordAt ws 2 == 0 && wordAt ws 3 == 0
  && s.in0 (ctxRoot ws) (8 * 2 ^ (v - 39))

/-- Bit position below which a leaf of a level is an offset (R401). -/
def levelLo (level : Nat) : Nat := 12 + 9 * level

/-- A valid entry at a level, `first` of its group or not, is malformed (R405). -/
def State.malformedEntry (s : State) (e : Word) (level : Nat) (first : Bool) : Bool :=
  if bit e 1 then
    level == 0 || bits e 2 10 != 0 || bits e 48 16 != 0 || !s.in0 (bits e 12 36 * 4096) 4096
  else
    let lo := if level = 0 ∧ bit e 5 then 16 else levelLo level
    level == 3 || bits e 6 6 != 0 || (bit e 5 && (level != 0 || !first)) || bits e 12 (lo - 12) != 0 || (bit e 4 && !bit e 3)

/-- The right an access needs (R404). -/
def rightOk (r w a : Bool) : Access → Bool
  | .read => r
  | .write => w
  | .atomic => a

/-- How a walk ends: in a fault, or in a leaf, with the pointers it passed; and what it read of harbour 0's HBM, address and bytes. -/
abbrev WalkEnd := (WalkFault ⊕ (Tlb × List WalkEnt)) × List (Nat × Nat)

/-- The levels of a walk from a table down: the leaf it ends in, with the pointers it passed and what it read (R406). -/
def State.walkDown (s : State) (asid va vaBits : Nat) (acc : Access) : Nat → Nat → List WalkEnt → List (Nat × Nat) → WalkEnd
  | 0, _, _, rs => (.inl { kind := 3, level := 0 }, rs)
  | level + 1, table, ps, rs =>
    let lo := levelLo level
    let idx := if level = 3 then va / 2 ^ 39 % 2 ^ (vaBits - 39) else va / 2 ^ lo % 512
    let g0 := if level = 0 then s.word0 (table + idx / 16 * 128) else none
    let governs := match g0 with | some (g, _) => bit g 0 && bit g 5 | none => false
    let used := if governs then g0 else s.word0 (table + idx * 8)
    let rs := rs ++ [if level = 0 then (table + idx / 16 * 128, 128) else (table + idx * 8, 8)]
    match used with
    | none => (.inl { kind := 3, level := level + 1 }, rs)
    | some (e, bad) =>
      if bad || (match g0 with | some (_, p) => p | none => false) then (.inl { kind := 5, level := level }, rs)
      else if !bit e 0 then (.inl { kind := 0, level := level }, rs)
      else if s.malformedEntry e level (governs || idx % 16 == 0) then (.inl { kind := 3, level := level }, rs)
      else if bit e 1 then
        State.walkDown s asid va vaBits acc level (bits e 12 36 * 4096)
          (ps ++ [⟨asid, level, va / 2 ^ lo, bits e 12 36 * 4096⟩]) rs
      else
        let size := 2 ^ (if level = 0 ∧ bit e 5 then 16 else lo)
        if !rightOk (bit e 2) (bit e 3) (bit e 4) acc then (.inl { kind := 1, level := level }, rs)
        else (.inr ({ asid := asid, va := va / size * size, size := size, output := bits e 12 52 * 4096, r := bit e 2, w := bit e 3,
                      a := bit e 4 }, ps), rs)

/-- The lowest level whose table a walk-cache entry names for an address (R408). -/
def cachedTable (ps : List WalkEnt) (asid va : Nat) : Option (Nat × Nat) :=
  ([1, 2, 3].findSome? fun l =>
    (ps.find? fun p => p.asid == asid && p.level == l && p.sel == va / 2 ^ levelLo l).map fun p => (l, p.table))

/-- A walk of an access of a context from a harbour (R406), with the walk cache `ps`. -/
def State.walk (s : State) (ps : List WalkEnt) (asid va : Nat) (acc : Access) (h : Nat) : WalkEnd :=
  let rs := [(s.xl.ctxBase + 32 * asid, 32)]
  match s.ctxWords asid with
  | none => (.inl { kind := 2, level := 3 }, [])
  | some (ws, bad) =>
    if bad then (.inl { kind := 5, level := 3 }, rs)
    else if !s.ctxUsable ws ∨ ctxHarbour ws ≠ h ∨ 2 ^ ctxVaBits ws ≤ va then (.inl { kind := 2, level := 3 }, rs)
    else match cachedTable ps asid va with
    | some (l, t) => s.walkDown asid va (ctxVaBits ws) acc l t [] rs
    | none => s.walkDown asid va (ctxVaBits ws) acc 4 (ctxRoot ws) [] rs

/-- A walk is counted, and its reads of tables are decoded as reads are (R374, R377, R423). -/
def State.startWalk (reads : List (Nat × Nat)) (s : State) : State :=
  foldState reads (fun a x => a.readEffectH 0 x.1 x.2) (s.onXl fun q => { q with walks := q.walks + 1 })

/-! Translation caches (R408) -/

/-- A cached leaf serves an access. -/
def Tlb.serves (x : Tlb) (asid va : Nat) (acc : Access) : Bool :=
  x.asid == asid && decide (x.va ≤ va ∧ va < x.va + x.size) && rightOk x.r x.w x.a acc

/-- Put an entry at the recent end of a cache of `n` entries. -/
def cachePut {α : Type} (n : Nat) (t : List α) (x : α) : List α :=
  let t := t ++ [x]
  if n < t.length then t.drop 1 else t

/-- Entries of a die's shared cache that the harbour reserves, in force; harbour 0 and a harbour that does not exist reserve none, one
that is destroyed from its COMMIT (R426, R430, R440). -/
def State.xlatShare (s : State) (h : Nat) : Nat :=
  let gone := (s.harbour h).isNone && !s.hb.journal.any fun j => j.2.harbour == h
  if h = 0 ∨ gone then 0 else 64 * (tabGet {} s.rg.inForce h).xlatRes

/-- Entries of a die's shared cache that no harbour reserves (R426). -/
def State.xlatCommon (s : State) : Nat := 16384 - ((s.hb.harbours.map fun x => s.xlatShare x.1).sum)

/-- Fill a partition of `n` entries, those that `mine` names, at its recent end; the least recently used of them make room (R430). -/
def fillPart (n : Nat) (mine : Tlb → Bool) (t : List Tlb) (x : Tlb) : List Tlb :=
  let extra := (t.filter mine).length + 1 - n
  let gone := (t.filter mine).take extra
  t.filter (fun y => !gone.contains y) ++ [x]

/-- A harbour fills a die's shared cache: within its own share, else within the common entries when it reserves none or lends, else in
place of the least recently used of its share (R426, R430, log entry 31). -/
def State.sharedPut (h : Nat) (t : List Tlb) (x : Tlb) (s : State) : List Tlb :=
  let own := s.xlatShare h
  let mine (y : Tlb) : Bool := y.harbour == h && !y.common
  let inOwn := { x with harbour := h, common := false }
  let inCommon := { x with harbour := h, common := true }
  let pool := own = 0 ∨ (tabGet {} s.rg.inForce h).xlatLend
  if (t.filter mine).length < own then t ++ [inOwn]
  else if pool ∧ (own = 0 ∨ (t.filter (·.common)).length < s.xlatCommon) then
    (if s.xlatCommon = 0 then t else fillPart s.xlatCommon (·.common) t inCommon)
  else fillPart own mine t inOwn

/-- An entry that serves is the most recently used of its cache (R408, R430). -/
def recent {α : Type} [DecidableEq α] (t : List α) (x : α) : List α := t.filter (fun y => y != x) ++ [x]

/-- Translate an access of a DMA engine: its cache, its die's shared cache, then a walk, whose result is cached; a walk that
faults is not (R406, R408, R430). -/
def State.translate (p e asid va : Nat) (acc : Access) (h : Nat) (s : State) : (WalkFault ⊕ Nat) × State :=
  let key := 2 * s.servingTile p + e
  let die := p / 256
  let et := tabGet [] s.xl.engineTlb key
  let st := tabGet [] s.xl.sharedTlb die
  match et.find? fun x => x.serves asid va acc with
  | some x => (.inr (x.output + (va - x.va)), s.onXl fun q => { q with
      engineTlb := tabPut q.engineTlb key (recent et x) })
  | none =>
    match st.find? fun x => x.serves asid va acc with
    | some x => (.inr (x.output + (va - x.va)), s.onXl fun q => { q with
        engineTlb := tabPut q.engineTlb key (cachePut 64 et x), sharedTlb := tabPut q.sharedTlb die (recent st x) })
    | none =>
      let ps := tabGet [] s.xl.walkTlb die
      let w := s.walk ps asid va acc h
      let s1 := s.startWalk w.2
      match w.1 with
      | .inl f => (.inl f, s1)
      | .inr (x, new) => (.inr (x.output + (va - x.va)), s1.onXl fun q => { q with
          engineTlb := tabPut q.engineTlb key (cachePut 64 et x)
          sharedTlb := tabPut q.sharedTlb die (s1.sharedPut h st x)
          walkTlb := tabPut q.walkTlb die (new.foldl (cachePut 1024) ps) })

/-! Where a device physical address is served (R361–R364) -/

/-- Where a request goes. -/
inductive Target where
  | hbm (ps : List Piece) | hold (place off : Nat) | ls (place slot off : Nat) | aon (off : Nat) | host (addr : Nat)
  | remote (node da : Nat) | bad
  deriving DecidableEq, Repr

/-- The slot a part of a launch is resident in. -/
def State.partSlot (s : State) (l part : Nat) : Option (Nat × Nat) :=
  match (s.launch l).bind fun e => e.parts[part]? with
  | some (.slot p k) => some (p, k)
  | _ => none

/-- Region and offset of an address, served on this module for a harbour: regions 0x0 to 0x3 (R361, R364). -/
def State.targetHere (s : State) (h da n : Nat) (write : Bool) : Target :=
  let off := bitsN da 0 48
  if bitsN da 48 4 ≤ 2 then
    match s.resolve h (da % 2 ^ 52) n with
    | none => .bad
    | some ps => if write && ps.any s.touchesPacing then .bad else .hbm ps
  else if bitsN da 48 4 = 3 then
    match s.harbour h with
    | none => .bad
    | some x =>
      match x.tiles[bitsN off 32 9]? with
      | none => .bad
      | some q => if bitsN off 25 7 = 0 ∧ off < 2 ^ 41 ∧ bitsN off 0 25 + n ≤ 0x1F00000 then .hold q (bitsN off 0 25) else .bad
  else .bad

/-- A part's local store as region 0x4 names it (R361, R362, R364). -/
def State.targetPart (s : State) (l off n : Nat) : Target :=
  match s.launch l, s.partSlot l (bitsN off 32 16) with
  | some e, some (p, k) =>
    if bitsN off 20 12 = 0 ∧ bitsN off 0 20 + n ≤ e.lsGranules * 4096 then .ls p k (bitsN off 0 20) else .bad
  | _, _ => .bad

/-- Where a translated request of a launch part goes (R361, R362, R364, R420, R421). -/
def State.target (s : State) (p k da n : Nat) (write : Bool) : Target :=
  let h := s.slotHarbour p k
  let off := bitsN da 0 48
  let region := bitsN da 48 4
  if region = 4 then s.targetPart (s.slotAt p k).entry off n
  else if da / 2 ^ 52 ≠ s.lk.nodeId then .remote (da / 2 ^ 52) (da % 2 ^ 52)
  else if region = 6 then if h = 0 ∧ off + n ≤ 2 ^ 22 then .aon off else .bad
  else if region = 7 then .host off
  else s.targetHere h da n write

/-! Faults of a DMA engine (R411–R417) -/

/-- The latch of an engine. -/
def State.dma (s : State) (p k e : Nat) : DmaCtx :=
  let c := (s.slotAt p k).ctx
  if e = 0 then c.dma0 else c.dma1

/-- An unrecoverable fault ends the launch: KIND 2 to 4 with FAULT and its context lost, KIND 5 with POISON (R411,
R412). -/
def State.faultEnds (p k va kind : Nat) (s : State) : State :=
  let s1 := (s.onXl fun x => { x with cUnrec := x.cUnrec + 1 })
  (if kind = 5 then s1.failPart p k 13 (w64 va) .poison false else s1.failPart p k (8 + kind) (w64 va) .fault true).settle

/-- Bit of an access in a fault entry (R413). -/
def accessBit : Access → Nat
  | .read => 1
  | .write => 2
  | .atomic => 4

/-- Number of PENDING entries of a fault queue (R424). -/
def FaultQ.pending (q : FaultQ) : Nat := (q.entries.filter fun e => e.2.state == 0).length

/-- The next slot may take a new entry (R415). -/
def FaultQ.slotFree (q : FaultQ) : Bool :=
  q.enable && decide ((q.produced - q.consumed).toNat < 4096)
  && (match tabFind q.entries (q.produced.toNat % 4096) with | some e => e.state != 0 | none => true)

/-- FUNC whose vector a harbour's fault queue names (R569). -/
def State.faultFunc (s : State) (h : Nat) : Nat :=
  ((s.rg.slices.find? fun x => x.2.valid && bit x.2.harbours h).map fun x => x.2.func).getD 0

/-- Put an engine's held request on an entry: it merges into a PENDING entry of its page, or a new entry is created; with no
slot for one it stays without (R413–R415). Answers whether it found an entry. -/
def State.queueFault (h p k e va kind level : Nat) (acc : Access) (s : State) : Bool × State :=
  let q := s.fq h
  let l := s.launchAt p k
  let b := 2 * s.logicalTile h p + e
  let bits := accessBit acc
  let latch (slot : Nat) (s : State) : State := s.onDma p k e fun d => { d with
    latch := d.latch.map fun x => { x with entry := some slot, kind := kind } }
  match q.entries.find? fun x => x.2.state == 0 && x.2.context == l.context && x.2.va / 4096 == va / 4096 with
  | some (slot, x) =>
    (true, latch slot ((s.putFault h slot { x with
      engines := setIns x.engines b, access := x.access ||| bits, merged := min 65535 (x.merged + 1) }).onFq h
        fun q => { q with cMerges := q.cMerges + 1 }))
  | none =>
    if !q.slotFree then (false, s)
    else
      let slot := q.produced.toNat % 4096
      let x : FaultEnt := {
        index := q.produced, state := 0, kind := kind, access := bits, level := level, va := va, context := l.context
        firstTide := s.tide.num, launch := l.ident, engines := [b] }
      let s1 := (s.putFault h slot x).onFq h fun q => { q with produced := q.produced + 1, created := true }
      (true, latch slot (if q.irqMode = 1 then s1.msix (s.faultFunc h) q.msiVector else s1))

/-- An engine takes a recoverable fault: it latches the request, and FAULT_OVF is raised when no entry can be written
(R414–R416). -/
def State.takeFault (p k e va : Nat) (acc : Access) (f : WalkFault) (s : State) : State :=
  if f.kind ≠ 0 ∧ f.kind ≠ 1 then s.faultEnds p k va f.kind
  else
    let h := s.slotHarbour p k
    let s1 := ((s.onDma p k e fun d => { d with
        latch := some ⟨va, acc, f.kind, none, s.xl.nextLatch⟩ }).onXl
      fun x => { x with nextLatch := x.nextLatch + 1 }).onFq h fun q => { q with cFaults := q.cFaults + 1 }
    let (ok, s2) := s1.queueFault h p k e va f.kind f.level acc
    if ok then s2
    else
      let q := s2.fq h
      (s2.onFq h fun q => { q with cOvf := q.cOvf + 1 }).event 0x0005 7 h [w64 h, w64 (2 * s.logicalTile h p + e),
        w64 (s.launchAt p k).context, w64 va, pair q.produced.toNat q.consumed.toNat]

/-- Every DMA engine of the module that stands in its latch: place, slot, engine, latch. -/
def State.latched (s : State) : List (Nat × Nat × Nat × FaultLatch) :=
  s.places.flatMap fun q => q.2.slots.flatMap fun k =>
    (match k.2.ctx.dma0.latch with | some x => [(q.1, k.1, 0, x)] | none => [])
    ++ (match k.2.ctx.dma1.latch with | some x => [(q.1, k.1, 1, x)] | none => [])

/-- The engine leaves its latch and reissues its request (R417). -/
def State.releaseLatch (p k e : Nat) (s : State) : State := s.onDma p k e fun d => { d with latch := none }

/-- Held requests without an entry walk again, in the order they latched, while a slot is free (R415). -/
def State.retryHeld (h : Nat) (s : State) : State :=
  let held := (s.latched.filter fun x => x.2.2.2.entry.isNone && s.slotHarbour x.1 x.2.1 == h).foldl
    (fun (t : Tab (Nat × Nat × Nat × FaultLatch)) x => tabPut t x.2.2.2.order x) []
  foldState held (fun a y =>
    let (p, k, e, l) := y.2
    if !(a.fq h).slotFree ∨ (a.dma p k e).latch.isNone then a
    else
      let (r, a1) := a.translate p e (a.launchAt p k).context l.va l.access h
      match r with
      | .inr _ => a1.releaseLatch p k e
      | .inl f => if f.kind ≤ 1 then (a1.queueFault h p k e l.va f.kind f.level l.access).2
          else a1.faultEnds p k l.va f.kind) s

/-- An entry is answered: its state changes, its engines reissue, and the freed slot lets held requests in (R415, R417,
R418). -/
def State.resumeEntry (h slot st : Nat) (s : State) : State :=
  let x := tabGet {} (s.fq h).entries slot
  let es := s.latched.filter fun y => y.2.2.2.entry == some slot && s.slotHarbour y.1 y.2.1 == h
  (foldState es (fun a y => a.releaseLatch y.1 y.2.1 y.2.2.1) (s.putFault h slot { x with state := st, engines := [] })).retryHeld h

/-- The re-walks of a PENDING entry, one for each access it records: each succeeds, and what they read (R418). -/
def State.rewalks (s : State) (h : Nat) (x : FaultEnt) : List WalkEnd :=
  ([Access.read, .write, .atomic].filter fun a => x.access / accessBit a % 2 == 1).map fun a => s.walk [] x.context x.va a h

/-- Hardware re-walk of the PENDING entries of a harbour that `f` selects (R418). -/
def State.rewalk (h : Nat) (f : FaultEnt → Bool) (s : State) : State :=
  if s.hostMode 0 then s
  else foldState ((s.fq h).entries.filter fun x => x.2.state == 0 && f x.2) (fun a x =>
    let ws := a.rewalks h x.2
    let a1 := foldState ws (fun b w => b.startWalk w.2) a
    if ws.all fun w => w.1.isRight then (a1.resumeEntry h x.1 2).onFq h fun q => { q with cHwResumed := q.cHwResumed + 1 } else a1) s

/-! Requests of a DMA engine (R120, R121, R130) -/

/-- Request `id` of an engine. -/
def State.req (s : State) (p k e id : Nat) : Option DmaReq := (s.dma p k e).reqs.find? fun r => r.id == id

/-- Change request `id` of an engine. -/
def State.onReq (p k e id : Nat) (f : DmaReq → DmaReq) (s : State) : State :=
  s.onDma p k e fun d => { d with reqs := d.reqs.map fun r => if r.id = id then f r else r }

/-- The end a request delivers to, and its translation: an atomic delivers to its `src`. -/
def DmaReq.sink (r : DmaReq) : DmaEnd × Option Nat := if r.atomic.isSome then (r.src, r.srcAt) else (r.dst, r.dstAt)

/-- The end `n` bytes further on. -/
def endAt (n : Nat) : DmaEnd → DmaEnd
  | .localStore off => .localStore (off + n)
  | .hold off => .hold (off + n)
  | .va a => .va (a + n)

/-- Bytes of the next request: up to the next 256-byte boundary of each virtual address; an atomic is one request (R121). -/
def DmaDesc.nextLen (d : DmaDesc) : Nat :=
  match d.atomic with
  | some a => atomicWidth a
  | none =>
    let cut (x : DmaEnd) (n : Nat) : Nat := match endAt d.issued x with | .va a => min n (256 - a % 256) | _ => n
    cut d.src (cut d.dst (min 256 (d.len - d.issued)))

/-- Bytes of an untranslated end. -/
def State.endRead (s : State) (p k n : Nat) : DmaEnd → Beats
  | .localStore off => readBeats (s.lsRead p k) off n
  | .hold off => readBeats (s.holdRead p) off n
  | .va _ => []

/-- Write an untranslated end. -/
def State.endWrite (p k : Nat) (data : Beats) (x : DmaEnd) (s : State) : State :=
  match x with
  | .localStore off => s.writeBeats (fun o bs bad a => a.lsWrite p k o bs bad) 8 off data
  | .hold off => s.writeBeats (fun o bs bad a => a.holdWrite p o bs bad) 8 off data
  | .va _ => s

/-- A request has completed: a descriptor whose requests have all been issued and completed leaves the queue, and what was held behind it
may go out (R120, R260, R307). -/
def State.reqDone (p k e id : Nat) (s : State) : State :=
  match s.req p k e id with
  | none => s
  | some r =>
    let s1 := s.onDma p k e fun d => { d with reqs := d.reqs.filter fun x => x.id != id }
    let d := s1.dma p k e
    let ends := !(d.reqs.any fun x => x.desc == r.desc) && d.queue.any fun x => x.id == r.desc && decide (x.len ≤ x.issued)
    if !ends then s1
    else ((s1.onDma p k e fun d => { d with queue := d.queue.filter fun x => x.id != r.desc }).releaseHeld p k).settle

/-- Class label of a launch (R264, R425). -/
def Launch.cls (e : Launch) : Nat := bits (wordAt e.entry 0) 32 3

/-- The ownership extension of a request to a live state region (R471). -/
def State.extension (s : State) (node da n : Nat) : Option (List Word) :=
  (s.lk.own.find? fun o =>
    let a := o.2.stateAddr.toNat
    o.1 / 2 ^ 52 == s.lk.nodeId && decide (o.2.len ≠ 0 ∧ a ≤ node * 2 ^ 52 + da ∧ node * 2 ^ 52 + da + n ≤ a + o.2.len)).map
    fun o => [o.2.epoch, w64 o.1]

/-- Send a remote request of a launch part (R362, R455, R460). -/
def State.sendRemote (p k e id op node da len va : Nat) (acc : Access) (subop : Nat) (data : Beats) (s : State) : State :=
  let l := s.launchAt p k
  let ext := s.extension node da len
  let tag := s.lk.nextTag
  ((s.onLk fun x => { x with
      nextTag := tag + 1
      reqs := tabPut x.reqs tag.toNat
        { node := node, place := p, slot := k, engine := e, req := id, va := va, len := len, access := acc, context := l.context } }).onReq
    p k e id fun r => { r with away := true }).sendData l.harbour node 1
    (txnHeader op l.cls len tag.toNat 0 subop da ext.isSome ++ ext.getD []) data

/-- The link a context's requests to the host leave by (R580). -/
def State.hostLink (s : State) (asid : Nat) : Nat := match s.ctx asid with | some c => c.func / 32 | none => 0

/-- A request may be sent on a PCIe link: in L0, and in a Secure stream where IDE is required (R545, R583). -/
def State.hostOk (s : State) (l : Nat) : Bool :=
  (s.link l).up && (bitsN s.sec.ideRequired l 1 == 0 || (List.range 9).any fun i => (tabGet {} s.sec.streams (l * 16 + i)).secure)

/-- Poisoned bytes leave for the host: the link and the channel that was read count them, and the launch ends with POISON
(R379). -/
def State.hostPoison (p k l : Nat) (src : Option Nat) (n : Nat) (s : State) : State :=
  let s1 := s.onLink l fun x => { x with hostEp := x.hostEp + 1 }
  let s2 := match src.map fun a => s.target p k a n false with
    | some (.hbm (q :: _)) => s1.onChan q.ch fun x => { x with cHostEp := x.cHostEp + 1 }
    | _ => s1
  (s2.failPart p k 3 0 .poison false).settle

/-- The data of a request reaches its sink as far as no other command is needed: an untranslated end takes it, a remote or host sink is
written (R120, R130, R362, R421). -/
def State.deliver (p k e : Nat) (r : DmaReq) (data : Beats) (s : State) : State :=
  match r.sink with
  | (x, none) => (s.endWrite p k data x).reqDone p k e r.id
  | (x, some a) =>
    match s.target p k a r.len true with
    | .remote node da => s.sendRemote p k e r.id 1 node da r.len (endOffset x) .write 0 data
    | .host addr =>
      let l := s.hostLink (s.launchAt p k).context
      let bad := data.any (·.2)
      if !s.hostOk l then s.faultEnds p k (endOffset x) 4
      else
        let s1 := s.emit (.pcie l true addr (beatBytes data) bad)
        if bad then s1.hostPoison p k l r.srcAt r.len else s1.reqDone p k e r.id
    | _ => s

/-- An atomic, or the read of a request, is sent where it is served on another node or at the host (R120, R362, R421). -/
def State.ask (p k e : Nat) (r : DmaReq) (s : State) : State :=
  match r.atomic with
  | some a =>
    (match r.dstAt.map fun y => s.target p k y r.len true with
    | some (.remote node da) =>
      s.sendRemote p k e r.id 2 node da (if a.op = 2 then 16 else 8) (endOffset r.dst) .atomic a.op
        [(natBytes 8 a.operand.toNat ++ if a.op = 2 then natBytes 8 a.compare.toNat else [], false)]
    | some (.host _) => s.faultEnds p k (endOffset r.dst) 4
    | _ => s)
  | none =>
    match r.srcAt.map fun y => s.target p k y r.len false with
    | some (.remote node da) => s.sendRemote p k e r.id 0 node da r.len (endOffset r.src) .read 0 []
    | some (.host addr) =>
      let l := s.hostLink (s.launchAt p k).context
      if !s.hostOk l then s.faultEnds p k (endOffset r.src) 4
      else ((s.onHif fun q => { q with
          nextReq := q.nextReq + 1
          reqs := tabPut q.reqs q.nextReq { link := l, place := p, slot := k, engine := e, req := r.id, va := endOffset r.src, len := r.len,
                                            access := .read, hostAddr := addr, context := (s.launchAt p k).context } }).onReq
        p k e r.id fun r => { r with away := true }).emit (.pcie l false addr [] false)
    | _ => s

/-- An end of a request as a target; an untranslated end is the launch's own local store or its tile's hold. -/
def State.endTarget (s : State) (p k : Nat) (x : DmaEnd) (a : Option Nat) (n : Nat) (w : Bool) : Target :=
  match a, x with
  | some a, _ => s.target p k a n w
  | none, .localStore off => .ls p k off
  | none, .hold off => .hold p off
  | none, .va _ => .bad

/-- A target that a tile reaches over its router stop. -/
def offTile (p : Nat) : Target → Bool
  | .hold q _ | .ls q _ _ => q != p
  | .bad => false
  | _ => true

/-- Where the next packet of a request goes. -/
def State.nextTarget (s : State) (p k : Nat) (r : DmaReq) : Target :=
  if r.buf.isNone ∧ r.atomic.isSome then s.endTarget p k r.dst r.dstAt r.len true
  else if r.buf.isNone ∧ r.srcAt.isSome then s.endTarget p k r.src r.srcAt r.len false
  else s.endTarget p k r.sink.1 r.sink.2 r.len true

/-- Move a request on as far as no other command is needed (R120, R130). A packet that its tile's checker drops is never answered
(R341). -/
def State.moveOn (p k e id : Nat) (s : State) : State :=
  match s.req p k e id with
  | none => s
  | some r =>
    if r.away then s
    else if offTile p (s.nextTarget p k r) ∧ !s.heard (s.placeSpeaker p) then
      (s.unheard (s.placeSpeaker p)).onReq p k e id fun r => { r with away := true }
    else match r.buf with
    | some data => s.deliver p k e r data
    | none => s.ask p k e r

/-- An untranslated source is read as its sink is served. -/
def State.sourceData (s : State) (p k : Nat) (r : DmaReq) : Option Beats :=
  match r.buf with
  | some b => some b
  | none => if r.srcAt.isNone ∧ r.atomic.isNone then some (s.endRead p k r.len r.src) else none

/-- Translate one end of a request; a fault stops the engine, and an address no unit serves is an ACCESS fault (R407,
R411). -/
def State.translateEnd (p k e : Nat) (x : DmaEnd) (acc : Access) (n : Nat) (s : State) : Option (Option Nat) × State :=
  match x with
  | .va a =>
    let va := if acc = .atomic then a / n * n else a
    let h := s.slotHarbour p k
    let (r, s1) := s.translate p e (s.launchAt p k).context va acc h
    (match r with
    | .inl f => (none, s1.takeFault p k e va acc f)
    | .inr da => if s1.target p k da n (acc != .read) = .bad then (none, s1.faultEnds p k va 4) else (some (some da), s1))
  | _ => (some none, s)

/-- A request that a restore brought back: its sink is translated again, and it is issued with the bytes it had (R130). -/
def State.reissue (p k e : Nat) (r : DmaReq) (s : State) : State :=
  let (a, s1) := s.translateEnd p k e r.sink.1 .write r.len
  match a with
  | none => s1
  | some at' =>
    (s1.onReq p k e r.id fun q =>
      if q.atomic.isSome then { q with ready := true, srcAt := at' } else { q with ready := true, dstAt := at' }).moveOn p k e r.id

/-- The engine issues the next request of the first descriptor that has any, and translates it (R120, R406). -/
def State.issueReq (p k e : Nat) (d : DmaDesc) (s : State) : State :=
  let n := d.nextLen
  let src := endAt d.issued d.src
  let dst := endAt d.issued d.dst
  let (a, s1) := s.translateEnd p k e src (if d.atomic.isSome then .write else .read) n
  match a with
  | none => s1
  | some srcAt =>
    let (b, s2) := s1.translateEnd p k e dst (if d.atomic.isSome then .atomic else .write) n
    match b with
    | none => s2
    | some dstAt =>
      let id := (s2.dma p k e).nextReq
      let r : DmaReq := { id := id, desc := d.id, pos := d.issued, len := n, src := src, dst := dst, atomic := d.atomic, srcAt := srcAt, dstAt := dstAt }
      let away := match dstAt.map fun y => s2.target p k y n true with
        | some (.remote _ _) | some (.host _) => true
        | _ => false
      let r := if away then { r with buf := s2.sourceData p k r } else r
      (s2.onDma p k e fun x => { x with
        reqs := x.reqs ++ [r], nextReq := id + 1
        queue := x.queue.map fun y => if y.id = d.id then { y with issued := if d.atomic.isSome then d.len else d.issued + n } else y }).moveOn
        p k e id

/-- The engine takes its next request: one that waits to be issued again, else the next of its descriptors (R120, R130). -/
def State.startReq (p k e : Nat) (s : State) : State :=
  match (s.dma p k e).reqs.find? fun r => !r.ready with
  | some r => s.reissue p k e r
  | none => match (s.dma p k e).queue.find? fun d => decide (d.issued < d.len) with
    | some d => s.issueReq p k e d
    | none => s

/-- A slot's engine. -/
def PartCtx.dma (c : PartCtx) (e : Nat) : DmaCtx := if e = 0 then c.dma0 else c.dma1

/-- The slot's engines may issue: its launch runs or retires, no slot's request holds the engine in its latch, and fewer than 512
requests of the engine are outstanding (R120, R121, R414). -/
def State.engineFree (s : State) (p k e : Nat) : Bool :=
  let v := s.slotAt p k
  (v.state == .running || v.state == .retiring)
  && !((s.place p).slots.any fun q => (q.2.ctx.dma e).latch.isSome)
  && decide (((s.place p).slots.map fun q => (q.2.ctx.dma e).reqs.length).sum < 512)

/-- An end that needs a translation. -/
def isVa : DmaEnd → Bool
  | .va _ => true
  | _ => false

/-- A DMA request misses the caches, or hits them, and is translated or faults (R406, R408). -/
def execTranslateWalk (place slot engine : Nat) (s : State) : Host.Outcome State Fault Refusal :=
  s.clocked <| if s.engineFree place slot engine ∧ engine < 2 then s.startReq place slot engine else s

/-! Where channels, holds and local stores serve requests -/

/-- The bytes a request has read, or the value its atomic returned, are in its engine, and it moves on. -/
def State.gotData (p k e id : Nat) (data : Beats) (s : State) : State :=
  (s.onReq p k e id fun r => { r with buf := some data, away := false }).moveOn p k e id

/-- The granules of pieces of channels. -/
def granulesOf (ps : List Piece) : List Piece := ps.flatMap fun p => (cutAt 64 p.byte p.len).map fun x => ⟨p.ch, x.1, x.2⟩

/-- Read pieces through their channels, with the poison of each granule (R365, R374, R378). -/
def State.readThrough (ps : List Piece) (s : State) : Beats × State :=
  ((granulesOf ps).map fun q => (s.hbmBytes q.ch q.byte q.len, s.hbmPoison q.ch q.byte q.len), s.readEffects ps)

/-- Write pieces through their channels: each granule takes the poison of the bytes written over it (R365, R378, R380). -/
def State.writeThrough (ps : List Piece) (data : Beats) (s : State) : State :=
  foldState ((shares (granulesOf ps) (beatBytes data)).zip (shareFlags (granulesOf ps) (beatFlags data)))
    (fun a x => a.serveWrite x.1.1.ch x.1.1.byte x.1.2 x.2) s

/-- Request `n` of an engine, oldest first, when it is to be served here: translated and not away. -/
def State.servable (s : State) (p k e n : Nat) : Option DmaReq :=
  match (s.dma p k e).reqs[n]? with
  | some r => if r.ready ∧ !r.away then some r else none
  | none => none

/-- What a bound channel answers passes its checker (R341). A free or retired one serves harbour 0's region 0x2 (R364, log entry 133). -/
def State.channelHeard (s : State) (c : Nat) : Bool :=
  match tabGet .free s.hb.channels c with | .bound _ _ => s.heard (.channel c) | _ => true

/-- The channels that served a request answer it; an answer that a checker drops never comes (R341, R342). -/
def State.answer (p k e id : Nat) (ps : List Piece) (f : State → State) (s : State) : State :=
  match ps.find? fun q => !s.channelHeard q.ch with
  | none => f s
  | some q => (s.unheard (.channel q.ch)).onReq p k e id fun r => { r with away := true }

/-- A channel serves a read; one that a MOVE has taken away forwards it (R348, R374, R375). -/
def execHbmRead (r : HbmReq) (errs : List CwError) (s0 : State) : Host.Outcome State Fault Refusal :=
  s0.clocked <|
    let s := s0.damaged errs
    match r with
    | .range ch byte len => if s.channelPresent ch ∧ byte + len ≤ s.dataBytes ch then (s.serveRead (s.forwarded ch) byte len).2 else s
    | .engine p k e n =>
      match s.servable p k e n with
      | none => s
      | some q =>
        if !q.unread then s
        else match q.srcAt.map fun a => s.target p k a q.len false with
        | some (.hbm ps) => let x := s.readThrough ps
            x.2.answer p k e q.id ps fun a => a.gotData p k e q.id x.1
        | _ => s

/-- A channel serves a write, or forwards it (R348, R376, R380). -/
def execHbmWrite (r : HbmReq) (data : List Byte) (poison : Bool) (errs : List CwError) (s0 : State) :
    Host.Outcome State Fault Refusal :=
  s0.clocked <|
    let s := s0.damaged errs
    match r with
    | .range ch byte len =>
      if s.channelPresent ch ∧ byte + len ≤ s.dataBytes ch ∧ data.length = len ∧ len ≠ 0 then s.serveWrite (s.forwarded ch) byte data poison
      else s
    | .engine p k e n =>
      match s.servable p k e n with
      | none => s
      | some q =>
        match s.sourceData p k q, q.sink.2.map fun a => s.target p k a q.len true with
        | some bs, some (.hbm ps) => (s.writeThrough ps bs).answer p k e q.id ps fun a => a.reqDone p k e q.id
        | _, _ => s

/-- A channel performs an atomic, or forwards it (R348, R376, R380). -/
def execHbmAtomic (r : HbmReq) (a : AtomicOp) (errs : List CwError) (s0 : State) : Host.Outcome State Fault Refusal :=
  s0.clocked <|
    let s := s0.damaged errs
    match r with
    | .range ch byte _ =>
      if s.channelPresent ch ∧ byte + atomicWidth a ≤ s.dataBytes ch then (s.serveAtomic (s.forwarded ch) byte a).2 else s
    | .engine p k e n =>
      match s.servable p k e n with
      | none => s
      | some q =>
        if !q.pending then s
        else match q.atomic, q.dstAt.map fun y => s.target p k y q.len true with
        | some op, some (.hbm (x :: _)) => let y := s.serveAtomic x.ch x.byte op
            y.2.answer p k e q.id [x] fun a => a.gotData p k e q.id [y.1]
        | _, _ => s

/-- Word `i` of the remap tables as the always-on store holds them (R383, R486). -/
def State.remapImage (s : State) (i : Nat) : Word := remapWord (s.remapEntry (i / 32) (i % 32))

/-- Voltage slots of a margin table in file order: P_REF of each point, then V of each region (R491). -/
def marginWords (s : State) (m : Margin) : List Word :=
  let slots (f : Nat → Nat) (n : Nat) : List Word :=
    (List.range n).map fun q => w64 (((List.range 4).map fun k => if 4 * q + k < 59 then f (4 * q + k) % 65536 * 65536 ^ k else 0).sum)
  let body := slots (fun i => (tabFind m.pref i).getD (s.pref i)) 15 ++ ((List.range 16).flatMap fun r => slots (m.at r) 16)
    ++ List.replicate 14 0
  let crc := if m.crcOk then (crc32c (body.flatMap wordBytes)).toNat else bits s.fresh 0 32
  [w64 (1 + 59 * 256), m.planTide, w64 crc] ++ body

/-- The range holds records that only an entry to WATCH or HOLD writes: the WATCH log and the saved register set (R486). -/
def aonKept (off : Nat) : Bool := decide ((0x30000 ≤ off ∧ off < 0x40000) ∨ (0x100000 ≤ off ∧ off < 0x200000))

/-- One byte of the always-on store as region 0x6 reads it: the journal's copies, the remap tables and the margin table's copies as they
stand, zero in the ranges reserved, and a free value where the spec gives the bytes no layout or nothing has written them (R353, R486,
R491, log entry 42). -/
def State.aonByte (s : State) (off : Nat) : Byte :=
  let ofWords (ws : List Word) (o : Nat) : Byte := BitVec.ofNat 8 ((wordAt ws (o / 8)).toNat / 256 ^ (o % 8))
  if off < 0x10000 then
    match tabFind s.hb.copies (off / 0x2000) with
    | some x => ofWords x.image (off % 0x2000)
    | none => (Config.freeWord (s.mem.aonTick + off)).truncate 8
  else if 0x11000 ≤ off ∧ off < 0x11800 then BitVec.ofNat 8 ((s.remapImage ((off - 0x11000) / 8)).toNat / 256 ^ (off % 8))
  else if 0x20000 ≤ off ∧ off < 0x22000 then
    match if off < 0x21000 then s.pw.marginA else s.pw.marginB with
    | none => 0
    | some m => ofWords (marginWords s m) (off % 0x1000)
  else match tabFind s.mem.aon off with
  | some b => b
  | none => if 0x10000 ≤ off ∧ off < 0x10100 then (Config.freeWord (s.freeTick + off)).truncate 8
    else if aonKept off then (Config.freeWord (s.mem.aonTick + off)).truncate 8 else 0

/-- Write the always-on store: the records that the module keeps up to date itself are not changed (log entry 42). -/
def State.aonWrite (off : Nat) (data : List Byte) (s : State) : State :=
  s.onMem fun m => { m with
    aon := (((List.range data.length).zip data).filter fun x => aonKept (off + x.1)).foldl (fun t x => tabPut t (off + x.1) x.2) m.aon }

/-- Bytes of a hold, a part's local store or the always-on store (R121). -/
def State.nearRead (s : State) (t : Target) (n : Nat) : Option Beats :=
  match t with
  | .hold q off => some (readBeats (s.holdRead q) off n)
  | .ls q j off => some (readBeats (s.lsRead q j) off n)
  | .aon off => some [((List.range n).map fun i => s.aonByte (off + i), false)]
  | _ => none

/-- Write a hold, a part's local store or the always-on store. -/
def State.nearWrite (t : Target) (data : Beats) (s : State) : Option State :=
  match t with
  | .hold q off => some (s.writeBeats (fun o bs bad a => a.holdWrite q o bs bad) 8 off data)
  | .ls q j off => some (s.writeBeats (fun o bs bad a => a.lsWrite q j o bs bad) 8 off data)
  | .aon off => some (s.aonWrite off (beatBytes data))
  | _ => none

/-- An atomic on a hold, a local store or the always-on store: a poisoned target is not performed (R380). -/
def State.nearAtomic (t : Target) (n : Nat) (a : AtomicOp) (s : State) : Option (Beats × State) :=
  (s.nearRead t n).map fun b =>
    (b, if b.any (·.2) then s else (s.nearWrite t [(natBytes n (atomicResult a (leNat (beatBytes b))), false)]).getD s)

/-- Serve the part of a request that lies in a hold, a local store or the always-on store (R120, R121). -/
def State.nearServe (p k e : Nat) (r : DmaReq) (s : State) : State :=
  match r.atomic, r.buf with
  | some a, none => (match s.nearAtomic (s.endTarget p k r.dst r.dstAt r.len true) r.len a with
    | none => s
    | some x => x.2.gotData p k e r.id x.1)
  | _, some b => (match s.nearWrite (s.endTarget p k r.sink.1 r.sink.2 r.len true) b with
    | none => s
    | some s1 => s1.reqDone p k e r.id)
  | none, none => match s.nearRead (s.endTarget p k r.src r.srcAt r.len false) r.len with
    | none => s
    | some b => s.gotData p k e r.id b

/-- The engine's next request has no virtual address, so nothing waits for a translation. -/
def State.nextNear (s : State) (p k e : Nat) : Bool :=
  ((s.dma p k e).reqs.all (·.ready)) && (match (s.dma p k e).queue.find? fun d => decide (d.issued < d.len) with
    | some d => !isVa d.src && !isVa d.dst
    | none => false)

/-- The code of a word finds an error: one bit is corrected, counted and written back; more are delivered and stored as poison (R119, R140,
R381; log entry 119). -/
def State.eccError (p : Nat) (x : EccError) (s : State) : State :=
  if x.bits.length = 1 then s.onTile (s.servingTile p) fun t => { t with cEccCorr := t.cEccCorr + 1 }
  else
    let flip (b : List Byte) : List Byte :=
      natBytes 8 (Nat.xor (leNat b) (((x.bits.filter (· < 64)).map (2 ^ ·)).foldl Nat.xor 0))
    match x.slot with
    | some k => s.lsWrite p k (x.word * 8) (flip (s.lsRead p k (x.word * 8) 8).1) true
    | none => s.holdWrite p (x.word * 8) (flip (s.holdRead p (x.word * 8) 8).1) true

/-- The errors lie in words that exist: of a resident part's partition, or of the hold below the save heap. -/
def State.eccHere (s : State) (p : Nat) (x : EccError) : Bool :=
  !x.bits.isEmpty && match x.slot with
  | some k => s.endFits p k 8 (.localStore (x.word * 8))
  | none => s.endFits p 0 8 (.hold (x.word * 8))

/-- A hold or router port serves request `n` of an engine; where `n` is the number of its outstanding requests and the next has no
virtual address, that one starts here (R120, R121). `errs` are what the codes of the tile's words find at reads of its ports. -/
def execHoldOrLocalStoreRequest (place slot : Nat) (r : NearReq) (s0 : State) : Host.Outcome State Fault Refusal :=
  s0.clocked <|
    let s := foldState (r.errs.filter (s0.eccHere place)) (fun a x => a.eccError place x) s0
    let s1 := if r.n = (s.dma place slot r.engine).reqs.length ∧ s.engineFree place slot r.engine ∧ s.nextNear place slot r.engine
        ∧ r.engine < 2 then s.startReq place slot r.engine else s
    match s1.servable place slot r.engine r.n with
    | some q => s1.nearServe place slot r.engine q
    | none => s1

/-! Answers from other nodes and from the host (R420, R421, R461, R583) -/

/-- A remote request ends. -/
def State.takeReq (s : State) (tag : Nat) : Option (RemoteReq × State) :=
  (tabFind s.lk.reqs tag).map fun r => (r, s.onLk fun x => { x with reqs := tabDel x.reqs tag })

/-- A request leaves its engine without having been done. -/
def State.dropReq (p k e id : Nat) (s : State) : State := s.onDma p k e fun d => { d with reqs := d.reqs.filter fun x => x.id != id }

/-- A remote request ends as an ACCESS fault (R461). -/
def State.reqFails (r : RemoteReq) (s : State) : State :=
  if r.gone then s else (s.dropReq r.place r.slot r.engine r.req).faultEnds r.place r.slot r.va 4

/-- Read data returns to its requester, with the granules that arrive poisoned (R378, R420, R461). -/
def execReadResp (tag status : Nat) (data : List Byte) (poison : List Nat) (s : State) : Host.Outcome State Fault Refusal :=
  s.clocked <| match s.takeReq tag with
  | none => s
  | some (r, s1) =>
    if r.access ≠ .read then s
    else if r.gone then s1
    else if status ≠ 0 then s1.reqFails r
    else s1.gotData r.place r.slot r.engine r.req (beatsOf ((data ++ List.replicate r.len 0).take r.len) poison)

/-- A remote write acknowledgement returns (R461). -/
def execWriteAck (tag status : Nat) (s : State) : Host.Outcome State Fault Refusal :=
  s.clocked <| match s.takeReq tag with
  | none => s
  | some (r, s1) =>
    if r.access ≠ .write then s
    else if r.gone then s1
    else if status ≠ 0 then s1.reqFails r
    else s1.reqDone r.place r.slot r.engine r.req

/-- A remote atomic result returns, with its poison (R378, R380, R461). -/
def execAtomicResp (tag status : Nat) (v : Word × Bool) (s : State) : Host.Outcome State Fault Refusal :=
  s.clocked <| match s.takeReq tag with
  | none => s
  | some (r, s1) =>
    if r.access ≠ .atomic then s
    else if r.gone then s1
    else if status ≠ 0 then s1.reqFails r
    else s1.gotData r.place r.slot r.engine r.req
      [((wordBytes v.1).take (((s.req r.place r.slot r.engine r.req).map (·.len)).getD 8), v.2)]

/-- A host read ends as an ACCESS fault, counted on its link (R421, R583). -/
def State.hostFails (r : HostReq) (s : State) : State :=
  let s1 := s.onLink r.link fun x => { x with hostErr := x.hostErr + 1 }
  if r.gone then s1 else (s1.dropReq r.place r.slot r.engine r.req).faultEnds r.place r.slot r.va 4

/-- A PCIe completion answers a read of the module: successful, or Unsupported Request or Completer Abort (R583). -/
def execPcieCompletion (req status : Nat) (data : List Byte) (poison : Bool) (s : State) : Host.Outcome State Fault Refusal :=
  s.clocked <| match tabFind s.hif.reqs req with
  | none => s
  | some r =>
    let s1 := s.onHif fun x => { x with reqs := tabDel x.reqs req }
    if status ≠ 0 then s1.hostFails r
    else if r.gone then s1
    else s1.gotData r.place r.slot r.engine r.req
      ((cutAt 64 0 r.len).map fun x => (((data ++ List.replicate r.len 0).drop x.1).take x.2, poison))

/-- No completion within 10 ms (R566, R583). -/
def execPcieCompletionTimeout (req : Nat) (s : State) : Host.Outcome State Fault Refusal :=
  s.clocked <| match tabFind s.hif.reqs req with
  | none => s
  | some r => (s.onHif fun x => { x with reqs := tabDel x.reqs req }).hostFails r

/-! The fault page (R409, R410, R417, R424) -/

/-- A master reaches the view and fault pages of a harbour: the manager, or a function granted it by a valid slice for the
PASID its request carries (R360, R424, R435). -/
def State.granted (s : State) (m : Master) (pasid : Option Nat) (h : Nat) : Bool :=
  match m with
  | .manager | .secctl | .pilot => true
  | .sideband => false
  | .func n => s.rg.slices.any fun x => x.2.valid && x.2.func == n && bit x.2.harbours h
      && (match pasid with | some q => decide (x.2.pasidBase ≤ q ∧ q < x.2.pasidBase + 2 ^ x.2.pasidLog2) | none => false)

/-- Do a write of a harbour's fault page. -/
def State.pageWrite (m : Master) (pasid : Option Nat) (h offset : Nat) (f : State → State) (s : State) : State :=
  if 64 ≤ h then s
  else if s.granted m pasid h then f s else s.rwpIgnored m (0x110000 + h * 0x1000 + offset)

/-- XLF_CONS: the driver advances CONSUMED (R415). -/
def execXlfConsWrite (m : Master) (pasid : Option Nat) (h : Nat) (v : Word) (s : State) : Host.Outcome State Fault Refusal :=
  s.clocked <| s.pageWrite m pasid h 8 fun s =>
    (s.onFq h fun q => { q with consumed := v.truncate 32 }).retryHeld h

/-- The PENDING entry an index names (R417). -/
def State.pendingEntry (s : State) (h : Nat) (v : Word) : Option (Nat × FaultEnt) :=
  let i := bits v 0 32
  match tabFind (s.fq h).entries (i % 4096) with
  | some x => if x.state = 0 ∧ x.index.toNat = i then some (i % 4096, x) else none
  | none => none

/-- A response that names no PENDING entry is ignored and counted (R417). -/
def State.respIgnored (h : Nat) (s : State) : State := s.onFq h fun q => { q with cRespIgnored := q.cRespIgnored + 1 }

/-- RESUME (R417). -/
def execXlfResume (m : Master) (pasid : Option Nat) (h : Nat) (v : Word) (s : State) : Host.Outcome State Fault Refusal :=
  s.clocked <| s.pageWrite m pasid h 0x10 fun s =>
    match s.pendingEntry h v with
    | none => s.respIgnored h
    | some (slot, _) => s.resumeEntry h slot 1

/-- ABORT (R417). -/
def execXlfAbort (m : Master) (pasid : Option Nat) (h : Nat) (v : Word) (s : State) : Host.Outcome State Fault Refusal :=
  s.clocked <| s.pageWrite m pasid h 0x10 fun s =>
    match s.pendingEntry h v with
    | none => s.respIgnored h
    | some (slot, x) =>
      let es := s.latched.filter fun y => y.2.2.2.entry == some slot && s.slotHarbour y.1 y.2.1 == h
      let s1 := s.putFault h slot { x with state := 3, engines := [] }
      ((foldState es (fun a y => (a.releaseLatch y.1 y.2.1 y.2.2.1).failPart y.1 y.2.1 (8 + x.kind) (w64 y.2.2.2.va) .fault true)
        s1).retryHeld h).settle

/-- An invalidation is accepted or refused (R409). -/
def State.invalidate (h : Nat) (i : Inval) (s : State) : State :=
  let named := i.scope == 2 || (match s.ctxWords i.asid with | some (ws, _) => ctxHarbour ws == h | none => false)
  let out := (s.fq h).invs.length
  if !named ∨ 16 ≤ out then s.onFq h fun q => { q with cInvRefused := q.cInvRefused + 1 }
  else s.onFq h fun q => { q with invs := q.invs ++ [i], issued := q.issued + 1 }

/-- A refused write of the XL_ block, its fault pages among it (R423, R424, R623, R629). -/
def State.xlRefused (s : State) : State := s.onXl fun x => { x with cCfgRefused := x.cCfgRefused + 1 }

/-- SCOPE 0: a range of pages, at least one, of one ASID (R409, R424). -/
def execInvRange (m : Master) (pasid : Option Nat) (h : Nat) (v : Word) (s : State) : Host.Outcome State Fault Refusal :=
  s.clocked <| s.pageWrite m pasid h 0x20 fun s =>
    if bits v 20 30 = 0 then s.xlRefused
    else s.invalidate h { scope := 0, asid := bits v 0 16, va := (s.fq h).invAddr, pages := bits v 20 30 }

/-- SCOPE 1: a whole ASID (R409). -/
def execInvAsid (m : Master) (pasid : Option Nat) (h : Nat) (v : Word) (s : State) : Host.Outcome State Fault Refusal :=
  s.clocked <| s.pageWrite m pasid h 0x20 fun s => s.invalidate h { scope := 1, asid := bits v 0 16, va := 0, pages := 0 }

/-- SCOPE 2: every ASID of the harbour (R409). -/
def execInvHarbour (m : Master) (pasid : Option Nat) (h : Nat) (_v : Word) (s : State) : Host.Outcome State Fault Refusal :=
  s.clocked <| s.pageWrite m pasid h 0x20 fun s => s.invalidate h { scope := 2, asid := 0, va := 0, pages := 0 }

/-- The invalidation names an ASID. -/
def State.invNames (s : State) (h : Nat) (i : Inval) (asid : Nat) : Bool :=
  if i.scope = 2 then (match s.ctxWords asid with | some (ws, _) => ctxHarbour ws == h | none => false) else i.asid == asid

/-- Bytes `[a, a+n)` of a context are covered. -/
def State.invCovers (s : State) (h : Nat) (i : Inval) (asid a n : Nat) : Bool :=
  s.invNames h i asid && (i.scope != 0 || decide (a < i.va + i.pages * 4096 ∧ i.va < a + n))

/-- A request of some engine translated through a covered entry is still on its way (R410). -/
def State.invBusy (s : State) (h : Nat) (i : Inval) : Bool :=
  s.places.any fun q => q.2.slots.any fun k =>
    let asid := (s.launchAt q.1 k.1).context
    (k.2.ctx.dma0.reqs ++ k.2.ctx.dma1.reqs).any fun r => r.ready
      && ((r.srcAt.isSome && s.invCovers h i asid (endOffset r.src) r.len) || (r.dstAt.isSome && s.invCovers h i asid (endOffset r.dst) r.len))

/-- Remove every covered entry of the caches (R410). -/
def State.purge (h : Nat) (i : Inval) (s : State) : State :=
  let keep (x : Tlb) : Bool := !s.invCovers h i x.asid x.va x.size
  s.onXl fun q => { q with
    engineTlb := q.engineTlb.map fun t => (t.1, t.2.filter keep)
    sharedTlb := q.sharedTlb.map fun t => (t.1, t.2.filter keep)
    walkTlb := q.walkTlb.map fun t => (t.1, t.2.filter fun x => !s.invNames h i x.asid) }

end Sys2Proof.Machine
end

