-- ==== Sys2Proof/Machine/HarbourOps.lean ====
section
/-! DEFINITION. Harbour procedures: requests, the steps of a re-bind, the journal, rollback, and stale speakers
(10_harbours). -/
namespace Sys2Proof.Machine
open Sys2Proof

/-! Units (R329, R331, R340, R341) -/

/-- The HGEN after another (R340). -/
def nextGen (g : BitVec 8) : BitVec 8 := if g = 255 then 1 else g + 1

/-- The condition of a unit by TYPE (R329): 0 tile place, 1 channel, 3 lane group. -/
def State.unitCond (s : State) (type n : Nat) : Cond :=
  match type with
  | 0 => (s.place n).cond
  | 3 => tabGet .free s.hb.laneGroups n
  | _ => tabGet .free s.hb.channels n

/-- The unit is free: neither bound nor retired, nor still to be released after a BUMP (R329, R330). -/
def State.unitFree (s : State) (type n : Nat) : Bool := s.unitCond type n == .free && !s.unitLeaving type n

/-- The harbour holds the unit. -/
def State.unitOf (s : State) (h type n : Nat) : Bool :=
  match s.unitCond type n with | .bound g _ => g == h | _ => false

/-- A retired unit that keeps its logical number in the harbour (R334). -/
def State.retiredUnit (s : State) (h type n : Nat) : Bool :=
  s.unitCond type n == .retired && (match s.harbour h with
    | some x => if type = 0 then x.tiles.contains n else type == 1 && x.channels.contains n
    | none => false)

/-- The unit is absent on this part (R5). -/
def State.unitAbsent (s : State) (type n : Nat) : Bool :=
  match type with
  | 0 => decide (n < 512) && !s.placePresent n
  | 3 => decide (n < 64) && !s.portPresent (n / 4)
  | _ => decide (n < 256) && !s.channelPresent n

/-- The unit's number is out of range. -/
def unitRange (type n : Nat) : Bool := decide (n < (if type = 0 then 512 else if type = 3 then 64 else 256))

/-- Bind a unit: its checker entry and its credentials (R340, R341). -/
def State.bindUnit (h gen type n : Nat) (s : State) : State :=
  match type with
  | 0 => (s.onPlace n fun x => { x with cond := .bound h gen, draining := false }).onTile (s.servingTile n) fun t =>
      { t with credH := h, credGen := gen }
  | 3 => s.onHb fun m => { m with laneGroups := tabPut m.laneGroups n (.bound h gen), credLg := tabPut m.credLg n (h, gen) }
  | _ => s.onHb fun m => { m with channels := tabPut m.channels n (.bound h gen), credCh := tabPut m.credCh n (h, gen) }

/-- A unit's checker entry becomes free, unless the unit is retired; it is not yet zeroed (R329, R330). -/
def State.unbindUnit (type n : Nat) (s : State) : State :=
  if s.unitCond type n = .retired then s
  else match type with
  | 0 => s.onPlace n fun x => { x with cond := .free, draining := false, zeroed := false }
  | 3 => s.onHb fun m => { m with laneGroups := tabDel m.laneGroups n, credLg := tabDel m.credLg n }
  | _ => s.onHb fun m => { m with channels := tabDel m.channels n, chDirty := setIns m.chDirty n }

/-- Zero a unit (R330): the hold, its tags and its save heap, or the written-bits of a channel. -/
def State.zeroUnit (type n : Nat) (s : State) : State :=
  match type with
  | 0 => s.onPlace n fun x => { x with
      hold := [], holdPoison := [], heap := [], zeroing := [], evicting := 0, tags := [], zeroed := true }
  | 1 => ((s.hbmClear n 0 2147483648).onChan n fun x => { x with writeback := [] }).onHb fun m => { m with chDirty := setDel m.chDirty n }
  | _ => s

/-- A free unit's ZEROED flag. -/
def State.unitZeroed (s : State) (type n : Nat) : Bool :=
  match type with
  | 0 => (s.place n).zeroed
  | 1 => !s.hb.chDirty.contains n
  | _ => true

/-- A harbour holds `n` slots of a Mill: the lowest of its slots stay, and the lowest unbound ones join (R328). -/
def State.setMillSlots (m h n : Nat) (s : State) : State :=
  let own := (s.boundSlots m h).take n
  let other := (List.range 64).filter fun k => (tabFind (s.mill m).bound k).isNone
  let want := own ++ other.take (n - own.length)
  s.onMill m fun y => { y with
    bound := want.foldl (fun t k => tabPut t k h) (y.bound.filter fun b => b.2 != h) }

/-! Structures of harbour 0 (R666) -/

/-- The structures of R666 with their extents. -/
def State.structures (s : State) : List (Nat × Nat) :=
  [(s.fu.storeBase, 32 * 2 ^ s.fu.storeLog2), (s.fu.bufBase, 2 ^ 20), (s.xl.ctxBase, 2 ^ 21),
   (s.ras.base, 64 * 2 ^ s.ras.log2), (s.hif.hostBind, 2 ^ 19), (s.hif.bar2Base, 2 ^ 27),
   (s.lk.routeBase, 2 ^ 19), (s.lk.spanBase, 2 ^ 16), (s.lk.mapBase, 64 * 2 ^ s.lk.mapLog2)]
  ++ (List.range 64).map fun h => ((s.fq h).base, 2 ^ 20)

/-- Logical channel of harbour 0 that an address of a structure lies in. -/
def channelOf0 (a : Nat) : Nat := a / 2 ^ 31

/-! Validation (R346) -/

/-- What a harbour holds once a request is done (R334, R345). -/
def afterRequest (op pool : Nat) (x : Harbour) (es : List UnitEntry) : Harbour :=
  let y := es.foldl (fun (y : Harbour) e =>
    match e.type with
    | 0 => if op ≤ 1 then { y with tiles := y.tiles ++ [e.dst] }
        else if op = 2 then { y with tiles := y.tiles.filter (· != e.src) }
        else { y with tiles := y.tiles.map fun t => if t = e.src then e.dst else t }
    | 1 => if op ≤ 1 then { y with channels := y.channels ++ [e.dst] }
        else if op = 2 then { y with channels := y.channels.filter (· != e.src), millSlots := tabDel y.millSlots e.src }
        else { y with
          channels := y.channels.map fun t => if t = e.src then e.dst else t
          millSlots := tabSet 0 (tabDel y.millSlots e.src) e.dst (tabGet 0 y.millSlots e.src) }
    | 2 => { y with millSlots := tabSet 0 y.millSlots e.src e.slots }
    | _ => if op ≤ 1 then { y with laneGroups := setIns y.laneGroups e.dst }
        else if op = 2 then { y with laneGroups := setDel y.laneGroups e.src }
        else { y with laneGroups := setIns (setDel y.laneGroups e.src) e.dst }) x
  { y with poolMib := if pool = 0 then y.poolMib else pool }

/-- Two members of a list are equal. -/
def hasTwice : List (Nat × Nat) → Bool
  | [] => false
  | x :: t => t.contains x || hasTwice t

/-- Reason 2: the request is malformed (R344–R346). -/
def State.reqMalformed (ws all : List Word) : Bool :=
  let op := reqOp ws
  let n := bits (wordAt ws 0) 16 9
  let es := reqEntries ws
  let reserved := bits (wordAt ws 0) 13 3 != 0 || bits (wordAt ws 0) 25 7 != 0 || bits (wordAt ws 0) 42 6 != 0
    || wordAt ws 2 != 0 || wordAt ws 3 != 0 || bits (wordAt ws 4) 20 43 != 0 || wordAt ws 6 != 0 || wordAt ws 7 != 0
    || (List.range 56).any (fun i => wordAt all (0xE40 / 8 + i) != 0)
  let badEntry (i : Nat) : Bool :=
    let w := wordAt ws (8 + i)
    bit w 3 || bits w 31 33 != 0
  let badType (e : UnitEntry) : Bool := decide (4 ≤ e.type) || (if e.type = 2 then !(op == 0 || op == 1 || op == 5) else op == 5)
  reserved || decide (6 ≤ op) || decide (256 < n) || (op == 4 && n != 0) || (op == 0 && reqPool ws == 0)
  || (List.range (min n 256)).any badEntry
  || es.any (fun e => badType e || (e.type == 2 && decide (64 < e.slots))
      || (namedUnits op e).any fun u => !unitRange u.1 u.2)
  || hasTwice (es.flatMap (namedUnits op))

/-- Reason 3: a unit is not free, or not the harbour's (R346). -/
def State.reqNotFree (s : State) (op h : Nat) (es : List UnitEntry) : Bool :=
  (op == 0) == (s.harbour h).isSome
  || es.any fun e =>
    (addsUnit op e && !s.unitFree e.type e.dst)
    || (takesUnit op e && !s.unitOf h e.type e.src && !(op == 3 && s.retiredUnit h e.type e.src))
    || (e.type == 2 && (
      !(s.unitOf h 1 e.src || es.any fun f => f.type == 1 && addsUnit op f && f.dst == e.src)
      || decide ((s.boundSlots e.src h).length + (64 - (s.mill e.src).bound.length) < e.slots)))

/-- Reason 5: order (R332, R334, R338, R346). -/
def State.reqOrder (s : State) (op h : Nat) (es : List UnitEntry) (after : Harbour) : Bool :=
  let x := (s.harbour h).getD {}
  let named (t : Nat) : List Nat := (es.filter fun e => e.type == t).map (·.src)
  let high (t : Nat) (us : List Nat) : Bool := (us.drop (us.length - (named t).length)).all fun u => (named t).contains u
  (op == 2 && !(high 0 x.tiles && high 1 x.channels))
  || ((op == 1 || op == 2) && x.span && x.member != x.membersM1 && es.any fun e => decide (e.type ≤ 1))
  || (op != 4 && (after.tiles.isEmpty || after.channels.isEmpty)) || (op == 4 && h == 0)

/-- Some memory object of the harbour, or a valid interleave set, has bytes on a logical channel (R346, R366). -/
def State.channelInUse (s : State) (h lch : Nat) : Bool :=
  s.hif.objs.any (fun o => o.2.harbour == h && bitsN o.2.addr 48 4 == 0 && o.2.addr / 2 ^ 31 == lch)
  || (List.range 16).any fun i =>
    let x := tabGet {} s.mem.isets (h * 16 + i)
    x.valid && decide (x.baseCh ≤ lch ∧ lch < x.baseCh + 2 ^ x.log2Ways)

/-- Reason 6: a leaving channel or a leaving harbour is in use (R346). -/
def State.reqInUse (s : State) (op h : Nat) (es : List UnitEntry) : Bool :=
  let x := (s.harbour h).getD {}
  if op = 2 then
    (es.filter fun e => e.type == 1).any fun e =>
      let lch := x.channels.findIdx (· == e.src)
      s.channelInUse h lch
      || (h == 0 && (s.structures.any (fun b => decide (channelOf0 b.1 ≤ lch ∧ lch ≤ channelOf0 (b.1 + b.2 - 1)))
            || s.procs.any fun j => channelOf0 j.reqAddr == lch))
  else op == 4 && (s.berths.any (fun b => b.2.enable && b.2.harbour == h) || s.hm.launches.any (fun l => l.2.harbour == h)
    || s.hif.objs.any fun o => o.2.harbour == h)

/-- Reason 7: the pool (R336, R346). -/
def State.reqPoolBad (s : State) (op : Nat) (after : Harbour) (es : List UnitEntry) : Bool :=
  let level (c : Nat) : Nat := match es.find? fun e => op == 3 && e.type == 1 && e.dst == c with
    | some e => s.dataBytes e.src
    | none => s.dataBytes c
  op != 4 && (decide (after.poolMib < after.reserveMib)
    || (match after.channels.head? with | some c => decide (level c / 1048576 < after.poolMib + 1) | none => false))

/-- The lowest REASON that applies to a request, or 0 (R346). -/
def State.reqReason (s : State) (ws all : List Word) (bad : Bool) : Nat :=
  let op := reqOp ws
  let h := reqHarbour ws
  let es := reqEntries ws
  let after := afterRequest op (reqPool ws) ((s.harbour h).getD {}) es
  if es.any fun e => (e.type == 2 && s.part == .kln8120) || (namedUnits op e).any fun u => s.unitAbsent u.1 u.2 then 1
  else if bad || State.reqMalformed ws all then 2
  else if s.reqNotFree op h es then 3
  else if decide (4 ≤ s.hb.journal.length) || s.procs.any (fun j => j.harbour == h)
      || (es.flatMap (namedUnits op)).any fun u => s.unitNamed u.1 u.2 then 4
  else if s.reqOrder op h es after then 5
  else if s.reqInUse op h es then 6
  else if s.reqPoolBad op after es then 7
  else 0

/-- Write the result word of a request (R344). -/
def State.procResult (addr status reason : Nat) (hgen : BitVec 8) (s : State) : State :=
  s.put0 (addr + 0x20) [w64 (status + reason * 2 ^ 8 + hgen.toNat * 2 ^ 12 + 2 ^ 63)]

/-- A refused request, cancel or gating is counted (R359). -/
def State.hbRefused (s : State) : State := s.onHb fun m => { m with cRefused := m.cRefused + 1 }

/-- Steps an OP uses (R347). -/
def opSteps (op : Nat) (decreases : Bool) : List Nat :=
  match op with
  | 0 | 1 => [3, 5, 8]
  | 2 => [1, 2, 5, 7, 8]
  | 3 => [1, 2, 3, 4, 5, 6, 7, 8]
  | 4 => [5, 7, 8]
  | _ => if decreases then [1, 5, 7, 8] else [5, 7, 8]

/-- Some TYPE 2 entry lowers a slot count. -/
def State.decreases (s : State) (h : Nat) (es : List UnitEntry) : Bool :=
  es.any fun e => e.type == 2 && decide (e.slots < (s.boundSlots e.src h).length)

/-- Accept a request into the lowest empty journal slot (R347, R353). -/
def State.acceptProc (addr : Nat) (ws : List Word) (s : State) : State :=
  let op := reqOp ws
  let h := reqHarbour ws
  let es := reqEntries ws
  let slot := ((List.range 4).find? fun j => (tabFind s.hb.journal j).isNone).getD 0
  let j : Proc := {
    harbour := h, op := op, oldHgen := s.hgen h, newHgen := nextGen (s.hgen h), acceptTide := s.tide.num
    stepTide := s.tide.num, reqAddr := addr, request := ws
    steps := opSteps op (s.decreases h es)
    entries := es.map fun e => { dstZeroed := addsUnit op e && s.unitZeroed e.type e.dst } }
  s.journalPut slot j

/-- Bytes of a request that validation reads: the header with ENTRIES entries, and the reserved tail; entries beyond ENTRIES and the
maps are not read (R344). -/
def requestRead (ws : List Word) : List (Nat × Nat) := [(0, 0x40 + 8 * min 256 (bits (wordAt ws 0) 16 9)), (0xE40, 0x1C0)]

/-- HB_REQ submits a request (R344, R346). -/
def execHbReq (m : Master) (v : Word) (s : State) : Host.Outcome State Fault Refusal :=
  s.clocked <| s.privWrite m 0x80000 fun s =>
    let addr := bits v 12 36 * 4096
    match s.readH 0 addr 4096 with
    | none => s.hbRefused.event 0x0502 7 0 [0, 0, 2, w64 (addr / 4096)]
    | some (bs, _) =>
      let all := bytesWords 512 bs
      let ws := all.take requestWords
      let read := requestRead ws
      let bad := read.any fun x => (s.readH 0 (addr + x.1) x.2).any (·.2)
      let s := foldState read (fun a x => a.readEffectH 0 (addr + x.1) x.2) s
      let r := s.reqReason ws all bad
      if r = 0 then s.acceptProc addr ws
      else ((s.procResult addr (if r = 1 then 10 else 4) r 0).hbRefused).event 0x0502 7 (reqHarbour ws)
        [pair (reqHarbour ws) (reqOp ws), wordAt ws 1, w64 r, w64 (addr / 4096)]

/-! Steps and rollback (R347–R356) -/

/-- The entries of a procedure as parsed. -/
def Proc.units0 (j : Proc) : List UnitEntry := reqEntries j.request

/-- The entries with what has been earned for each. -/
def Proc.rows (j : Proc) : List (UnitEntry × ProcEntry) := j.units0.zip (j.entries ++ List.replicate 256 ({} : ProcEntry))

/-- Change what has been earned for each entry. -/
def Proc.earn (f : UnitEntry → ProcEntry → ProcEntry) (j : Proc) : Proc := { j with entries := j.rows.map fun x => f x.1 x.2 }

/-- An event of a procedure; one of a replay is held until the map is loaded (R355, R604 step 11, R607). -/
def State.procEvent (code h : Nat) (items : List Word) (s : State) : State :=
  if s.boot.life = .starting then s.keepEvent code 7 h items else s.event code 7 h items

/-- A channel is no longer in TRANSFER. -/
def State.endTransfer (src dst : Nat) (s : State) : State :=
  (s.onChan src fun c => { c with transfer := false, transferTo := none, copied := 0 }).onChan dst fun c => { c with transfer := false }

/-- Roll a procedure back (R352, R355, R356): BACK is written, written destinations are zeroed and free, sources stay the harbour's. -/
def State.rollback (slot status reason : Nat) (s0 : State) : State :=
  match tabFind s0.hb.journal slot with
  | none => s0
  | some j =>
    let s := s0.onProc slot fun y => { y with back := true }
    let s1 := foldState j.rows (fun a x =>
      let a1 := if addsUnit j.op x.1 ∧ (x.2.xferPos ≠ 0 ∨ x.2.xferDone ∨ x.2.dstWasUngated ∨ !x.2.dstZeroed) then
          a.zeroUnit x.1.type x.1.dst else a
      let a2 := if takesUnit j.op x.1 ∧ x.1.type = 0 then a1.onPlace x.1.src fun p => { p with draining := false } else a1
      if x.1.type = 1 ∧ j.op = 3 then a2.endTransfer x.1.src x.1.dst else a2) s
    let s2 := ((s1.procResult j.reqAddr status reason 0).journalClear slot).onHb fun m => { m with cRolledBack := m.cRolledBack + 1 }
    s2.procEvent 0x0501 j.harbour [w64 j.harbour, w64 j.op, wordAt j.request 1, w64 j.step, w64 reason]

/-- A slave is in holdover or isolated, and the procedure's harbour spans modules (R99, R351). -/
def State.spanHeld (s : State) (j : Proc) : Bool :=
  s.tide.role == .slave && (s.tide.holdover || s.tide.isolated) && ((s.harbour j.harbour).getD {}).span

/-- No step before BUMP starts then, nor in a realignment tide (R99, R351). -/
def State.stepHeld (s : State) (j : Proc) : Bool := s.spanHeld j || (s.tide.role == .slave && s.tide.rejoin.isSome && !s.tide.rejoinSkip)

/-- A procedure that uses a step before BUMP, and is before its BUMP, while an instance of the Harbourmaster serves (R347, R356). -/
def State.procReady (s : State) (slot step : Nat) : Option Proc :=
  match tabFind s.hb.journal slot with
  | some j => if j.steps.contains step ∧ j.step < 5 ∧ 1 ≤ j.boundaries ∧ !s.hmSilent then some j else none
  | none => none

/-- A procedure past its BUMP, while an instance of the Harbourmaster serves (R347, R356). -/
def State.procBumped (s : State) (slot : Nat) : Option Proc :=
  match tabFind s.hb.journal slot with
  | some j => if 5 ≤ j.step ∧ !s.hmSilent then some j else none
  | none => none

/-- Source places of a procedure. -/
def Proc.sources (j : Proc) : List Nat :=
  (j.units0.filter fun e => e.type == 0 && takesUnit j.op e).map (·.src)

/-- Places where a launch has a part that is resident or stored there. -/
def Launch.partOn (e : Launch) (p : Nat) : Bool :=
  e.parts.any fun x => match x with | .slot q _ | .heap q => q == p | _ => false

/-- DRAIN has nothing left to wait for (R347, R349). -/
def State.drained (s : State) (j : Proc) : Bool :=
  (j.sources.all fun p => (s.place p).slots.all fun k => k.2.state == .retiring)
  && (j.op != 2 || j.sources.all fun p => !s.hm.launches.any fun l => l.2.holdBound && l.2.partOn p)
  && j.units0.all fun e => !(e.type == 2 || (e.type == 1 && j.op == 2))
    || (s.leavingSlots e.src j.harbour).all fun k => tabGet .free (s.mill e.src).slots k == .free

/-- HELD: DRAIN of a SHRINK or a SLOTS waits, or a slave's holdover keeps a procedure before its BUMP (R349, R351). -/
def State.procHeld (s : State) (j : Proc) : Bool :=
  (j.drainOn && !j.drainDone && (j.op == 2 || j.op == 5) && !s.drained j) || (decide (j.step < 5) && s.spanHeld j)

/-- DRAIN ends once it has nothing left to wait for. -/
def State.endDrain (slot : Nat) (s : State) : State :=
  match s.procReady slot 1 with
  | none => s
  | some x =>
    if x.drainOn ∧ !x.drainDone ∧ s.drained x then s.onProc slot fun y => { y with drainDone := true, mark := y.boundaries } else s

/-- SAVE begins when DRAIN has ended (R347, R350). -/
def State.beginSave (slot : Nat) (s : State) : State :=
  match s.procReady slot 2 with
  | none => s
  | some x => if x.drainDone ∧ !x.saveOn ∧ !s.stepHeld x then s.onProc slot fun y => { y with saveOn := true } else s

/-- ZERO begins at boundary 1, beside DRAIN (R347). -/
def State.beginZero (slot : Nat) (s : State) : State :=
  match s.procReady slot 3 with
  | none => s
  | some x => if (x.op ≠ 3 ∨ x.drainOn) ∧ !x.zeroOn ∧ !s.stepHeld x then s.onProc slot fun y => { y with zeroOn := true } else s

/-- An entry of a MOVE whose source still has contents to transfer: one that is retired, or a place whose hold has failed, is passed
over (R347, R356). -/
def State.moves (s : State) (e : UnitEntry) : Bool :=
  e.type ≤ 1 && s.unitCond e.type e.src != .retired && !(e.type == 0 && (s.place e.src).holdFailed)

/-- TRANSFER begins once SAVE and ZERO have ended (R347, R348). -/
def State.beginTransfer (slot : Nat) (s : State) : State :=
  match s.procReady slot 4 with
  | none => s
  | some x =>
    if x.step = 4 ∨ !x.saveDone ∨ !x.zeroDone ∨ s.stepHeld x then s
    else
      foldState (x.units0.filter fun e => e.type == 1 && s.moves e) (fun a e =>
        (a.onChan e.src fun c => { c with transfer := true, transferTo := some e.dst }).onChan e.dst fun c => { c with transfer := true })
      (s.onProc slot fun y => y.at 4 false s.tide.num)

/-- A procedure goes on: a step before BUMP begins as soon as what it waits for has ended (R347, R350). -/
def State.advanceProc (slot : Nat) (s : State) : State := (((s.endDrain slot).beginSave slot).beginZero slot).beginTransfer slot

/-- Every procedure goes on. -/
def State.advanceProcs (s : State) : State := foldState (s.hb.journal.map (·.1)) (fun a j => a.advanceProc j) s

/-- Every step before BUMP has ended, and a boundary has passed since (R347). -/
def State.bumpDue (s : State) (x : Proc) : Bool :=
  decide (x.step < 5) && decide (x.mark < x.boundaries) && !s.hmSilent
  && (match x.op with
    | 0 | 1 => x.zeroDone
    | 2 => x.saveDone
    | 3 => decide (x.step = 4) && x.done
    | 4 => true
    | _ => !x.steps.contains 1 || x.drainDone)

/-- HB_CANCEL (R352); at the boundary of BUMP, BUMP is journalled first (R357). -/
def execHbCancel (m : Master) (v : Word) (s : State) : Host.Outcome State Fault Refusal :=
  s.clocked <| s.privWrite m 0x80008 fun s =>
    match tabFind s.hb.journal (bits v 0 2) with
    | none => s.hbRefused
    | some j => if j.step < 5 ∧ !s.bumpDue j then (s.rollback (bits v 0 2) 1 9).settle else s.hbRefused

/-- DRAIN: placement on source units stops, and every launch resident on a source place is pre-empted (R94, R347). -/
def execRebindDrain (j : Nat) (s : State) : Host.Outcome State Fault Refusal :=
  s.clocked <| match s.procReady j 1 with
  | none => s
  | some x =>
    if x.drainOn ∨ s.stepHeld x then s
    else
      let on := s.hm.launches.filter fun l => x.sources.any fun p => (s.residents p).any fun e => e == l.2
      let moved := (on.filter fun l => l.2.holdBound).map (·.1)
      let s1 := s.onProc j fun y => { y with drainOn := true, moved := moved }
      let s2 := foldState x.sources (fun a p => a.onPlace p fun q => { q with draining := true }) s1
      (foldState on (fun a l => a.preemptLaunch l.1) s2).advanceProc j

/-- Move a launch's stored record to the pool reserve (R336, R347). -/
def State.poolRecord (h p : Nat) (r : SavedRec) (s : State) : State :=
  let (r1, s1) := s.reservePut h p r
  ((s1.onPlace p fun x => { x with heap := x.heap.filter fun y => !(y.entry == r.entry && y.part == r.part) }).onHarbour h fun x =>
    { x with poolReserve := x.poolReserve ++ [r1] }).onLaunch r.entry fun e => { e with parts := e.parts.set r.part (.pool p) }

/-- SAVE ends: the records of launches that are not hold-bound are in the pool reserve (R347). -/
def execRebindSave (j : Nat) (s0 : State) : Host.Outcome State Fault Refusal :=
  s0.clocked <|
    let s := s0.advanceProc j
    match s.procReady j 2 with
    | none => s
    | some x =>
      if !x.saveOn ∨ x.saveDone then s
      else
        let s1 := foldState x.sources (fun a p =>
          foldState ((a.place p).heap.filter fun r => match a.launch r.entry with | some e => !e.holdBound | none => false)
            (fun b r => b.poolRecord x.harbour p r) a) s
        (s1.onProc j fun y => { y with saveDone := true, mark := y.boundaries }).advanceProc j

/-- Ungate the cluster of a destination place (R127, R347). -/
def State.ungateFor (p : Nat) (s : State) : State :=
  s.onCluster (clusterOf p) fun c => { c with gated := false, ungating := false, request := none, accepts := true }

/-- A place is in reset: what a step does to it waits (R356). -/
def State.inReset (s : State) (p : Nat) : Bool := (s.tile (s.servingTile p)).inReset || (s.cluster (clusterOf p)).inReset

/-- ZERO ends: each destination is zeroed and its cluster ungated; a moved channel takes its source's level with every granule unwritten,
and REF follows (R347, R356, R373, R637). -/
def execRebindZeroDone (j : Nat) (s : State) : Host.Outcome State Fault Refusal :=
  s.clocked <| match s.procReady j 3 with
  | none => s
  | some x =>
    let dsts := x.units0.filter fun e => addsUnit x.op e
    if !x.zeroOn ∨ x.zeroDone ∨ dsts.any (fun e => e.type == 0 && s.inReset e.dst) then s
    else
      let gated (e : UnitEntry) : Bool := e.type == 0 && (s.cluster (clusterOf e.dst)).gated
      let s1 := foldState dsts (fun a e =>
        let a1 := if a.unitZeroed e.type e.dst ∧ !(e.type = 1 ∧ x.op = 3) then a else a.zeroUnit e.type e.dst
        let a2 := if gated e then a1.ungateFor e.dst else a1
        if e.type = 1 ∧ x.op = 3 then a2.onChan e.dst fun c => { c with level := (s.chan e.src).level } else a2) s
      ((if x.op = 3 then s1.followRef s else s1).onProc j fun y => { y.earn (fun e r =>
          if addsUnit x.op e then { r with dstZeroed := true, dstWasUngated := gated e } else r) with
        zeroDone := true, mark := y.boundaries }).advanceProc j

/-- The bytes, written granules and poison of a channel go to another channel, corrected as reads are (R348, R374, R378). -/
def State.copyChannel (a b : Nat) (s0 : State) : State :=
  let s := foldState (s0.mem.damage.filter fun d => d.1 / 2097152 == a) (fun t d => t.decodeOne a (d.1 % 2097152) false) s0
  let lo := byteKey a 0
  let hi := byteKey (a + 1) 0
  let mv (k : Nat) : Nat := byteKey b 0 + (k - lo)
  let mg (g : Nat) : Nat := byteKey b 0 / 64 + (g - lo / 64)
  let gs (t : NSet) : NSet := (t.filter fun g => decide (lo / 64 ≤ g ∧ g < hi / 64)).foldl (fun t g => setIns t (mg g)) t
  s.onMem fun m => { m with
    bytes := (m.bytes.filter fun c => decide (lo ≤ c.1 ∧ c.1 < hi)).foldl (fun t c => tabPut t (mv c.1) c.2) m.bytes
    written := gs m.written
    poison := gs m.poison }

/-- Bytes that the TRANSFER of an entry copies: the hold, or the channel's written granules (R347, R348). -/
def State.moveBytes (s : State) (e : UnitEntry) : Nat :=
  if e.type = 0 then 33554432
  else 64 * (s.mem.written.filter fun g => decide (granule e.src 0 ≤ g ∧ g < granule (e.src + 1) 0)).length

/-- The TRANSFER of entry `i` of a procedure: its contents go to the destination, its progress is written at every 1 MiB mark and at its
end, and every later write to the channel goes through (R347, R348, R354). -/
def State.transferEntry (slot i : Nat) (e : UnitEntry) (s : State) : State :=
  let at_ (f : ProcEntry → ProcEntry) (y : Proc) : Proc :=
    { y with entries := ((y.entries ++ List.replicate 256 ({} : ProcEntry)).take (max y.entries.length (i + 1))).modify i f }
  let marks (a : State) : State := foldState (List.range (s.moveBytes e / 1048576)) (fun b n =>
    b.onProc slot (at_ fun r => { r with xferPos := 256 * (n + 1) })) a
  let copy (a : State) : State :=
    if e.type = 0 then
      let x := a.place e.src
      a.onPlace e.dst fun y => { y with hold := x.hold, holdPoison := x.holdPoison }
    else (a.copyChannel e.src e.dst).onChan e.src fun c => { c with copied := 2147483648 }
  (marks (copy s)).onProc slot (at_ fun r => { r with xferDone := true })

/-- TRANSFER ends (R347, R348); it waits while a place of its is in reset (R356). -/
def execRebindTransferDone (j : Nat) (s : State) : Host.Outcome State Fault Refusal :=
  s.clocked <| match s.procReady j 4 with
  | none => s
  | some x =>
    if x.step ≠ 4 ∨ x.done ∨ x.units0.any (fun e => e.type == 0 && (s.inReset e.src || s.inReset e.dst)) then s
    else
      (foldState (x.units0.zipIdx.filter fun e => s.moves e.1) (fun a e => a.transferEntry j e.2 e.1) s).onProc j fun y =>
        { y.at 4 true s.tide.num with mark := y.boundaries }

/-- The stored records and the tags of a place go to another with its hold, with the launches stored there (R198, R347). -/
def State.copyHold (a b : Nat) (s : State) : State :=
  let x := s.place a
  let s1 := (s.onPlace b fun y => { y with heap := x.heap, tags := x.tags, planTags := x.planTags }).onPlace a fun y => { y with heap := [] }
  s1.onHm fun h => { h with launches := h.launches.map fun l => (l.1, { l.2 with
    parts := l.2.parts.map fun q => match q with
      | .heap p => if p = a then .heap b else .heap p
      | .pool p => if p = a then .pool b else .pool p
      | _ => q }) }

/-- What BUMP does to one entry (R347). -/
def State.bumpEntry (x : Proc) (e : UnitEntry) (s : State) : State :=
  let h := x.harbour
  let gen := x.newHgen.toNat
  if e.type = 2 then s.setMillSlots e.src h e.slots
  else
    let live := x.op == 3 && s.moves e
    let s1 := if live ∧ e.type = 0 then s.copyHold e.src e.dst
      else if live then (s.endTransfer e.src e.dst).onHb fun m => { m with forward := tabPut m.forward e.src e.dst }
      else s
    let s2 := if e.type = 1 ∧ x.op = 3 then
        let n := (s1.boundSlots e.src h).length
        let s3 := (s1.setMillSlots e.src h 0).setMillSlots e.dst h n
        s3.onMill e.src fun m => { m with
          slots := m.slots.map fun k => if k.2 = .scanning then (k.1, .saving) else k
          scans := m.scans.map fun z => if z.2.st = .scanning then (z.1, { z.2 with st := .saving }) else z }
      else if e.type = 1 ∧ x.op = 2 then s1.setMillSlots e.src h 0
      else s1
    let s4 := if takesUnit x.op e then s2.unbindUnit e.type e.src else s2
    if addsUnit x.op e then s4.bindUnit h gen e.type e.dst else s4

/-- Units that leave a harbour at BUMP. -/
def State.leavingUnits (s : State) (x : Proc) : List (Nat × Nat) :=
  if x.op = 4 then
    let y := (s.harbour x.harbour).getD {}
    y.tiles.map (fun t => (0, t)) ++ y.channels.map (fun c => (1, c)) ++ y.laneGroups.map fun g => (3, g)
  else (x.units0.filter (takesUnit x.op)).map fun e => (e.type, e.src)

/-- The ownership that a BUMP changes: HGEN is incremented, checker entries and credentials are rewritten, and the logical maps
switch; a harbour that ends has no reports (R340, R347, R434). -/
def State.bumpMap (x : Proc) (s : State) : State :=
  let h := x.harbour
  let before := (s.harbour h).getD {}
  let s1 := s.onHb fun m => { m with hgen := tabPut m.hgen h x.newHgen }
  if x.op = 4 then
    let a := foldState before.channels (fun a c => a.setMillSlots c h 0) s1
    ((foldState (s.leavingUnits x) (fun a u => a.unbindUnit u.1 u.2) a).onHb fun m => { m with harbours := tabDel m.harbours h }).onRg fun r =>
      { r with slowPrep := tabDel r.slowPrep h, slowPub := tabDel r.slowPub h }
  else
    let a := foldState x.units0 (fun a e => a.bumpEntry x e) s1
    let now : Harbour := if x.op = 0 then { born := some s.tide.num } else (a.harbour h).getD {}
    let y := afterRequest x.op (reqPool x.request) now x.units0
    a.onHb fun m => { m with harbours := tabPut m.harbours h y }

/-- BUMP; a scrub of a leaving channel ends; RESTORE and RELEASE begin at its boundary, and STEP names the lowest of them that has not
ended (R347, R354, R393). -/
def execRebindBump (j : Nat) (s : State) : Host.Outcome State Fault Refusal :=
  s.clocked <| match tabFind s.hb.journal j with
  | none => s
  | some x =>
    if !s.bumpDue x then s
    else
      let leave := s.leavingUnits x
      let next := if x.steps.contains 6 then 6 else 7
      let s1 := s.onProc j fun y => y.at 5 false s.tide.num
      let s0 := foldState (leave.filter fun u => u.1 == 1) (fun a u => a.endScrub u.2 2 0) s1
      let s2 := (s0.bumpMap x).onProc j fun y => { y.at 5 true s.tide.num with
        leaving := leave, mark := y.boundaries, restoreDone := !x.steps.contains 6, releaseDone := !x.steps.contains 7 }
      let s3 := if x.steps.contains 7 then s2.onProc j fun y => y.at next false s.tide.num else s2
      s3.sendAll.settle

/-- A scan's saved slots come back on the Mill that now serves their logical channel; a Mill that has failed, or a channel retired, ends
the scan (R241, R244). -/
def State.restoreScan (h : Nat) (z : MillScan) (s : State) : State :=
  let s0 := s.onHarbour h fun y => { y with poolScans := y.poolScans.filter (· != z) }
  match tabFind s.scans z.entry, s.harbour h with
  | some x, some y =>
    match y.channels[x.chFirst + z.idx - y.chanBase]? with
    | none => s0
    | some m =>
      if (s.mill m).failed ∨ (s.chan m).retired then s0.endScan z.entry .fault
      else
        let ks := ((s.boundSlots m h).filter fun k => tabGet .free (s.mill m).slots k == .free).take z.slots.length
        s0.onMill m fun q => { q with
          slots := ks.foldl (fun t k => tabPut t k .restoring) q.slots
          scans := tabPut q.scans z.entry { z with slots := ks, st := .restoring } }
  | _, _ => s0

/-- Every saved scan of a harbour comes back. -/
def State.restoreScans (h : Nat) (s : State) : State :=
  foldState ((s.harbour h).getD {}).poolScans (fun a z => a.restoreScan h z) s

/-- A scan of the harbour on a Mill whose channel has left has still to be saved (R241). -/
def State.savesLeft (s : State) (x : Proc) : Bool :=
  x.leaving.any fun u => u.1 == 1 && (s.mill u.2).scans.any fun z =>
    (match s.launch z.1 with | some e => e.harbour == x.harbour | none => false)
    && (z.2.st == .loading || z.2.st == .restoring || z.2.st == .scanning || z.2.st == .saving)

/-- STEP and DONE after RESTORE or RELEASE has ended. -/
def Proc.after (j : Proc) (tide : Word) : Proc :=
  let y := if !j.restoreDone then j.at 6 false tide else if !j.releaseDone then j.at 7 false tide
    else j.at (if j.steps.contains 7 then 7 else j.step) true tide
  { y with mark := j.boundaries }

/-- RESTORE: hold-bound launches resident at DRAIN and saved Mill slots come back on the destinations, once every scan that BUMP drained
is saved (R241, R347). -/
def execRebindRestore (j : Nat) (s : State) : Host.Outcome State Fault Refusal :=
  s.clocked <| match s.procBumped j with
  | none => s
  | some x =>
    if x.restoreDone ∨ s.savesLeft x then s
    else
      let s1 := foldState x.moved (fun a l => match a.launch l with
        | some e => if e.state = .saved ∧ !e.timeoutDue then a.placeKernel l else a
        | none => a) s
      ((s1.restoreScans x.harbour).onProc j fun y =>
        { y.earn (fun _ r => { r with restored := true }) with restoreDone := true }.after s.tide.num).settle

/-- RELEASE ends: each leaving unit is zeroed and free (R330, R347). A moved channel's Mill must have saved its scans, and a place in reset
has to be zeroed again (R356). -/
def execRebindReleaseDone (j : Nat) (s : State) : Host.Outcome State Fault Refusal :=
  s.clocked <| match s.procBumped j with
  | none => s
  | some x =>
    let busy := x.leaving.any fun u => (u.1 == 0 && s.inReset u.2) || u.1 == 1 && (s.mill u.2).scans.any fun z => match s.launch z.1 with
      | some e => e.harbour == x.harbour
      | none => false
    if x.releaseDone ∨ busy then s
    else
      let s1 := foldState x.leaving (fun a u => if a.unitCond u.1 u.2 = .retired then a else a.zeroUnit u.1 u.2) s
      (s1.onHb fun m => { m with forward := m.forward.filter fun f => !x.leaving.contains (1, f.1) }).onProc j fun y =>
        { y.earn (fun _ r => { r with srcReleased := true }) with releaseDone := true }.after s.tide.num

/-- The maps of a committed request: tile places, then channels, four 16-bit fields to a word (R344). -/
def State.mapWords (s : State) (h : Nat) : List Word :=
  let x := (s.harbour h).getD {}
  let tile (t : Nat) : Nat := match x.tiles[t]? with
    | some p => p + (if (s.place p).cond = .retired then 2 ^ 14 else 0) + 2 ^ 15
    | none => 0
  let chan (c : Nat) : Nat := match x.channels[c]? with | some p => p + 2 ^ 15 | none => 0
  let four (f : Nat → Nat) (i : Nat) : Word := w64 (f (4 * i) + f (4 * i + 1) * 2 ^ 16 + f (4 * i + 2) * 2 ^ 32 + f (4 * i + 3) * 2 ^ 48)
  (List.range 128).map (four tile) ++ (List.range 64).map (four chan)

/-- After a commit that changes its counts, the last member of a harbour that spans modules sends them to the others, in the message
class (R338): SPAN_ID and the counts of its tiles and channels (log entry 44). -/
def State.sendCounts (h : Nat) (s : State) : State :=
  match s.harbour h with
  | none => s
  | some x =>
    if !x.span ∨ x.member ≠ x.membersM1 then s
    else
      let n := (x.tiles.length, x.channels.length)
      let s1 := s.onHarbour h fun y => { y with peers := y.peers.modify y.member fun p => { p with tiles := n.1, channels := n.2 } }
      foldState (x.peers.take x.member) (fun a p => a.sendTxn h p.node 3
        (txnHeader 6 0 16 0 0 0 (Config.messageBox 0 % 65536) false ++ [w64 x.spanId, pair n.1 n.2]) []) s1

/-- A member receives the last member's counts; they apply at its next boundary (R338). -/
def State.takeCounts (node : Nat) (words : List Word) (s : State) : State :=
  foldState (s.hb.harbours.map (·.1)) (fun a h => a.onHarbour h fun x =>
    if x.span ∧ x.spanId = bits (wordAt words 0) 0 16 ∧ x.member < x.membersM1 ∧ (x.peers.getLast?.map (·.node)) = some node then
      { x with spanNext := some (bits (wordAt words 1) 0 32, bits (wordAt words 1) 32 32) }
    else x) s

/-- COMMIT (R347): the maps and the result are written, the event is raised, and the journal slot is cleared. A DESTROY
clears its harbour's REGRANT mark (R437). -/
def State.commitProc (j : Nat) (x : Proc) (s : State) : State :=
  let s0 := s.onProc j fun y => y.at 8 false s.tide.num
  let s1 := (s0.put0 (x.reqAddr + 0x840) (s0.mapWords x.harbour)).put0 (x.reqAddr + 0x28) [s.tide.num]
  let s2 := (s1.procResult x.reqAddr 0 0 x.newHgen).journalClear j
  let s3 := if x.op = 4 then s2.onRg fun r => { r with regrant := setDel r.regrant x.harbour } else s2
  let s4 := s3.procEvent 0x0500 x.harbour [w64 x.harbour, w64 x.op, wordAt x.request 1, w64 x.newHgen.toNat]
  if (x.op = 1 ∨ x.op = 2) ∧ x.units0.any (fun e => e.type ≤ 1) then s4.sendCounts x.harbour else s4

/-- HARBOUR_COMMIT at the first boundary after steps 6 and 7 (R347). -/
def execHarbourCommit (j : Nat) (s : State) : Host.Outcome State Fault Refusal :=
  s.clocked <| match s.procBumped j with
  | none => s
  | some x => if x.restoreDone ∧ x.releaseDone ∧ x.mark < x.boundaries then s.commitProc j x else s

/-- At the HOLD_WAIT-th boundary after boundary 1, hold-bound launches and scans still on leaving units complete with
ABORTED (R349). -/
def execHoldWaitExpire (j : Nat) (s : State) : Host.Outcome State Fault Refusal :=
  s.clocked <| match s.procReady j 1 with
  | none => s
  | some x =>
    if !x.drainOn ∨ x.drainDone ∨ x.op = 3 ∨ x.boundaries < 1 + reqHoldWait x.request then s
    else
      let kernels := s.hm.launches.filter fun l => x.op == 2 && l.2.holdBound && x.sources.any l.2.partOn
      let scans := s.hm.launches.filter fun l => x.units0.any fun e => (e.type == 2 || (e.type == 1 && x.op == 2))
        && (match tabFind (s.mill e.src).scans l.1 with
          | some z => z.slots.any (s.leavingSlots e.src x.harbour).contains
          | none => false)
      (foldState (kernels ++ scans) (fun a l => a.abortLaunch l.1 .aborted none) s).settle.advanceProc j

/-- What a boundary does to the procedures: a drain that has ended is noted, their boundaries are counted, and they go on (R347, R349,
R350). -/
def State.procsAtBoundary (s : State) : State :=
  let s1 := foldState (s.hb.journal.map (·.1)) (fun a j => a.endDrain j) s
  (s1.onHb fun m => { m with journal := m.journal.map fun j => (j.1, { j.2 with boundaries := j.2.boundaries + 1 }) }).advanceProcs

/-! Failures of units that a procedure names (R356) -/

/-- A destination unit of a procedure before BUMP has failed or been retired, or a source channel has failed in TRANSFER:
the procedure rolls back with FAULT, REASON UNIT_FAILED (R356). -/
def State.procUnitFailed (type n : Nat) (s : State) : State :=
  foldState (s.hb.journal.filter fun j => decide (j.2.step < 5) && j.2.units0.any fun e => e.type == type
      && ((addsUnit j.2.op e && e.dst == n) || (type == 1 && j.2.step == 4 && j.2.op == 3 && e.src == n)))
    (fun a j => a.rollback j.1 4 10) s

end Sys2Proof.Machine
end

