-- ==== Sys2Proof/Machine/RegulOps.lean ====
section
/-! DEFINITION. Regulation fields, urgency, slow-down reports and slices (13_regulation_and_isolation). -/
namespace Sys2Proof.Machine
open Sys2Proof

/-- A write refused under R426, R429, R435 or R436 (R441). -/
def State.regRefused (s : State) : State := s.onRg fun r => { r with cCfgRefused := r.cCfgRefused + 1 }

/-- The regulation fields of a harbour number as written. -/
def State.regFields (s : State) (h : Nat) : RegFields := tabGet {} s.rg.fields h

/-- Sum of a reserve over the other harbour numbers that count; harbour 0 holds no partition (R333, R426). -/
def State.reserveSum (s : State) (h : Nat) (f : RegFields → Nat) : Nat :=
  ((s.rg.fields.filter fun x => x.1 != h && x.1 != 0).map fun x => f x.2).sum

/-- A write of HB_REGA_h or HB_REGB_h (R426, R429, R441): the fields take effect at the next boundary. -/
def State.writeReg (regB : Bool) (h : Nat) (v : Word) (s : State) : State :=
  let x := s.regFields h
  let fits (mine lim : Nat) (f : RegFields → Nat) : Bool := h == 0 || decide (mine + s.reserveSum h f ≤ lim)
  if 64 ≤ h then s
  else if regB then
    let y := { x with xlatRes := bits v 0 9, xlatLend := bit v 9, cq0Res := bits v 16 7, cq0Lend := bit v 23 }
    if 256 < y.xlatRes ∨ 112 < y.cq0Res ∨ !fits y.xlatRes 256 (·.xlatRes) ∨ !fits y.cq0Res 112 (·.cq0Res) then s.regRefused
    else s.onRg fun r => { r with fields := tabPut r.fields h y }
  else
    let y := { x with cmax := (List.range 8).map fun c => bits v (4 * c) 4
                      meshW := bits v 32 7, meshLend := bit v 39, brqRes := bits v 40 8, brqLend := bit v 48 }
    if y.cmax.any (fun c => c == 0 || decide (8 < c)) ∨ 64 < y.meshW ∨ 128 < y.brqRes
        ∨ !fits y.meshW 64 (·.meshW) ∨ !fits y.brqRes 128 (·.brqRes) then s.regRefused
    else s.onRg fun r => { r with fields := tabPut r.fields h y }

/-- A regulation field is written (R426). -/
def execRegReserveWrite (m : Master) (regB : Bool) (h : Nat) (v : Word) (s : State) : Host.Outcome State Fault Refusal :=
  s.clocked <| s.privWrite m (0x80400 + 16 * h + if regB then 8 else 0) fun s => s.writeReg regB h v

/-! Urgency (R431) -/

/-- Urgency of a fill, in percent (R431). -/
def urgencyOf (fill : Nat) : Nat := if fill < 50 then 0 else if fill < 75 then 1 else if fill < 90 then 2 else 3

/-- Urgency after a sample (R431): it rises at once, and falls after two samples in succession below its lower bound. -/
def Urg.sample (x : Urg) (fill : Nat) : Urg :=
  let u := urgencyOf fill
  if x.urg ≤ u then { urg := u, below := 0 }
  else if 1 ≤ x.below then { urg := u, below := 0 }
  else { x with below := x.below + 1 }

/-- A buffer's fill is sampled: lane groups 0–63 and PCIe links 64–67 (R431); a lane group's fill also chooses routes
(R457). -/
def execUrgencySample (unit fill : Nat) (s : State) : Host.Outcome State Fault Refusal :=
  s.clocked <|
    let s1 := s.onRg fun r => { r with urgency := tabMod {} r.urgency unit fun x => x.sample fill }
    if unit < 64 then s1.onLg unit fun g => { g with fill := fill } else s1

/-! Slow-down reports (R433, R434) -/

/-- A percentage of held time over masters and the tide's length; 0 when no master issued (R433). -/
def heldPercent (held masters len : Nat) : Nat := if masters * len = 0 then 0 else min 100 (100 * held / (masters * len))

/-- The report of what was measured in a tide of `len` (R433). -/
def slowOf (len : Nat) (x : SlowMeas) : Slow :=
  { cq := heldPercent x.cqHeld x.cqMasters len, xlat := heldPercent x.xlatHeld x.xlatMasters len
    bridge := heldPercent x.bridgeHeld x.bridgeMasters len, mesh := heldPercent x.meshHeld x.meshMasters len
    link := heldPercent x.linkHeld x.linkMasters len, host := heldPercent x.hostHeld x.hostMasters len
    freq := if x.cyclesMax ≤ x.cyclesRun then 0 else (100 * (x.cyclesMax - x.cyclesRun)) / x.cyclesMax }

/-- Step 5 of a boundary (R83, R434): the report of the tide before last is published, that of the last one waits; a harbour created in
the last tide has none yet. -/
def State.publishSlow (ended : Word) (len : Nat) (meas : List (Nat × SlowMeas)) (s : State) : State :=
  s.onRg fun r => { r with
    slowPub := r.slowPrep.foldl (fun t x => tabPut t x.1 x.2) r.slowPub
    slowPrep := ((s.hb.harbours.filter fun h => h.2.born != some ended).map fun h =>
      (h.1, (ended, slowOf len (((meas.find? fun x => x.1 == h.1).map (·.2)).getD {})))) }

/-! Slices (R435–R437) -/

/-- Slices `a` and `b` of one function overlap in PASIDs. -/
def sliceOverlap (a b : Slice) : Bool :=
  a.func == b.func && decide (a.pasidBase < b.pasidBase + 2 ^ b.pasidLog2 ∧ b.pasidBase < a.pasidBase + 2 ^ a.pasidLog2)

/-- An entry may become valid (R435). -/
def State.sliceOk (s : State) (i : Nat) (x : Slice) : Bool :=
  let others := s.rg.slices.filter fun y => y.1 != i && y.2.valid
  !bit x.harbours 0 && !others.any (fun y => (x.harbours &&& y.2.harbours) != 0) && !others.any (fun y => sliceOverlap x y.2)
  && x.pasidBase % 2 ^ x.pasidLog2 == 0 && !(List.range 64).any fun h => bit x.harbours h && s.rg.regrant.contains h

/-- QUIESCED of a slice (R436). -/
def State.quiesced (s : State) (x : Slice) : Bool :=
  !s.berths.any (fun b => b.2.enable && bit x.harbours b.2.harbour)
  && !s.hm.launches.any (fun l => bit x.harbours l.2.harbour)
  && !s.xl.fq.any (fun q => bit x.harbours q.1 && q.2.entries.any fun e => e.2.state == 0)
  && !s.hif.reqs.any fun r => match s.ctx r.2.context with
    | some c => c.func == x.func && c.pasidEn && decide (x.pasidBase ≤ c.pasid ∧ c.pasid < x.pasidBase + 2 ^ x.pasidLog2)
    | none => false

/-- A write of a word of HB_SLICE_s (R435, R436, R441): clearing VALID marks the harbours REGRANT (R437); a change
of another field that comes with it is ignored and counted. -/
def State.writeSlice (i word : Nat) (v : Word) (s : State) : State :=
  let x := tabGet {} s.rg.slices i
  if 64 ≤ i then s
  else if word = 1 then
    if x.valid ∨ bit v 0 then s.regRefused else s.onRg fun r => { r with slices := tabPut r.slices i { x with harbours := v } }
  else
    let y : Slice := { x with valid := bit v 0, func := bits v 1 7, pasidLog2 := bits v 8 5, pasidBase := bits v 16 20 }
    if x.valid then
      if y.valid then (if y = x then s else s.regRefused)
      else if !s.quiesced x then s.regRefused
      else
        let s1 := s.onRg fun r => { r with
          slices := tabPut r.slices i { x with valid := false }
          regrant := ((List.range 64).filter fun h => bit x.harbours h).foldl setIns r.regrant }
        if { y with valid := true } = x then s1 else s1.regRefused
    else if 20 < y.pasidLog2 ∨ (y.valid ∧ !s.sliceOk i y) then s.regRefused
    else s.onRg fun r => { r with slices := tabPut r.slices i y }

/-- A slice entry is made valid or cleared (R435). -/
def execHbSliceWrite (m : Master) (slice word : Nat) (v : Word) (s : State) : Host.Outcome State Fault Refusal :=
  s.clocked <| s.privWrite m (0x80800 + 16 * slice + 8 * word) fun s => s.writeSlice slice word v

end Sys2Proof.Machine
end

