-- ==== Sys2Proof/Machine/LinkOps.lean ====
section
/-! DEFINITION. Ports and their states, flits received, key phases, stream acknowledgements and resends (14_shomea_links_and_pools,
R445–R459; 16_reliability_and_recovery, R529). -/
namespace Sys2Proof.Machine
open Sys2Proof

/-- Lane groups of a port (R12). -/
def portLgs (p : Nat) : List Nat := [p * 4, p * 4 + 1, p * 4 + 2, p * 4 + 3]

/-- A port enters UP: its lane groups start their sequence numbers, LINK_UP is raised, and waiting flits go out (R445,
R475). -/
def State.portUp (p us : Nat) (f : LaneGroup → LaneGroup) (s : State) : State :=
  ((foldState (portLgs p) (fun a g => a.onLg g fun x =>
      { f x with txSeq := 0, rxNext := 0, retry := [], ackOwed := 0, nakRun := 0, owed := [] })
    (s.onPort p fun x => { x with st := .up })).event 0x0701 5 p [w64 p, w64 us]).sendAll

/-- A port enters TRAINING (R445); its key-phase count starts at 0 (R546). -/
def State.toTraining (p : Nat) (s : State) : State :=
  foldState (portLgs p) (fun a g => a.onLg g fun x => { x with
      keyN := 0, keyPhase := false, keyCount := 0, keyStall := false, nextKey := false })
    (s.onPort p fun x => { x with st := .training })

/-- Training completes with the partner identifier and the credits the far end presents, or fails for want of a key (R445,
R451, R546). -/
def execLinkUp (port partner us : Nat) (credits : List Nat) (s : State) : Host.Outcome State Fault Refusal :=
  s.clocked <|
    if (s.port port).st ≠ .training then s
    else
      let s1 := s.checkPortSlot port
      match (if s1.sec.partnerId = 0 then none else s1.portKey port) with
      | some k =>
        if k.partner ≠ partner then s1.portDown port
        else
          let keys := foldState (portLgs port) (fun a g => a.onLg g fun x =>
            { x with ownId := s1.sec.partnerId, farId := partner }.keyed (g % 4) k) s1
          keys.portUp port us fun x => { x with credits := credits.zipIdx.map fun c => (c.2, c.1) }
      | none => s1.portDown port

/-- Training has not completed within 10 ms (R445). -/
def execTrainingTimeout (port : Nat) (s : State) : Host.Outcome State Fault Refusal :=
  s.clocked <| if (s.port port).st = .training then s.portDown port else s

/-- A key phase changes: the next key is derived and in use, or the lane group stalls for want of it (R452, R546, R547). -/
def State.nextPhase (g : Nat) (s : State) : State :=
  let s1 := s.checkPortSlot (g / 4)
  match s1.nextSlot g with
  | some k => s1.onLg g fun x =>
    { x with keyN := x.keyN + 1, keyPhase := !x.keyPhase, keyCount := 0, keyStall := false, nextKey := false }.keyed (g % 4) k
  | none => (s1.onLg g fun x => { x with keyStall := true }).event 0x0703 6 g [w64 (g / 4), w64 g, w64 (if (s.lg g).keyPhase then 1 else 0)]

/-- Retraining ends (R445); a key-phase change that fell due in RETRAIN is applied (R474). -/
def execRetrainComplete (port us : Nat) (ok : Bool) (s : State) : Host.Outcome State Fault Refusal :=
  s.clocked <|
    if (s.port port).st ≠ .retrain then s
    else if ok then
      foldState (portLgs port) (fun a g => if (a.lg g).nextKey then a.nextPhase g else a) (s.portUp port us id)
    else s.portDown port

/-- Light is lost on a wavelength (R446). -/
def execLossOfLight (port : Nat) (s : State) : Host.Outcome State Fault Refusal :=
  s.clocked <| match (s.port port).st with
  | .up | .retrain | .training => s.portDown port
  | _ => s

/-- A port in DOWN finds light on all its wavelengths (R445). -/
def execDownRetry (port : Nat) (s : State) : Host.Outcome State Fault Refusal :=
  s.clocked <| if (s.port port).st = .down then s.toTraining port else s

/-- A port whose partner does not answer sends the wake pattern (R447). -/
def execWakePatternSend (port : Nat) (s : State) : Host.Outcome State Fault Refusal :=
  s.clocked <| if (s.port port).st = .training then s.emit (.wake port) else s

/-- 2³⁶ flits have been sent under a key (R452). -/
def execKeyPhaseChange (lg : Nat) (s : State) : Host.Outcome State Fault Refusal :=
  s.clocked <| match (s.port (lg / 4)).st with
  | .up => if 64 ≤ lg then s else s.nextPhase lg
  | .retrain => if 64 ≤ lg then s else s.onLg lg fun x => { x with nextKey := true }
  | _ => s

/-- A stalled lane group takes its key once its port's slot holds one (R452, R547). -/
def State.unstall (s : State) : State :=
  (foldState ((s.lk.lgs.filter fun g => g.2.keyStall).map (·.1)) (fun a g => if (a.nextSlot g).isSome then a.nextPhase g else a)
    s).sendAll

/-! Flits (R449, R450, R453, R529) -/

/-- A flit that cannot be accepted is discarded and NAKed (R450). -/
def State.nak (g : Nat) (s : State) : State := s.onLg g fun x => { x with ackOwed := 2 }

/-- The node check of a flit that has passed its link checks (R529): whether it goes on to its stream. -/
def State.nodeCheck (f : Flit) (s : State) : Bool × State :=
  let n := s.node f.src
  if n.epoch = 0 then (false, s.onLk fun x => { x with cUnadmitted := x.cUnadmitted + 1 })
  else if n.epoch = f.srcEpoch then (true, s)
  else if n.fenced then (false, s.onLk fun x => { x with cFencedDrop := x.cFencedDrop + 1 })
  else (false, (s.onLk fun x => { x with
    cStaleNode := x.cStaleNode + 1, nodes := tabPut x.nodes f.src { n with fenced := true } }).event 0x0002 9 f.src
      [w64 f.src, w64 f.srcEpoch, w64 n.epoch])

/-- A tag failure: counted, and more than 64 of them in a tide with a clean FEC fail the port (R453). -/
def State.tagFailed (g : Nat) (s : State) : State :=
  let s1 := ((s.onLg g fun x => { x with tagFails := x.tagFails + 1 }).onPort (g / 4) fun p =>
    { p with cTagFail := p.cTagFail + 1 }).nak g
  let x := s1.lg g
  if 64 < x.tagFails ∧ !x.fecBad then
    (((s1.portLeaves (g / 4) .failed).event 0x0702 5 (g / 4) [w64 (g / 4), w64 g, w64 x.tagFails])).linkDown (g / 4)
  else s1

/-- A lane group receives a flit, whose codewords had `corr` symbols corrected (R448–R450, R453, R529). -/
def execFlitReceive (lg : Nat) (f : Flit) (fec : FecIn) (tagOk : Bool) (s0 : State) : Host.Outcome State Fault Refusal :=
  s0.clocked <|
    let s := s0.onPort (lg / 4) fun p => { p with corrSym := p.corrSym + BitVec.ofNat 32 fec.corr }
    if (s0.port (lg / 4)).st ≠ .up ∨ 64 ≤ lg then s0
    else if !fec.ok then
      ((s.onLg lg fun x => { x with fecBad := true }).onPort (lg / 4) fun p => { p with cUncorr := p.cUncorr + 1 }).nak lg
    else if !tagOk then s.tagFailed lg
    else
      let s1 := (s.takeAck lg f).onLg lg fun x => { x with
        credits := if f.credits = 0 then x.credits else tabPut x.credits f.creditVc (tabGet 0 x.credits f.creditVc + f.credits) }
      if f.type = 0 then s1.sendAll
      else if f.seq ≠ (s1.lg lg).rxNext then s1.nak lg
      else
        let s2 := s1.onLg lg fun x => { x with
          rxNext := x.rxNext + 1, ackOwed := 1
          owed := if f.type = 1 then tabPut x.owed f.vc (tabGet 0 x.owed f.vc + 1) else x.owed }
        if f.type ≠ 1 then s2.sendAll
        else
          let (ok, s3) := s2.nodeCheck f
          (if ok then s3.receiveStream f else s3).sendAll

/-- A control flit carries the acknowledgements owed (R450). -/
def execAckControlFlit (lg : Nat) (s : State) : Host.Outcome State Fault Refusal :=
  s.clocked <|
    let x := s.lg lg
    if (s.port (lg / 4)).st ≠ .up ∨ 64 ≤ lg ∨ (x.ackOwed = 0 ∧ x.owed.all fun c => c.2 == 0) ∨ 1024 ≤ x.retry.length then s
    else s.launchFlit lg { type := 2, src := s.lk.nodeId, srcEpoch := s.ownEpoch }

/-! Streams (R459) -/

/-- An end-to-end acknowledgement frees the flits up to its sequence number. -/
def execStreamAck (node vc : Nat) (seq : Half) (s : State) : Host.Outcome State Fault Refusal :=
  s.clocked <|
    let key := node * 4 + vc
    let t := tabGet {} s.lk.tx key
    s.onLk fun x => { x with tx := tabPut x.tx key { t with
      unacked := t.unacked.filter fun u => decide (32768 ≤ (seq - u.flit.streamSeq).toNat) } }

/-- A receiver that has not acknowledged a stream for 1 µs does so. -/
def execStreamAckSend (node vc : Nat) (s : State) : Host.Outcome State Fault Refusal :=
  s.clocked <| if 0 < (tabGet {} s.lk.rx (node * 4 + vc)).sinceAck then s.ackStream node vc else s

/-- Scans that wait for lists of a node that cannot be reached end with FAULT; the context is kept (R244, R461). -/
def State.scansWithout (node : Nat) (s : State) : State :=
  foldState s.scans (fun a x =>
    match a.launch x.1 with
    | some e =>
      if (a.scanRoot e.harbour x.2).isNone ∧ (a.scanOthers e.harbour x.2).any (fun y => y.1 == node
          && !x.2.lists.any fun z => decide (y.2.1 ≤ z.1 ∧ z.1 < y.2.1 + y.2.2)) then a.endScan x.1 .fault else a
    | none => a) s

/-- Every request outstanding to a node completes as unreachable, and its flits leave the resend area (R459, R461). -/
def State.dropNode (node : Nat) (s : State) : State :=
  let rs := s.lk.reqs.filter fun r => r.2.node == node
  foldState rs (fun a r => a.reqFails r.2) ((s.scansWithout node).settle.onLk fun x => { x with
    reqs := x.reqs.filter fun r => r.2.node != node
    tx := x.tx.map fun t => if t.1 / 4 = node then (t.1, { t.2 with unacked := [] }) else t
    droppedMsgs := x.droppedMsgs + (match tabFind x.tx (node * 4 + 3) with | some t => t.unacked.length | none => 0) })

/-- A flit is sent again on another route, if there is one (R459). -/
def State.resend (key : Nat) (u : Unacked) (rest : List Unacked) (s : State) : State :=
  let gs := s.lgChoices u.harbour (key / 4) (key % 4)
  let pick := match s.pickLg (gs.filter (· != u.lg)) with
    | some g => some g
    | none => s.pickLg gs
  let put (lg : Nat) (s : State) : State := s.onLk fun x => { x with
    cResends := x.cResends + 1
    tx := tabMod {} x.tx key fun t => { t with unacked := { u with lg := lg, resends := u.resends + 1 } :: rest } }
  match pick with
  | none => put 64 s
  | some g => put g (s.sendOn g u.flit)

/-- The oldest flit of a stream is unacknowledged after REMOTE_TIMEOUT: it is sent again, and after three resends the
destination is unreachable (R459, R461). -/
def execRemoteResendTimeout (node vc : Nat) (s : State) : Host.Outcome State Fault Refusal :=
  s.clocked <|
    let key := node * 4 + vc
    match (tabGet {} s.lk.tx key).unacked with
    | [] => s
    | u :: rest =>
      if u.resends < 3 then s.resend key u rest
      else if s.lk.unreachable.contains node then s.dropNode node
      else ((s.onLk fun x => { x with unreachable := setIns x.unreachable node, cUnreachable := x.cUnreachable + 1 }).event
        0x0704 9 node [w64 node, w64 vc]).dropNode node

/-! Port registers (R446, R477) -/

/-- LKP_CTL.RETRAIN (R446, R477). -/
def State.portRetrain (p : Nat) (s : State) : State :=
  if (s.port p).st = .failed then s.toTraining p else s.retrain p

/-- LKP_CTL.DISABLE (R445, R446). -/
def State.portDisable (p : Nat) (d : Bool) (s : State) : State :=
  let s1 := s.onPort p fun x => { x with disable := d }
  if d then s1.portLeaves p .off else if (s.port p).st = .off then s1.toTraining p else s1

/-- A write of RETRAIN (R446). -/
def execLkpRetrain (m : Master) (port : Nat) (s : State) : Host.Outcome State Fault Refusal :=
  s.clocked <| s.privWrite m (0x190008 + port * 0x1000) fun s => if s.portPresent port then s.portRetrain port else s

/-- A write of DISABLE, bit 1 of LKP_CTL (R446, R477). -/
def execLkpDisable (m : Master) (port : Nat) (v : Word) (s : State) : Host.Outcome State Fault Refusal :=
  s.clocked <| s.privWrite m (0x190008 + port * 0x1000) fun s => if s.portPresent port then s.portDisable port (bit v 1) else s

end Sys2Proof.Machine
end

