-- ==== Sys2Proof/Machine/PoolOps.lean ====
section
/-! DEFINITION. Remote requests as this module serves them, messages and signals, the pool role, the ownership protocol and
node epochs (14_shomea_links_and_pools R455, R460–R473; 16_reliability_and_recovery R528–R530), and the answer of a command
page (18_host_interface R575, R576). -/
namespace Sys2Proof.Machine
open Sys2Proof

/-! The answer of a command page (R575, R576) -/

/-- The pilot writes a command's result, its STATUS, REASON and DONE_TAG, clears BUSY, and sends its interrupt (R576). -/
def State.pageDone (f status reason : Nat) (res : List Word) (s : State) : State :=
  let p := s.page f
  let s1 := s.onPage f fun p => { p with
    busy := false, wait := none, status := status, reason := reason, doneTag := p.tag
    res := if res.isEmpty then p.res else res ++ List.replicate (4 - res.length) 0 }
  if p.irqEnable then s1.msix f p.irqVector else s1

/-- Answer the page of a function that waits. -/
def State.pageDoneOpt (f : Option Nat) (status reason : Nat) (s : State) : State :=
  match f with
  | none => s
  | some f => s.pageDone f status reason []

/-! Remote requests (R460, R461, R471) -/

/-- Local harbour of a span identifier: its entry in the span table, if valid (R460). -/
def State.spanHarbour (s : State) (span : Nat) : Option Nat :=
  if span = 0 then none
  else match s.readH 0 (s.lk.spanBase + span % 65536) 1 with
  | some ([b], false) => if b.toNat / 128 = 1 then some (b.toNat % 64) else none
  | _ => none

/-- Where a remote request is served (R360–R364, R460). -/
def State.remoteTarget (s : State) (t : TxnIn) (n : Nat) (write : Bool) : Target :=
  match s.spanHarbour t.spanId with
  | none => .bad
  | some h =>
    if bitsN t.addr 48 4 = 4 then
      (match s.launch t.launch with
      | some e => if e.harbour = h then s.targetPart t.launch (bitsN t.addr 0 48) n else .bad
      | none => .bad)
    else if [2, 5, 6, 7].contains (bitsN t.addr 48 4) then .bad
    else s.targetHere h (bitsN t.addr 0 52) n write

/-- The module holds a token on a live state region that the request touches. -/
def Own.live (o : Own) (nodeId addr n : Nat) : Bool :=
  (o.token == .held || o.token == .giving) &&
    decide (nodeId * 2 ^ 52 + addr < o.stateAddr.toNat + o.len ∧ o.stateAddr.toNat < nodeId * 2 ^ 52 + addr + n)

/-- The holder serves the request (R471). -/
def Own.serves (o : Own) (nodeId addr n : Nat) (epoch : Word) (read : Bool) : Bool :=
  decide (o.stateAddr.toNat ≤ nodeId * 2 ^ 52 + addr ∧ nodeId * 2 ^ 52 + addr + n ≤ o.stateAddr.toNat + o.len) &&
    ((o.token == .held && epoch == o.heldEpoch) || (read && o.token == .giving && epoch == o.epoch))

/-- The ownership check of a request: what carries no extension must touch no live state region (R471). -/
def State.ownerOk (s : State) (t : TxnIn) (n : Nat) (read : Bool) : Bool :=
  match t.ext with
  | some (e, id) => (match s.own id with | some o => o.serves s.lk.nodeId (bitsN t.addr 0 52) n e read | none => false)
  | none => !(s.lk.own.any fun o => o.2.live s.lk.nodeId (bitsN t.addr 0 52) n)

/-- STATUS that refuses a request: 1 ACCESS, 2 STALE_OWNER, or 0 (R455, R460, R471). -/
def State.remoteStatus (s : State) (t : TxnIn) (n : Nat) (write read : Bool) : Nat :=
  if s.remoteTarget t n write = .bad then 1 else if s.ownerOk t n read then 0 else 2

/-- Answer a remote request on VC 2 (R454, R455). -/
def State.respond (node op : Nat) (t : TxnIn) (status : Nat) (data : Beats) (s : State) : State :=
  s.sendData ((s.spanHarbour t.spanId).getD 0) node 2 (txnHeader op 0 (beatBytes data).length (t.tag % 65536) status 0 0 false) data

/-- The span table's entry is read as reads are (R374, R460). -/
def State.spanRead (span : Nat) (s : State) : State := if span = 0 then s else s.readEffectH 0 (s.lk.spanBase + span % 65536) 1

/-- A remote read (R460). -/
def execRead (node : Nat) (t : TxnIn) (s0 : State) : Host.Outcome State Fault Refusal :=
  s0.clocked <|
    let s := s0.spanRead t.spanId
    let st := s.remoteStatus t t.len false true
    if st ≠ 0 then s.respond node 3 t st []
    else match s.remoteTarget t t.len false with
    | .hbm ps => let x := s.readThrough ps
        x.2.respond node 3 t 0 x.1
    | y => match s.nearRead y t.len with
      | some x => s.respond node 3 t 0 x
      | none => s.respond node 3 t 1 []

/-- A remote write, with the granules that arrive poisoned (R378, R460). -/
def execWrite (node : Nat) (t : TxnIn) (data : List Byte) (poison : List Nat) (s0 : State) : Host.Outcome State Fault Refusal :=
  s0.clocked <|
    let s := s0.spanRead t.spanId
    let data := beatsOf ((data ++ List.replicate t.len 0).take t.len) poison
    let st := s.remoteStatus t t.len true false
    if st ≠ 0 then s.respond node 4 t st []
    else match s.remoteTarget t t.len true with
    | .hbm ps => (s.writeThrough ps data).respond node 4 t 0 []
    | y => match s.nearWrite y data with
      | some s1 => s1.respond node 4 t 0 []
      | none => s.respond node 4 t 1 []

/-- A remote atomic (R460). -/
def execAtomic (node : Nat) (t : TxnIn) (a : AtomicOp) (s0 : State) : Host.Outcome State Fault Refusal :=
  s0.clocked <|
    let s := s0.spanRead t.spanId
    let n := atomicWidth a
    let st := s.remoteStatus t n true false
    if st ≠ 0 then s.respond node 5 t st []
    else match s.remoteTarget t n true with
    | .hbm (p :: _) => let x := s.serveAtomic p.ch p.byte a
        x.2.respond node 5 t 0 [x.1]
    | y => match s.nearAtomic y n a with
      | some x => x.2.respond node 5 t 0 x.1
      | none => s.respond node 5 t 1 []

/-! Ownership (R465–R473) -/

/-- The words of an ownership message (R467). -/
def ownWords (m : OwnMsg) : List Word :=
  [w64 (m.msg % 16 + m.token % 8 * 16 + m.peer % 4096 * 256 + m.phase % 2 ^ 24 * 2 ^ 20), m.stateId, m.epoch, m.acked, m.addr,
   w64 (m.len % 2 ^ 40)]

/-- The message six words spell (R467). -/
def ownOfWords (ws : List Word) : OwnMsg :=
  let w := wordAt ws 0
  { msg := bits w 0 4, token := bits w 4 3, peer := bits w 8 12, phase := bits w 20 24, stateId := wordAt ws 1
    epoch := wordAt ws 2, acked := wordAt ws 3, addr := wordAt ws 4, len := bits (wordAt ws 5) 0 40 }

/-- The pilot sends an ownership message: a MESSAGE to mailbox 0xFF00 on VC 3 (R454, R467). -/
def State.sendOwn (node : Nat) (m : OwnMsg) (s : State) : State :=
  (s.emit (.own node m)).sendTxn 0 node 3 (txnHeader 6 0 48 0 0 0 0xFF00 false ++ ownWords m) []

/-- A map entry as memory holds it (R466). -/
def Own.image (o : Own) (id : Nat) : List Word :=
  [w64 id, o.epoch, o.acked,
   packFields [(0, o.token.code), (3, o.holder % 4096), (15, o.peer % 4096), (27, o.ckptNode % 4096), (39, o.leaseLeft % 256),
     (47, o.wait % 256)],
   w64 (o.phase % 2 ^ 24), o.stateAddr, o.ckptAddr, w64 (o.len % 2 ^ 40)]

/-- Write a state record, in State and in its map entry at MAP_BASE; a new record takes the lowest free entry (R466, log entry 139). -/
def State.putOwn (id : Nat) (o : Own) (s : State) : State :=
  let slot := match s.own id with
    | some y => y.slot
    | none => ((List.range (s.lk.own.length + 1)).find? fun i => !s.lk.own.any fun y => y.2.slot == i).getD 0
  (s.onLk fun x => { x with own := tabPut x.own id { o with slot := slot } }).put0 (s.lk.mapBase + 64 * slot) (o.image id)

/-- A state record ends, and its map entry is cleared (R466). -/
def State.dropOwn (id : Nat) (s : State) : State :=
  match s.own id with
  | none => s
  | some o => (s.onLk fun x => { x with own := tabDel x.own id }).put0 (s.lk.mapBase + 64 * o.slot) (List.replicate 8 0)

/-- Change a state record. -/
def State.onOwn (id : Nat) (f : Own → Own) (s : State) : State :=
  match s.own id with
  | none => s
  | some o => s.putOwn id (f o)

/-- The message of a record: its epoch, ACKED, address, length and phase as they stand. -/
def Own.msg (o : Own) (id kind : Nat) : OwnMsg :=
  { msg := kind, peer := o.peer, phase := o.phase, stateId := w64 id, epoch := o.epoch, acked := o.acked, addr := o.stateAddr
    len := o.len }

/-- Originator of a state record (R466). -/
def originatorOf (id : Nat) : Nat := id / 2 ^ 52 % 4096

/-- The holder renews at the epoch it holds (R469). -/
def State.renew (id : Nat) (s : State) : State :=
  match s.own id with
  | none => s
  | some o => s.sendOwn (originatorOf id) { o.msg id 4 with epoch := o.heldEpoch }

/-- Zero the live state: its bytes in harbour 0's view (R468, log entry 43). -/
def State.zeroState (o : Own) (s : State) : State :=
  match s.resolve 0 (o.stateAddr.toNat % 2 ^ 52) o.len with
  | none => s
  | some ps => foldState ps (fun a p => a.hbmWipe p.ch p.byte p.len) s

/-- Some entry holds a token (R465, R476). -/
def Own.holding (o : Own) : Bool := o.token == .held || o.token == .giving || o.token == .taking

/-- A record leaves this node's hands: a copy that it still holds is zeroed (R469, R470, R473). -/
def State.ownNone (id : Nat) (f : Own → Own) (s : State) : State :=
  match s.own id with
  | none => s
  | some o => (if o.holding then s.zeroState o else s).putOwn id { f o with token := .none, peer := 0xFFF, wait := 0, copied := false, restoring := false }

/-- A node becomes the holder at its record's epoch, and renews (R468, R469, R473). -/
def State.ownHeld (id : Nat) (f : Own → Own) (s : State) : State :=
  (s.onOwn id fun o => { f o with
    token := .held, heldEpoch := o.epoch, holder := s.lk.nodeId, peer := 0xFFF, wait := 0, unackedBoundaries := 0
    copied := false, restoring := false }).renew id

/-- A message with an epoch below the record's is dropped (R467). -/
def State.staleOwn (node : Nat) (m : OwnMsg) (o : Own) (s : State) : State :=
  (s.onLk fun x => { x with cStaleEpoch := x.cStaleEpoch + 1 }).event 0x0002 9 node [m.stateId, m.epoch, o.epoch, w64 node]

/-- A RENEW at the old epoch that R467 excepts: from HOLDER, while PEER is set (R467, R469). -/
def Own.oldRenew (o : Own) (node : Nat) (m : OwnMsg) : Bool :=
  o.token == .origin && m.msg == 4 && decide (m.epoch.toNat + 1 = o.epoch.toNat) && node == o.holder && o.peer != 0xFFF

/-- Handle a message of a known record, unless it is stale (R467). -/
def State.ownMsg (node : Nat) (m : OwnMsg) (f : Own → State → State) (s : State) : State :=
  match s.own m.stateId.toNat with
  | none => s
  | some o => if m.epoch < o.epoch ∧ !o.oldRenew node m then s.staleOwn node m o else f o s

/-- The map has room for one more entry (R466). -/
def State.ownRoom (s : State) : Bool := decide (s.lk.own.length < 2 ^ s.lk.mapLog2)

/-- MOVE: a holder goes to GIVING and sends GIVE (R468 steps 1, 2). -/
def State.rxMove (node : Nat) (m : OwnMsg) (s : State) : State :=
  s.ownMsg node m (fun o s =>
    let id := m.stateId.toNat
    if o.token = .held ∧ o.epoch < m.epoch then
      let o1 := { o with token := .giving, epoch := m.epoch, peer := m.peer, wait := 0 }
      (s.putOwn id o1).sendOwn m.peer (o1.msg id 1)
    else s)

/-- GIVE: a pool enters TAKING and copies the state; a repeated GIVE is answered again once the copy is complete (R464, R468
step 3). -/
def State.rxGive (node : Nat) (m : OwnMsg) (s : State) : State :=
  let id := m.stateId.toNat
  let take (o : Own) (s : State) : State :=
    if !s.lk.pool then s
    else (s.putOwn id { o with
      token := .taking, epoch := m.epoch, acked := m.acked, holder := node, peer := node, wait := 0, copied := false
      restoring := false, stateAddr := s.fresh, len := m.len, phase := m.phase }).drawn
  match s.own id with
  | none => if s.ownRoom then take {} s else s
  | some _ => s.ownMsg node m (fun o s =>
      if o.token = .taking ∧ o.epoch = m.epoch then (if o.copied then s.sendOwn node (o.msg id 2) else s)
      else if (o.token = .none ∨ o.token = .released) ∧ o.epoch < m.epoch then take o s
      else s)

/-- TAKE: the giver releases, zeroes its copy and acknowledges (R468 step 4). -/
def State.rxTake (node : Nat) (m : OwnMsg) (s : State) : State :=
  s.ownMsg node m (fun o s =>
    let id := m.stateId.toNat
    if o.epoch ≠ m.epoch then s
    else if o.token = .giving then
      let o1 := { o with token := .released, acked := m.epoch, wait := 0 }
      ((s.zeroState o).putOwn id o1).sendOwn node (o1.msg id 3)
    else if o.token = .released then s.sendOwn node (o.msg id 3)
    else s)

/-- ACK: the taker holds the token and renews (R468 step 5). -/
def State.rxAck (node : Nat) (m : OwnMsg) (s : State) : State :=
  s.ownMsg node m (fun o s =>
    if o.token = .taking ∧ o.copied ∧ o.epoch = m.epoch then s.ownHeld m.stateId.toNat fun o => { o with acked := m.epoch }
    else s)

/-- RENEW: the originator accepts it and answers, or drops it (R467, R469); the renewal of a peer ends the hand-over, that of a
restored holder the replay (R468, R473). -/
def State.rxRenew (node : Nat) (m : OwnMsg) (s : State) : State :=
  s.ownMsg node m (fun o s =>
    let id := m.stateId.toNat
    let now := o.epoch == m.epoch
    if o.token ≠ .origin ∨ !((now && (node == o.holder || node == o.peer)) || o.oldRenew node m) then s
    else
      let o1 := { o with leaseLeft := s.lk.leaseTides, renewed := true, acked := if o.acked < m.acked then m.acked else o.acked }
      let ends := now && node == o.peer
      let replay := now && node == o.holder && o.restoring
      let o2 := if ends then { o1 with holder := node, peer := 0xFFF, wait := 0, stateAddr := m.addr, movePending := none }
        else if replay then { o1 with restoring := false, stateAddr := m.addr } else o1
      let s1 := (s.putOwn id o2).sendOwn node (o2.msg id 5)
      let s2 := if ends then s1.pageDoneOpt o.movePending 0 0 else s1
      if replay then
        (s2.onLk fun x => { x with cReplays := x.cReplays + 1 }).event 0x0708 9 node [m.stateId, w64 node, o.epoch, w64 o.phase]
      else s2)

/-- RENEW_ACK (R469). -/
def State.rxRenewAck (node : Nat) (m : OwnMsg) (s : State) : State :=
  s.ownMsg node m (fun o s => if o.token = .held ∨ o.token = .giving then
    s.putOwn m.stateId.toNat { o with unackedBoundaries := 0 } else s)

/-- QUERY: a node answers with its TOKEN and ACKED, or that it has no entry (R467, R470). -/
def State.rxQuery (node : Nat) (m : OwnMsg) (s : State) : State :=
  match s.own m.stateId.toNat with
  | none => s.sendOwn node { msg := 7, token := 7, stateId := m.stateId, epoch := m.epoch }
  | some _ => s.ownMsg node m (fun o s => s.sendOwn node { o.msg m.stateId.toNat 7 with token := o.token.code })

/-- ANSWER: the highest acknowledged epoch decides a stuck hand-over (R470). -/
def State.rxAnswer (node : Nat) (m : OwnMsg) (s : State) : State :=
  s.ownMsg node m (fun o s =>
    let id := m.stateId.toNat
    if (o.token ≠ .giving ∧ o.token ≠ .taking) ∨ o.restoring ∨ m.token = 7 then s
    else
      let a := if o.acked < m.acked then m.acked else o.acked
      let r (taken : Nat) (s : State) : State :=
        (s.onLk fun x => { x with cResolved := x.cResolved + 1 }).event 0x0707 9 node [m.stateId, o.epoch, a, w64 taken]
      if a = o.epoch then
        if o.token = .taking then r 1 (s.ownHeld id fun o => { o with acked := a })
        else r 4 (s.putOwn id { o with token := .released, wait := 0 })
      else if o.token = .giving then r 1 (s.putOwn id { o with token := .held, peer := 0xFFF, wait := 0 })
      else r 0 (s.ownNone id fun o => o))

/-- REVOKE with a higher epoch: the node zeroes its copy and goes to NONE (R473). -/
def State.rxRevoke (node : Nat) (m : OwnMsg) (s : State) : State :=
  s.ownMsg node m (fun o s => if o.token ≠ .origin ∧ o.epoch < m.epoch then
    s.ownNone m.stateId.toNat fun o => { o with epoch := m.epoch } else s)

/-- RESTORE: a new holder copies the checkpoint image (R473). -/
def State.rxRestore (node : Nat) (m : OwnMsg) (s : State) : State :=
  let id := m.stateId.toNat
  let restore (o : Own) (s : State) : State :=
    if !s.lk.pool then s
    else (s.putOwn id { o with
      token := .taking, epoch := m.epoch, holder := s.lk.nodeId, peer := 0xFFF, wait := 0, copied := false, restoring := true
      ckptAddr := m.addr, ckptNode := m.addr.toNat / 2 ^ 52, stateAddr := s.fresh, len := m.len, phase := m.phase }).drawn
  match s.own id with
  | none => if s.ownRoom then restore {} s else s
  | some _ => s.ownMsg node m (fun o s => if o.token ≠ .origin ∧ o.epoch < m.epoch then restore o s else s)

/-- CKPT: the originator takes PHASE, CKPT_ADDR and LEN into its entry and answers; a phase end that waits is answered (R472,
R577). -/
def State.rxCkpt (node : Nat) (m : OwnMsg) (s : State) : State :=
  s.ownMsg node m (fun o s =>
    let id := m.stateId.toNat
    if o.token ≠ .origin ∨ node ≠ o.holder then s
    else
      let o1 := { o with phase := m.phase, ckptAddr := m.addr, len := m.len, ckptPending := none }
      ((s.putOwn id o1).sendOwn node { o1.msg id 11 with addr := m.addr }).pageDoneOpt o.ckptPending 0 0)

/-- CKPT_ACK: the next phase may begin (R472). -/
def State.rxCkptAck (node : Nat) (m : OwnMsg) (s : State) : State :=
  s.ownMsg node m (fun o s => if o.token = .held then
    (s.putOwn m.stateId.toNat { o with phase := m.phase, ckptAddr := m.addr, ckptPending := none }).pageDoneOpt o.ckptPending 0 0
    else s)

/-- An ownership message by its MSG code; codes 12 to 15 are reserved (R467). -/
def State.rxOwn (node : Nat) (m : OwnMsg) (s : State) : State :=
  match m.msg with
  | 0 => s.rxMove node m
  | 1 => s.rxGive node m
  | 2 => s.rxTake node m
  | 3 => s.rxAck node m
  | 4 => s.rxRenew node m
  | 5 => s.rxRenewAck node m
  | 6 => s.rxQuery node m
  | 7 => s.rxAnswer node m
  | 8 => s.rxRevoke node m
  | 9 => s.rxRestore node m
  | 10 => s.rxCkpt node m
  | 11 => s.rxCkptAck node m
  | _ => s

def execMove (node : Nat) (m : OwnMsg) (s : State) : Host.Outcome State Fault Refusal := s.clocked <| s.rxMove node m
def execGive (node : Nat) (m : OwnMsg) (s : State) : Host.Outcome State Fault Refusal := s.clocked <| s.rxGive node m
def execTake (node : Nat) (m : OwnMsg) (s : State) : Host.Outcome State Fault Refusal := s.clocked <| s.rxTake node m
def execAck (node : Nat) (m : OwnMsg) (s : State) : Host.Outcome State Fault Refusal := s.clocked <| s.rxAck node m
def execRenew (node : Nat) (m : OwnMsg) (s : State) : Host.Outcome State Fault Refusal := s.clocked <| s.rxRenew node { m with msg := 4 }
def execRenewAck (node : Nat) (m : OwnMsg) (s : State) : Host.Outcome State Fault Refusal := s.clocked <| s.rxRenewAck node m
def execQuery (node : Nat) (m : OwnMsg) (s : State) : Host.Outcome State Fault Refusal := s.clocked <| s.rxQuery node m
def execAnswer (node : Nat) (m : OwnMsg) (s : State) : Host.Outcome State Fault Refusal := s.clocked <| s.rxAnswer node m
def execRevoke (node : Nat) (m : OwnMsg) (s : State) : Host.Outcome State Fault Refusal := s.clocked <| s.rxRevoke node m
def execRestore (node : Nat) (m : OwnMsg) (s : State) : Host.Outcome State Fault Refusal := s.clocked <| s.rxRestore node m
def execCkpt (node : Nat) (m : OwnMsg) (s : State) : Host.Outcome State Fault Refusal := s.clocked <| s.rxCkpt node m
def execCkptAck (node : Nat) (m : OwnMsg) (s : State) : Host.Outcome State Fault Refusal := s.clocked <| s.rxCkptAck node m

/-- The copy of a hand-over is complete: the taker sends TAKE (R468 step 3). -/
def execStateCopyComplete (stateId : Nat) (s : State) : Host.Outcome State Fault Refusal :=
  s.clocked <| match s.own stateId with
  | none => s
  | some o => if o.token = .taking ∧ !o.copied ∧ !o.restoring then
      (s.putOwn stateId { o with copied := true, wait := 0 }).sendOwn o.peer (o.msg stateId 2) else s

/-- The copy of a checkpoint image is complete: the new holder goes to HELD and renews (R473 step 4). -/
def execStateReplay (stateId : Nat) (s : State) : Host.Outcome State Fault Refusal :=
  s.clocked <| match s.own stateId with
  | none => s
  | some o => if o.token = .taking ∧ o.restoring then s.ownHeld stateId fun o => o else s

/-- A node whose WAIT has reached 2 asks its PEER (R470). -/
def execHandoverQuery (stateId : Nat) (s : State) : Host.Outcome State Fault Refusal :=
  s.clocked <| match s.own stateId with
  | none => s
  | some o => if (o.token = .giving ∨ o.token = .taking) ∧ !o.restoring ∧ 2 ≤ o.wait then s.sendOwn o.peer (o.msg stateId 6) else s

/-- A lease has expired: the originator reclaims the state for a new holder that the fabric scheduler names (R473). -/
def execLeaseExpired (stateId newHolder : Nat) (s : State) : Host.Outcome State Fault Refusal :=
  s.clocked <| match s.own stateId with
  | none => s
  | some o =>
    if o.token ≠ .origin ∨ o.leaseLeft ≠ 0 ∨ newHolder = o.holder then s
    else
      let o1 := { o with epoch := o.epoch + 1, holder := newHolder, peer := 0xFFF, wait := 0, restoring := true
                         leaseLeft := s.lk.leaseTides, renewed := false, movePending := none }
      let s1 := ((s.putOwn stateId o1).onLk fun x => { x with cExpired := x.cExpired + 1 }).event 0x0706 9 o.holder
        [w64 stateId, w64 o.holder, o1.epoch]
      let s2 := s1.sendOwn o.holder (o1.msg stateId 8)
      let s3 := if o.peer = 0xFFF then s2 else s2.sendOwn o.peer (o1.msg stateId 8)
      (s3.sendOwn newHolder { o1.msg stateId 9 with addr := o1.ckptAddr }).pageDoneOpt o.movePending 0 0

/-- A holder without RENEW_ACK through 2 × LEASE_TIDES boundaries gives the state up (R469). -/
def execOrphaned (stateId : Nat) (s : State) : Host.Outcome State Fault Refusal :=
  s.clocked <| match s.own stateId with
  | none => s
  | some o => if (o.token = .held ∨ o.token = .giving) ∧ 2 * s.lk.leaseTides ≤ o.unackedBoundaries then
      (s.onLk fun x => { x with cOrphaned := x.cOrphaned + 1 }).ownNone stateId fun o => o else s

/-- The ownership work of a boundary: leases fall, holders renew, unanswered messages go out again (R468–R470). -/
def State.ownBoundary (s : State) : State :=
  foldState s.lk.own (fun a y =>
    let (id, o) := y
    match o.token with
    | .origin =>
      let o1 := { o with renewed := false, leaseLeft := if o.renewed then o.leaseLeft else o.leaseLeft - 1
                         wait := if o.peer = 0xFFF then 0 else min 255 (o.wait + 1) }
      let s1 := a.putOwn id o1
      if o.peer = 0xFFF then s1 else s1.sendOwn o.holder (o1.msg id 0)
    | .held => (a.putOwn id { o with unackedBoundaries := o.unackedBoundaries + 1 }).renew id
    | .giving =>
      let o1 := { o with unackedBoundaries := o.unackedBoundaries + 1, wait := min 255 (o.wait + 1) }
      ((a.putOwn id o1).renew id).sendOwn o.peer (o1.msg id (if 2 < o1.wait then 6 else 1))
    | .taking =>
      if !o.copied ∨ o.restoring then a
      else
        let o1 := { o with wait := min 255 (o.wait + 1) }
        (a.putOwn id o1).sendOwn o.peer (o1.msg id (if 2 < o1.wait then 6 else 2))
    | _ => a) s

/-! Messages and signals (R455, R461, R495) -/

/-- A message reaches its mailbox; mailbox 0xFF00 takes ownership messages, and one takes the counts of a harbour's last member (R338,
R455, R467). -/
def execMessage (node mailbox : Nat) (words : List Word) (s : State) : Host.Outcome State Fault Refusal :=
  s.clocked <|
    if mailbox = 0xFF00 then s.rxOwn node (ownOfWords words)
    else if mailbox = Config.messageBox 0 % 65536 then s.takeCounts node words
    else s.onLk fun x => { x with mailbox := x.mailbox ++ [(mailbox, words)] }

/-- A signal-class item arrives (R302, R455, R495). Reduction traffic of a gang on several modules reaches no state here (log
entry 13). -/
def execSignal (node : Nat) (item : SignalIn) (s : State) : Host.Outcome State Fault Refusal :=
  s.clocked <| match item with
  | .fence handle context v err =>
    (match s.fenceEnt context handle with
    | none => s
    | some x => match s.fence x.fon with
      | some f => if x.signal ∧ !f.closed then s.onFu fun q => { q with inflight := q.inflight ++ [{ fon := x.fon, value := v, err := err }] } else s
      | none => s)
  | .reduction _ _ _ _ _ => s
  | .allow freq => s.onLk fun x => { x with slaveAllow := tabPut x.slaveAllow node freq }

/-! Roles (R464, R465) -/

/-- A write refused by the LK_ block (R476). -/
def State.lkRefused (s : State) : State := s.onLk fun x => { x with cCfgRefused := x.cCfgRefused + 1 }

/-- A shift to the pool role is refused (R465). -/
def State.computeBusy (s : State) : Bool :=
  s.hm.launches.any (fun l => l.2.harbour != 0) || s.berths.any (fun b => b.2.enable && b.2.harbour != 0)
  || s.places.any (fun p => p.2.slots.any fun k => k.2.state != .free)

/-- REQ of LK_ROLE, bit 8 (R465, R476). -/
def execLkRoleReq (m : Master) (v : Word) (s : State) : Host.Outcome State Fault Refusal :=
  s.clocked <| s.privWrite m 0x180028 fun s =>
    let pool := bit v 8
    if pool = s.lk.pool ∧ s.lk.roleReq.isNone then s
    else if s.lk.shifting ∨ (if pool then s.computeBusy else s.lk.own.any fun o => o.2.holding) then s.lkRefused
    else s.onLk fun x => { x with roleReq := if pool = x.pool then none else some pool }

/-- In slack 1 the role changes (R465 step 3). -/
def execRoleShift (s : State) : Host.Outcome State Fault Refusal :=
  s.clocked <| match s.lk.shifting, s.lk.roleReq with
  | true, some r =>
    (s.onLk fun x => { x with pool := r, shifting := false, roleReq := none, berthWait := !r }).event 0x0705 0 0
      [w64 (if s.lk.pool then 1 else 0), w64 (if r then 1 else 0)]
  | _, _ => s

/-! Node epochs (R528, R530) -/

/-- A port carries flits or trains. -/
def State.linksActive (s : State) : Bool :=
  s.lk.ports.any fun p => p.2.st == .training || p.2.st == .up || p.2.st == .retrain

/-- Write an entry of the node table: a new epoch of an admitted node declares it dead (R528, R530). -/
def State.writeNode (node epoch : Nat) (s : State) : State :=
  if node = s.lk.nodeId ∧ s.linksActive then s.lkRefused
  else
    let old := (s.node node).epoch
    if old = epoch then s
    else
      let s1 := s.onLk fun x => { x with nodes := tabPut x.nodes node { epoch := epoch, fenced := false } }
      if old = 0 then s1 else s1.dropNode node

/-- A write of a node's epoch (R530, R540). -/
def execLkNodeWrite (m : Master) (node epoch : Nat) (s : State) : Host.Outcome State Fault Refusal :=
  s.clocked <| s.privWrite m (0x184000 + node / 4 * 8) fun s => s.writeNode (node % 4096) (epoch % 256)

end Sys2Proof.Machine
end

