-- ==== Sys2Proof/Machine/PowerOps.lean ====
section
/-! DEFINITION. Rails and AVSBus, the job frequency and its budgets, boost, droop, brown-out, thermal monitoring, margin
re-planning and cluster gating (15_power_and_health R487–R512; 03_tile R127, R129). -/
namespace Sys2Proof.Machine
open Sys2Proof

/-- A write refused by the PW_ block (R511). -/
def State.pwRefused (s : State) : State := s.onPw fun w => { w with cCfgRefused := w.cCfgRefused + 1 }

/-! Frequency points and the margin table (R491) -/

/-- f(i) in MHz. -/
def freqOf (i : Nat) : Nat := 600 + 25 * i

/-- A frequency is a point of the margin table. -/
def isPoint (f : Nat) : Bool := decide (600 ≤ f ∧ f ≤ 2050) && f % 25 == 0

/-- Point of a frequency. -/
def pointOf (f : Nat) : Nat := (f - 600) / 25

/-! Tiles and clock regions (R129, R493) -/

/-- The cluster counts in F_ALLOW: ungated, or its ungating accepted (R493, R512). -/
def State.clusterCounts (s : State) (c : Nat) : Bool :=
  let x := s.cluster c
  s.clusterPresent c && (!x.gated || x.ungating || x.request == some false)

/-- A physical tile counts in F_ALLOW: usable, or a spare in service, and not taken out of service (R140, R493). -/
def State.tileCounts (s : State) (t : Nat) : Bool :=
  let x := s.tile t
  !x.retired && (if t < 512 then s.clusterCounts (clusterOf t)
    else match x.standsFor with | some p => s.clusterCounts (clusterOf p) | none => false)

/-- Tiles counted for the module. -/
def State.countedTiles (s : State) : Nat := ((List.range 544).filter s.tileCounts).length

/-- Tiles counted for a harbour. -/
def State.harbourCounted (s : State) (h : Nat) : Nat :=
  match s.harbour h with
  | none => 0
  | some x => (x.tiles.filter fun p => s.tileCounts (s.servingTile p)).length

/-- Both clusters of a clock region are gated or absent (R129). -/
def State.regionGated (s : State) (r : Nat) : Bool :=
  [2 * r, 2 * r + 1].all fun c => !s.clusterPresent c || ((s.cluster c).gated && !(s.cluster c).ungating)

/-- The frequency a region runs at before any drop: the job frequency, or what the boost controller has set (R497, R498). -/
def State.baseFreq (s : State) (r : Nat) : Nat :=
  if s.pw.boost then max s.tide.jobFreq (tabGet s.tide.jobFreq s.pw.regionSet r) else s.tide.jobFreq

/-- The frequency at which a region runs while its clock does: the lowest set by an active cause (R501, R504, R508). -/
def State.runFreq (s : State) (r : Nat) : Nat :=
  let f := s.baseFreq r
  let f := if s.pw.brown || s.pw.brownHold then min f s.pw.safeFreq else f
  if s.pw.throttle.contains (r / 8) then min f (tabGet f s.pw.thr r) else f

/-- The frequency of a region; its clock stops while both its clusters are gated, and outside ACTIVE (R129, R478). -/
def State.regionFreq (s : State) (r : Nat) : Nat := if s.pw.st ≠ .active ∨ s.regionGated r then 0 else s.runFreq r

/-- The regions take their frequencies. -/
def State.setRegions (s : State) : State :=
  s.onPw fun w => { w with region := (List.range 16).map fun r => (r, s.regionFreq r) }

/-! Rails (R487–R490) -/

/-- A rail asks for a voltage; a request in progress for another voltage is replaced (R489, R490). -/
def State.railAsk (r mv : Nat) (s : State) : State :=
  s.onRail r fun x => { x with req :=
    if x.mv = mv then none else if x.req.map (·.mv) = some mv then x.req else some { mv := mv, sent := false } }

/-- Voltage a die's tile rail needs for a frequency of its regions: the largest margin-table voltage (R490). -/
def State.dieVolt (s : State) (m : Margin) (d f : Nat) : Nat :=
  ((List.range 8).map fun i => m.at (d * 8 + i) (pointOf (max f (s.baseFreq (d * 8 + i))))).foldl max 0

/-- Both tile rails stand at what a frequency needs (R490). -/
def State.voltReady (s : State) (f : Nat) : Bool :=
  [0, 1].all fun d => decide (s.dieVolt s.pw.margin d f ≤ (s.rail d).mv) && (s.rail d).req.isNone

/-- Some tile rail has failed its raise (R490). -/
def State.raiseFailed (s : State) (f : Nat) : Bool :=
  [0, 1].any fun d => (s.rail d).fault && (s.rail d).req.isNone && decide ((s.rail d).mv < s.dieVolt s.pw.margin d f)

/-- Ask both tile rails for what a frequency needs. -/
def State.askVolts (m : Margin) (f : Nat) (s : State) : State :=
  foldState [0, 1] (fun a d => a.railAsk d (s.dieVolt m d f)) s

/-- A Voltage command goes out on AVSBus: the request that waits on the rail, or a new one (R488, R489). -/
def execAvsRequest (rail mv : Nat) (s : State) : Host.Outcome State Fault Refusal :=
  s.clocked <|
    if 4 ≤ rail then s
    else match (s.rail rail).req with
    | some q => if q.sent then s
        else (s.onRail rail fun x => { x with req := some { q with sent := true } }).emit (.avs rail 0 q.mv)
    | none => (s.onRail rail fun x => { x with req := some { mv := mv } }).emit (.avs rail 0 mv)

/-- A request fails: it is written again up to three times, then RAIL_FAULT (R489). -/
def State.avsFails (rail : Nat) (q : AvsReq) (s : State) : State :=
  if q.tries < 3 then
    (s.onRail rail fun x => { x with req := some { q with tries := q.tries + 1, sent := false } }).onPw fun w =>
      { w with cAvsRetry := w.cAvsRetry + 1 }
  else
    (s.onRail rail fun x => { x with req := none, fault := true }).event 0x0802 13 rail
      [w64 rail, w64 q.mv, w64 (s.rail rail).lastAck]

/-- A Status read: a slave acknowledgement other than 0, good CRC with action taken, fails; VDone ends the request (R489). -/
def execAvsStatusPoll (rail ackCode : Nat) (vdone : Bool) (s : State) : Host.Outcome State Fault Refusal :=
  s.clocked <| match (s.rail rail).req with
  | none => s
  | some q =>
    if !q.sent ∨ 4 ≤ rail then s
    else
      let s1 := s.onRail rail fun x => { x with lastAck := ackCode }
      if ackCode ≠ 0 then s1.avsFails rail q
      else if vdone then s1.onRail rail fun x => { x with mv := q.mv, req := none, fault := false }
      else s1

/-- VDone has not read 1 within 20 µs (R489). -/
def execAvsTimeout (rail : Nat) (s : State) : Host.Outcome State Fault Refusal :=
  s.clocked <| match (s.rail rail).req with
  | none => s
  | some q => if !q.sent ∨ 4 ≤ rail then s else s.avsFails rail q

/-! F_ALLOW and the job frequency (R491–R496, R588) -/

/-- A query is resident in a Mill slot (R222). -/
def State.queryResident (s : State) : Bool := s.mills.any fun m => !m.2.scans.isEmpty

/-- Non-tile power in 0.1 W; in pool role without the Mill row while no query is resident (R71, R73, R493, log entry 137). -/
def State.nontile (s : State) : Nat :=
  match s.part, s.lk.pool && !s.queryResident with
  | .kln8200, false => 8476
  | .kln8160, false => 6982
  | .kln8120, _ => 6684
  | .kln8200, true => 7708
  | .kln8160, true => 6406

/-- Harbours with a sub-budget (R492, R493). -/
def State.subHarbours (s : State) : List (Nat × Nat) :=
  s.pw.hsub.filter fun x => x.1 != 0 && x.2 != 0 && (s.harbour x.1).isSome

/-- The cap and every sub-budget allow point `i`. -/
def State.pointFits (s : State) (tiles i : Nat) : Bool :=
  decide (tiles * s.pref i + s.nontile * 10 ≤ s.pw.capW * 100)
  && s.subHarbours.all fun x => decide (s.harbourCounted x.1 * s.pref i ≤ x.2 * 100)

/-- The highest point at or below `i` that fits. -/
def State.bestPoint (s : State) (tiles : Nat) : Nat → Option Nat
  | 0 => if s.pointFits tiles 0 then some 0 else none
  | i + 1 => if s.pointFits tiles (i + 1) then some (i + 1) else s.bestPoint tiles i

/-- Compute F_ALLOW; CAP_SHORT is raised when no point fits (R493). -/
def State.computeAllow (s : State) : State :=
  let tiles := s.countedTiles
  match s.bestPoint tiles (pointOf s.pw.freqCeil) with
  | some i => s.onPw fun w => { w with fAllow := freqOf i, capShort := false }
  | none =>
    let missed := (s.subHarbours.filter fun x => decide (x.2 * 100 < s.harbourCounted x.1 * s.pref 0)).map (·.2)
    let least := match missed with | [] => 0 | x :: xs => xs.foldl min x
    (s.onPw fun w => { w with fAllow := 600, capShort := true }).event 0x0808 0 0 [w64 s.pw.capW, w64 tiles, w64 least]

/-- Some harbour here spans modules. -/
def State.spans (s : State) : Bool := s.hb.harbours.any fun h => h.2.span

/-- The job frequency that the last decision leads to. -/
def State.freqTarget (s : State) : Nat := (s.tide.freqDecided.orElse fun _ => s.tide.freqAnnounced).getD s.tide.jobFreq

/-- A job frequency is decided in this tide (R91, R494). -/
def State.decideFreq (f : Nat) (s : State) : State :=
  (s.onTide fun t => { t with freqDecided := if f = (t.freqAnnounced.getD t.jobFreq) then none else some f }).onPw fun w =>
    { w with lastDecision := f }

/-- The job frequency that F_ALLOW decides: the least over the slaves heard from on a master (R495). -/
def State.decision (s : State) : Nat :=
  match s.tide.role with
  | .master => (s.lk.slaveAllow.map (·.2)).foldl min s.pw.fAllow
  | _ => s.pw.fAllow

/-- The job frequency is decided; a raise waits for the manager under the host-assisted policy; a slave follows its master, or its own
F_ALLOW while it is cut off (R494–R496, R588). -/
def State.decideFrom (s : State) : State :=
  let f := s.decision
  let follows := s.tide.role == .slave && !s.tide.holdover && !s.tide.isolated
  if follows then s
  else if s.tide.role = .slave ∧ s.spans then
    if f < s.tide.jobFreq ∧ !s.pw.capDeferred then (s.onPw fun w => { w with capDeferred := true }).event 0x0809 0 0 [w64 f]
    else s
  else if s.hostMode 4 ∧ s.freqTarget < f then
    if s.pw.policyReq = some (f, s.tide.num) then s
    else (s.onPw fun w => { w with policyReq := some (f, s.tide.num), lastDecision := f }).event 0x0B00 0 0 [pair f s.tide.jobFreq]
  else s.decideFreq f

/-- The counts that F_ALLOW depends on (R493). -/
def State.countKey (s : State) : Nat × List Nat := (s.countedTiles, s.subHarbours.map fun x => s.harbourCounted x.1)

/-- F_ALLOW is computed and the job frequency decided from it (R493–R496). -/
def State.decideJob (s : State) : State :=
  if !s.running then s else (s.computeAllow.onPw fun w => { w with counted := s.countKey }).decideFrom

/-- In a tide in which the counted tiles have changed F_ALLOW is computed anew; a master decides anew when what its slaves report
has changed the least value (R493, R495). -/
def State.decideChanged (s : State) : State :=
  if s.countKey ≠ s.pw.counted then s.decideJob
  else if s.running ∧ s.tide.role = .master ∧ s.decision ≠ s.pw.lastDecision then s.decideFrom
  else s

/-- PW_BUDGET.CAP_W, written by the manager or through the sideband (R492, R510). -/
def State.writeBudget (m : Master) (v : Word) (s : State) : State :=
  let w := bits v 0 12
  if w < 1200 ∨ 3600 < w then s.pwRefused
  else (s.onPw fun x => { x with capW := w, source := if m = .sideband then 2 else 1 }).decideJob

/-- A write of CAP_W (R492). -/
def execPwBudgetWrite (m : Master) (v : Word) (s : State) : Host.Outcome State Fault Refusal :=
  s.clocked <| if m = .sideband then s.writeBudget m v else s.privWrite m 0x20018 fun s => s.writeBudget m v

/-- Write the sub-budgets of the four harbours of PW_HSUB_j (R492, R511). -/
def State.writeHsub (j : Nat) (v : Word) (s : State) : State :=
  (s.onPw fun w => { w with hsub := [0, 1, 2, 3].foldl (fun t i => tabSet 0 t (4 * j + i) (bits v (16 * i) 12)) w.hsub }).decideJob

/-- A write of PW_HSUB_j. -/
def execPwHsubWrite (m : Master) (j : Nat) (v : Word) (s : State) : Host.Outcome State Fault Refusal :=
  s.clocked <| s.privWrite m (0x20100 + 8 * j) fun s => if 16 ≤ j then s else s.writeHsub j v

/-- PW_POLICY answers a POLICY_REQ, whose mode governs it (R588, R591). -/
def State.writePolicy (v : Word) (s : State) : State :=
  match s.pw.policyReq with
  | some (f, t) =>
    if bits v 0 12 = s.pw.fAllow ∧ s.pw.fAllow = f ∧ bits v 16 16 = t.toNat % 65536 then
      (s.onPw fun w => { w with policyReq := none }).decideFreq f
    else s.pwRefused
  | none => s.pwRefused

/-- A write of PW_POLICY. -/
def execPwPolicyWrite (m : Master) (v : Word) (s : State) : Host.Outcome State Fault Refusal :=
  s.clocked <| s.privWrite m 0x20050 fun s => s.writePolicy v

/-- A job frequency is applied: a fall lowers the voltage afterwards (R490, R494). -/
def State.applyFreq (f : Nat) (s : State) : State :=
  let s1 := (s.onTide fun t => { t with jobFreq := f, freqAnnounced := none }).setRegions
  if f < s.tide.jobFreq then s1.askVolts s1.pw.margin f else s1

/-- Step 2 of a boundary for the job frequency: an announced value is applied, deferred or given up, then a decided one is
announced, with its voltage asked for when it rises (R83, R91, R490, R501). -/
def State.freqBoundary (s : State) : State :=
  let held := s.pw.brown || s.pw.brownHold
  let s1 := match s.tide.freqAnnounced with
    | none => s
    | some f =>
      if held then s
      else if f ≤ s.tide.jobFreq ∨ s.voltReady f then s.applyFreq f
      else if s.raiseFailed f then s.onTide fun t => { t with freqAnnounced := none }
      else s.onPw fun w => { w with cAvsLate := w.cAvsLate + 1 }
  match s1.tide.freqDecided with
  | none => s1
  | some f =>
    let s2 := s1.onTide fun t => { t with freqAnnounced := some f, freqDecided := none }
    if s1.tide.jobFreq < f ∧ !held then s2.askVolts s2.pw.margin f else s2

/-! Boost (R498) -/

/-- Tiles counted in a clock region, and those of a harbour in it. -/
def State.regionTiles (s : State) (r : Nat) (h : Option Nat) : Nat :=
  ((List.range 544).filter fun t =>
    let p := if t < 512 then some t else (s.tile t).standsFor
    s.tileCounts t && (match p with
      | some p => regionOf (clusterOf p) == r && (match h with | none => true | some h => s.placeHarbour p == some h)
      | none => false)).length

/-- What the controller works with: the frequencies it sets, and its estimates of module power and of each harbour's tile
power, in 10 mW. -/
structure BoostEst where
  freq : Tab Nat
  module : Nat
  harbours : Tab Nat
  deriving DecidableEq, Repr

/-- Power that one tile gains from a point to the next. -/
def State.pointStep (s : State) (f : Nat) : Nat := s.pref (pointOf f + 1) - s.pref (pointOf f)

/-- The estimates after a region moves by one point, `up` or down. -/
def State.boostMove (s : State) (r : Nat) (up : Bool) (e : BoostEst) : BoostEst :=
  let f := tabGet s.tide.jobFreq e.freq r
  let d := s.pointStep (if up then f else f - 25)
  let move (x n : Nat) : Nat := if up then x + n * d else x - n * d
  { freq := tabPut e.freq r (if up then f + 25 else f - 25)
    module := move e.module (s.regionTiles r none)
    harbours := e.harbours.map fun h => (h.1, move h.2 (s.regionTiles r (some h.1))) }

/-- Sub-budget of a harbour in force, if any. -/
def State.subOf (s : State) (h : Nat) : Option Nat :=
  match tabFind s.pw.hsubInForce h with
  | some w => if w = 0 ∨ h = 0 then none else some w
  | none => none

/-- A region holds tiles that exceed a budget by the estimates. -/
def State.boostOver (s : State) (e : BoostEst) (r : Nat) : Bool :=
  decide (s.pw.capW * 100 < e.module) || e.harbours.any fun h =>
    (match s.subOf h.1 with | some w => decide (w * 100 < h.2) | none => false) && decide (0 < s.regionTiles r (some h.1))

/-- Regions in descending frequency, then ascending number. -/
def regionsDown (freq : Tab Nat) (job : Nat) : List Nat :=
  (List.range 59).flatMap fun i => (List.range 16).filter fun r => tabGet job freq r == 2050 - 25 * i

/-- Step 1: regions above the job frequency that hold affected tiles fall by one point. -/
def State.boostLower (s : State) (e : BoostEst) : BoostEst :=
  (regionsDown e.freq s.tide.jobFreq).foldl (fun e r =>
    if s.tide.jobFreq < tabGet s.tide.jobFreq e.freq r ∧ s.boostOver e r then s.boostMove r false e else e) e

/-- Step 2: regions rise by one point while the cap and the sub-budgets of their harbours allow it. -/
def State.boostRaise (s : State) (before : Tab Nat) (e : BoostEst) : BoostEst :=
  (List.range 16).foldl (fun e r =>
    let e1 := s.boostMove r true e
    let f := tabGet s.tide.jobFreq e.freq r
    let lowered := decide (f < tabGet s.tide.jobFreq before r)
    if 2050 ≤ f ∨ lowered ∨ s.regionGated r ∨ s.boostOver e1 r then e else e1) e

/-- Voltage that a die's tile rail needs for what its regions run at and for what the controller has set for them (R490, R498). -/
def State.boostVolt (s : State) (d : Nat) : Nat :=
  ((List.range 8).map fun i =>
    let r := d * 8 + i
    s.pw.margin.at r (pointOf (max (s.baseFreq r) (tabGet s.tide.jobFreq s.pw.regionNext r)))).foldl max 0

/-- The boost controller sets the regions' frequencies for the next boundary, and asks for the voltage of each rise (R490, R498). -/
def execBoostUpdate (s : State) : Host.Outcome State Fault Refusal :=
  s.clocked <|
    if !s.running ∨ !s.pw.boost ∨ s.pw.st ≠ .active ∨ s.pw.brown ∨ s.pw.brownHold then s
    else
      let before := (List.range 16).map fun r => (r, s.baseFreq r)
      let e : BoostEst := { freq := before, module := s.pw.moduleW * 100, harbours := s.pw.harbourW.map fun h => (h.1, h.2 * 100) }
      let s1 := s.onPw fun w => { w with regionNext := (s.boostRaise before (s.boostLower e)).freq }
      foldState [0, 1] (fun a d => if (s1.rail d).mv < s1.boostVolt d then a.railAsk d (s1.boostVolt d) else a) s1

/-- The boost controller's values take effect at a boundary, each rise once its voltage stands (R490, R498). -/
def State.boostBoundary (s : State) : State :=
  let s1 := s.onPw fun w => { w with boost := w.boostNext.getD w.boost, boostNext := none }
  if !s1.pw.boost then s1.onPw fun w => { w with regionSet := [], regionNext := [] }
  else
    let ok (d : Nat) : Bool := decide (((List.range 8).map fun i =>
      s1.pw.margin.at (d * 8 + i) (pointOf (tabGet s1.tide.jobFreq s1.pw.regionNext (d * 8 + i)))).foldl max 0 ≤ (s1.rail d).mv)
    let late := ([0, 1].filter fun d => !ok d && (List.range 8).any fun i =>
      decide (tabGet s1.tide.jobFreq s1.pw.regionSet (d * 8 + i) < tabGet s1.tide.jobFreq s1.pw.regionNext (d * 8 + i))).length
    let s2 := s1.onPw fun w => { w with cAvsLate := w.cAvsLate + BitVec.ofNat 8 late, regionSet := (List.range 16).map fun r =>
      let next := tabGet s1.tide.jobFreq w.regionNext r
      let cur := tabGet s1.tide.jobFreq w.regionSet r
      (r, if next ≤ cur ∨ ok (r / 8) then next else cur) }
    foldState [0, 1] (fun a d => a.railAsk d (s2.boostVolt d)) s2

/-! Droop and brown-out (R500–R502) -/

/-- A droop monitor crossing: the region's next two cycles are stretched, which only the count shows (R500). -/
def execDroop (region : Nat) (s : State) : Host.Outcome State Fault Refusal :=
  s.clocked <| if !s.running ∨ 16 ≤ region ∨ s.regionFreq region = 0 then s
    else s.onPw fun w => { w with cDroop := w.cDroop + 1 }

/-- The highest frequency of the regions. -/
def State.topFreq (s : State) : Nat := ((List.range 16).map s.regionFreq).foldl max 0

/-- The supply enters warning (R501); in WATCH, HOLD and during start-up the event is only kept (R502, R620). The reading of the
input rail is a free value. -/
def execBrownWarn (s : State) : Host.Outcome State Fault Refusal :=
  s.clocked <|
    if s.boot.life = .starting then (s.keepEvent 0x0004 0 0 [0, s.fresh]).drawn
    else if !s.running ∨ s.pw.brown then s
    else match s.pw.st with
    | .watch | .hold => (s.keepEvent 0x0004 0 0 [0, s.fresh]).drawn
    | _ => (((s.onPw fun w => { w with brown := true, brownHold := false, holdCount := 0, cBrown := w.cBrown + 1 }).setRegions).event
        0x0004 0 0 [w64 s.topFreq, s.fresh]).drawn

/-- The supply has been out of warning for 10 µs (R501). -/
def execBrownRecover (s : State) : Host.Outcome State Fault Refusal :=
  s.clocked <| if !s.pw.brown then s
    else (s.onPw fun w => { w with brown := false, brownHold := true, holdCount := 0 }).setRegions

/-- The hold counts boundaries; the voltage of a raise is asked for at the 16th (R501). -/
def State.brownBoundary (s : State) : State :=
  if !s.pw.brownHold then s
  else
    let s1 := s.onPw fun w => { w with holdCount := w.holdCount + 1 }
    match s1.tide.freqAnnounced with
    | some f => if s1.pw.holdCount = 16 ∧ s1.tide.jobFreq < f then s1.askVolts s1.pw.margin f else s1
    | none => s1

/-- At the 17th boundary after recovery the job frequency is restored (R91, R501). -/
def execBrownHoldEnd (s : State) : Host.Outcome State Fault Refusal :=
  s.clocked <|
    if !s.pw.brownHold ∨ s.pw.holdCount < 17 then s
    else
      let s1 := s.onPw fun w => { w with brownHold := false, holdCount := 0, regionSet := [], regionNext := [] }
      match s1.tide.freqAnnounced with
      | some f =>
        if f ≤ s1.tide.jobFreq ∨ s1.voltReady f then s1.applyFreq f
        else ((s1.onPw fun w => { w with cAvsLate := w.cAvsLate + 1 }).askVolts s1.pw.margin f).setRegions
      | none => s1.setRegions

/-! Thermal monitoring (R503–R505). Sensors are numbered in the order of R503's table (log entry 46). -/

/-- C-die that a sensor throttles: its own die's, or the stack's on it; none for the carrier. -/
def sensorDie (n : Nat) : Option Nat :=
  if n < 96 then some (n / 48) else if n < 112 then some ((n - 96) / 8) else if n < 120 then some ((n - 112) / 4) else none

/-- Warn threshold of a sensor. -/
def State.warnAt (s : State) (n : Nat) : Nat :=
  if n < 112 then s.pw.dieWarn else if n < 120 then s.pw.hbmWarn else if n < 122 then s.pw.coolantMax else s.pw.carrierMax

/-- Throttle threshold of a die or stack sensor. -/
def State.throttleAt (s : State) (n : Nat) : Nat := if n < 112 then s.pw.dieThrottle else s.pw.hbmThrottle

/-- A reading against the warn threshold: THERM_WARN once per crossing (R504). -/
def execThermWarn (sensor temp : Nat) (s : State) : Host.Outcome State Fault Refusal :=
  s.clocked <|
    if !s.running ∨ 128 ≤ sensor then s
    else if temp < s.warnAt sensor then s.onPw fun w => { w with warm := setDel w.warm sensor }
    else if s.pw.warm.contains sensor then s
    else (s.onPw fun w => { w with warm := setIns w.warm sensor }).event 0x0803 12 sensor [w64 sensor, w64 temp]

/-- Half a frequency, rounded down to a point and not below 600 MHz (R504). -/
def halfPoint (f : Nat) : Nat := max 600 (f / 2 / 25 * 25)

/-- A die sensor, or a stack's on it, reaches its throttle threshold (R504). -/
def execThermThrottle (sensor temp : Nat) (s : State) : Host.Outcome State Fault Refusal :=
  s.clocked <| match sensorDie sensor with
  | none => s
  | some d =>
    if !s.running ∨ temp < s.throttleAt sensor ∨ s.pw.throttle.contains d then s
    else
      let rs := (List.range 8).map (d * 8 + ·)
      let before := (rs.map s.runFreq).foldl max 0
      ((s.onPw fun w => { w with
          throttle := setIns w.throttle d, cThrottles := w.cThrottles + 1
          thr := rs.foldl (fun t r => tabPut t r (halfPoint (s.runFreq r))) w.thr }).setRegions).event 0x0804 12 sensor
        [w64 d, w64 sensor, pair before (halfPoint before)]

/-- The 4th consecutive cool boundary: the die returns to its frequency (R504). -/
def execThrottleRelease (die : Nat) (s : State) : Host.Outcome State Fault Refusal :=
  s.clocked <| if !s.pw.throttle.contains die then s
    else (s.onPw fun w => { w with throttle := setDel w.throttle die, thr := w.thr.filter fun t => t.1 / 8 != die }).setRegions

/-- Trip threshold of a sensor; the carrier's sensors warn only (R503). -/
def tripAt (n : Nat) : Option Nat := if n < 112 then some 120 else if n < 120 then some 105 else none

/-- A sensor reaches its trip threshold: every clock stops; the trip path works in a frozen module too (R505, R611). -/
def execThermTrip (sensor temp : Nat) (s : State) : Host.Outcome State Fault Refusal :=
  done <| match tripAt sensor with
  | none => s
  | some t =>
    if temp < t ∨ s.boot.life = .unpowered ∨ s.boot.life = .inReset ∨ s.boot.life = .tripped then s
    else (((s.onPins fun p => { p with thermTrip := true }).onBoot fun b => { b with life := .tripped }).onTide fun t =>
      { t with stopped := true }).keepEvent 0x0805 12 sensor [w64 sensor, w64 temp]

/-! Ageing and margins (R506, R507) -/

/-- Every 2²⁰ boundaries the monitors are measured (R506). -/
def execMarginMeasure (s : State) : Host.Outcome State Fault Refusal :=
  s.clocked <| if !s.running ∨ s.pw.measuring ∨ s.pw.sincePlan < 2 ^ 20 then s
    else s.onPw fun w => { w with measuring := true, sincePlan := 0 }

/-- A new voltage: the least working one plus GUARD_MV, at most 10 mV below the old (R506). -/
def replanned (old least guard : Nat) : Nat := max (least + guard) (old - 10)

/-- The measurement ends with the least working voltage of each region at each point, and of the fabric canaries: the plan takes
effect at the next boundary, and its rail rises are asked for now (R506, R507). -/
def execMarginReplan (least : List (Nat × Nat)) (fabric : Nat) (s : State) : Host.Outcome State Fault Refusal :=
  s.clocked <|
    if !s.pw.measuring then s
    else
      let m := s.pw.margin
      let plan : Margin := { m with
        planTide := s.tide.num
        volt := least.foldl (fun t x => tabPut t x.1 (replanned (m.at (x.1 / 64) (x.1 % 64)) x.2 s.pw.guardMv)) m.volt }
      let s1 := s.onPw fun w => { w with
        measuring := false, planNext := some plan, planFabric := replanned (s.rail 2).mv fabric w.guardMv }
      let need (d : Nat) : Nat := if d = 2 then s1.pw.planFabric else s1.dieVolt plan d s1.tide.jobFreq
      foldState [0, 1, 2] (fun a d => if (a.rail d).mv < need d then a.railAsk d (need d) else a) s1

/-- Largest rise from an old table to a new one over a list of keys, with its region. -/
def largestRise (old new : Margin) (ks : List Nat) : Nat × Nat :=
  ks.foldl (fun b k =>
    let d := new.at (k / 64) (k % 64) - old.at (k / 64) (k % 64)
    if b.1 < d then (d, k / 64) else b) (0, 0)

/-- Copy A of a margin table is the older one: absent, damaged, or of the lower PLAN_TIDE (R507). -/
def olderA (a b : Option Margin) : Bool :=
  match a, b with
  | none, _ => true
  | some _, none => false
  | some x, some y => !x.crcOk || (y.crcOk && decide (x.planTide ≤ y.planTide))

/-- A re-plan takes effect at a boundary, unless a drop is active (R507, R508). -/
def State.planBoundary (s : State) : State :=
  let s := s.onPw fun w => { w with sincePlan := w.sincePlan + 1 }
  match s.pw.planNext with
  | none => s
  | some m =>
    if s.pw.brown ∨ s.pw.brownHold ∨ !s.pw.throttle.isEmpty then s
    else
      let ks := m.volt.map (·.1)
      let up := largestRise s.pw.margin m ks
      let down := largestRise m s.pw.margin ks
      let s1 := (s.onPw fun w => { w with
        margin := m, planNext := none, cReplans := w.cReplans + 1, flashWriting := true
        marginA := if olderA w.marginA w.marginB then some m else w.marginA
        marginB := if olderA w.marginA w.marginB then w.marginB else some m }).event 0x0806 0 0
          [m.planTide, pair up.1 down.1, pair up.2 down.2]
      (s1.askVolts m s1.tide.jobFreq).railAsk 2 s1.pw.planFabric

/-- The flash margin area after a write of a table to its older copy (R507, R593). -/
def Power.putFlash (w : Power) (m : Margin) : Power :=
  if olderA w.flashA w.flashB then { w with flashA := some m, flashWriting := false } else { w with flashB := some m, flashWriting := false }

/-- A margin write that a reset or a freeze cut short leaves a copy that fails its CRC (R594, R620). -/
def Power.cutFlash (w : Power) : Power := if w.flashWriting then w.putFlash { crcOk := false } else w

/-- The flash write of a re-planned table ends (R507); the flash's status is a free value. -/
def execMarginFlashWriteDone (ok : Bool) (s : State) : Host.Outcome State Fault Refusal :=
  s.clocked <|
    if !s.pw.flashWriting then s
    else
      if ok then s.onPw fun w => w.putFlash w.margin
      else ((s.onPw fun w => { w with flashWriting := false, cFlashFail := w.cFlashFail + 1 }).event 0x0807 0 0 [s.pw.margin.planTide, s.fresh]).drawn

/-! Cluster gating (R127, R512) -/

/-- Places of a cluster. -/
def placesOf (c : Nat) : List Nat := (List.range 512).filter fun p => clusterOf p == c

/-- Every slot of the cluster's tiles, and of spares serving its places, is FREE (R512). -/
def State.clusterIdle (s : State) (c : Nat) : Bool :=
  s.places.all fun q => clusterOf q.1 != c || q.2.slots.all fun k => k.2.state == .free

/-- The cluster holds a source or destination of a harbour procedure (R357, R512). -/
def State.clusterInProc (s : State) (c : Nat) : Bool :=
  s.procs.any fun j => j.units.any (fun u => u.1 == 0 && clusterOf u.2 == c)
    || (j.op == 4 && decide (j.step < 5) && (match s.harbour j.harbour with
      | some x => x.tiles.any fun p => clusterOf p == c
      | none => false))

/-- The gate bit of a cluster as PW_GATE reads it (R512). -/
def State.gateBit (s : State) (c : Nat) : Bool :=
  s.clusterPresent c && (s.lk.pool || ((s.cluster c).request.getD ((s.cluster c).gated && !(s.cluster c).ungating)))

/-- One bit of a PW_GATE write. -/
def State.askGate (c : Nat) (gate : Bool) (s : State) : State :=
  if s.gateBit c = gate then s
  else
    let x := s.cluster c
    if gate then s.onCluster c fun x => { x with request := if x.gated && !x.ungating then none else some true }
    else if x.gated then s.onCluster c fun x => { x with request := some false, wait := 2 }
    else s.onCluster c fun x => { x with request := none }

/-- PW_GATE (R512). -/
def State.writeGate (v : Word) (s : State) : State :=
  if s.lk.pool ∨ s.lk.shifting ∨ s.pw.transit ∨ s.pw.resuming then s.pwRefused
  else
    (foldState ((List.range 32).filter s.clusterPresent) (fun a c => a.askGate c (bit v c)) s).decideJob

/-- A write of PW_GATE. -/
def execPwGateWrite (m : Master) (v : Word) (s : State) : Host.Outcome State Fault Refusal :=
  s.clocked <| s.privWrite m 0x20058 fun s => s.writeGate v

/-- Gating requests are applied or refused, and accepted ungatings applied, at a boundary (R127, R494, R512). -/
def State.gateBoundary (s : State) : State :=
  let one (a : State) (c : Nat) : State :=
    let x := a.cluster c
    let a := if !x.gated ∧ !x.accepts then a.onCluster c fun x => { x with accepts := true } else a
    match x.request with
    | none => a
    | some true =>
      if a.clusterInProc c then (a.onCluster c fun x => { x with request := none }).hbRefused
      else if !a.clusterIdle c then (a.onCluster c fun x => { x with request := none }).pwRefused
      else a.onCluster c fun x => { x with request := none, gated := true, ungating := false }
    | some false =>
      if 1 < x.wait ∨ a.pw.fAllow < a.tide.jobFreq then a.onCluster c fun x => { x with wait := x.wait - 1 }
      else a.onCluster c fun x => { x with request := none, ungating := true, wait := 0 }
  let s1 := foldState (List.range 32) one s
  s1.decideChanged.setRegions

/-- An ungating completes; the cluster's tiles accept placements from the next boundary (R127). -/
def execUngateComplete (cluster : Nat) (s : State) : Host.Outcome State Fault Refusal :=
  s.clocked <| if 32 ≤ cluster ∨ !(s.cluster cluster).ungating then s
    else (s.onCluster cluster fun x => { x with gated := false, ungating := false, accepts := false }).setRegions

/-- Boundary 1 of a role shift: SHIFTING reads 1, and every present cluster is gated or ungated (R464, R465). -/
def State.roleBoundary (s : State) : State :=
  let s0 := if s.lk.berthWait then s.onLk fun x => { x with berthWait := false } else s
  match s0.lk.roleReq, s0.lk.shifting with
  | some r, false =>
    (foldState ((List.range 32).filter s0.clusterPresent) (fun a c => a.onCluster c fun x =>
      if r then { x with gated := true, ungating := false, request := none }
      else { x with ungating := x.gated, request := none }) (s0.onLk fun x => { x with shifting := true })).setRegions.decideJob
  | _, _ => s0

end Sys2Proof.Machine
end

