-- ==== Sys2Proof/Machine/RecoveryOps.lean ====
section
/-! DEFINITION. Failures, watchdogs, resets, spare substitution, retirement of places and channels (16_reliability_and_recovery;
01_module_architecture R46–R48). -/
namespace Sys2Proof.Machine
open Sys2Proof

/-! What a failure reports (R533, R539) -/

/-- Place that a physical tile serves (R46, R520). -/
def State.placeServed (s : State) (t : Nat) : Option Nat :=
  if t < 512 then (if (s.place t).spare.isSome then none else some t) else (s.tile t).standsFor

/-- Harbour and local logical number of a place, kept when it is retired (R334). -/
def State.placeName (s : State) (p : Nat) : Nat × Nat :=
  match s.hb.harbours.find? fun h => h.2.tiles.contains p with
  | some h => (h.1, s.logicalTile h.1 p)
  | none => (0, 0)

/-- Harbour and local logical number of a channel. -/
def State.channelName (s : State) (c : Nat) : Nat × Nat :=
  match s.hb.harbours.find? fun h => h.2.channels.contains c with
  | some h => (h.1, (h.2.channels.zipIdx.find? fun x => x.1 == c).map (·.2) |>.getD 0)
  | none => (0, 0)

/-- SPAN_RESET, for a unit of a harbour that spans modules (R533). -/
def State.spanReset (kind n : Nat) (name : Nat × Nat) (s : State) : State :=
  match s.harbour name.1 with
  | some h => if h.span then s.event 0x0908 7 name.1 [pair name.1 h.spanId, pair kind n, w64 name.2] else s
  | none => s

/-- UNIT_FAILED (R514, R539). -/
def State.unitFailed (kind n cause : Nat) (name : Nat × Nat) (s : State) : State :=
  s.event 0x0902 kind n [pair kind n, w64 cause, pair name.1 name.2]

/-! Launches on a tile that is reset, fails or is retired (R200, R519, R521) -/

/-- A part's error is unit reset or failure; a tile that cannot be read leaves every other field zero (R519). -/
def PartCtx.lostUnit (readable : Bool) (c : PartCtx) : PartCtx := if readable then { c with errCode := 14 } else { errCode := 14 }

/-- End the launch of one slot, and clear the slot at once, whatever state it is in (R128, R519). -/
def State.endSlot (p k : Nat) (readable : Bool) (s : State) : State :=
  let v := s.slotAt p k
  if v.state = .free then s
  else
    let s1 := (s.onCtx p k (PartCtx.lostUnit readable)).abortLaunch v.entry .fault (some v.part)
    if (s1.slotAt p k).state = .free then s1
    else
      let s2 := (s1.onLaunch v.entry fun e => { e with parts := e.parts.set v.part .ended }).freeSlot p k
      match s2.launch v.entry with
      | none => s2
      | some e =>
        let rest := e.retiring && e.parts.any fun x => match x with | .slot _ _ => true | _ => false
        if s2.stillBusy v.entry ∨ rest then s2 else s2.complete v.entry

/-- End every launch with a part resident on a place (R519). -/
def State.endResident (p : Nat) (readable : Bool) (s : State) : State :=
  (foldState ((s.place p).slots.map (·.1)) (fun a k => a.endSlot p k readable) s).settle

/-- The saved parts of a launch on a place, as its capture record shows them: at most eight, the lowest the cause (R200). -/
def State.savedCapture (s : State) (e : Launch) (p : Nat) (readable : Bool) : List PartCapture :=
  let ps := (e.parts.zipIdx.filter fun x => x.1.savedOn == some p).take 8
  ps.zipIdx.map fun x =>
    let all := (s.place p).heap ++ match s.harbour e.harbour with | some h => h.poolEvicted ++ h.poolReserve | none => []
    let c := match all.find? fun r => r.part == x.1.2 && s.launch r.entry == some e with
      | some r => r.ctx
      | none => {}
    ⟨x.1.2, s.logicalNumber e.harbour p, 0, x.2 == 0, c.lostUnit (readable || x.1.1 == .pool p)⟩

/-- Hold-bound saved launches with a record that was saved on a place, in its save heap or evicted to the pool (R135, R200). -/
def State.boundSaved (s : State) (p : Nat) : List Nat :=
  s.entriesOf fun e => e.holdBound && e.parts.any fun x => x.savedOn == some p

/-- The hold-bound saved launches of a retired place end with FAULT, contexts lost (R200). -/
def State.endBoundSaved (p : Nat) (readable : Bool) (s : State) : State :=
  foldState (s.boundSaved p) (fun a l =>
    match a.launch l with
    | none => a
    | some e =>
      ((a.markLost e.context e.harbour e.ident (worse e.status .fault)).onLaunch l fun e => { e with
        capture := if e.capture.isEmpty then a.savedCapture e p readable else e.capture }).abortLaunch l .fault none) s

/-! Retirement of a place (R521) -/

/-- Retire a place. A spare that serves it returns idle, unless it has failed; the tile of an unsubstituted place takes ROLE 3
(R520, R521, R538). -/
def State.retirePlace (p : Nat) (readable : Bool) (s : State) : State :=
  if (s.place p).cond = .retired ∨ !s.placePresent p then s
  else
    let name := s.placeName p
    let ended := (s.boundSaved p).length
    let s1 := ((s.endResident p readable).endBoundSaved p (!(s.place p).holdFailed)).settle
    let sp := spareOf p
    let s2 := if (s1.place p).spare.isSome then
        s1.onTile sp fun t => { t with standsFor := none, retired := t.failed, credH := 0, credGen := 0 }
      else s1.onTile p fun t => { t with retired := true }
    let s3 := s2.onPlace p fun x => { x with cond := .retired, spare := none, outOfService := false, subst := 0, resume := 0 }
    ((s3.event 0x0905 1 p [w64 p, pair name.1 name.2, w64 ended]).procUnitFailed 0 p).spanReset 1 p name

/-! Failed tiles (R514, R520) -/

/-- The spare of a column can serve a place: it is present, idle and not failed. -/
def State.spareFree (s : State) (p : Nat) : Bool :=
  let t := s.tile (spareOf p)
  t.standsFor.isNone && !t.failed && !t.retired

/-- A tile is failed from now on (R514, R520, R521). A procedure that names its place goes on when a spare serves it (R356). A second
tile of a column that fails before the column's spare is in service waits too; the place whose SPARE_IN comes second is retired then
(log entry 128). -/
def State.failTile (t cause : Nat) (s : State) : State :=
  if !s.tilePresent t ∨ (s.tile t).failed then s
  else
    let s1 := s.onTile t fun x => { x with failed := true, failCause := cause, errorHalt := true }
    match s.placeServed t with
    | none =>
      (if t < 512 then s1 else s1.onTile t fun x => { x with retired := true }).unitFailed 1 t cause (0, 0)
    | some p =>
      let name := s.placeName p
      let s2 := (s1.unitFailed 1 t cause name).endResident p false
      if (s.place p).cond = .retired then s2
      else if t < 512 ∧ s.spareFree p then
        let s3 := s2.onPlace p fun x => { x with outOfService := true, subst := if s.hostMode 2 then 0 else 1, resume := 0 }
        let s4 := if s.hostMode 2 then s3.event 0x0903 1 t [w64 t, w64 (spareOf p)] else s3
        s4.spanReset 1 t name
      else s2.retirePlace p false

/-- Placed scans whose range includes the logical channel of a physical channel (R244). -/
def State.scansOn (s : State) (ch : Nat) : List Nat :=
  (s.hm.launches.filter fun x => x.2.state == .active && match tabFind s.scans x.1 with
    | some z => (s.scanChannels x.2.harbour z).contains ch
    | none => false).map (·.1)

/-- A channel controller fails or is retired: every placed scan with it in its range ends (R244, R522). -/
def State.failChannel (ch cause : Nat) (s : State) : State :=
  if !s.channelPresent ch ∨ (s.chan ch).retired then s
  else
    let name := s.channelName ch
    let scans := s.scansOn ch
    let s1 := ((s.onChan ch fun c => { c with retired := true, retireCause := cause }).onHb fun m => { m with
      channels := tabPut m.channels ch .retired }).unitFailed 3 ch cause name
    let s2 := s1.event 0x0906 3 ch [w64 ch, pair name.1 name.2]
    ((foldState scans (fun a l => (a.endScan l .fault).settle) s2).procUnitFailed 1 ch).spanReset 3 ch name

/-- A Mill fails: its scans end, and it stops (R244, R523). -/
def State.failMill (mill cause : Nat) (s : State) : State :=
  if !s.millPresent mill ∨ (s.mill mill).failed then s
  else
    let name := s.channelName mill
    let scans := s.scansOn mill
    let s1 := (s.onMill mill fun m => { m with failed := true, failCause := cause }).unitFailed 4 mill cause name
    (foldState scans (fun a l => ((a.endScan l .fault).millAborted mill l).settle) s1).spanReset 4 mill name

/-- A unit is failed for a cause (R514). -/
def State.failUnit (u : HangUnit) (cause : Nat) (s : State) : State :=
  match u with
  | .tile t => s.failTile t cause
  | .mill m => s.failMill m cause
  | .channel c => s.failChannel c cause

/-- UNIT_KIND and number of a unit (R535). -/
def hangName : HangUnit → Nat × Nat
  | .tile t => (1, t)
  | .mill m => (4, m)
  | .channel c => (3, c)

/-- A unit is declared hung (R515, R516). -/
def State.hung (u : HangUnit) (cause : Nat) (s : State) : State :=
  (s.event 0x0901 (hangName u).1 (hangName u).2 [pair (hangName u).1 (hangName u).2, w64 cause]).failUnit u cause

/-! Watchdogs (R515, R516) -/

/-- A liveness acknowledgement is expected of the unit: not gated, in reset, retired, failed, nor an idle spare (R515). -/
def State.answers (s : State) (u : HangUnit) : Bool :=
  match u with
  | .tile t =>
    (match s.placeServed t with
    | some p => s.tilePresent t && !(s.tile t).failed && !(s.tile t).inReset && !(s.tile t).retired
        && !(s.cluster (clusterOf p)).gated && !(s.cluster (clusterOf p)).inReset
    | none => false)
  | .mill m => s.millPresent m && !(s.mill m).failed
  | .channel c => s.channelPresent c && !(s.chan c).retired

/-- Misses of a unit, and a change of them. -/
def State.misses (s : State) (u : HangUnit) : Nat :=
  match u with
  | .tile t => (s.tile t).misses
  | .mill m => (s.mill m).misses
  | .channel c => (s.chan c).misses

def State.setMisses (u : HangUnit) (n : Nat) (s : State) : State :=
  match u with
  | .tile t => s.onTile t fun x => { x with misses := n }
  | .mill m => s.onMill m fun x => { x with misses := n }
  | .channel c => s.onChan c fun x => { x with misses := n }

/-- Units with a miss on record. -/
def State.missers (s : State) : List HangUnit :=
  (s.tiles.filter fun t => t.2.misses != 0).map (fun t => HangUnit.tile t.1)
  ++ (s.mills.filter fun m => m.2.misses != 0).map (fun m => HangUnit.mill m.1)
  ++ (s.mem.chans.filter fun c => c.2.misses != 0).map (fun c => HangUnit.channel c.1)

/-- 2 µs after a boundary: units without an acknowledgement count a miss, and the second in succession declares them hung
(R515). -/
def execLivenessCheck (missing : List HangUnit) (s : State) : Host.Outcome State Fault Refusal :=
  s.clocked <|
    if !s.running then s
    else
      let s1 := foldState (s.missers.filter fun u => !missing.contains u) (fun a u =>
        if a.misses u < 2 then a.setMisses u 0 else a) s
      foldState (missing.filter s1.answers) (fun a u =>
        if !a.answers u then a
        else
          let n := a.misses u + 1
          let a1 := a.setMisses u n
          if n < 2 then a1 else a1.hung u 2) s1

/-- A slot has stayed in a transient state through HANG_TIDES boundaries (R516). -/
def execSlotWatchdog (unit : HangUnit) (slot : Nat) (s : State) : Host.Outcome State Fault Refusal :=
  s.clocked <|
    if !s.running then s
    else match unit with
    | .tile t => (match s.placeServed t with
      | some p => if s.ras.hangTides ≤ (s.slotAt p slot).stuck ∧ (s.slotAt p slot).state ≠ .free ∧ 0 < (s.slotAt p slot).stuck
          then s.hung unit 3 else s
      | none => s)
    | .mill m => let n := tabGet 0 (s.mill m).stuck slot
      if s.ras.hangTides ≤ n ∧ 0 < n then s.hung unit 3 else s
    | .channel _ => s

/-- The stuck counts of a boundary (R516). -/
def State.stuckBoundary (s : State) : State :=
  { s with
    places := s.places.map fun p => (p.1, { p.2 with slots := p.2.slots.map fun k =>
      (k.1, { k.2 with stuck := match k.2.state with | .draining | .saving | .aborting => k.2.stuck + 1 | _ => 0 }) })
    mills := s.mills.map fun m => (m.1, { m.2 with stuck :=
      (m.2.slots.filter fun k => k.2 == .aborting || k.2 == .zeroing).map fun k => (k.1, tabGet 0 m.2.stuck k.1 + 1) }) }

/-- A unit's self-check reports an error (R514). -/
def execUnitSelfCheckFail (unit : HangUnit) (s : State) : Host.Outcome State Fault Refusal :=
  s.clocked <| if s.running then s.failUnit unit 1 else s

/-- A channel controller fails (R522). -/
def execChannelControllerFail (ch cause : Nat) (s : State) : Host.Outcome State Fault Refusal :=
  s.clocked <| if s.running then s.failChannel ch cause else s

/-- A Mill fails (R523). -/
def execMillFail (mill cause : Nat) (s : State) : Host.Outcome State Fault Refusal :=
  s.clocked <| if s.running then s.failMill mill cause else s

/-- MC_RAS.RETIRE (R522, R540). -/
def execMcRetire (m : Master) (ch : Nat) (s : State) : Host.Outcome State Fault Refusal :=
  s.clocked <| s.privWrite m (0x800000 + ch * 0x1000 + 0x30) fun s => s.failChannel ch 4

/-- A place's hold fails: the place is retired (R48, R521). -/
def execHoldFailure (place : Nat) (s : State) : Host.Outcome State Fault Refusal :=
  s.clocked <| if !s.running ∨ !s.placePresent place ∨ (s.place place).holdFailed then s
    else (s.onPlace place fun x => { x with holdFailed := true }).retirePlace place true

/-! Resets (R128, R517, R518) -/

/-- The DMA engine caches of a tile are cleared (R518). -/
def State.clearTlbs (t : Nat) (s : State) : State :=
  s.onXl fun x => { x with engineTlb := tabDel (tabDel x.engineTlb (2 * t)) (2 * t + 1) }

/-- A tile enters reset: its slots are cleared, its launches end, its ERROR_HALT clears (R128, R517–R520). -/
def State.tileReset (t : Nat) (s : State) : State :=
  let s1 := match s.placeServed t with
    | some p => (s.endResident p true).spanReset 1 t (s.placeName p)
    | none => s
  (s1.onTile t fun x => { x with inReset := true, errorHalt := false, misses := 0 }).clearTlbs t

/-- Tiles of a cluster: those of its places, and spares in service for one of them (R9). -/
def State.clusterTiles (s : State) (c : Nat) : List Nat :=
  placesOf c ++ (placesOf c).filterMap fun p => if (s.place p).spare.isSome then some (spareOf p) else none

/-- Cluster whose reset a tile page names: none for an idle spare or one in ROLE 3 (R140, R517). -/
def State.resetCluster (s : State) (t : Nat) : Option Nat :=
  if t < 512 then some (clusterOf t) else (s.tile t).standsFor.map clusterOf

/-- TL_CTL.RESET. -/
def State.ctlReset (t : Nat) (s : State) : State := if s.tilePresent t then s.tileReset t else s

/-- TL_CTL.CLUSTER_RESET. -/
def State.ctlClusterReset (t : Nat) (s : State) : State :=
  if !s.tilePresent t then s
  else match s.resetCluster t with
  | none => s.tileReset t
  | some c => foldState (s.clusterTiles c) (fun a t => a.tileReset t) (s.onCluster c fun x => { x with inReset := true })

/-- TL_CTL.SUBSTITUTE: only for a failed tile, in host-assisted mode (R520, R540). -/
def State.ctlSubstitute (t : Nat) (s : State) : State :=
  if s.hostMode 2 ∧ (s.tile t).failed ∧ t < 512 ∧ (s.place t).outOfService ∧ (s.place t).resume = 0 then
    s.onPlace t fun x => { x with subst := 1 }
  else s

/-- TL_CTL.RETIRE: the place of the page, or the place that a spare in service serves; an idle spare fails (R521). -/
def State.ctlRetire (t : Nat) (s : State) : State :=
  if !s.tilePresent t then s
  else if t < 512 then s.retirePlace t true
  else match (s.tile t).standsFor with
  | some p => s.retirePlace p true
  | none => s.failTile t 4

/-- A write of TL_CTL, its bits in ascending order (R540). -/
def State.writeTlCtl (t : Nat) (v : Word) (s : State) : State :=
  let s1 := if bit v 0 then s.ctlReset t else s
  let s2 := if bit v 1 then s1.ctlClusterReset t else s1
  let s3 := if bit v 2 then s2.ctlSubstitute t else s2
  let s4 := if bit v 3 then s3.ctlRetire t else s3
  if bit v 4 then s4.failTile t 4 else s4

/-- TL_CTL of a tile (R139, R540). -/
def tlCtl (t : Nat) : Nat := 0x400028 + t * 0x1000

def execTlReset (m : Master) (tile : Nat) (s : State) : Host.Outcome State Fault Refusal :=
  s.clocked <| s.privWrite m (tlCtl tile) fun s => s.ctlReset tile
def execTlClusterReset (m : Master) (tile : Nat) (s : State) : Host.Outcome State Fault Refusal :=
  s.clocked <| s.privWrite m (tlCtl tile) fun s => s.ctlClusterReset tile
def execTlSubstitute (m : Master) (tile : Nat) (s : State) : Host.Outcome State Fault Refusal :=
  s.clocked <| s.privWrite m (tlCtl tile) fun s => s.ctlSubstitute tile
def execTlRetire (m : Master) (tile : Nat) (s : State) : Host.Outcome State Fault Refusal :=
  s.clocked <| s.privWrite m (tlCtl tile) fun s => s.ctlRetire tile
def execTlFail (m : Master) (tile : Nat) (s : State) : Host.Outcome State Fault Refusal :=
  s.clocked <| s.privWrite m (tlCtl tile) fun s => s.failTile tile 4

/-- A tile leaves reset, with its credentials reloaded from its place's binding; its fenced bit then clears (R341, R342, R518). -/
def State.tileOut (t : Nat) (s : State) : State :=
  let cred := match (s.placeServed t).map fun p => (s.place p).cond with | some (.bound h g) => (h, g) | _ => (0, 0)
  s.onTile t fun x => { x with inReset := false, credH := cred.1, credGen := cred.2, fenced := false }

/-- A tile reset completes, or the reset of the cluster whose page it was written on (R128, R518). -/
def execTileResetComplete (tile : Nat) (s : State) : Host.Outcome State Fault Refusal :=
  s.clocked <| match s.resetCluster tile with
  | some c =>
    if (s.cluster c).inReset then
      foldState (s.clusterTiles c) (fun a t => a.tileOut t) (s.onCluster c fun x => { x with inReset := false })
    else if (s.tile tile).inReset then s.tileOut tile else s
  | none => if (s.tile tile).inReset then s.tileOut tile else s

/-- A cluster's reset has not completed after 20 µs: its tiles are failed and its places retired (R517, R521). -/
def execClusterResetTimeout (cluster : Nat) (s : State) : Host.Outcome State Fault Refusal :=
  s.clocked <|
    if !(s.cluster cluster).inReset then s
    else
      let ts := s.clusterTiles cluster
      foldState ((placesOf cluster).filter s.placePresent) (fun a p => a.retirePlace p false)
        (foldState ts (fun a t => if (a.tile t).failed then a else
          (a.onTile t fun x => { x with failed := true, failCause := 5, errorHalt := true }).unitFailed 1 t 5
            (match a.placeServed t with | some p => a.placeName p | none => (0, 0))) s)

/-! Spare substitution (R520) -/

/-- The spare of a failed place is reset and loaded, at the boundary of the substitution (R520 step 2); a spare that has failed
since retires the place (R538). -/
def execSpareIn (place : Nat) (s : State) : Host.Outcome State Fault Refusal :=
  s.clocked <|
    let x := s.place place
    if x.subst ≠ 2 ∨ !x.outOfService ∨ s.hm.takeover then s
    else if !s.spareFree place then s.retirePlace place false
    else
      let sp := spareOf place
      let cred := match x.cond with | .bound h g => (h, g) | _ => (0, 0)
      (((s.onPlace place fun x => { x with spare := some (place % 16), subst := 0, resume := 1 }).onTile sp fun t => { t with
        standsFor := some place, inReset := false, fenced := false, credH := cred.1, credGen := cred.2 }).onTile place fun t =>
          { t with retired := true }).event 0x0904 1 sp [pair sp place, pair cred.1 cred.2]

/-- The boundary after a substitution: the place accepts placements again, and records stored in its hold are restored on the
spare (R198, R520 step 3). -/
def execPlaceResume (place : Nat) (s : State) : Host.Outcome State Fault Refusal :=
  s.clocked <| if (s.place place).resume ≠ 2 then s
    else
      let s1 := s.onPlace place fun x => { x with outOfService := false, resume := 0 }
      if s1.hmSilent then s1 else (foldState (s1.plan fun _ => true) (fun a l => a.tryPlace l) s1).settle

/-- Substitutions and resumptions fall due at a boundary; in hardware mode every failed place that waits is substituted (R520,
R537). -/
def State.spareBoundary (s : State) : State :=
  { s with places := s.places.map fun p => (p.1, if !p.2.outOfService then p.2 else { p.2 with
      subst := if p.2.resume = 0 ∧ (p.2.subst ≠ 0 ∨ !s.hostMode 2) then 2 else p.2.subst
      resume := if p.2.resume = 0 then 0 else 2 }) }

end Sys2Proof.Machine
end

