-- ==== Sys2Proof/Machine/SecurityOps.lean ====
section
/-! DEFINITION. The security controller: key slots and their updates, attestation, and PCIe IDE streams (17_security). -/
namespace Sys2Proof.Machine
open Sys2Proof

/-- The coin cell: BATT_LOW reads 1 below 2.5 V and is raised once per crossing (R553). -/
def execBattLow (mv : Nat) (s : State) : Host.Outcome State Fault Refusal :=
  done <|
    if !s.pins.enA ∧ !s.running then s
    else if 2500 ≤ mv then s.onSec fun c => { c with battLow := false }
    else if s.sec.battLow then s
    else (s.onSec fun c => { c with battLow := true }).event 0x0A04 0 0 [w64 mv]

/-! Key updates (R555–R557) -/

/-- A result of an update: its REASON, and the event of acceptance or refusal (R557, R562). -/
def State.keyResult (reason : Nat) (carried ops : Word) (s : State) : State :=
  let s1 := s.onSec fun c => { c with results := c.results + 1, reason := reason }
  if reason = 0 then s1.event 0x0A01 0 0 [carried, ops]
  else (s1.onSec fun c => { c with cReject := c.cReject + 1 }).event 0x0A02 0 0 [w64 reason, carried, s.sec.counter]

/-- COUNTER of the message at an address, zero where it cannot be read. -/
def State.keyCounter (s : State) (a : Nat) : Word :=
  match s.word0 (a + 16) with | some (w, false) => w | _ => 0

/-- SC_KEYUPD submits a message; while an update is in progress the write is refused with BUSY (R556, R557, R561). -/
def State.submitKeys (v : Word) (s : State) : State :=
  let a := bits v 6 42 * 64
  if s.sec.upd.isSome then s.keyResult 1 (s.keyCounter a) 0 else s.onSec fun c => { c with upd := some a }

/-- A write of SC_KEYUPD. -/
def execScKeyupd (m : Master) (v : Word) (s : State) : Host.Outcome State Fault Refusal :=
  s.clocked <| s.privWrite m 0x30028 fun s => s.submitKeys v

/-- One operation of an update (R556). -/
structure KeyOp where
  slot : Nat
  op : Nat
  attr : Nat
  ok : Bool
  deriving DecidableEq, Repr

/-- Operation `e` of a message (R556). -/
def keyOp (bs : List Byte) (e : Nat) : KeyOp :=
  let at8 (o : Nat) : Nat := leNat ((bs.drop (0x6C0 + 64 * e + o)).take 8)
  let w := at8 0
  let op := bitsN w 6 2
  let attr := bitsN w 8 32
  let zero (o n : Nat) : Bool := ((bs.drop (0x6C0 + 64 * e + o)).take n).all (· == 0)
  { slot := bitsN w 0 6, op := op, attr := attr
    ok := decide (op ≤ 1) && bitsN w 40 24 == 0 && at8 8 == 0 && zero 0x30 16
      && (if op = 0 then decide (bitsN attr 0 4 ≤ 1) && bitsN attr 20 12 == 0 else attr == 0) }

/-- A slot is named twice. -/
def slotTwice : List Nat → Bool
  | [] => false
  | x :: xs => xs.contains x || slotTwice xs

/-- The header is well formed, as far as it goes without the entries (R556). -/
def keyHeaderOk (bs : List Byte) : Bool :=
  let w (i : Nat) : Nat := leNat ((bs.drop (8 * i)).take 8)
  let ops := bitsN (w 0) 40 7
  bitsN (w 0) 0 32 == 0x4B555044 && bitsN (w 0) 32 8 == 1 && decide (1 ≤ ops ∧ ops ≤ 64) && bitsN (w 0) 47 17 == 0
  && w 3 == 6467 + 64 * ops && (List.range 4).all fun i => w (4 + i) == 0

/-- The REASON of the first check that fails, with the COUNTER carried and the operations (R557). -/
def State.keyReason (s : State) (a : Nat) (c : KeyChecks) : Nat × Word × List KeyOp :=
  if !s.sec.rootValid then (2, s.keyCounter a, [])
  else match s.readH 0 a 64 with
  | none => (3, 0, [])
  | some (_, true) => (3, 0, [])
  | some (h, false) =>
    let counter := BitVec.ofNat 64 (leNat ((h.drop 16).take 8))
    if !keyHeaderOk h then (4, counter, [])
    else
      let n := bitsN (leNat (h.take 8)) 40 7
      match s.readH 0 a (6467 + 64 * n) with
      | none => (3, counter, [])
      | some (_, true) => (3, counter, [])
      | some (bs, false) =>
        let ops := (List.range n).map (keyOp bs)
        if !(ops.all (·.ok)) ∨ slotTwice (ops.map (·.slot)) then (4, counter, ops)
        else if BitVec.ofNat 64 (leNat ((h.drop 8).take 8)) ≠ s.uid then (5, counter, ops)
        else if counter ≤ s.sec.counter then (6, counter, ops)
        else if !c.mldsaOk then (7, counter, ops)
        else if !c.ecdsaOk then (8, counter, ops)
        else if !c.decryptOk then (9, counter, ops)
        else (0, counter, ops)

/-- Write every operation into the bank that is not selected, over a copy of the other's slots, and flip the selector (R554,
R555). -/
def State.applyKeys (counter : Word) (ops : List KeyOp) (keys : List (BitVec 256)) (s : State) : State :=
  let old := if s.sec.selB then s.sec.bankB else s.sec.bankA
  let new := ops.zipIdx.foldl (fun t o =>
    if o.1.op = 1 then tabDel t o.1.slot
    else tabPut t o.1.slot { usage := bitsN o.1.attr 0 4, partner := bitsN o.1.attr 4 16, key := keys.getD o.2 0, counter := counter }) old
  s.onSec fun c => { c with
    bankA := if c.selB then new else c.bankA
    bankB := if c.selB then c.bankB else new
    selB := !c.selB
    counter := counter
    slotBad := c.slotBad.filter fun k => !(ops.any fun o => o.slot == k) }

/-- The checks of an update end: it is applied and accepted, or refused (R557). -/
def execKeyUpdate (c : KeyChecks) (s : State) : Host.Outcome State Fault Refusal :=
  s.clocked <| match s.sec.upd with
  | none => s
  | some a =>
    let (reason, counter, ops) := s.keyReason a c
    let s1 := s.onSec fun x => { x with upd := none }
    if reason = 0 then ((s1.applyKeys counter ops c.keys).unstall).keyResult 0 counter (w64 ops.length)
    else s1.keyResult reason counter 0

/-! Attestation (R558–R560) -/

/-- VALID_s of SC_SLOTS (R554, R563). -/
def State.slotValid (s : State) (k : Nat) : Bool := !(s.keySlot k).empty

/-- SC_SLOTS. -/
def State.slotsWord (s : State) : Word := w64 (((List.range 64).filter s.slotValid).map (2 ^ ·)).sum

/-- The accepted image. -/
def State.acceptedImage (s : State) : Image := if s.boot.slotB then s.boot.imageB else s.boot.imageA

/-- Index 7: the public keys of the key-transport pairs, ML-KEM-1024 of 1,568 bytes, then ECDH P-384 of 96 bytes (R559). -/
def State.transportKeys (s : State) : List Word :=
  match s.sec.keys with
  | some k => bytesWords 196 (natBytes 1568 k.mlKem.2) ++ bytesWords 12 (natBytes 96 k.ecdh.2)
  | none => List.replicate 208 0

/-- A measurement block: a digest, the public keys for index 7 (R559). -/
def State.measurement (s : State) (i : Nat) : List Word :=
  let x := s.acceptedImage
  if i = 7 then s.transportKeys else
  [Config.digest i (match i with
    | 2 => [x.version, w64 x.svn, w64 x.len, w64 x.groupId, w64 x.masterNode]
    | 3 => [x.version]
    | 4 => x.records.flatMap fun r => [w64 r.1, r.2]
    | 5 => x.map.flatten
    | 6 => [if s.sec.rootValid then 1 else 0, s.sec.counter, s.slotsWord, w64 s.sec.ideRequired, s.portKeyWord 0, s.portKeyWord 1,
        w64 s.sec.partnerId]
    | _ => [])]

/-- The responder answers with words, or with ERROR Unspecified; request codes are those of DSP0274 (log entry 47). -/
def State.spdm (code : Nat) (error : Bool) (ws : List Word) (s : State) : State := s.emit (.spdm code error (if error then [] else ws))

/-- The responder can answer: the security controller has power and runs. -/
def State.spdmUp (s : State) : Bool := s.boot.life != .unpowered

def State.spdmAnswer (code : Nat) (error : Bool) (ws : List Word) (s : State) : State :=
  if s.spdmUp then s.spdm code error ws else s

/-- GET_VERSION: 1.2 and 1.3 (R558). -/
def execGetVersion (s : State) : Host.Outcome State Fault Refusal := done <| s.spdmAnswer 0x84 false [0x12, 0x13]

/-- GET_CAPABILITIES: CERT, CHAL, MEAS with signature, KEY_EX, ENCRYPT, MAC, HBEAT, KEY_UPD, at their bits of DSP0274 (R558,
log entry 47). -/
def execGetCapabilities (s : State) : Host.Outcome State Fault Refusal :=
  done <| s.spdmAnswer 0xE1 false [w64 (2 ^ 1 + 2 ^ 2 + 2 ^ 4 + 2 ^ 6 + 2 ^ 7 + 2 ^ 9 + 2 ^ 13 + 2 ^ 14), 4096]

/-- NEGOTIATE_ALGORITHMS: ECDSA P-384, SHA-384, secp384r1, AES-256-GCM, or an error where the requester offers no such set
(R558). -/
def execNegotiateAlgorithms (ok : Bool) (s : State) : Host.Outcome State Fault Refusal := done <| s.spdmAnswer 0xE3 (!ok) [1]

/-- GET_MEASUREMENTS: one block, all of them for index 0xFF, their number for index 0; ERROR while ROOT_VALID reads 0 (R559,
R560). -/
def execGetMeasurements (index : Nat) (s : State) : Host.Outcome State Fault Refusal :=
  done <|
    let bad := !s.sec.rootValid || decide (7 < index ∧ index ≠ 255)
    s.spdmAnswer 0xE0 bad (if index = 0 then [7] else if index = 255 then (List.range 7).flatMap fun i => s.measurement (i + 1)
      else s.measurement index)

/-- Request code of another supported request (DSP0274, log entry 47). -/
def spdmCode : SpdmReq → Nat
  | .getDigests => 0x81
  | .getCertificate => 0x82
  | .challenge => 0x83
  | .keyExchange => 0xE4
  | .finish => 0xE5
  | .heartbeat => 0xE8
  | .keyUpdate => 0xE9
  | .endSession => 0xEC

/-- Another supported SPDM request: at most four sessions; what belongs to a session needs one (R558, R560). -/
def execSpdmOtherRequest (r : SpdmReq) (s : State) : Host.Outcome State Fault Refusal :=
  done <|
    let n := s.sec.sessions
    let bad := !s.sec.rootValid || (match r with
      | .keyExchange => decide (4 ≤ n)
      | .finish | .heartbeat | .keyUpdate | .endSession => n == 0
      | _ => false)
    let s1 := if bad ∨ !s.spdmUp then s else match r with
      | .keyExchange => s.onSec fun c => { c with sessions := n + 1 }
      | .endSession => s.onSec fun c => { c with sessions := n - 1 }
      | _ => s
    s1.spdmAnswer (spdmCode r) bad [Config.digest (spdmCode r) [s.uid]]

/-! PCIe IDE (R544, R545) -/

/-- A stream of a link. -/
def State.stream (s : State) (link stream : Nat) : IdeStream := tabGet {} s.sec.streams (link * 16 + stream)
def State.onStream (link stream : Nat) (f : IdeStream → IdeStream) (s : State) : State :=
  s.onSec fun c => { c with streams := tabMod {} c.streams (link * 16 + stream) f }

/-- IDE_KM reaches the stream: in a secured session, on a link that is up; one link stream and eight selective ones (R544). -/
def State.ideKm (s : State) (link stream set : Nat) : Bool :=
  decide (0 < s.sec.sessions ∧ stream ≤ 8 ∧ set ≤ 1) && (s.link link).up

/-- KEY_PROG programs a key set of a stream. -/
def execKeyProg (link stream set : Nat) (s : State) : Host.Outcome State Fault Refusal :=
  s.clocked <| if !s.ideKm link stream set then s
    else s.onStream link stream fun x => if set = 0 then { x with prog0 := true } else { x with prog1 := true }

/-- K_SET_GO activates a programmed key set: the stream is in the Secure state. -/
def execKSetGo (link stream set : Nat) (s : State) : Host.Outcome State Fault Refusal :=
  s.clocked <|
    let x := s.stream link stream
    if !s.ideKm link stream set ∨ !(if set = 0 then x.prog0 else x.prog1) then s
    else s.onStream link stream fun x => { x with active := some set, secure := true }

/-- K_SET_STOP stops a key set: the stream leaves the Secure state when it was the active one. -/
def execKSetStop (link stream set : Nat) (s : State) : Host.Outcome State Fault Refusal :=
  s.clocked <| if !s.ideKm link stream set then s
    else s.onStream link stream fun x =>
      let y := if set = 0 then { x with prog0 := false } else { x with prog1 := false }
      if x.active = some set then { y with active := none, secure := false } else y

/-- A stream leaves the Secure state after an integrity failure (R545). -/
def execIdeInsecure (link stream : Nat) (s : State) : Host.Outcome State Fault Refusal :=
  s.clocked <| if !(s.stream link stream).secure then s
    else ((s.onStream link stream fun x => { x with active := none, secure := false }).onSec fun c => { c with cIde := c.cIde + 1 }).event
      0x0A05 0 0 [w64 link, w64 stream]

/-! Register writes of the SC_ block (R563) -/

/-- SC_PORTKEY_j: a stalled lane group takes its key once its slot holds one (R546, R547). -/
def State.writePortKey (j : Nat) (v : Word) (s : State) : State :=
  let put (t : Tab (Nat × Bool)) (i : Nat) : Tab (Nat × Bool) :=
    if !s.portPresent (8 * j + i) then t
    else if bits v (8 * i) 8 = 0 then tabDel t (8 * j + i)
    else tabPut t (8 * j + i) (bits v (8 * i) 6, bit v (8 * i + 7))
  (s.onSec fun c => { c with portKey := (List.range 8).foldl put c.portKey }).unstall

end Sys2Proof.Machine
end

