-- ==== Sys2Proof/Machine/HostOps.lean ====
section
/-! DEFINITION. The host's view of memory: handles and memory objects, page tables as the pilot writes them, BAR2 apertures,
MSI-X, and what a command waits for (18_host_interface R568, R569, R574, R576–R580; R382, R401–R403, R410). -/
namespace Sys2Proof.Machine
open Sys2Proof

/-- The lowest number below `n` that is not in use, or `n`. -/
def lowestFree (n : Nat) (used : Nat → Bool) : Nat := ((List.range n).find? fun i => !used i).getD n

/-! Handles (R574) -/

/-- The entry of a context's object table that a handle names (R574). -/
def Ctx.handle (c : Ctx) (h : Nat) : Option (Nat × Handle) :=
  match tabFind c.handles (h % 2 ^ 24) with
  | none => none
  | some x => if x.obj.isSome ∧ h / 2 ^ 24 = x.gen then some (h % 2 ^ 24, x) else none

/-- A new entry of a context's object table: the handle; none when the table's 2²⁴ entries are in use. The entry's generation goes on
from its last use (R574, R576). -/
def State.newHandle (asid obj rights : Nat) (s : State) : Option (Nat × State) :=
  match s.ctx asid with
  | none => none
  | some c =>
    let used (i : Nat) : Bool := match tabFind c.handles i with | some x => x.obj.isSome | none => false
    let i := lowestFree (c.handles.length + 1) used
    let last := match tabFind c.handles i with | some x => some x.gen | none => tabFind s.hif.handleGen (asid * 2 ^ 24 + i)
    let gen := match last with | some g => (g + 1) % 256 | none => 0
    if 2 ^ 24 ≤ i then none
    else some (gen * 2 ^ 24 + i, s.onAsid asid fun c =>
      { c with handles := tabPut c.handles i { gen := gen, obj := some obj, rights := rights } })

/-- A new entry of the export table: the token; none when the table's 2²⁴ entries are in use (R574, R576). -/
def State.newToken (e : Export) (s : State) : Option (Nat × State) :=
  let t := s.hif.exports
  let used (i : Nat) : Bool := match tabFind t i with | some x => x.2.isSome | none => false
  let i := lowestFree (t.length + 1) used
  let gen := match tabFind t i with | some x => (x.1 + 1) % 256 | none => 0
  if 2 ^ 24 ≤ i then none else some (gen * 2 ^ 24 + i, s.onHif fun h => { h with exports := tabPut h.exports i (gen, some e) })

/-- What a token names (R574). -/
def State.token (s : State) (t : Nat) : Option Export :=
  match tabFind s.hif.exports (t % 2 ^ 24) with
  | none => none
  | some x => if t / 2 ^ 24 = x.1 then x.2 else none

/-! Memory objects (R382, R578, R579) -/

/-- The bytes of an object on its channels. -/
def State.objPieces (s : State) (o : MemObj) : List Piece := (s.resolve o.harbour o.addr o.len).getD []

/-- Two pieces share a byte. -/
def pieceMeets (a b : Piece) : Bool := a.ch == b.ch && decide (a.byte < b.byte + b.len ∧ b.byte < a.byte + a.len)

/-- A new object would share a byte with a live object of the harbour (R578). -/
def State.objMeets (s : State) (o : MemObj) : Bool :=
  let ps := s.objPieces o
  s.hif.objs.any fun x => x.2.harbour == o.harbour && (s.objPieces x.2).any fun a => ps.any (pieceMeets a)

/-- Remove an object; tokens of it name nothing. -/
def State.dropObj (o : Nat) (s : State) : State :=
  s.onHif fun h => { h with
    objs := tabDel h.objs o
    exports := h.exports.map fun e => match e.2.2 with
      | some (.mem x _) => if x = o then (e.1, (e.2.1, none)) else e
      | _ => e }

/-- Zero an object that nothing references or pins: the written-bits of its bytes are cleared, and it is free when the last of
its channels has cleared (R375, R382). -/
def State.zeroObj (o : Nat) (s : State) : State :=
  match tabFind s.hif.objs o with
  | none => s
  | some x =>
    let ps := s.objPieces x
    let s1 := foldState ps (fun a p => a.hbmWipe p.ch p.byte p.len) s
    if ps.isEmpty then s1.dropObj o
    else s1.onHif fun h => { h with zeroing := tabPut h.zeroing o ((ps.map (·.ch)).foldl setIns []) }

/-- Zero every object that nothing references any more and that is not pinned (R578, R591). -/
def State.sweepObjs (s : State) : State :=
  foldState (s.hif.objs.filter fun x => x.2.refs == 0 && (tabFind s.hif.zeroing x.1).isNone && !s.objPinned x.1)
    (fun a x => a.zeroObj x.1) s

/-- Drop one reference of an object; with the last, its pin count goes (R578, log entry 48). -/
def State.dropRef (o : Nat) (s : State) : State :=
  (s.onHif fun h => match tabFind h.objs o with
    | none => h
    | some x => { h with objs := tabPut h.objs o { x with refs := x.refs - 1, pins := if x.refs ≤ 1 then 0 else x.pins } }).sweepObjs

/-! Page tables (R401–R403, R580) -/

/-- Bytes of a page by PAGE (R577). -/
def pageBytes (page : Nat) : Nat :=
  match page with
  | 0 => 4096
  | 1 => 65536
  | 2 => 2097152
  | _ => 1073741824

/-- Level of the leaf of a page (R401, R403). -/
def pageLevel (page : Nat) : Nat := page - 1

/-- Index of an address in a table of a level (R401). -/
def tableIndex (va vaBits level : Nat) : Nat :=
  if level = 3 then va / 2 ^ 39 % 2 ^ (vaBits - 39) else va / 2 ^ levelLo level % 512

/-- Address of the entry of `va` at level `target`, below a table of the level given. -/
def State.entryAt (s : State) (va vaBits target : Nat) : Nat → Nat → Option Nat
  | 0, t => some (t + 8 * tableIndex va vaBits 0)
  | level + 1, t =>
    let a := t + 8 * tableIndex va vaBits (level + 1)
    if level + 1 = target then some a
    else match s.word0 a with
    | some (e, _) => if bit e 0 && bit e 1 then s.entryAt va vaBits target level (bits e 12 36 * 4096) else none
    | none => none

/-- Clear a range of harbour 0's HBM: it reads as zero. -/
def State.clear0 (a n : Nat) (s : State) : State :=
  match s.resolve 0 a n with
  | none => s
  | some ps => foldState ps (fun b p => b.hbmWipe p.ch p.byte p.len) s

/-- Make the tables between a table of the level given and level `target` for an address, from the context's pool; `none` when
the pool cannot hold them (R580). -/
def State.growTables (asid va target : Nat) : Nat → Nat → State → Option State
  | 0, _, s => some s
  | level + 1, t, s =>
    if level + 1 ≤ target then some s
    else match s.ctx asid with
    | none => none
    | some c =>
      let a := t + 8 * tableIndex va c.vaBits (level + 1)
      match s.word0 a with
      | none => none
      | some (e, _) =>
        if bit e 0 then State.growTables asid va target level (bits e 12 36 * 4096) s
        else if c.poolLen < c.poolUsed + 4096 then none
        else
          let n := c.poolAddr + c.poolUsed
          State.growTables asid va target level n
            (((s.clear0 n 4096).put0 a [w64 (n + 3)]).onAsid asid fun c => { c with poolUsed := c.poolUsed + 4096 })

/-- Write the leaf of one page (R402, R403). -/
def State.mapPage (asid va page rights output : Nat) (s : State) : Option State :=
  match s.ctx asid with
  | none => none
  | some c =>
    match s.growTables asid va (pageLevel page) 3 c.poolAddr with
    | none => none
    | some s1 =>
      match s1.entryAt va c.vaBits (pageLevel page) 3 c.poolAddr with
      | none => none
      | some a => some (s1.put0 a [w64 (1 + rights * 4 + (if page = 1 then 32 else 0) + output)])

/-- Map a range page by page, and keep the mapping (R580). -/
def State.mapRange (asid : Nat) (m : Mapping) (output : Nat) (s : State) : Option State :=
  let n := pageBytes m.page
  ((List.range (m.len / n)).foldl (fun (o : Option State) i =>
    o.bind fun a => a.mapPage asid (m.va + i * n) m.page m.rights (output + i * n)) (some s)).map fun a =>
      a.onAsid asid fun c => { c with maps := c.maps ++ [m] }

/-- Part of a mapping: bytes `lo` to `hi` of its range. -/
def Mapping.part (m : Mapping) (lo hi : Nat) : List Mapping :=
  if lo < hi then [{ m with va := lo, len := hi - lo, off := m.off + (lo - m.va) }] else []

/-- Clear the leaves of a mapping within a range. -/
def State.clearLeaves (c : Ctx) (m : Mapping) (lo hi : Nat) (s : State) : State :=
  let n := pageBytes m.page
  foldState (List.range ((hi - lo) / n)) (fun a i =>
    match a.entryAt (lo + i * n) c.vaBits (pageLevel m.page) 3 c.poolAddr with
    | none => a
    | some e => a.put0 e [0]) s

/-- Remove every mapping of a context within a range that `f` selects. -/
def State.unmapRange (asid va len : Nat) (f : Mapping → Bool) (s : State) : State :=
  match s.ctx asid with
  | none => s
  | some c =>
    let lo (m : Mapping) : Nat := max m.va va
    let hi (m : Mapping) : Nat := min (m.va + m.len) (va + len)
    let hit (m : Mapping) : Bool := f m && decide (lo m < hi m)
    (foldState (c.maps.filter hit) (fun a m => a.clearLeaves c m (lo m) (hi m)) s).onAsid asid fun c => { c with
      maps := c.maps.flatMap fun m => if hit m then m.part m.va (lo m) ++ m.part (hi m) (m.va + m.len) else [m] }

/-- A range cuts a page of some mapping. -/
def Ctx.cuts (c : Ctx) (va len : Nat) : Bool :=
  c.maps.any fun m =>
    let inside (x : Nat) : Bool := decide (m.va < x ∧ x < m.va + m.len) && (x - m.va) % pageBytes m.page != 0
    inside va || inside (va + len)

/-! Apertures (R568) -/

/-- The apertures of the functions, which the pilot keeps in the tables at CF_BAR2_BASE as well, 8 bytes each: the spec gives an entry no
layout, so what it holds is a free value (R568, log entry 143). -/
def State.putApertures (t : Tab (Nat × Nat × Nat × Nat)) (s : State) : State :=
  let ks := ((s.hif.apertures.filter fun x => tabFind t x.1 != some x.2) ++ (t.filter fun x => (tabFind s.hif.apertures x.1).isNone)).map (·.1)
  foldState ks (fun a k => (a.put0 (a.hif.bar2Base + 8 * k) [a.fresh]).drawn) (s.onHif fun h => { h with apertures := t })

/-! What a command waits for (R577) -/

/-- A command's invalidation completes: the entries it covers leave the caches, and hardware walks again (R410, R418). -/
def State.pilotInval (h : Nat) (i : Inval) (s : State) : State :=
  (s.purge h i).rewalk h fun x => s.invCovers h i x.context (x.va / 4096 * 4096) 4096

/-- Set what a page's command waits for. -/
def State.pageWait (f : Nat) (w : PageWait) (s : State) : State := s.onPage f fun p => { p with wait := some w }

/-- Write a berth's configuration back to its reset values (R548, log entry 49). -/
def State.scrubBerth (b : Nat) (s : State) : State :=
  (s.disableBerth b 0).onBerth b fun _ => {}

/-- A graph's entry ends; its generation is kept (R318, R548). -/
def State.dropGraph (k : Nat) (s : State) : State :=
  match tabFind s.graphs k with
  | none => s
  | some g => { s with graphs := tabPut s.graphs k { gen := g.gen } }

/-- REVOKE goes to the holder of a state record, and the record ends (R577). -/
def State.destroyOwn (id : Nat) (s : State) : State :=
  match s.own id with
  | none => s
  | some o =>
    let o1 := { o with epoch := o.epoch + 1 }
    (s.dropOwn id).sendOwn o.holder (o1.msg id 8)

/-- A page's command ends when what it waits for has come (R576, R577). -/
def State.pollPage (f : Nat) (s : State) : State :=
  match (s.page f).wait with
  | none => s
  | some (.inval h i) => if s.invBusy h i then s else (s.pilotInval h i).pageDone f 0 0 []
  | some (.release h i o) =>
    if s.invBusy h i then s
    else
      let s1 := (s.pilotInval h i).dropRef o
      if (tabFind s1.hif.zeroing o).isSome then s1.pageWait f (.zero o) else s1.pageDone f 0 0 []
  | some (.zero o) => if (tabFind s.hif.objs o).isSome then s else s.pageDone f 0 0 []
  | some (.berth b) => if s.berthBusy b ∨ s.hm.fetching.contains b then s else (s.scrubBerth b).pageDone f 0 0 []
  | some (.graph k) =>
    if s.hm.launches.any fun l => match l.2.run with | some r => r.graph == k | none => false then s
    else (s.dropGraph k).pageDone f 0 0 []
  | some (.state id) =>
    match s.own id with
    | none => s.pageDone f 0 0 []
    | some o => if o.peer = 0xFFF then (s.destroyOwn id).pageDone f 0 0 [] else s

/-- Look at every page that waits. -/
def State.pollPages (s : State) : State := foldState (s.hif.pages.map (·.1)) (fun a f => a.pollPage f) s

/-- The clear of a channel's written-bits ends; an object whose last channel it was is free (R375, R382). -/
def execWrittenBitsClearDone (ch : Nat) (s : State) : Host.Outcome State Fault Refusal :=
  s.clocked <|
    let s1 := s.onChan ch fun x => { x with clearing := false }
    let z := s1.hif.zeroing.map fun z => (z.1, setDel z.2 ch)
    let s2 := s1.onHif fun h => { h with zeroing := z.filter fun x => !x.2.isEmpty }
    (foldState (z.filter fun x => x.2.isEmpty) (fun a x => a.dropObj x.1) s2).pollPages

/-- The oldest invalidation of a harbour completes once no request translated through a covered entry is on its way; the
hardware re-walk of the entries it covers follows (R409, R410, R418). The pilot's own invalidations complete by themselves. -/
def execInvalidationComplete (h : Nat) (s : State) : Host.Outcome State Fault Refusal :=
  s.clocked <| (match (s.fq h).invs with
  | [] => s
  | i :: rest =>
    if s.invBusy h i then s
    else (s.onFq h fun q => { q with invs := rest, doneCnt := q.doneCnt + 1 }).pilotInval h i).pollPages

/-! BAR2 (R568) -/

/-- The parts of a BAR2 access: length, and the bytes it is performed on, if any. -/
def State.bar2Parts (s : State) (f : Nat) : Nat → Nat → Nat → List (Nat × Option (List Piece))
  | 0, _, _ => []
  | fuel + 1, off, n =>
    if n = 0 then [] else
    let m := min n (2097152 - off % 2097152)
    let rest := s.bar2Parts f fuel (off + m) (n - m)
    match tabFind s.hif.apertures (f * 2 ^ 17 + off / 2097152) with
    | none => (m, none) :: rest
    | some (_, _, o, base) =>
      match tabFind s.hif.objs o with
      | none => (m, none) :: rest
      | some x =>
        let a := base + off % 2097152
        let k := min m (x.len - a)
        (if k = 0 then [] else [(k, s.resolve x.harbour (x.addr + a) k)]) ++ (if k < m then [(m - k, none)] else []) ++ rest

/-- Bytes of a function's BAR2 (R567). -/
def State.bar2Size (s : State) (f : Nat) : Nat := tabGet 16 s.hif.bar2Gib f * 1073741824

/-- A request of the host outside a Secure stream where the link requires one: Unsupported Request (R545). -/
def State.noIde (link : Nat) (s : State) : State :=
  (s.onSec fun c => { c with cUrNoIde := c.cUrNoIde + 1 }).emit (.unsupportedRequest link)

/-- The link requires IDE and the request came without it (R545). -/
def State.ideBars (s : State) (link : Nat) (secure : Bool) : Bool := bitsN s.sec.ideRequired link 1 == 1 && !secure

/-- A host read through BAR2 (R379, R568). -/
def execBar2Read (func offset len : Nat) (secure : Bool) (s : State) : Host.Outcome State Fault Refusal :=
  s.clocked <|
    let link := func / 32
    if 128 ≤ func ∨ !s.running ∨ !(s.link link).up ∨ s.bar2Size func < offset + len then s
    else if s.ideBars link secure then s.noIde link
    else
      let parts := s.bar2Parts func (len / 2097152 + 2) offset len
      let step (a : (List Byte × Bool) × State) (x : Nat × Option (List Piece)) : (List Byte × Bool) × State :=
        match x.2 with
        | none => ((a.1.1 ++ List.replicate x.1 0, a.1.2), a.2)
        | some ps =>
          let r := a.2.readThrough ps
          ((a.1.1 ++ beatBytes r.1, a.1.2 || r.1.any (·.2)), r.2)
      let r := parts.foldl step (([], false), s)
      let bad := (parts.flatMap fun x => (x.2.getD []).filter fun p => s.hbmPoison p.ch p.byte p.len).foldl
        (fun t p => setIns t p.ch) []
      let s1 := foldState bad (fun a c => a.onChan c fun x => { x with cHostEp := x.cHostEp + 1 }) r.2
      (s1.onLink link fun l => { l with
        miss := if parts.any (fun x => x.2.isNone) then l.miss + 1 else l.miss
        hostEp := if r.1.2 then l.hostEp + 1 else l.hostEp }).emit (.readData func r.1.1 r.1.2)

/-- A host write through BAR2 (R208, R378, R568). -/
def execBar2Write (func offset : Nat) (data : List Byte) (poison secure : Bool) (s : State) : Host.Outcome State Fault Refusal :=
  s.clocked <|
    let link := func / 32
    if 128 ≤ func ∨ !s.running ∨ !(s.link link).up ∨ s.bar2Size func < offset + data.length then s
    else if s.ideBars link secure then s.noIde link
    else
      let h (x : Nat × Option (List Piece)) : Bool := match x.2 with
        | none => true
        | some ps => ps.any s.touchesPacing
      let parts := s.bar2Parts func (data.length / 2097152 + 2) offset data.length
      let step (a : State × List Byte) (x : Nat × Option (List Piece)) : State × List Byte :=
        (if h x then a.1 else a.1.writeThrough (x.2.getD []) [(a.2.take x.1, poison)], a.2.drop x.1)
      (parts.foldl step (s, data)).1.onLink link fun l => { l with miss := if parts.any h then l.miss + 1 else l.miss }

/-! MSI-X (R569) -/

/-- A vector is unmasked; its pending interrupt is sent. -/
def execMsixUnmask (func vector : Nat) (s : State) : Host.Outcome State Fault Refusal :=
  s.clocked <| if 128 ≤ func ∨ 2048 ≤ vector then s
    else
      let m := tabGet {} s.hif.msix func
      let s1 := s.onHif fun h => { h with msix := tabPut h.msix func {
        unmasked := setIns m.unmasked vector, pba := setDel m.pba vector } }
      if m.pba.contains vector then s1.emit (.msix func vector) else s1

end Sys2Proof.Machine
end

