-- ==== Sys2Proof/Machine/EweasOps.lean ====
section
/-! DEFINITION. The Eweas commands (18_host_interface R573–R582; R298–R303, R316–R318, R466–R473). -/
namespace Sys2Proof

/-- Argument word `i` of a command (R577). -/
def EwCmd.arg (c : EwCmd) (i : Nat) : Nat := (wordAt c.args (i - 1)).toNat

end Sys2Proof
namespace Sys2Proof.Machine
open Sys2Proof

/-- What the pilot finds for a command: a REASON to refuse it, its result words, or what its result waits for. -/
inductive Reply where
  | refuse (reason : Nat)
  | ok (res : List Word) (s : State)
  | wait (w : PageWait) (s : State)
  /-- a message that arrives answers the page -/
  | later (s : State)

/-- The function's page holds the command and reads BUSY (R575). -/
def State.taken (op : Nat) (c : EwCmd) (s : State) : State :=
  s.onPage c.func fun p => { p with
    words := (List.range 16).map fun i => if i = 0 then w64 op else wordAt c.args (i - 1)
    busy := true, tag := c.tag, wait := none }

/-- A command is submitted on its function's page, over the function's link: ignored and counted while BUSY, else executed and answered
(R575, R576, R590). -/
def State.command (op : Nat) (run : EwCmd → State → Reply) (c : EwCmd) (s : State) : State :=
  if 128 ≤ c.func ∨ !s.running ∨ !(s.link (c.func / 32)).up then s
  else if (s.page c.func).busy then s.onPage c.func fun p => { p with rejects := p.rejects + 1 }
  else
    let s1 := s.taken op c
    match run c s1 with
    | .refuse r => s1.pageDone c.func (if r = 7 then 10 else 4) r []
    | .ok res s2 => s2.pageDone c.func 0 0 res
    | .wait w s2 => (s2.pageWait c.func w).pollPage c.func
    | .later s2 => s2

/-- The owner check of a context for an origin (R576). -/
def Ctx.passes (x : Ctx) (c : EwCmd) : Bool := c.func == 0 || (x.func == c.func && (!x.pasidEn || c.pasid == some x.pasid))

/-- An Owner command on the context that argument word 1 names: AUTHORITY, NOT_FOUND and TEARDOWN (R576, R591, log entry
50). -/
def State.ownerOf (s : State) (c : EwCmd) (f : Nat → Ctx → Reply) : Reply :=
  match s.ctx (c.arg 1) with
  | none => .refuse (if c.func = 0 then 5 else 1)
  | some x => if !x.passes c then .refuse 1 else if x.teardown ≠ 0 then .refuse 6 else f (c.arg 1) x

/-! Contexts -/

/-- CTX_CREATE (R577, R580). -/
def ewCtxCreate (c : EwCmd) (s : State) : Reply :=
  let w1 := wordAt c.args 0
  let w2 := wordAt c.args 1
  let h := bits w1 0 6
  let v := bits w1 8 6
  let pool := c.arg 3
  let n := c.arg 4
  if c.func ≠ 0 then .refuse 1
  else if bits w1 6 2 ≠ 0 ∨ bits w1 14 50 ≠ 0 ∨ bits w2 28 36 ≠ 0 ∨ v < 39 ∨ 57 < v ∨ pool % 2097152 ≠ 0 ∨ n = 0
      ∨ n % 2097152 ≠ 0 ∨ 2 ^ 48 ≤ pool ∨ !s.in0 pool n ∨ (s.harbour h).isNone then .refuse 2
  else
    let a := lowestFree 65536 fun i => (s.ctx i).isSome
    if 65536 ≤ a then .refuse 3
    else
      let root := max 4096 (8 * 2 ^ (v - 39))
      let x : Ctx := { func := bits w2 0 7, pasid := bits w2 7 20, pasidEn := bit w2 27, harbour := h, vaBits := v
                       poolAddr := pool, poolLen := n, poolUsed := root }
      let bind := x.pasid + x.func * 2 ^ 20 + (if x.pasidEn then 2 ^ 27 else 0) + 2 ^ 63
      let s1 := (s.onHif fun q => { q with ctxs := tabPut q.ctxs a x }).onXl fun q => { q with anyValid := true }
      .ok [w64 a] (((s1.clear0 pool root).put0 (s.xl.ctxBase + 32 * a) [w64 (1 + h * 2 + v * 128), w64 pool, 0, 0]).put0
        (s.hif.hostBind + 8 * a) [w64 bind])

/-! Memory objects -/

/-- A command on a handle of a context; NOT_FOUND when it does not resolve (R574). -/
def withHandle (x : Ctx) (h : Nat) (f : Nat → Handle → Nat → Reply) : Reply :=
  match x.handle h with
  | none => .refuse 5
  | some (i, y) => match y.obj with
    | none => .refuse 5
    | some o => f i y o

/-- MEM_CREATE (R208, R577, R578). -/
def ewMemCreate (c : EwCmd) (s : State) : Reply :=
  s.ownerOf c fun a x =>
    let addr := c.arg 2 % 2 ^ 52
    let n := c.arg 3
    let pacing := n == 131072 && (match s.harbour x.harbour, s.pacingByte x.harbour with
      | some h, some (_, b) => !h.channels.isEmpty && addr == b
      | _, _ => false)
    let o : MemObj := { harbour := x.harbour, addr := addr, len := n, pacing := pacing }
    if c.arg 2 / 2 ^ 52 ≠ s.lk.nodeId ∨ 1 < addr / 2 ^ 48 ∨ addr % 65536 ≠ 0 ∨ n = 0 ∨ n % 65536 ≠ 0
        ∨ (s.resolve x.harbour addr n).isNone then .refuse 2
    else if s.objMeets o then .refuse 4
    else
      let id := s.hif.nextObj
      match (s.onHif fun q => { q with objs := tabPut q.objs id o, nextObj := id + 1 }).newHandle a id (if pacing then 1 else 7) with
      | some (h, s1) => .ok [w64 h] s1
      | none => .refuse 3

/-- MEM_RELEASE: the handle ends at once; its leaves and apertures go, then its reference (R577, R578). -/
def ewMemRelease (c : EwCmd) (s : State) : Reply :=
  s.ownerOf c fun a x => withHandle x (c.arg 2) fun i y o =>
    let through := x.maps.any fun m => m.handle == some i
    let s1 := (s.unmapRange a 0 (2 ^ 57) fun m => m.handle == some i).onAsid a fun q => { q with
      handles := tabPut q.handles i { y with obj := none } }
    let s2 := s1.putApertures (s1.hif.apertures.filter fun p => !(p.2.1 == a && p.2.2.1 == i))
    if through then .wait (.release x.harbour { scope := 1, asid := a, va := 0, pages := 0 } o) s2
    else
      let s3 := s2.dropRef o
      if (tabFind s3.hif.zeroing o).isSome then .wait (.zero o) s3 else .ok [] s3

/-- MEM_EXPORT (R577). -/
def ewMemExport (c : EwCmd) (s : State) : Reply :=
  s.ownerOf c fun _ x => withHandle x (c.arg 2) fun _ y o =>
    let r := c.arg 3
    if 8 ≤ r ∨ r &&& y.rights ≠ r then .refuse 2
    else
      match s.newToken (.mem o r) with
      | some (t, s1) => .ok [w64 t] s1
      | none => .refuse 3

/-- MEM_IMPORT (R578). -/
def ewMemImport (c : EwCmd) (s : State) : Reply :=
  s.ownerOf c fun a x =>
    match s.token (c.arg 2) with
    | some (.mem o r) =>
      (match tabFind s.hif.objs o with
      | none => .refuse 5
      | some y =>
        if y.harbour ≠ x.harbour ∨ (tabFind s.hif.zeroing o).isSome then .refuse 5
        else
          match (s.onHif fun q => { q with objs := tabPut q.objs o { y with refs := y.refs + 1 } }).newHandle a o r with
          | some (h, s1) => .ok [w64 h] s1
          | none => .refuse 3)
    | _ => .refuse 5

/-- MEM_PIN (R579). -/
def ewMemPin (c : EwCmd) (s : State) : Reply :=
  s.ownerOf c fun _ x => withHandle x (c.arg 2) fun _ _ o =>
    .ok [] (s.onHif fun q => { q with objs := q.objs.map fun e => if e.1 = o then (o, { e.2 with pins := e.2.pins + 1 }) else e })

/-- MEM_UNPIN (R579). -/
def ewMemUnpin (c : EwCmd) (s : State) : Reply :=
  s.ownerOf c fun _ x => withHandle x (c.arg 2) fun _ _ o =>
    if (match tabFind s.hif.objs o with | some e => e.pins == 0 | none => true) then .refuse 2
    else .ok [] (s.onHif fun q => { q with objs := q.objs.map fun e => if e.1 = o then (o, { e.2 with pins := e.2.pins - 1 }) else e })

/-! Mappings -/

/-- Rights and PAGE of a MAP, or `none` when the word is malformed (R404, R577). -/
def mapFlags (w : Nat) : Option (Nat × Nat) :=
  let r := bitsN w 0 3
  if 64 ≤ w ∨ bitsN w 3 1 ≠ 0 ∨ (4 ≤ r ∧ bitsN r 1 1 = 0) then none else some (r, bitsN w 4 2)

/-- Map a checked range, or refuse it: MALFORMED, IN_USE, NO_RESOURCE (R576, R580). -/
def State.mapOrRefuse (s : State) (a : Nat) (x : Ctx) (m : Mapping) (output : Nat) : Reply :=
  let n := pageBytes m.page
  if m.len = 0 ∨ m.va % n ≠ 0 ∨ m.len % n ≠ 0 ∨ output % n ≠ 0 ∨ 2 ^ x.vaBits < m.va + m.len then .refuse 2
  else if x.maps.any fun y => decide (y.va < m.va + m.len ∧ m.va < y.va + y.len) then .refuse 4
  else match s.mapRange a m output with
  | none => .refuse 3
  | some s1 => .ok [] s1

/-- MAP (R577, R580). -/
def ewMap (c : EwCmd) (s : State) : Reply :=
  s.ownerOf c fun a x => withHandle x (c.arg 3) fun i y o =>
    match mapFlags (c.arg 6), tabFind s.hif.objs o with
    | some (r, page), some z =>
      if r &&& y.rights ≠ r ∨ z.len < c.arg 4 + c.arg 5 then .refuse 2
      else s.mapOrRefuse a x { va := c.arg 2, len := c.arg 5, handle := some i, obj := some o, off := c.arg 4, page := page, rights := r }
        (s.lk.nodeId * 2 ^ 52 + z.addr + c.arg 4)
    | _, _ => .refuse 2

/-- MAP_HOST (R577, R580). -/
def ewMapHost (c : EwCmd) (s : State) : Reply :=
  s.ownerOf c fun a x =>
    match mapFlags (c.arg 5) with
    | none => .refuse 2
    | some (r, page) =>
      if 2 ^ 48 < c.arg 3 + c.arg 4 then .refuse 2
      else s.mapOrRefuse a x { va := c.arg 2, len := c.arg 4, handle := none, obj := none, off := 0, page := page, rights := r }
        (s.lk.nodeId * 2 ^ 52 + 7 * 2 ^ 48 + c.arg 3)

/-- UNMAP: the leaves go, and the result follows the invalidation (R410, R577). -/
def ewUnmap (c : EwCmd) (s : State) : Reply :=
  s.ownerOf c fun a x =>
    let va := c.arg 2
    let n := c.arg 3
    if va % 4096 ≠ 0 ∨ n % 4096 ≠ 0 ∨ n = 0 ∨ 2 ^ x.vaBits < va + n ∨ x.cuts va n then .refuse 2
    else .wait (.inval x.harbour { scope := 0, asid := a, va := va, pages := n / 4096 }) (s.unmapRange a va n fun _ => true)

/-- BAR_MAP: apertures of the owner's function; a count of 0 unmaps every aperture mapped through the handle (R568, R577, log
entry 51). -/
def ewBarMap (c : EwCmd) (s : State) : Reply :=
  s.ownerOf c fun a x => withHandle x (c.arg 2) fun i _ o =>
    let off := c.arg 3
    let first := c.arg 4
    let n := c.arg 5
    let key (j : Nat) : Nat := x.func * 2 ^ 17 + first + j
    if off % 2097152 ≠ 0 then .refuse 2
    else if n = 0 then
      .ok [] (s.putApertures (s.hif.apertures.filter fun p => !(p.1 / 2 ^ 17 == x.func && p.2.1 == a && p.2.2.1 == i)))
    else if s.bar2Size x.func < (first + n) * 2097152 then .refuse 2
    else .ok [] (s.putApertures
      ((List.range n).foldl (fun t j => tabPut t (key j) (a, i, o, off + j * 2097152)) s.hif.apertures))

/-! Fences -/

/-- A value mirror's address is none, or lies in a pinned object of the context (R301). -/
def State.mirrorOk (s : State) (a va : Nat) : Bool := va == 0 || (decide (va < 2 ^ 57) && s.inPinned a va 16)

/-- Key of the fence-space entry a handle names in a context, if it resolves (R300). -/
def State.fenceKey (s : State) (a h : Nat) : Option (Nat × FenceEnt) :=
  if 2 ^ 32 ≤ h then none
  else (s.fenceEnt a (BitVec.ofNat 32 h)).map fun e => (a * 2 ^ 24 + h % 2 ^ 24, e)

/-- A new fence-space entry of a context: the handle; none when the space of 16,777,216 entries is full (R300). -/
def State.newFenceEnt (a : Nat) (e : FenceEnt) (s : State) : Option (Nat × State) :=
  let i := lowestFree (s.fu.space.length + 1) fun j => match tabFind s.fu.space (a * 2 ^ 24 + j) with | some x => x.valid | none => false
  let gen := match tabFind s.fu.space (a * 2 ^ 24 + i) with | some x => x.hgen + 1 | none => 0
  if 2 ^ 24 ≤ i then none
  else some (gen.toNat * 2 ^ 24 + i,
    s.onFu fun u => { u with space := tabPut u.space (a * 2 ^ 24 + i) { e with valid := true, hgen := gen } })

/-- FENCE_CREATE (R298, R299, R581). -/
def ewFenceCreate (c : EwCmd) (s : State) : Reply :=
  s.ownerOf c fun a x =>
    let closed := c.arg 2 % 2 == 1
    let sbs : Tab Nat := ((List.range 4).filter fun j => bitsN (c.arg 2) (4 + j) 1 == 1).map fun j => (j, bitsN (c.arg 3) (13 * j) 13)
    let mine (b : Nat) : Bool := (s.berth b).enable && (s.berth b).context == a && (s.berth b).serial
    let fon := lowestFree (2 ^ s.fu.storeLog2) fun f => (s.fence f).isSome
    if 256 ≤ c.arg 2 ∨ bitsN (c.arg 2) 1 3 ≠ 0 ∨ 2 ^ 52 ≤ c.arg 3 ∨ (closed ∧ sbs.isEmpty) ∨ !s.mirrorOk a (c.arg 5) then .refuse 2
    else if closed ∧ !(sbs.all fun b => mine b.2) then .refuse 4
    else if 2 ^ s.fu.storeLog2 ≤ fon then .refuse 3
    else
      let f : Fence := { value := wordAt c.args 3, closed := closed, harbour := x.harbour, owner := a, refs := 1
                         signallers := if closed then sbs else [] }
      match (s.putFence fon f).newFenceEnt a { fon := fon, wait := true, signal := true, mirrorVa := c.arg 5 } with
      | some (h, s1) => .ok [w64 h] s1
      | none => .refuse 3

/-- FENCE_EXPORT (R577). -/
def ewFenceExport (c : EwCmd) (s : State) : Reply :=
  s.ownerOf c fun a _ =>
    match s.fenceKey a (c.arg 2) with
    | none => .refuse 5
    | some (_, e) =>
      let w := c.arg 3 % 2 == 1
      let g := c.arg 3 / 2 % 2 == 1
      if 4 ≤ c.arg 3 ∨ (w ∧ !e.wait) ∨ (g ∧ !e.signal) then .refuse 2
      else
        match s.newToken (.fence e.fon w g) with
        | some (t, s1) => .ok [w64 t] s1
        | none => .refuse 3

/-- FENCE_IMPORT (R581). -/
def ewFenceImport (c : EwCmd) (s : State) : Reply :=
  s.ownerOf c fun a _ =>
    match s.token (c.arg 2) with
    | some (.fence fon w g) =>
      (match s.fence fon with
      | none => .refuse 5
      | some f =>
        match (s.putFence fon { f with refs := f.refs + 1 }).newFenceEnt a { fon := fon, wait := w, signal := g } with
        | some (h, s1) => .ok [w64 h] s1
        | none => .refuse 3)
    | _ => .refuse 5

/-- Remove a fence-space entry; a fence that loses its last handle while a wait refers to it is abandoned (R303, R581). -/
def State.dropFenceEnt (k : Nat) (e : FenceEnt) (s : State) : State :=
  let s1 := s.onFu fun u => { u with space := tabPut u.space k { e with valid := false, wait := false, signal := false, mirrorVa := 0 } }
  match s1.fence e.fon with
  | none => s1
  | some f =>
    let s2 := s1.putFence e.fon { f with refs := f.refs - 1 }
    let s3 := if f.refs ≤ 1 ∧ s2.fenceWaited e.fon then (s2.abandonFence e.fon).settle else s2
    s3.reapFence e.fon

/-- FENCE_DESTROY (R581). -/
def ewFenceDestroy (c : EwCmd) (s : State) : Reply :=
  s.ownerOf c fun a _ =>
    match s.fenceKey a (c.arg 2) with
    | none => .refuse 5
    | some (k, e) => .ok [] (s.dropFenceEnt k e)

/-- FENCE_MIRROR (R301). -/
def ewFenceMirror (c : EwCmd) (s : State) : Reply :=
  s.ownerOf c fun a _ =>
    match s.fenceKey a (c.arg 2) with
    | none => .refuse 5
    | some (k, e) =>
      if !s.mirrorOk a (c.arg 3) then .refuse 2
      else .ok [] (s.onFu fun u => { u with space := tabPut u.space k { e with mirrorVa := c.arg 3 } })

/-! Berths and events -/

/-- A disabled berth with the fields of HM_BERTH_CFG1 to HM_BERTH_CFG5 (R295). -/
def Berth.withCfg (x : Berth) (r : Nat) (v : Word) : Berth :=
  match r with
  | 1 => { x with subVa := bits v 0 57 }
  | 2 => { x with cplVa := bits v 0 57 }
  | 3 => { x with statusVa := bits v 0 57 }
  | 4 => { x with capVa := bits v 0 57, capLog2 := bits v 57 4 }
  | _ => { x with pasid := bits v 0 20, pasidCheck := bit v 20, func := bits v 21 7, msiVector := bits v 32 11, irqMode := bits v 44 2 }

/-- A value of HM_BERTH_CFG1 to HM_BERTH_CFG5 lies in its range; the alignment of an address is checked when the berth is enabled (R255,
R295, R629). -/
def cfgInRange (r : Nat) (v : Word) : Bool :=
  match r with
  | 4 => decide (bits v 57 4 ≤ 4)
  | 5 => bits v 44 2 != 3
  | _ => true

/-- BERTH_CREATE (R255, R577, R582). -/
def ewBerthCreate (c : EwCmd) (s : State) : Reply :=
  if c.func ≠ 0 then .refuse 1
  else s.ownerOf c fun a x =>
    let img (r : Nat) : Word := wordAt c.args (r + 1)
    let y0 : Berth := (({} : Berth).withCfg0 (img 0))
    let y : Berth := { ([1, 2, 3, 4, 5].foldl (fun b r => b.withCfg r (img r)) y0) with harbour := x.harbour, context := a }
    let b := lowestFree 8192 fun i => (s.berth i).enable || s.berthBusy i
    if y.func ≠ x.func ∨ (x.pasidEn ∧ (!y.pasidCheck ∨ y.pasid ≠ x.pasid)) then .refuse 1
    else if y.log2 < 4 ∨ 16 < y.log2 ∨ !([1, 2, 3, 4, 5].all fun r => cfgInRange r (img r)) then .refuse 2
    else if y.irqMode ≠ 0 ∧ !x.events.contains (y.func * 2048 + y.msiVector) then .refuse 4
    else if 8192 ≤ b then .refuse 3
    else
      let v : Word := w64 (putBits (putBits (img 0).toNat 1 6 x.harbour) 8 16 a)
      let s1 := (s.onBerth b fun _ => y).enableBerth b v
      if (s1.berth b).enable then .ok [w64 b] s1 else .refuse 2

/-- The context an enabled berth belongs to, checked for an Owner command (R576). -/
def State.ownerOfBerth (s : State) (c : EwCmd) (f : Nat → Reply) : Reply :=
  let b := c.arg 1
  let y := s.berth b
  if 8192 ≤ b ∨ !y.enable then .refuse (if c.func = 0 then 5 else 1)
  else match s.ctx y.context with
  | none => if c.func = 0 then f b else .refuse 1
  | some x => if !x.passes c then .refuse 1 else if x.teardown ≠ 0 then .refuse 6 else f b

/-- BERTH_DESTROY: STOP and ABORT, then the berth is disabled and scrubbed (R577). -/
def ewBerthDestroy (c : EwCmd) (s : State) : Reply :=
  s.ownerOfBerth c fun b => .wait (.berth b) ((s.stopBerth b true).abortBerth b)

/-- EVENT_BIND: a vector of the origin function (R577). -/
def ewEventBind (c : EwCmd) (s : State) : Reply :=
  s.ownerOf c fun a _ =>
    if 2048 ≤ c.arg 2 then .refuse 2
    else .ok [] (s.onAsid a fun q => { q with events := setIns q.events (c.func * 2048 + c.arg 2) })

/-- EVENT_UNBIND (R577). -/
def ewEventUnbind (c : EwCmd) (s : State) : Reply :=
  s.ownerOf c fun a x =>
    if 2048 ≤ c.arg 2 then .refuse 2
    else if !x.events.contains (c.func * 2048 + c.arg 2) then .refuse 5
    else .ok [] (s.onAsid a fun q => { q with events := setDel q.events (c.func * 2048 + c.arg 2) })

/-! Stored graphs -/

/-- GRAPH_REGISTER (R316, R318). -/
def ewGraphRegister (c : EwCmd) (s : State) : Reply :=
  s.ownerOf c fun a x => withHandle x (c.arg 2) fun _ _ o =>
    match tabFind s.hif.objs o with
    | none => .refuse 5
    | some y =>
      let off := c.arg 3
      match (if off + 256 ≤ y.len then s.readH y.harbour (y.addr + off) 8 else none) with
      | none => .refuse 2
      | some (bs, bad) =>
        let w := BitVec.ofNat 64 (leNat bs)
        let n := bits w 0 11
        let i := lowestFree 4096 fun j => match tabFind s.graphs (a * 4096 + j) with | some g => g.valid | none => false
        let k := a * 4096 + i
        let gen := match tabFind s.graphs k with | some g => g.gen + 1 | none => 0
        let g : Graph := { context := a, gen := gen, valid := true, obj := o, offset := off, nodes := n, exitNode := bits w 16 10
                           curVersion := 1, curSlot := 0, slotVersion := [(0, 1)] }
        if bad ∨ n = 0 ∨ 1024 < n ∨ n ≤ bits w 16 10 ∨ bits w 11 5 ≠ 0 ∨ bits w 26 6 ≠ 0 ∨ bits w 32 32 ≠ 1
            ∨ y.len < off + 256 + 4 * n * 0x440 ∨ !s.objPinned o ∨ !s.imageOk g 0 then .refuse 2
        else if 4096 ≤ i then .refuse 3
        else
          let s1 := { s with graphs := tabPut s.graphs k g }
          .ok [w64 (gen.toNat * 2 ^ 24 + i)] (s1.graphWrite g 0 ((s1.graphHeader k g).flatMap wordBytes))

/-- GRAPH_UNREGISTER: the graph takes no new launch or patch, and ends when no launch runs a version of it (R321, R577). -/
def ewGraphUnregister (c : EwCmd) (s : State) : Reply :=
  s.ownerOf c fun a _ =>
    match (if c.arg 2 < 2 ^ 32 then s.graphOf a (c.arg 2) else none) with
    | none => .refuse 5
    | some (k, g) =>
      if g.unregistering then .refuse 5
      else .wait (.graph k) { s with graphs := tabPut s.graphs k { g with unregistering := true } }

/-! State records (R466–R473) -/

/-- STATE_CREATE (R466, R577). -/
def ewStateCreate (c : EwCmd) (s : State) : Reply :=
  s.ownerOf c fun a _ =>
    let w := wordAt c.args 2
    let id := s.lk.nodeId * 2 ^ 52 + c.arg 2 % 2 ^ 52
    if 2 ^ 52 ≤ c.arg 2 ∨ bits w 12 4 ≠ 0 ∨ bits w 28 36 ≠ 0 ∨ bits w 0 12 = bits w 16 12 ∨ 2 ^ 40 ≤ c.arg 6 then .refuse 2
    else if (s.own id).isSome then .refuse 4
    else if !s.ownRoom then .refuse 3
    else .ok [] (s.putOwn id {
      epoch := 1, token := .origin, holder := bits w 0 12, ckptNode := bits w 16 12, leaseLeft := s.lk.leaseTides
      stateAddr := wordAt c.args 3, ckptAddr := wordAt c.args 4, len := c.arg 6, context := a })

/-- A state record of the context (R577). -/
def withState (s : State) (c : EwCmd) (a : Nat) (f : Nat → Own → Reply) : Reply :=
  match s.own (c.arg 2) with
  | none => .refuse 5
  | some o => if o.token = .origin ∧ o.context = a then f (c.arg 2) o else .refuse (if c.func = 0 then 5 else 1)

/-- STATE_MOVE: the originator raises EPOCH and sends MOVE; the result comes when the hand-over ends (R468, R577). -/
def ewStateMove (c : EwCmd) (s : State) : Reply :=
  s.ownerOf c fun a _ => withState s c a fun id o =>
    if 4095 ≤ c.arg 3 ∨ c.arg 3 = o.holder then .refuse 2
    else if o.peer ≠ 0xFFF then .refuse 4
    else
      let o1 := { o with epoch := o.epoch + 1, peer := c.arg 3, wait := 0, movePending := some c.func }
      .later ((s.putOwn id o1).sendOwn o.holder (o1.msg id 0))

/-- PHASE_END: the holder writes the image and sends CKPT; the result comes with CKPT_ACK (R472, R577). On the originator the
CKPT is its own when it also holds the token, else the holder's. -/
def ewPhaseEnd (c : EwCmd) (s : State) : Reply :=
  s.ownerOf c fun a _ =>
    match s.own (c.arg 2) with
    | none => .refuse 5
    | some o =>
      let id := c.arg 2
      let image := wordAt c.args 3
      if 2 ^ 24 ≤ c.arg 3 then .refuse 2
      else if o.token = .held ∧ c.func = 0 then
        .later ((s.putOwn id { o with ckptPending := some c.func }).sendOwn (originatorOf id)
          { o.msg id 10 with epoch := o.heldEpoch, phase := c.arg 3, addr := image })
      else if o.token ≠ .origin ∨ o.context ≠ a then .refuse (if c.func = 0 then 5 else 1)
      else if o.holder = s.lk.nodeId then .ok [] (s.putOwn id { o with phase := c.arg 3, ckptAddr := image })
      else .later (s.putOwn id { o with ckptPending := some c.func })

/-- STATE_DESTROY: REVOKE goes to the holder once no hand-over is pending (R577, R591). -/
def ewStateDestroy (c : EwCmd) (s : State) : Reply :=
  s.ownerOf c fun a _ => withState s c a fun id _ => .wait (.state id) s

/-! The commands -/

def execCtxCreate (c : EwCmd) (s : State) : Host.Outcome State Fault Refusal := s.clocked (s.command 0x01 ewCtxCreate c)
def execMemCreate (c : EwCmd) (s : State) : Host.Outcome State Fault Refusal := s.clocked (s.command 0x03 ewMemCreate c)
def execMemRelease (c : EwCmd) (s : State) : Host.Outcome State Fault Refusal := s.clocked (s.command 0x04 ewMemRelease c)
def execMemExport (c : EwCmd) (s : State) : Host.Outcome State Fault Refusal := s.clocked (s.command 0x05 ewMemExport c)
def execMemImport (c : EwCmd) (s : State) : Host.Outcome State Fault Refusal := s.clocked (s.command 0x06 ewMemImport c)
def execMemPin (c : EwCmd) (s : State) : Host.Outcome State Fault Refusal := s.clocked (s.command 0x07 ewMemPin c)
def execMemUnpin (c : EwCmd) (s : State) : Host.Outcome State Fault Refusal := s.clocked (s.command 0x08 ewMemUnpin c)
def execMap (c : EwCmd) (s : State) : Host.Outcome State Fault Refusal := s.clocked (s.command 0x09 ewMap c)
def execMapHost (c : EwCmd) (s : State) : Host.Outcome State Fault Refusal := s.clocked (s.command 0x0A ewMapHost c)
def execUnmap (c : EwCmd) (s : State) : Host.Outcome State Fault Refusal := s.clocked (s.command 0x0B ewUnmap c)
def execBarMap (c : EwCmd) (s : State) : Host.Outcome State Fault Refusal := s.clocked (s.command 0x0C ewBarMap c)
def execFenceCreate (c : EwCmd) (s : State) : Host.Outcome State Fault Refusal := s.clocked (s.command 0x10 ewFenceCreate c)
def execFenceExport (c : EwCmd) (s : State) : Host.Outcome State Fault Refusal := s.clocked (s.command 0x11 ewFenceExport c)
def execFenceImport (c : EwCmd) (s : State) : Host.Outcome State Fault Refusal := s.clocked (s.command 0x12 ewFenceImport c)
def execFenceDestroy (c : EwCmd) (s : State) : Host.Outcome State Fault Refusal := s.clocked (s.command 0x13 ewFenceDestroy c)
def execFenceMirror (c : EwCmd) (s : State) : Host.Outcome State Fault Refusal := s.clocked (s.command 0x14 ewFenceMirror c)
def execBerthCreate (c : EwCmd) (s : State) : Host.Outcome State Fault Refusal := s.clocked (s.command 0x18 ewBerthCreate c)
def execBerthDestroy (c : EwCmd) (s : State) : Host.Outcome State Fault Refusal := s.clocked (s.command 0x19 ewBerthDestroy c)
def execEventBind (c : EwCmd) (s : State) : Host.Outcome State Fault Refusal := s.clocked (s.command 0x1A ewEventBind c)
def execEventUnbind (c : EwCmd) (s : State) : Host.Outcome State Fault Refusal := s.clocked (s.command 0x1B ewEventUnbind c)
def execGraphRegister (c : EwCmd) (s : State) : Host.Outcome State Fault Refusal := s.clocked (s.command 0x20 ewGraphRegister c)
def execGraphUnregister (c : EwCmd) (s : State) : Host.Outcome State Fault Refusal := s.clocked (s.command 0x21 ewGraphUnregister c)
def execStateCreate (c : EwCmd) (s : State) : Host.Outcome State Fault Refusal := s.clocked (s.command 0x28 ewStateCreate c)
def execStateMove (c : EwCmd) (s : State) : Host.Outcome State Fault Refusal := s.clocked (s.command 0x29 ewStateMove c)
def execPhaseEnd (c : EwCmd) (s : State) : Host.Outcome State Fault Refusal := s.clocked (s.command 0x2A ewPhaseEnd c)
def execStateDestroy (c : EwCmd) (s : State) : Host.Outcome State Fault Refusal := s.clocked (s.command 0x2B ewStateDestroy c)

end Sys2Proof.Machine
end

