-- ==== Sys2Proof/Machine/TeardownOps.lean ====
section
/-! DEFINITION. Teardown of contexts, function resets and PCIe links, and the function modes (18_host_interface R584–R592;
R525–R527, R548, R640). -/
namespace Sys2Proof.Machine
open Sys2Proof

/-! Teardown (R585) -/

/-- Entries of a context, graph nodes apart, whose status is not yet fixed as ABORTED. -/
def State.openEntries (s : State) (a : Nat) : Tab Launch :=
  s.hm.launches.filter fun x => x.2.context == a && x.2.node.isNone && x.2.status != some .aborted

/-- Abort every entry of a context, and count those that end ABORTED; what is left of them at the next boundary ends there (R285, R585
steps 2 and 3, R592). -/
def State.abortContext (a : Nat) (s : State) : State :=
  let es := s.openEntries a
  let n := (es.filter fun x => worse x.2.status .aborted == .aborted).length
  let s1 := s.onHm fun h => { h with launches := h.launches.map fun x =>
    if x.2.context = a then (x.1, { x.2 with abortDue := true }) else x }
  ((foldState es (fun b x => b.abortLaunch x.1 .aborted none) s1).settle).onAsid a fun x => { x with aborted := x.aborted + n }

/-- Teardown starts: STOP and ABORT of every berth of the context; a teardown already running goes on (R585 steps 1 and 2,
R591). -/
def State.startTeardown (a cause : Nat) (waiter : Option Nat) (s : State) : State :=
  match s.ctx a with
  | none => s
  | some x =>
    if x.teardown ≠ 0 then s
    else
      let bs := (s.berths.filter fun b => b.2.enable && b.2.context == a).map (·.1)
      ((foldState bs (fun b i => b.stopBerth i true) s).onAsid a fun x => { x with
        teardown := 2, cause := cause, waiter := waiter }).abortContext a

/-- Answer the PENDING fault entries of a context with ABORT (R585 step 5). -/
def State.abortFaults (a : Nat) (s : State) : State :=
  foldState s.xl.fq (fun b q =>
    (foldState (q.2.entries.filter fun e => e.2.state == 0 && e.2.context == a)
      (fun c e => c.putFault q.1 e.1 { e.2 with state := 3, engines := [] }) b).retryHeld q.1) s

/-- Steps 3, 4 and the answers of step 5 at a boundary, once every entry of the context has completed (R585). -/
def State.teardownOne (a : Nat) (s : State) : State :=
  let s1 := s.abortContext a
  if s1.hm.launches.any fun x => x.2.context == a then s1
  else
    let s2 := s1.onRas fun r => { r with lost := setIns r.lost a }
    let fons := (s2.fu.fences.filter fun f => f.2.owner == a).map (·.1)
    let s3 := (foldState fons (fun b f => b.abandonFence f) s2).settle
    let s4 := foldState fons (fun b f => b.reapFence f) s3
    (s4.abortFaults a).onAsid a fun x => { x with teardown := 4 }

/-- What a boundary does to the teardowns in progress, and to the commands and objects that wait (R577, R585, R591). -/
def State.teardownBoundary (s : State) : State :=
  ((foldState (s.hif.ctxs.filter fun x => x.2.teardown == 2) (fun a x => a.teardownOne x.1) s).sweepObjs).pollPages

/-- Some request carrying the ASID is outstanding (R585 step 5). -/
def State.asidBusy (s : State) (a : Nat) : Bool :=
  s.hif.reqs.any (fun r => r.2.context == a) || s.lk.reqs.any (fun r => r.2.context == a)
  || s.hm.launches.any fun x => x.2.context == a

/-- Send REVOKE for every state record of a context that no hand-over holds (R585 step 7, R591). -/
def State.destroyStates (a : Nat) (s : State) : State :=
  foldState (s.lk.own.filter fun o => o.2.token == .origin && o.2.context == a && o.2.peer == 0xFFF) (fun b o => b.destroyOwn o.1) s

/-- Steps 6 and 7: leaves, apertures and cached translations go, berths are disabled, and handles, graphs, events and state
records are released (R585). -/
def execTeardownQuiesced (asid : Nat) (s : State) : Host.Outcome State Fault Refusal :=
  s.clocked <| match s.ctx asid with
  | none => s
  | some x =>
    if x.teardown ≠ 4 ∨ s.asidBusy asid then s
    else
      let s1 := (s.unmapRange asid 0 (2 ^ 57) fun _ => true).putApertures (s.hif.apertures.filter fun p => p.2.1 != asid)
      let s2 := s1.pilotInval x.harbour { scope := 1, asid := asid, va := 0, pages := 0 }
      let bs := (s2.berths.filter fun b => b.2.enable && b.2.context == asid).map (·.1)
      let s3 := foldState bs (fun b i => b.disableBerth i 0) s2
      let s4 := (s3.onAsid asid fun y => { y with handles := y.handles.map fun h => (h.1, { h.2 with obj := none }), events := [] })
      let s5 := foldState (x.handles.filterMap fun h => h.2.obj) (fun b o => b.dropRef o) s4
      let ks := (s5.graphs.filter fun g => g.2.valid && g.2.context == asid).map (·.1)
      let s6 := (foldState ks (fun b k => b.dropGraph k) s5).destroyStates asid
      (s6.onAsid asid fun y => { y with teardown := 7 }).pollPages

/-- Fault entries that name a context lose its traces once answered (R548). -/
def State.scrubFaults (a : Nat) (s : State) : State :=
  foldState s.xl.fq (fun b q =>
    foldState (q.2.entries.filter fun e => e.2.state != 0 && e.2.context == a)
      (fun c e => c.putFault q.1 e.1 { e.2 with context := 0, va := 0, launch := 0 }) b) s

/-- Step 8: the scrub ends, the ASID is free, and the result of CTX_DESTROY is written (R527, R548, R585). -/
def execCtxTeardown (asid : Nat) (s : State) : Host.Outcome State Fault Refusal :=
  s.clocked <|
    let s0 := s.destroyStates asid
    match s0.ctx asid with
    | none => s
    | some x =>
      if x.teardown ≠ 7 then s
      else if s0.lk.own.any fun o => o.2.token == .origin && o.2.context == asid then s0
      else
        let bs := (s0.berths.filter fun b => b.2.context == asid && !b.2.enable).map (·.1)
        let s1 := foldState bs (fun b i => b.scrubBerth i) s0
        let es := s1.fu.space.filter fun e => e.1 / 2 ^ 24 == asid
        let s2 := foldState (es.filter fun e => e.2.valid) (fun b e => b.dropFenceEnt e.1 e.2) s1
        let s3 := s2.onFu fun u => { u with space := u.space.filter fun e => e.1 / 2 ^ 24 != asid }
        let s4 := (s3.scrubFaults asid).onHif fun q => { q with
          ctxs := tabDel q.ctxs asid
          handleGen := x.handles.foldl (fun t h => tabPut t (asid * 2 ^ 24 + h.1) h.2.gen) q.handleGen }
        let s5 := ((s4.put0 (s.xl.ctxBase + 32 * asid) [0, 0, 0, 0]).put0 (s.hif.hostBind + 8 * asid) [0]).onRas fun r => { r with
          lost := setDel r.lost asid }
        (s5.event 0x0B02 7 x.harbour [pair asid x.harbour, w64 x.cause, w64 x.aborted]).pageDoneOpt x.waiter 0 0

/-- CTX_DESTROY (R584, R585). -/
def ewCtxDestroy (c : EwCmd) (s : State) : Reply := s.ownerOf c fun a _ => .later (s.startTeardown a 1 (some c.func))

def execCtxDestroy (c : EwCmd) (s : State) : Host.Outcome State Fault Refusal := s.clocked (s.command 0x02 ewCtxDestroy c)

/-- What the pilot does for a command word; a reserved or unknown opcode is refused with MALFORMED (R576, R577). -/
def ewRun (w : Nat) (c : EwCmd) (s : State) : Reply :=
  match w with
  | 0x01 => ewCtxCreate c s
  | 0x02 => ewCtxDestroy c s
  | 0x03 => ewMemCreate c s
  | 0x04 => ewMemRelease c s
  | 0x05 => ewMemExport c s
  | 0x06 => ewMemImport c s
  | 0x07 => ewMemPin c s
  | 0x08 => ewMemUnpin c s
  | 0x09 => ewMap c s
  | 0x0A => ewMapHost c s
  | 0x0B => ewUnmap c s
  | 0x0C => ewBarMap c s
  | 0x10 => ewFenceCreate c s
  | 0x11 => ewFenceExport c s
  | 0x12 => ewFenceImport c s
  | 0x13 => ewFenceDestroy c s
  | 0x14 => ewFenceMirror c s
  | 0x18 => ewBerthCreate c s
  | 0x19 => ewBerthDestroy c s
  | 0x1A => ewEventBind c s
  | 0x1B => ewEventUnbind c s
  | 0x20 => ewGraphRegister c s
  | 0x21 => ewGraphUnregister c s
  | 0x28 => ewStateCreate c s
  | 0x29 => ewStateMove c s
  | 0x2A => ewPhaseEnd c s
  | 0x2B => ewStateDestroy c s
  | _ => .refuse 2

/-- HM_EW_GO: the command words of a page are submitted (R575–R577). -/
def State.submit (func : Nat) (pasid : Option Nat) (tag : Word32) (s : State) : State :=
  let ws := (s.page func).words
  let w := (wordAt ws 0).toNat
  s.command w (ewRun w) { func := func, pasid := pasid, tag := tag, args := ws.drop 1 }

/-! Functions and links (R584, R590, R591) -/

/-- Every context of the functions that `f` selects is torn down. -/
def State.teardownFuncs (f : Nat → Bool) (cause : Nat) (s : State) : State :=
  foldState (s.hif.ctxs.filter fun x => f x.2.func) (fun a x => a.startTeardown x.1 cause none) s

/-- A Function Level Reset: a running command ends without a result, and every context of the function is torn down (R584,
R591). -/
def execFunctionLevelReset (func : Nat) (s : State) : Host.Outcome State Fault Refusal :=
  s.clocked <| if 128 ≤ func then s
    else
      let none' (o : Option Nat) : Option Nat := if o = some func then none else o
      let s1 := (s.onHif fun q => { q with
        pages := q.pages.map fun p => if p.1 = func then (p.1, { p.2 with busy := false, wait := none }) else p
        ctxs := q.ctxs.map fun x => (x.1, { x.2 with waiter := none' x.2.waiter }) }).onLk fun x => { x with
          own := x.own.map fun o => (o.1, { o.2 with movePending := none' o.2.movePending, ckptPending := none' o.2.ckptPending }) }
      s1.teardownFuncs (· == func) 2

/-- A link leaves L0 other than under R482: its requests end as ACCESS faults (R583, R590). -/
def execHostLinkDown (link : Nat) (s : State) : Host.Outcome State Fault Refusal :=
  s.clocked <|
    let x := s.link link
    if !x.up ∨ 4 ≤ link ∨ x.l23 then s
    else
      let s1 := (s.onLink link fun l => { l with up := false, grace := true }).event 0x0B01 0 0 [w64 link]
      foldState (s1.hif.reqs.filter fun r => r.2.link == link) (fun a r =>
        (a.onHif fun q => { q with reqs := tabDel q.reqs r.1 }).hostFails r.2) s1

/-- A link is not back in L0 after 1 s: the contexts of its functions are torn down (R590). -/
def execLinkDownGraceExpire (link : Nat) (s : State) : Host.Outcome State Fault Refusal :=
  s.clocked <|
    let x := s.link link
    if x.up ∨ !x.grace then s
    else (s.onLink link fun l => { l with grace := false }).teardownFuncs (fun f => f / 32 == link) 3

/-- A link reaches L0: its functions start with NumVFs 0, empty command pages and cleared MSI-X tables (R590). -/
def execHostLinkReturn (link width speed : Nat) (s : State) : Host.Outcome State Fault Refusal :=
  s.clocked <|
    let x := s.link link
    if x.up ∨ !x.pres ∨ s.pins.perst then s
    else (s.onLink link fun l => { l with up := true, grace := false, l23 := false, numVfs := 0, width := width, speed := speed }).onHif fun q => { q with
      pages := q.pages.filter fun p => p.1 / 32 != link
      msix := q.msix.filter fun m => m.1 / 32 != link }

/-! Function modes (R587, R640) -/

/-- A write of CF_FUNC_MODE: indices 1 and 6 are in force from the write (R640). -/
def State.writeFuncMode (v : Word) (s : State) : State :=
  s.onHif fun h => { h with
    mode := bits v 0 8
    modeInForce := putBits (putBits h.modeInForce 1 1 (bits v 1 1)) 6 1 (bits v 6 1) }

def execCfFuncModeWrite (m : Master) (v : Word) (s : State) : Host.Outcome State Fault Refusal :=
  s.clocked <| s.privWrite m 0x10800 fun s => s.writeFuncMode v

/-- Install every candidate that waits on a channel. -/
def State.installAll (ch : Nat) : Nat → State → State
  | 0, s => s
  | n + 1, s => State.installAll ch n (s.installCandidate ch)

/-- The modes come into force at a boundary: a snapshot that waits for its answer is dropped, and candidates that wait for the
manager are installed, when their functions return to hardware (R587). -/
def State.modeBoundary (s : State) : State :=
  let ends (i : Nat) : Bool := s.hostMode i && bitsN s.hif.mode i 1 == 0
  let s1 := s.onHif fun h => { h with modeInForce := h.mode }
  let s2 := if ends 3 ∧ s1.fu.cyclePending then
    s1.onFu fun u => { u with cyclePending := false, cDropped := u.cDropped + 1 } else s1
  if ends 5 then foldState s2.mem.chans (fun a c => a.installAll c.1 c.2.candidates.length) s2 else s2

end Sys2Proof.Machine
end

