-- ==== Sys2Proof/Machine/ResetOps.lean ====
section
/-! DEFINITION. Module reset and its causes, the rail-group sequence, freeze and the dump, the test access port, tamper and
removal (16_reliability_and_recovery R513, R524; 17_security R551, R552; 19_startup_freeze_cascade R603, R608, R611–R620;
21_module_connector_and_electrical R649–R654, R664). -/
namespace Sys2Proof.Machine
open Sys2Proof

/-! Module reset (R27, R376, R486, R608) -/

/-- What the always-on store holds of a harbour. -/
def Harbour.stored (x : Harbour) : Harbour :=
  { tiles := x.tiles, channels := x.channels, millSlots := x.millSlots, laneGroups := x.laneGroups, poolMib := x.poolMib,
    spanId := x.spanId, member := x.member, span := x.span, peers := x.peers }

/-- The binding generations that the always-on store holds beside the harbour map (R340, R608). -/
def State.storedGens (s : State) : Tab Nat :=
  let gens (type : Nat) (t : Tab Cond) : Tab Nat := t.filterMap fun u => match u.2 with
    | .bound _ g => some (type * 1024 + u.1, g)
    | _ => none
  gens 0 (s.places.map fun p => (p.1, p.2.cond)) ++ gens 1 s.hb.channels ++ gens 3 s.hb.laneGroups

/-- The security controller's own memory and the keys it derived stay; its other registers, updates, streams and sessions do not (R549, R558, R563). -/
def Security.afterReset (c : Security) : Security :=
  { rootValid := c.rootValid, rootSecret := c.rootSecret, seed := c.seed, ownerMldsa := c.ownerMldsa, ownerEcdsa := c.ownerEcdsa
    keys := c.keys, tamperCause := c.tamperCause, battLow := c.battLow, counter := c.counter, bankA := c.bankA,
    bankB := c.bankB, selB := c.selB, tamperRec := c.tamperRec, tamperTold := c.tamperTold }

/-- A module reset: the part, the flash, the fuses, the key memory and the always-on store stay, and everything else takes its
reset value (R27, R486, R549, R608). The next start-up records the cause. -/
def State.moduleReset (cause : Nat) (s : State) : State :=
  { part := s.part, disabled := s.disabled, uid := s.uid, formats := s.formats, frenor := s.frenor
    tide := { shadow := s.tide.shadow }
    hb := { hgen := s.hb.hgen, journal := s.hb.journal, copies := s.hb.copies }
    mem := { remap := s.mem.remap, aon := s.mem.aon, aonTick := s.mem.aonTick }
    pw := { marginA := s.pw.marginA, marginB := s.pw.marginB, flashA := s.pw.cutFlash.flashA, flashB := s.pw.cutFlash.flashB
            watchLog := s.pw.watchLog, watchNext := s.pw.watchNext }
    ras := { kept := s.ras.kept }
    sec := s.sec.afterReset
    hif := { bar2Gib := s.hif.bar2Gib }
    boot := {
      life := .inReset, imageA := s.boot.imageA, imageB := s.boot.imageB, floor := s.boot.floor, svnRaise := s.boot.svnRaise
      mapCopy := if s.hb.harbours.isEmpty then s.boot.mapCopy else some (s.hb.harbours.map fun h => (h.1, h.2.stored))
      mapGens := if s.hb.harbours.isEmpty then s.boot.mapGens else s.storedGens
      nextCause := cause, tap := s.boot.tap }
    pins := { s.pins with pcieRdy := false, alert := false }
    out := s.out, freeTick := s.freeTick, pending := s.pending }

/-- VSTBY has been lost: the always-on store is empty, and only key memory, fuses and flash remain (R53, R598, R654). -/
def State.powerLost (s : State) : State :=
  let r := s.moduleReset s.boot.nextCause
  { r with
    tide := {}, hb := {}, mem := {}, ras := {}, sec := { r.sec with keys := none }
    pw := { flashA := r.pw.flashA, flashB := r.pw.flashB }
    boot := { r.boot with life := .unpowered, mapCopy := none, mapGens := [], svnRaise := none, tap := 1 }
    pins := { mate0 := s.pins.mate0, mate1 := s.pins.mate1, freeze := s.pins.freeze } }

/-- A module failure: MODULE_FAIL is written to the always-on store, and the module resets (R513). -/
def State.moduleFail (cause start : Nat) (s : State) : State := (s.keepEvent 0x0909 0 0 [w64 cause]).moduleReset start

/-- The module is powered and not held in reset, so a supply or fabric failure resets it. -/
def State.live (s : State) : Bool :=
  match s.boot.life with | .starting | .running | .stopped => true | _ => false

/-- C-die 0's fabric domain fails as a whole (R513). -/
def execFabricDomainFailure (s : State) : Host.Outcome State Fault Refusal :=
  s.clocked <| if s.live then s.moduleFail 1 4 else s

/-- A rail stays below its reset level for 1 µs, or REFCLK_SYS stops (R502, R513, R654). -/
def execSupplyReset (s : State) : Host.Outcome State Fault Refusal :=
  done <| if s.live then s.moduleFail 2 2 else s

/-- A bridge module fails beyond lane repair; the loss of the last one is a module failure (R57, R513, R524). -/
def execBridgeDegrade (working : Nat) (s : State) : Host.Outcome State Fault Refusal :=
  s.clocked <| if !s.running ∨ s.ras.bridge ≤ working then s
    else
      let s1 := (s.onRas fun r => { r with bridge := working }).event 0x0907 0 0 [w64 working, w64 (125 * working)]
      if working = 0 then s1.moduleFail 3 4 else s1

/-! The rail groups (R651–R653) -/

/-- The sequence in progress asserts or deasserts the enables that the power-goods allow (R651, R653). -/
def State.powerStep (s : State) : State :=
  let p := s.pins
  let on (a : Pins) : Pins :=
    let b : Pins := { a with enA := true }
    let c : Pins := { b with enB := b.enB || b.pgA }
    let d : Pins := { c with enC := c.enC || (c.enB && c.pgB) }
    { d with seq := if d.enC && d.pgC then 0 else 1 }
  let off (a : Pins) : Pins :=
    let b : Pins := { a with enC := false }
    let c : Pins := { b with enB := b.enB && b.pgC }
    let d : Pins := { c with enA := c.enA && (c.enB || c.pgB) }
    { d with seq := if d.seq = 2 && !d.enA then 0 else d.seq }
  if p.seq = 1 then s.onPins on
  else if p.seq = 2 ∨ p.seq = 3 then s.onPins off
  else s

/-- Power-on of the rail groups begins (R651). -/
def State.powerOn (s : State) : State := (s.onPins fun p => { p with seq := 1 }).powerStep

/-- Power-off of the rail groups begins (R653). -/
def State.powerOff (seq : Nat) (s : State) : State := (s.onPins fun p => { p with seq := seq }).powerStep

/-- Every rail is in regulation (R651). -/
def State.railsGood (s : State) : Bool :=
  s.pins.enA && s.pins.enB && s.pins.enC && s.pins.pgA && s.pins.pgB && s.pins.pgC

/-- A power-good is late or has fallen: the rails are removed until MOD_RST_N has been asserted and released, and a fall while the
module runs is a supply below the reset level (R652). The requested voltage and the acknowledgement of RAIL_FAULT, which belong
to a voltage request, are free values. -/
def State.pgFault (s : State) : State :=
  if s.pins.seq = 3 ∨ s.boot.life = .unpowered then s
  else
    let s1 := (s.keepEvent 0x0802 13 7 [7, s.fresh, Config.freeWord (s.freeTick + 1)]).drawn.drawn
    let s2 := if s.running then s1.keepEvent 0x0909 0 0 [2] else s1
    ((s2.moduleReset 2).powerOff 3).onPins fun p => { p with alert := true }

/-- A power-good is late or falls (R652). -/
def execPgFault (s : State) : Host.Outcome State Fault Refusal :=
  done <| if s.pins.enA ∨ s.pins.enB ∨ s.pins.enC then s.pgFault else s

/-- A rail group's PG input rises or falls; a fall while its enable is asserted is a fault (R651–R653). -/
def execPowerGoodChange (group : Nat) (good : Bool) (s : State) : Host.Outcome State Fault Refusal :=
  done <|
    let p := s.pins
    let en := match group with | 0 => p.enA | 1 => p.enB | _ => p.enC
    let s1 := s.onPins fun p => match group with
      | 0 => { p with pgA := good }
      | 1 => { p with pgB := good }
      | 2 => { p with pgC := good }
      | _ => p
    if 3 ≤ group then s
    else if !good && en && decide (p.seq ≤ 1) then s1.pgFault
    else s1.powerStep

/-! Freeze, MOD_RST_N and the dump (R611–R616, R649) -/

/-- The module freezes: every clock stops, HBM is lost, and the links and lasers go down (R611). -/
def State.freezeNow (soft : Bool) (s : State) : State :=
  let s1 := s.onBoot fun b => { b with
    life := .frozen, freezeSoft := soft, freezeTide := s.tide.num, dumpAll := b.dumpEn, frame := 0, tapFrame := 0, nextCause := 6 }
  ((s1.onTide fun t => { t with stopped := true }).onMem fun m => { m with bytes := [], written := [], poison := [] }).onHif fun h => { h with
    links := h.links.map fun l => (l.1, { l.2 with up := false }) }

/-- FREEZE_N changes; an assertion freezes a powered module (R611, R620, R665). -/
def execFreezeN (asserted : Bool) (s : State) : Host.Outcome State Fault Refusal :=
  done <|
    let s1 := s.onPins fun p => { p with freeze := asserted }
    if !asserted then s1
    else match s.boot.life with
    | .unpowered | .frozen | .tripped => s1
    | _ => s1.freezeNow false

/-- DB_FREEZE: DUMP_EN and DUMP_HOLDS are written, and SOFT freezes the module (R611, R612). -/
def State.writeFreeze (v : Word) (s : State) : State :=
  let s1 := s.onBoot fun b => { b with dumpEn := bit v 1, dumpHolds := bit v 2 }
  if bit v 0 then s1.freezeNow true else s1

/-- The manager writes DB_FREEZE (R611, R612). -/
def execDbFreezeSoft (m : Master) (v : Word) (s : State) : Host.Outcome State Fault Refusal :=
  s.clocked <| if !s.running then s else s.privWrite m 0xC00100 fun s => s.writeFreeze v

/-- FREEZE_RESET of the freeze in progress (R613, R621). -/
def State.freezeReset (s : State) : KeptEvent :=
  ⟨0x0C03, 0, 0, s.boot.freezeTide, [if s.boot.freezeSoft then 1 else 0, w64 s.boot.frame]⟩

/-- The reset that ends a freeze keeps FREEZE_RESET for the start-up (R613, R621). -/
def State.thaw (s : State) : State :=
  (s.onRas fun r => { r with kept := r.kept ++ [s.freezeReset] }).moduleReset 6

/-- MOD_RST_N changes: its assertion resets the module, and its release ends a thermal trip or a power-good fault (R603, R613,
R652, R653, R665). -/
def execModRstN (asserted : Bool) (s : State) : Host.Outcome State Fault Refusal :=
  done <|
    let s1 := s.onPins fun p => { p with modRst := asserted }
    if asserted == s.pins.modRst then s
    else match s.boot.life with
    | .unpowered => s1
    | .frozen => s1.thaw
    | .tripped => if asserted then s1 else (s1.moduleReset 3).onPins fun p => { p with thermTrip := false, seq := 0 }
    | _ =>
      if asserted then s1.moduleReset 1
      else s1.onPins fun p => { p with seq := if p.seq = 3 then 0 else p.seq, alert := p.alert && p.seq != 3 }

/-- Units of a dump segment that are present, rising (R614). -/
def State.dumpUnits (s : State) (seg : Nat) : List Nat :=
  match seg with
  | 5 => (List.range 544).filter s.tilePresent
  | 6 => (List.range 256).filter s.millPresent
  | 7 => (List.range 256).filter s.channelPresent
  | 8 => (List.range 16).filter s.portPresent
  | 10 => (List.range 512).filter s.placePresent
  | _ => [0]

/-- 4 KiB blocks of a unit's segment (R614). -/
def dumpBlocks (seg : Nat) : Nat :=
  match seg with
  | 0 => 1 | 1 => 1024 | 2 => 20480 | 3 => 20480 | 4 => 512 | 5 => 256 | 6 => 256 | 7 => 16 | 8 => 512 | 9 => 2048 | _ => 8192

/-- Segments of the dump (R614). -/
def State.dumpSegments (s : State) : List Nat :=
  if s.boot.dumpAll then List.range (if s.boot.dumpHolds then 11 else 10) else [0]

/-- Segment, unit and block of frame `n` of the stream (R614, R615). -/
def State.frameOf (s : State) : List Nat → Nat → Option (Nat × Nat × Nat)
  | [], _ => none
  | g :: gs, n =>
    let us := s.dumpUnits g
    let k := dumpBlocks g
    if n < us.length * k then some (g, us.getD (n / k) 0, n % k) else s.frameOf gs (n - us.length * k)

/-- The 4,096 bytes of a block of a unit's segment: the always-on store and the holds as they stand; the spec gives the other segments no
bytes, so theirs are free values (R614, log entry 144). -/
def State.dumpBytes (s : State) (g u k : Nat) : List Byte :=
  match g with
  | 1 => (List.range 4096).map fun i => s.aonByte (4096 * k + i)
  | 10 => beatBytes (readBeats (s.holdRead u) (4096 * k) 4096)
  | _ => (List.range 4096).map fun i => (Config.freeWord (s.freeTick + i)).truncate 8

/-- Send frame `n` of a stream: its header, its CRC over the header without the CRC and the payload, and the payload (R615). -/
def State.sendFrame (tap : Bool) (g u n k : Nat) (s : State) : State :=
  let bs := s.dumpBytes g u k
  let head := leBytes 8 (g + u * 2 ^ 8 + n % 2 ^ 32 * 2 ^ 32) ++ leBytes 4 k
  { s.emit (.frame tap g u n k (crc32c (head ++ bs)) bs) with freeTick := s.freeTick + 4096 }

/-- The dump controller sends the next frame (R614, R615). -/
def execDumpFrame (s : State) : Host.Outcome State Fault Refusal :=
  done <| if s.boot.life ≠ .frozen then s
    else match s.frameOf s.dumpSegments s.boot.frame with
    | none => s
    | some (g, u, k) => (s.sendFrame false g u s.boot.frame k).onBoot fun b => { b with frame := b.frame + 1 }

/-- A frame of the stream through the test access port (R616). -/
def execTapDump (s : State) : Host.Outcome State Fault Refusal :=
  done <| if s.boot.life ≠ .frozen then s
    else match s.frameOf s.dumpSegments s.boot.tapFrame with
    | none => s.onBoot fun b => { b with tap := 4 }
    | some (g, u, k) => (s.sendFrame true g u s.boot.tapFrame k).onBoot fun b => { b with tap := 4, tapFrame := b.tapFrame + 1 }

/-- An instruction of the test access port: 0 BYPASS, 1 IDCODE, 2 SAMPLE/PRELOAD, 3 EXTEST (R616). -/
def State.tapRun (n : Nat) (s : State) : State :=
  if s.boot.life = .unpowered then s else (s.onBoot fun b => { b with tap := n }).emit (.tdo n)

/-- EXTEST acts as BYPASS unless MOD_RST_N is asserted (R616). -/
def execTapExtest (s : State) : Host.Outcome State Fault Refusal := done <| s.tapRun (if s.pins.modRst then 3 else 0)
def execTapIdcode (s : State) : Host.Outcome State Fault Refusal := done <| s.tapRun 1
def execTapBypass (s : State) : Host.Outcome State Fault Refusal := done <| s.tapRun 0
def execTapSamplePreload (s : State) : Host.Outcome State Fault Refusal := done <| s.tapRun 2

/-! Tamper and removal (R551, R552, R619, R664) -/

/-- A tamper event of a cause of R551, 0 to 3: every key is zeroed, every session closed, the tamper record written, and a powered
module reset (R552); a frozen or tripped module still waits for MOD_RST_N (R613, R653). -/
def execTamper (cause : Nat) (s : State) : Host.Outcome State Fault Refusal :=
  done <|
    let powered := s.boot.life != .unpowered
    let s1 := s.onSec fun c => { c with
      rootValid := false, rootSecret := 0, keys := none, tamperCause := c.tamperCause ||| 2 ^ (cause % 4), counter := 0, bankA := [], bankB := [], streams := []
      sessions := 0, upd := none, tamperRec := some (cause, s.tide.num, powered), tamperTold := false }
    let s2 := s1.onLk fun x => { x with lgs := x.lgs.map fun g => (g.1, { g.2 with txKey := {}, rxKey := {} }) }
    match s.boot.life with
    | .unpowered | .frozen | .tripped => s2
    | _ => s2.moduleReset 5

/-- A MATE contact opens: the sled removes every rail, and the module sees a surprise removal (R619, R664). -/
def execMateOpen (contact : Nat) (s : State) : Host.Outcome State Fault Refusal :=
  done <|
    if s.boot.life = .unpowered then s
    else s.powerLost.onPins fun p => if contact = 0 then { p with mate0 := false } else { p with mate1 := false }

end Sys2Proof.Machine
end

