-- ==== Sys2Proof/Machine/PstateOps.lean ====
section
/-! DEFINITION. Power states: the commands of PW_CMD, entry to WATCH and HOLD, wakes, and the WATCH samples
(15_power_and_health R478–R485; 14_shomea_links_and_pools R447). -/
namespace Sys2Proof.Machine
open Sys2Proof

/-! Commands (R479, R482) -/

/-- Work that refuses every low-power command (R479). -/
def State.lowPowerBusy (s : State) : Bool :=
  !s.hm.launches.isEmpty || s.mills.any (fun m => m.2.slots.any fun k => k.2 != .free) || !s.hb.journal.isEmpty
  || s.mem.chans.any (fun c => c.2.scrub.isSome || c.2.remapBusy) || s.pw.transit || s.pw.resuming

/-- What refuses WATCH and HOLD besides (R479). -/
def State.deepBusy (s : State) : Bool :=
  s.tide.role == .master || s.lk.own.any (fun o => o.2.holding) || !s.hif.ctxs.isEmpty

/-- PSTATE: old and new state, and the CRC flag (R509). -/
def State.pstateEvent (old new : PState) (crcBad : Bool) (s : State) : State :=
  s.event 0x0800 0 0 [pair old.code new.code, if crcBad then 1 else 0]

/-- TARGET = IDLE: the tile clocks stop; a brown-out hold count is discarded (R478, R479, R508). -/
def State.cmdIdle (s : State) : State :=
  if s.lowPowerBusy then s.pwRefused
  else if s.pw.st ≠ .active then s
  else ((s.onPw fun w => { w with st := .idle, waking := false, brownHold := false, holdCount := 0 }).setRegions).pstateEvent .active .idle false

/-- TARGET = WATCH or HOLD: the entry steps begin (R482 step 1). -/
def State.cmdDeep (target : PState) (s : State) : State :=
  if s.lowPowerBusy ∨ s.deepBusy then s.pwRefused
  else if s.pw.st ≠ .active ∧ s.pw.st ≠ .idle then s
  else s.onPw fun w => { w with transit := true, entered := false, target := target, waking := false }

/-- A wake source of IDLE: the module is ACTIVE at the next boundary (R478, R480). -/
def State.idleWake (s : State) : State := if s.pw.st = .idle then s.onPw fun w => { w with waking := true } else s

/-- A write of PW_CMD by its TARGET; 4 to 7 are reserved and ignored (R479, R511). -/
def State.writeCmd (v : Word) (s : State) : State :=
  match bits v 0 3 with
  | 0 => s.idleWake
  | 1 => s.cmdIdle
  | 2 => s.cmdDeep .watch
  | 3 => s.cmdDeep .hold
  | _ => s

/-- A write of PW_CMD is a write of the PW_ block (R510). -/
def State.cmdWrite (m : Master) (target : Nat) (s : State) : State := s.privWrite m 0x20008 fun s => s.writeCmd (w64 target)

def execPwCmdActive (m : Master) (s : State) : Host.Outcome State Fault Refusal :=
  s.clocked <| if !s.running then s else s.cmdWrite m 0
def execPwCmdIdle (m : Master) (s : State) : Host.Outcome State Fault Refusal :=
  s.clocked <| if !s.running then s else s.cmdWrite m 1
def execPwCmdWatch (m : Master) (s : State) : Host.Outcome State Fault Refusal :=
  s.clocked <| if !s.running then s else s.cmdWrite m 2
def execPwCmdHold (m : Master) (s : State) : Host.Outcome State Fault Refusal :=
  s.clocked <| if !s.running then s else s.cmdWrite m 3

/-! Entry (R482) -/

/-- Boundary 1 of an entry: every cluster is gated, the PCIe links reach L2/L3 Ready, and every port sleeps (R482 step 2). -/
def State.enterDeep (s : State) : State :=
  if !s.pw.transit ∨ s.pw.entered then s
  else
    let cs := (List.range 32).filter s.clusterPresent
    let on := cs.filter fun c => !(s.cluster c).gated
    let s1 := foldState cs (fun a c => a.onCluster c fun x => { x with gated := true, ungating := false, request := none })
      (s.onPw fun w => { w with entered := true, savedUngated := on })
    let s2 := s1.onHif fun h => { h with links := h.links.map fun l => (l.1, { l.2 with up := false, l23 := l.2.l23 || l.2.up }) }
    (foldState ((List.range 16).filter s.portPresent) (fun a p => a.portLeaves p .sleep) s2).setRegions

/-- What loses power in WATCH and HOLD: HBM, the holds and the stored records in them. The always-on store keeps what it holds, and the
saved register set is written to it (R52, R478, R482, R484, R486). -/
def State.railsOff (s : State) : State :=
  let s1 := s.onMem fun m => { m with
    bytes := [], written := [], poison := [], aon := m.aon.filter (fun c => decide (c.1 < 0x100000)), aonTick := s.freeTick }
  { s1 with freeTick := s.freeTick + 4194304, places := s1.places.map fun p => (p.1, { p.2 with
      slots := [], hold := [], holdPoison := [], heap := [], zeroing := [], evicting := 0, tags := [] }) }

/-- Resume begins: the rails come back (R483 step 1). -/
def State.startResume (s : State) : State := (s.onPw fun w => { w with resuming := true, waking := false }).powerOn

/-- The saved set is written, the rails go, the tides stop, and the state changes; a wake that came meanwhile starts the resume at
once (R80, R482 steps 3 and 4, R483, R508). -/
def execLowpowerEntryDone (s : State) : Host.Outcome State Fault Refusal :=
  s.clocked <|
    if !s.running ∨ !s.pw.transit ∨ !s.pw.entered then s
    else
      let s1 := (s.keepEvent 0x0800 0 0 [pair s.pw.st.code s.pw.target.code, 0]).railsOff
      let s2 := (s1.onTide fun t => { t with shadow := t.num, stopped := true }).onPw fun w => { w with
        st := w.target, transit := false, entered := false, light := [], watchAlert := false }
      let s3 := (s2.setRegions).powerOff 2
      if s.pw.waking then s3.startResume else s3

/-! Wakes (R447, R480, R483) -/

/-- A wake source of WATCH and HOLD; during the entry it waits for the entry to end (R480, R483, R508). -/
def State.deepWake (s : State) : State :=
  if s.pw.transit then s.onPw fun w => { w with waking := true }
  else if (s.pw.st = .watch ∨ s.pw.st = .hold) ∧ !s.pw.resuming then s.startResume
  else s

/-- WAKE_N is asserted for at least 100 cycles; it is ignored during start-up, a freeze or a trip (R480, R620, R649, R665). -/
def execWakeN (s : State) : Host.Outcome State Fault Refusal :=
  s.clocked <| if !s.running then s else s.idleWake.deepWake

/-- A port in SLEEP detects the wake pattern (R447, R480). -/
def execWakePattern (port : Nat) (s : State) : Host.Outcome State Fault Refusal :=
  s.clocked <| if !s.running ∨ !s.portPresent port ∨ (s.port port).st ≠ .sleep then s else s.deepWake

/-- A PCIe TLP, or a data flit on a lane group, arrives in IDLE (R480). -/
def execIdleWakeTraffic (s : State) : Host.Outcome State Fault Refusal :=
  s.clocked <| if !s.running then s else s.idleWake

/-! WATCH samples (R485) -/

/-- A sampled quantity is outside its threshold: coolant sensors 120 and 121, carrier sensors 122 to 127, the standby-rail monitor
128, and the light detector of port p at 129 + p, outside on any change while LINK_ALERT is 1 (R485, R504). -/
def State.outside (s : State) (source value : Nat) : Bool :=
  if source = 120 ∨ source = 121 then decide (s.pw.coolantMax < value)
  else if 122 ≤ source ∧ source < 128 then decide (s.pw.carrierMax < value)
  else if 129 ≤ source ∧ source < 145 then
    s.pw.linkAlert && (match tabFind s.pw.light (source - 129) with | some x => x != value | none => false)
  else false

/-- The log keeps the last 4,096 entries (R485, R486). -/
def logPut (t : List WatchEnt) (x : WatchEnt) : List WatchEnt := if t.length < 4096 then t ++ [x] else t.drop 1 ++ [x]

/-- The 16 bytes of a WATCH log entry are written; the spec gives them no layout, so each is a free value (R486, log entry 42). -/
def State.logBytes (off : Nat) (s : State) : State :=
  { s.onMem fun m => { m with
      aon := (List.range 16).foldl (fun t i => tabPut t (off + i) ((Config.freeWord (s.freeTick + i)).truncate 8)) m.aon } with
    freeTick := s.freeTick + 16 }

/-- One sample: its entry names the first quantity outside its threshold, else the first sampled; ALERT_N is asserted while a cause
remains (R485). -/
def execWatchSample (ms : Nat) (samples : List (Nat × Nat)) (s : State) : Host.Outcome State Fault Refusal :=
  s.clocked <|
    if !s.running ∨ s.pw.st ≠ .watch ∨ s.pw.resuming then s
    else
      let bad := samples.filter fun x => s.outside x.1 x.2
      let alert := !bad.isEmpty
      match bad.head?.or samples.head? with
      | none => s
      | some x =>
        ((s.logBytes (0x30000 + 16 * s.pw.watchNext)).onPw fun w => { w with
          watchLog := logPut w.watchLog ⟨ms, x.1, x.2, alert⟩, watchNext := (w.watchNext + 1) % 4096, watchAlert := alert
          light := (samples.filter fun y => decide (129 ≤ y.1 ∧ y.1 < 145)).foldl (fun t y => tabPut t (y.1 - 129) y.2) w.light }).onPins
            fun p => { p with alert := alert }

end Sys2Proof.Machine
end

