-- ==== Sys2Proof/Machine/RegRead.lean ====
section
/-! DEFINITION. The register map as it reads: BAR0 offsets, fields, and which master reaches which register
(20_register_map R623–R632, R639–R643, and the register tables of the other chapters). -/
namespace Sys2Proof.Machine
open Sys2Proof

/-- A register: the value the manager reads, the fields that keep no value, and whether some field crosses the two halves. -/
structure Reg where
  value : Word
  wo : List (Nat × Nat)
  spans : Bool
  deriving DecidableEq, Repr

/-- A field crosses the two 4-byte halves (R627). -/
def crosses (lo n : Nat) : Bool := decide (lo < 32 ∧ 32 < lo + n)

/-- A register of fields (lowest bit, width, value) and write-only fields (lowest bit, width). -/
def reg (fs : List (Nat × Nat × Nat)) (wo : List (Nat × Nat) := []) : Option Reg :=
  some ⟨packFields (fs.map fun f => (f.1, f.2.2 % 2 ^ f.2.1)), wo,
    fs.any (fun f => crosses f.1 f.2.1) || wo.any fun f => crosses f.1 f.2⟩

/-- Four 16-bit counts. -/
def halves (a b c d : Half) : Option Reg := reg [(0, 16, a.toNat), (16, 16, b.toNat), (32, 16, c.toNat), (48, 16, d.toNat)]

/-- A register of eight byte fields or of sixteen 4-bit codes. -/
def bytesReg (f : Nat → Nat) : Option Reg := reg ((List.range 8).map fun i => (8 * i, 8, f i))
def nibbles (f : Nat → Nat) : Option Reg := reg ((List.range 16).map fun i => (4 * i, 4, f i))

/-- A register of 64 flags. -/
def flags (f : Nat → Bool) : Option Reg := reg ((List.range 64).map fun i => (i, 1, one (f i)))

/-- CP_ block (R641). -/
def State.cpReg (s : State) (o : Nat) : Option Reg :=
  let part := match s.part with | .kln8200 => 0 | .kln8160 => 1 | .kln8120 => 2
  let count (n : Nat) (f : Nat → Bool) : Nat := ((List.range n).filter f).length
  if o = 0 then reg [(0, 3, part), (8, 8, 1), (16, 8, 1), (56, 8, 0x41)]
  else if o = 8 then reg ((List.range 32).map fun c => (c, 1, one (s.clusterPresent c)))
  else if 0x10 ≤ o ∧ o < 0x30 then flags fun n => s.channelPresent ((o - 0x10) * 8 + n)
  else if 0x30 ≤ o ∧ o < 0x50 then flags fun n => s.millPresent ((o - 0x30) * 8 + n)
  else if o = 0x50 then reg ((List.range 16).map (fun p => (p, 1, one (s.portPresent p)))
    ++ (List.range 4).map (fun l => (16 + l, 1, one (s.link l).pres)) ++ [(24, 8, 0xFF), (32, 32, s.frenor)])
  else if 0x58 ≤ o ∧ o < 0x98 then
    let j := (o - 0x58) / 8
    reg [(0, 32, s.formats.getD (2 * j) 0), (32, 32, s.formats.getD (2 * j + 1) 0)]
  else if o = 0x98 then
    let tiles := count 512 s.placePresent
    reg [(0, 16, 32 * tiles), (16, 10, tiles), (32, 9, count 256 s.channelPresent), (48, 9, count 256 s.millPresent)]
  else none

/-- PERIOD and SLACK do not fit each other (R76, R81). -/
def slackFits (period slack : Nat) : Bool := decide (2 * period ≤ 10 * slack ∧ 10 * slack ≤ 25 * period)

/-- CF_ block (R81, R541, R570, R622, R639, R640). -/
def State.cfReg (s : State) (o : Nat) : Option Reg :=
  let t := s.tide
  let c := s.crc
  let b := s.boot
  if o = 0 then reg [(56, 8, 0x46)]
  else if o = 0x10 then reg [(0, 32, c.ref.toNat)] [(63, 1)]
  else if o = 0x18 then reg [(0, 32, c.run.toNat), (32, 1, one c.valid)]
  else if o = 0x20 then reg [(0, 1, one c.drift), (1, 1, one c.adopting), (16, 16, c.passes.toNat), (32, 16, c.drifts.toNat)]
  else if o = 0x28 then reg [(0, 32, c.rwpIgnored.toNat), (32, 8, c.size.toNat), (40, 8, c.unmapped.toNat), (48, 16, c.refused.toNat)]
  else if o = 0x30 then reg [(0, 2, c.lastMaster), (2, 7, c.lastFunc), (10, 23, c.lastOffset), (48, 16, c.lastTide)]
  else if o = 0x100 then reg [(0, 10, t.nextPeriod), (12, 12, t.nextSlack)] [(63, 1)]
  else if o = 0x108 then reg [(0, 10, t.period), (12, 12, t.slack), (24, 12, t.jobFreq)]
  else if o = 0x110 then reg [(0, 64, t.num.toNat)]
  else if o = 0x118 then
    reg [(0, 2, match t.role with | .standalone => 0 | .master => 1 | .slave => 2), (2, 1, one t.locked), (3, 1, one t.holdover),
      (4, 1, one t.isolated), (5, 1, one (!slackFits t.nextPeriod t.nextSlack)), (6, 1, one t.change.isSome), (7, 1, one t.planLate)]
  else if o = 0x120 then halves t.cMissedTick t.cSaveOverrun t.cPlanLate t.cApplyRefused
  else if o = 0x200 then reg [(12, 36, s.ras.base / 4096), (48, 5, s.ras.log2), (63, 1, one s.ras.enable)]
  else if o = 0x208 then reg [(0, 2, s.ras.irqMode), (4, 11, s.ras.msiVector)]
  else if o = 0x210 then
    reg [(0, 32, s.ras.seq.toNat), (32, 1, one (decide (2 ^ s.ras.log2 ≤ (s.ras.seq - s.ras.consumed).toNat))),
      (48, 16, s.ras.dropped.toNat)]
  else if o = 0x218 then reg [(0, 32, s.ras.consumed.toNat)]
  else if o = 0x220 then reg [(0, 8, s.ras.hangTides), (48, 16, s.ras.cCfgRefused.toNat)]
  else if o = 0x300 then reg [(19, 29, s.hif.hostBind / 2 ^ 19)]
  else if o = 0x308 then reg [(27, 21, s.hif.bar2Base / 2 ^ 27)]
  else if 0x310 ≤ o ∧ o < 0x330 then
    let l := (o - 0x310) / 8
    let x := s.link l
    reg [(0, 1, one x.up), (1, 1, one x.pres), (2, 5, x.width), (7, 3, x.speed), (10, 2, (tabGet {} s.rg.urgency (64 + l)).urg),
      (16, 16, x.miss.toNat), (32, 16, x.hostErr.toNat), (48, 16, x.hostEp.toNat)]
  else if o = 0x400 then
    reg [(0, 4, b.step), (4, 1, one b.done), (8, 4, b.stop), (12, 4, b.cause), (16, 1, one b.slotB), (17, 1, one b.fallback),
      (18, 1, one b.mapStored), (19, 2, b.marginSource), (32, 32, b.timeUs)]
  else if o = 0x408 then reg [(0, 64, b.version.toNat)]
  else if o = 0x410 then reg [(0, 6, b.svn), (8, 6, b.floor), (16, 16, b.failRecord), (32, 4, b.failA), (36, 4, b.failB)]
  else if o = 0x800 then reg [(0, 8, s.hif.mode)]
  else if o = 0x808 then reg [(0, 8, s.hif.modeInForce), (8, 8, s.hif.mode ^^^ s.hif.modeInForce)]
  else none

/-- PW_ block (R510–R512, R588). -/
def State.pwReg (s : State) (o : Nat) : Option Reg :=
  let w := s.pw
  if o = 0 then reg [(0, 8, 128), (8, 8, 64), (16, 8, 59), (56, 8, 0x57)]
  else if o = 8 then reg [] [(0, 3)]
  else if o = 0x10 then
    reg [(0, 3, w.st.code), (3, 1, one (w.transit || w.resuming)), (4, 1, one w.brown), (5, 1, one w.brownHold),
      (6, 1, one (w.throttle.contains 0)), (7, 1, one (w.throttle.contains 1)), (8, 1, one (w.rails.any fun r => r.2.fault)),
      (9, 1, one w.capShort), (10, 1, one w.capDeferred), (11, 1, one w.watchAlert), (32, 12, s.tide.jobFreq), (48, 12, w.fAllow)]
  else if o = 0x18 then reg [(0, 12, w.capW), (16, 2, w.source), (32, 14, s.nontile)]
  else if o = 0x20 then
    reg [(0, 1, one (w.boostNext.getD w.boost)), (4, 12, w.safeFreq), (16, 12, w.freqCeil), (28, 8, w.guardMv), (36, 7, w.droopMv)]
  else if o = 0x28 then
    reg [(0, 8, w.dieWarn), (8, 8, w.dieThrottle), (16, 8, w.hbmWarn), (24, 8, w.hbmThrottle), (32, 8, 120), (40, 8, 105)]
  else if o = 0x30 then reg [(0, 10, w.periodMs), (10, 1, one w.linkAlert), (16, 8, w.coolantMax), (24, 8, w.carrierMax)]
  else if o = 0x38 then reg [(0, 12, w.moduleW), (12, 12, w.tileW), (24, 16, w.powerTide.toNat)]
  else if o = 0x40 then halves w.cBrown w.cThrottles w.cAvsRetry w.cReplans
  else if o = 0x48 then
    reg [(0, 32, w.cDroop.toNat), (32, 8, w.cAvsLate.toNat), (40, 8, w.cFlashFail.toNat), (48, 16, w.cCfgRefused.toNat)]
  else if o = 0x50 then reg [] [(0, 12), (16, 16)]
  else if o = 0x58 then reg ((List.range 32).map fun c => (c, 1, one (s.gateBit c)))
  else if o = 0x60 then reg ((List.range 32).map (fun c => (c, 1, one ((s.cluster c).gated && s.clusterPresent c)))
    ++ (List.range 32).map fun c => (32 + c, 1, one ((s.cluster c).ungating || (s.cluster c).request == some false)))
  else if 0x100 ≤ o ∧ o < 0x180 then
    reg ((List.range 4).map fun i => (16 * i, 12, tabGet 0 w.hsub ((o - 0x100) / 2 + i)))
  else none

/-- SC_ block (R563). -/
def State.scReg (s : State) (o : Nat) : Option Reg :=
  let c := s.sec
  let secure (l : Nat) : Bool := c.streams.any fun x => x.1 / 16 == l && x.2.secure
  if o = 0 then reg [(56, 8, 0x53)]
  else if o = 8 then reg [(0, 64, s.uid.toNat)]
  else if o = 0x10 then
    reg ([(0, 1, one c.rootValid), (1, 1, one (c.tamperCause != 0)), (2, 1, one c.battLow), (3, 1, one c.upd.isSome)]
      ++ (List.range 4).map fun l => (4 + l, 1, one (secure l)))
  else if o = 0x18 then reg [(0, 64, c.counter.toNat)]
  else if o = 0x20 then flags s.slotValid
  else if o = 0x28 then reg [] [(6, 42)]
  else if o = 0x30 then reg [(0, 16, c.results.toNat), (16, 4, c.reason)]
  else if o = 0x40 ∨ o = 0x48 then bytesReg fun i => bits (s.portKeyWord ((o - 0x40) / 8)) (8 * i) 8
  else if o = 0x50 then reg [(0, 4, c.ideRequired)]
  else if o = 0x58 then halves c.cReject c.cSlotBad c.cIde c.cUrNoIde
  else if o = 0x60 then reg [(0, 16, c.partnerId)]
  else if 0x100 ≤ o ∧ o < 0x300 then
    let k := (o - 0x100) / 8
    let x := s.keySlot k
    if s.slotValid k then reg [(0, 4, x.usage), (4, 16, x.partner), (32, 32, x.counter.toNat)] else reg [(0, 32, 0), (32, 32, 0)]
  else none

/-- A view page (R360, R442, R642). -/
def State.hbvReg (s : State) (h o : Nat) : Option Reg :=
  let x := (s.harbour h).getD {}
  let p := s.procs.find? fun j => j.harbour == h
  let slow := tabFind s.rg.slowPub h
  if o = 0 then
    reg [(0, 6, h), (8, 8, (s.hgen h).toNat), (16, 10, x.tiles.length), (32, 9, x.channels.length), (48, 7, x.laneGroups.length),
      (56, 8, 0x42)]
  else if o = 8 then
    reg [(0, 1, one p.isSome), (1, 4, (p.map (·.step)).getD 0), (5, 1, one ((p.map s.procHeld).getD false)), (6, 1, one x.poolFull),
      (7, 1, one x.span), (8, 16, x.poolMib)]
  else if o = 0x10 then reg [(0, 16, x.spanId), (16, 12, x.member), (28, 12, x.membersM1), (40, 21, x.tileBase)]
  else if o = 0x18 then reg [(0, 8, tabGet 0 s.hb.budgetCeil h)]
  else if o = 0x20 then reg [(0, 64, (slow.map fun y => y.1.toNat).getD 0)]
  else if o = 0x28 then
    (match slow with
    | none => reg [(0, 7, 0), (63, 1, 0)]
    | some (_, y) => reg [(0, 7, y.cq), (8, 7, y.xlat), (16, 7, y.bridge), (24, 7, y.mesh), (32, 7, y.link), (40, 7, y.host),
        (48, 7, y.freq), (63, 1, 1)])
  else if 0x100 ≤ o ∧ o < 0x300 then
    bytesReg fun i => match x.tiles[o - 0x100 + i]? with
      | none => 0
      | some t =>
        if (s.place t).cond = .retired then 4
        else if (s.place t).outOfService then 3
        else if s.procs.any (fun j => j.op == 3 && decide (0 < j.step) && (reqEntries j.request).any fun e => e.type == 0 && e.src == t) then 3
        else if (s.place t).draining then 2
        else 1
  else if 0x300 ≤ o ∧ o < 0x400 then
    bytesReg fun i => match x.channels[o - 0x300 + i]? with
      | none => 0
      | some c => (s.boundSlots c h).length
  else none

/-- HB_ block (R359, R441, R642). -/
def State.hbReg (s : State) (o : Nat) : Option Reg :=
  let j := (o - 0x10) / 8
  if o = 0 then reg [] [(12, 36)]
  else if o = 8 then reg [] [(0, 2)]
  else if 0x10 ≤ o ∧ o < 0x30 then
    (match tabFind s.hb.journal j with
    | none => reg [(0, 1, 0)]
    | some p => reg [(0, 1, 1), (1, 4, p.step), (5, 1, one p.done), (6, 1, one p.back), (7, 1, one (s.procHeld p)), (8, 6, p.harbour), (16, 4, p.op)])
  else if o = 0x30 then halves s.hb.cStaleSpeaker s.hb.cFencedDrop s.hb.cRolledBack s.hb.cRefused
  else if 0x40 ≤ o ∧ o < 0x80 then bytesReg fun i => (s.hgen (o - 0x40 + i)).toNat
  else if 0x100 ≤ o ∧ o < 0x148 then flags fun n => (s.tile ((o - 0x100) * 8 + n)).fenced
  else if 0x180 ≤ o ∧ o < 0x1A0 then flags fun n => s.hb.fencedCh.contains ((o - 0x180) * 8 + n)
  else if o = 0x1A0 then flags s.hb.fencedLg.contains
  else if o = 0x200 then reg [(0, 16, s.rg.cCfgRefused.toNat)]
  else if o = 0x208 then flags s.rg.regrant.contains
  else if 0x400 ≤ o ∧ o < 0x800 then
    let x := s.regFields ((o - 0x400) / 16)
    if o % 16 = 0 then reg ((x.cmax.zipIdx.map fun c => (4 * c.2, 4, c.1))
      ++ [(32, 7, x.meshW), (39, 1, one x.meshLend), (40, 8, x.brqRes), (48, 1, one x.brqLend)])
    else reg [(0, 9, x.xlatRes), (9, 1, one x.xlatLend), (16, 7, x.cq0Res), (23, 1, one x.cq0Lend)]
  else if 0x800 ≤ o ∧ o < 0xC00 then
    let x := tabGet {} s.rg.slices ((o - 0x800) / 16)
    if o % 16 = 0 then reg [(0, 1, one x.valid), (1, 7, x.func), (8, 5, x.pasidLog2), (16, 20, x.pasidBase), (63, 1, one (s.quiesced x))]
    else reg [(0, 64, x.harbours.toNat)]
  else if 0xC00 ≤ o ∧ o < 0xC40 then bytesReg fun i => tabGet 0 s.hb.budgetCeil (o - 0xC00 + i)
  else if 0x10000 ≤ o ∧ o < 0x50000 then s.hbvReg ((o - 0x10000) / 0x1000) (o % 0x1000)
  else none

/-- A fault page (R424). -/
def State.xlfReg (s : State) (h o : Nat) : Option Reg :=
  let q := s.fq h
  if o = 0 then
    reg [(0, 32, q.produced.toNat), (32, 13, q.pending), (48, 1, one (4096 ≤ (q.produced - q.consumed).toNat)),
      (49, 1, one (s.latched.any fun x => x.2.2.2.entry.isNone && s.slotHarbour x.1 x.2.1 == h))]
  else if o = 8 then reg [(0, 32, q.consumed.toNat)]
  else if o = 0x10 then reg [] [(0, 32), (32, 2)]
  else if o = 0x18 then reg [(12, 45, q.invAddr / 4096)]
  else if o = 0x20 then reg [] [(0, 16), (16, 2), (20, 30)]
  else if o = 0x28 then reg [(0, 32, q.issued.toNat), (32, 32, q.doneCnt.toNat)]
  else if o = 0x30 then halves q.cFaults q.cMerges q.cOvf q.cRespIgnored
  else if o = 0x38 then reg [(0, 16, q.cInvRefused.toNat), (16, 16, q.cHwResumed.toNat)]
  else none

/-- XL_ block (R423). -/
def State.xlReg (s : State) (o : Nat) : Option Reg :=
  if o = 0 then reg [(56, 8, 0x58)]
  else if o = 8 then reg [(21, 27, s.xl.ctxBase / 2 ^ 21)]
  else if o = 0x10 then reg [(0, 32, s.xl.walks.toNat), (32, 16, s.xl.cUnrec.toNat), (48, 16, s.xl.cCfgRefused.toNat)]
  else if 0x100 ≤ o ∧ o < 0x300 then
    let q := s.fq ((o - 0x100) / 8)
    reg [(0, 1, one q.enable), (1, 2, q.irqMode), (4, 11, q.msiVector), (20, 28, q.base / 2 ^ 20)]
  else if 0x10000 ≤ o ∧ o < 0x50000 then s.xlfReg ((o - 0x10000) / 0x1000) (o % 0x1000)
  else none

/-- LK_ block (R476, R477, R540). -/
def State.lkReg (s : State) (o : Nat) : Option Reg :=
  let l := s.lk
  if o = 0 then reg ((List.range 16).map (fun p => (p, 1, one (s.portPresent p))) ++ [(56, 8, 0x4C)])
  else if o = 8 then reg [(0, 12, l.nodeId), (16, 10, l.remoteTimeout), (32, 8, l.leaseTides)]
  else if o = 0x10 then reg [(20, 28, l.routeBase / 2 ^ 20)]
  else if o = 0x18 then reg [(20, 28, l.spanBase / 2 ^ 20)]
  else if o = 0x20 then reg [(20, 28, l.mapBase / 2 ^ 20), (48, 5, l.mapLog2)]
  else if o = 0x28 then reg [(0, 1, one l.pool), (1, 1, one l.shifting)] [(8, 1)]
  else if o = 0x30 then halves l.cResends l.cUnreachable l.cStaleEpoch l.cCfgRefused
  else if o = 0x38 then halves l.cExpired l.cResolved l.cReplays l.cOrphaned
  else if o = 0x40 then reg [(0, 21, l.own.length), (21, 21, (l.own.filter fun x => x.2.holding).length)]
  else if o = 0x48 then reg [(0, 16, l.cMalformed.toNat)]
  else if o = 0x50 then reg [(0, 16, l.cStaleNode.toNat), (16, 16, l.cFencedDrop.toNat), (32, 16, l.cUnadmitted.toNat)]
  else if 0x4000 ≤ o ∧ o < 0x6000 then
    reg ((List.range 4).flatMap fun i =>
      let n := s.node ((o - 0x4000) / 2 + i)
      [(16 * i, 8, n.epoch), (16 * i + 15, 1, one n.fenced)])
  else if 0x10000 ≤ o ∧ o < 0x20000 then
    let p := (o - 0x10000) / 0x1000
    let x := s.port p
    let four (f : Nat → List (Nat × Nat × Nat)) : List (Nat × Nat × Nat) := (List.range 4).flatMap f
    if !s.portPresent p then none
    else match o % 0x1000 with
    | 0 => reg ((0, 3, x.st.code) :: four (fun q =>
        let g := s.lg (4 * p + q)
        [(4 + q, 1, one (x.st == .up && !g.keyStall)), (2 * q + 8, 2, (tabGet {} s.rg.urgency (4 * p + q)).urg), (16 + q, 1, one g.keyPhase)])
        ++ [(56, 8, 0x50)])
    | 8 => reg [(1, 1, one x.disable)] [(0, 1)]
    | 0x10 => reg (four fun q => match tabGet .free s.hb.laneGroups (4 * p + q) with
        | .bound h _ => [(8 * q, 6, h), (8 * q + 7, 1, 1)]
        | _ => [(8 * q, 6, 0)])
    | 0x18 => halves x.cRetry x.cTagFail x.cUncorr x.cRetrains
    | 0x20 => reg [(0, 32, x.corrSym.toNat)]
    | _ => none
  else none

/-- ML_ block: Mill pages 0–255 and the two merge-tree pages (R247–R249, R540). -/
def State.mlReg (s : State) (o : Nat) : Option Reg :=
  let c := o / 0x1000
  let r := o % 0x1000
  let x := s.mill c
  let busy := (x.slots.filter fun k => k.2 != .free).length
  if s.part = .kln8120 then none
  else if c = 256 ∨ c = 257 then
    let y := tabGet {} s.mergeHalves (c - 256)
    if r = 0 then reg [(0, 1, c - 256), (56, 8, 0x4E)]
    else if r = 8 then halves y.merges y.joins y.discards 0
    else none
  else if !s.millPresent c then none
  else if r = 0 then reg [(0, 8, c), (8, 3, c / 32), (11, 5, c % 32), (16, 1, c / 128), (56, 8, 0x4D)]
  else if r = 8 then reg [(0, 1, one (busy != 0)), (1, 1, one x.backpressure), (8, 7, busy)]
  else if 0x10 ≤ r ∧ r < 0x30 then nibbles fun i => (tabGet .free x.slots ((r - 0x10) * 2 + i)).code
  else if 0x30 ≤ r ∧ r < 0x70 then
    bytesReg fun i => match tabFind x.bound (r - 0x30 + i) with | some h => h + 128 | none => 0
  else if r = 0x70 then reg [(0, 64, x.records.toNat)]
  else if r = 0x78 then halves x.cPoison x.cStalls x.cScans x.cSaves
  else if r = 0x80 then reg [(0, 1, one x.failed), (4, 4, x.failCause)]
  else none

/-- The place a physical tile serves, if any. -/
def State.servedPlace (s : State) (t : Nat) : Option Nat :=
  if t < 512 then (if (s.place t).spare.isSome then none else some t) else (s.tile t).standsFor

/-- ROLE of a physical tile (R140). -/
def State.tileRole (s : State) (t : Nat) : Nat :=
  let x := s.tile t
  if x.retired then 3 else if t < 512 then 0 else if x.standsFor.isSome then 2 else 1

/-- TL_ block: a page for each physical tile (R139, R140, R540). -/
def State.tlReg (s : State) (o : Nat) : Option Reg :=
  let t := o / 0x1000
  let r := o % 0x1000
  let x := s.tile t
  let role := s.tileRole t
  let named := if t < 512 then some t else if role = 2 then x.standsFor else none
  let cl := (named.map clusterOf).getD 0
  let pl := (s.servedPlace t).map s.place
  let slot (k : Nat) : Nat := match pl with | some p => (tabGet {} p.slots k).state.code | none => 0
  let (h, g) := match pl with | some { cond := .bound h g, .. } => (h, g) | _ => (0, 0)
  let used := match pl with | some p => (p.slots.filter fun k => k.2.state != .free).length | none => 0
  let heap := match pl with | some p => (p.heap.map (·.size)).sum + p.zeroing.sum | none => 0
  if !s.tilePresent t then none
  else if r = 0 then
    reg [(0, 10, t), (10, 1, dieOfTile t), (11, 2, role), (16, 10, if role = 2 then x.standsFor.getD 0 else 0), (32, 5, cl),
      (40, 4, regionOf cl), (56, 8, 0x54)]
  else if r = 8 then
    let idle := role == 1
    reg [(0, 1, one (!idle && (named.isNone || !(s.cluster cl).gated))),
      (1, 1, one (idle || x.inReset || (named.isSome && (s.cluster cl).inReset))),
      (2, 1, one x.errorHalt), (4, 6, h), (16, 8, g), (32, 6, used), (44, 15, (1048576 - heap) / 64)]
  else if r = 0x10 then nibbles slot
  else if r = 0x18 then nibbles fun i => slot (16 + i)
  else if r = 0x20 then halves x.cSaves x.cRestores x.cWindowErr x.cEccCorr
  else if r = 0x28 then reg [] [(0, 1), (1, 1), (2, 1), (3, 1), (4, 1)]
  else if r = 0x30 then reg [(0, 1, one x.failed), (1, 2, x.misses), (4, 4, x.failCause)]
  else none

/-- MC_ block: channel pages, remap pages and interleave sets (R394–R397, R540). -/
def State.mcReg (s : State) (o : Nat) : Option Reg :=
  let c := o / 0x1000
  let r := o % 0x1000
  let x := s.chan c
  if 0x200000 ≤ o then
    if o < 0x202000 then
      let y := tabGet {} s.mem.isets ((o - 0x200000) / 8)
      reg [(0, 8, y.baseCh), (8, 4, y.log2Ways), (12, 2, y.gran), (15, 1, one y.valid)]
    else none
  else if 0x100 ≤ c then
    let st := c - 0x100
    if 8 ≤ st ∨ !s.channelPresent (st * 32) then none
    else if r < 0x100 then
      let e := s.remapEntry st (r / 8)
      reg [(0, 5, e.channel), (5, 5, e.bank), (10, 15, e.row), (25, 9, e.word), (34, 3, e.spare), (37, 1, one e.column),
        (38, 1, one e.byManager), (63, 1, one e.valid)]
    else if r = 0x100 then reg [(0, 6, (s.remapsOf st).length)]
    else none
  else if !s.channelPresent c then none
  else
    let (b, h) := match tabGet .free s.hb.channels c with | .bound h _ => (true, h) | _ => (false, 0)
    if r = 0 then reg [(0, 8, c), (8, 3, c / 32), (11, 1, c / 128), (56, 8, 0x43)]
    else if r = 8 then
      reg [(0, 2, x.level), (4, 6, h), (10, 1, one b), (11, 1, one (!s.hb.chDirty.contains c)), (20, 20, dataPages x.level)]
    else if r = 0x10 then
      reg [(0, 1, one x.scrub.isSome), (1, 1, one x.remapBusy), (2, 1, one x.transfer), (3, 1, one x.clearing),
        (4, 4, 8 - (s.sparesUsed c).length)]
    else if r = 0x18 then halves x.cCeCw x.cUeCw x.cPoisonRead x.cHostEp
    else if r = 0x20 then reg [(0, 32, x.cCeSym.toNat), (32, 16, x.cCfgRefused.toNat), (48, 16, x.cScrubs.toNat)]
    else if r = 0x28 then reg [] [(6, 42), (63, 1)]
    else if r = 0x30 then reg [(1, 1, one x.retired), (4, 4, x.retireCause)] [(0, 1)]
    else none

/-- DB_ block (R612, R632, R643). -/
def State.dbReg (s : State) (o : Nat) : Option Reg :=
  if o = 0 then reg [(0, 1, 1), (56, 8, 0x44)]
  else if o = 0x100 then reg [(1, 1, one s.boot.dumpEn), (2, 1, one s.boot.dumpHolds)] [(0, 1)]
  else if 0x100000 ≤ o ∧ o < 0x180000 then
    let c := (o - 0x100000) / 8
    reg [(0, 32, (tabGet 0 s.ras.counts c).toNat), (32, 32, (tabGet 0 s.ras.lastSeq c).toNat)]
  else none

/-- A doorbell page, as its owner reads it (R296, R327). -/
def State.doorbellReg (s : State) (b r : Nat) : Option Reg :=
  let x := s.berth b
  match r with
  | 0 => reg [] [(0, 32)]
  | 8 => reg [] [(0, 32)]
  | 0x10 => reg [] [(0, 32)]
  | 0x18 => reg [(0, 32, x.fetch.toNat), (32, 32, x.cplWritten.toNat)]
  | 0x20 => reg [(0, 32, x.capWritten.toNat)]
  | 0x40 => reg [] [(0, 32), (32, 1)]
  | 0x48 => reg [] [(0, 64)]
  | _ => none

/-- A command page, as its function reads it (R575). -/
def State.pageReg (s : State) (f r : Nat) : Option Reg :=
  let p := s.page f
  if r < 0x80 then reg [(0, 64, (wordAt p.words (r / 8)).toNat)]
  else if r = 0x80 then reg [] [(0, 32)]
  else if r = 0x88 then
    reg [(0, 1, one p.busy), (8, 8, p.status), (16, 4, p.reason), (24, 8, p.rejects.toNat), (32, 32, p.doneTag.toNat)]
  else if r < 0xB0 then reg [(0, 64, (wordAt p.res ((r - 0x90) / 8)).toNat)]
  else if r = 0xB0 then reg [(0, 11, p.irqVector), (11, 1, one p.irqEnable)]
  else none

/-- A berth's configuration registers (R295). -/
def State.berthReg (s : State) (b r : Nat) : Option Reg :=
  let x := s.berth b
  match r with
  | 0 => reg [(0, 1, one x.enable), (1, 6, x.harbour), (8, 16, x.context), (24, 5, x.log2), (29, 1, one x.serial), (30, 1, one x.hostSubmit),
      (31, 1, one x.deviceSubmit), (32, 20, x.timeoutNext.getD x.timeout)]
  | 8 => reg [(0, 57, x.subVa)]
  | 0x10 => reg [(0, 57, x.cplVa)]
  | 0x18 => reg [(0, 57, x.statusVa)]
  | 0x20 => reg [(0, 57, x.capVa), (57, 4, x.capLog2)]
  | 0x28 => reg [(0, 20, x.pasid), (20, 1, one x.pasidCheck), (21, 7, x.func), (32, 11, x.msiVector), (44, 2, x.irqMode)]
  | 0x30 => reg [(0, 1, one x.stop), (8, 1, one (s.berthBusy b)), (9, 1, one (x.stop && !s.hm.fetching.contains b))] [(1, 1)]
  | _ => none

/-- HM_ block (R293–R296, R326, R327, R575). -/
def State.hmReg (s : State) (o : Nat) : Option Reg :=
  let h := s.hm
  let u := s.fu
  if o = 0 then reg [(0, 1, h.activeDie), (1, 1, one h.standby), (16, 16, h.pilotVersion), (56, 8, 0x48)]
  else if o = 8 then reg [(0, 8, h.gen.toNat), (8, 1, one h.takeover), (9, 1, one h.lost), (16, 17, h.launches.length)]
  else if o = 0x10 then halves h.cDbReject h.cCaptureDrop h.cFailovers h.cCfgRefused
  else if 0x100 ≤ o ∧ o < 0x180 then bytesReg fun i => bits (s.wheelWord ((o - 0x100) / 8)) (8 * i) 8
  else if 0x200 ≤ o ∧ o < 0x280 then reg ((List.range 4).map fun i => (16 * i, 13, tabGet 0 h.quotaNext ((o - 0x200) / 2 + i)))
  else if o = 0x400 then reg [(12, 36, u.storeBase / 4096), (48, 5, u.storeLog2)]
  else if o = 0x408 then
    let full := decide (65536 ≤ u.cache.length)
    reg [(0, 17, u.cache.length), (17, 1, one full), (18, 1, one (full && s.hostMode 7)), (19, 1, one u.cyclePending), (32, 25, u.fences.length)]
  else if o = 0x410 then halves u.cStale u.cSpills u.cStoreAccess u.cHostReject
  else if o = 0x418 then halves u.cSnapshots u.cFound u.cMembers u.cDropped
  else if o = 0x420 then reg [(20, 28, u.bufBase / 2 ^ 20)]
  else if o = 0x428 then reg [] [(0, 14), (16, 16)]
  else if o = 0x430 then reg [] [(0, 24)]
  else if 0x100000 ≤ o ∧ o < 0x180000 then s.berthReg ((o - 0x100000) / 0x40) (o % 0x40)
  else if 0x800000 ≤ o ∧ o < 0x880000 then s.pageReg ((o - 0x800000) / 0x1000) (o % 0x1000)
  else if 0x1000000 ≤ o ∧ o < 0x3000000 then s.doorbellReg ((o - 0x1000000) / 0x1000) (o % 0x1000)
  else none

/-- The register at an aligned BAR0 offset, if there is one (R623). -/
def State.regAt (s : State) (o : Nat) : Option Reg :=
  if o < 0x10000 then s.cpReg o
  else if o < 0x20000 then s.cfReg (o - 0x10000)
  else if o < 0x30000 then s.pwReg (o - 0x20000)
  else if o < 0x40000 then s.scReg (o - 0x30000)
  else if o < 0x80000 then none
  else if o < 0x100000 then s.hbReg (o - 0x80000)
  else if o < 0x180000 then s.xlReg (o - 0x100000)
  else if o < 0x1C0000 then s.lkReg (o - 0x180000)
  else if o < 0x200000 then none
  else if o < 0x400000 then s.mlReg (o - 0x200000)
  else if o < 0x800000 then s.tlReg (o - 0x400000)
  else if o < 0xC00000 then s.mcReg (o - 0x800000)
  else if o < 0xE00000 then s.dbReg (o - 0xC00000)
  else if o < 0x1000000 then none
  else if o < 0x4000000 then s.hmReg (o - 0x1000000)
  else none

/-- A BAR0 range that R623 lists as reserved. -/
def reservedBar0 (o : Nat) : Bool :=
  decide ((0x40000 ≤ o ∧ o < 0x80000) ∨ (0x1C0000 ≤ o ∧ o < 0x200000) ∨ (0xE00000 ≤ o ∧ o < 0x1000000))

/-- Doorbell page of an offset. -/
def doorbellPage (o : Nat) : Option Nat :=
  if 0x2000000 ≤ o ∧ o < 0x4000000 then some ((o - 0x2000000) / 0x1000) else none

/-- A master reaches the register at an offset: to read it, or to write it (R624–R626). -/
def State.reaches (s : State) (m : Master) (pasid : Option Nat) (write : Bool) (o : Nat) : Bool :=
  if o < 0x10000 then !write || m.privileged
  else match doorbellPage o with
  | some b => s.ownsPage m pasid b
  | none =>
    if 0x1800000 ≤ o ∧ o < 0x1880000 then isFunc m ((o - 0x1800000) / 0x1000)
    else if m.privileged then true
    else match m with
    | .sideband => (!write && (o == 0x20010 || o == 0x20038)) || o == 0x20018
    | _ =>
      (decide (0x90000 ≤ o ∧ o < 0xD0000) && !write && s.granted m pasid ((o - 0x90000) / 0x1000))
      || (decide (0x110000 ≤ o ∧ o < 0x150000) && s.granted m pasid ((o - 0x110000) / 0x1000))

/-- BAR0 serves the register: all of it while the module runs, a few blocks on a stop (R606, R607). -/
def State.served (s : State) (o : Nat) : Bool :=
  match s.boot.life with
  | .running => s.pw.st == .active || s.pw.st == .idle
  | .stopped => decide (o < 0x10000 ∨ (0x10400 ≤ o ∧ o ≤ 0x10410) ∨ (0x30000 ≤ o ∧ o < 0x40000))
  | _ => false

/-- What a master reads at an aligned offset (R607, R625, R626). -/
def State.regRead (s : State) (m : Master) (pasid : Option Nat) (o : Nat) : Word :=
  if s.served o && s.reaches m pasid false o then ((s.regAt o).map (·.value)).getD 0 else 0

end Sys2Proof.Machine
end

