-- ==== Sys2Proof/Machine/RegWrite.lean ====
section
/-! DEFINITION. BAR0 writes: the access rules, the ranges and refusals of each block, and the registers without a command of their own
(20_register_map R623–R629, R639, R642, R666; R81, R82, R255, R294, R295, R326, R423, R476, R511, R541, R563, R570, R612). -/
namespace Sys2Proof.Machine
open Sys2Proof

/-- The next state of a command's meaning. -/
def State.run (f : State → Host.Outcome State Fault Refusal) (s : State) : State :=
  match f s with | .next t => t | _ => s

/-- The extent of a structure lies in one logical channel of harbour 0; during start-up the check waits for the map (R666). -/
def State.fitsBase (s : State) (a n : Nat) : Bool := s.boot.life == .starting || (s.resolve 0 a n).isSome

/-! CF_ registers -/

/-- CF_TIDE_CFG (R81, R82). -/
def State.writeTideCfg (v : Word) (s : State) : State :=
  let p := bits v 0 10
  let k := bits v 12 12
  if p < 25 ∨ 1000 < p ∨ k < 5 ∨ 2500 < k then s.refusedWrite
  else
    let s1 := s.onTide fun t => { t with nextPeriod := p, nextSlack := k }
    if !bit v 63 then s1
    else if !slackFits p k ∨ s1.tide.role = .slave ∨ s1.tide.change.isSome then
      s1.onTide fun t => { t with cApplyRefused := t.cApplyRefused + 1 }
    else s1.onTide fun t => { t with change := some ⟨p, k, 2⟩ }

/-- TIDE_APPLY: a write of CF_TIDE_CFG that carries APPLY = 1 (R82). -/
def execTideApply (m : Master) (v : Word) (s : State) : Host.Outcome State Fault Refusal :=
  s.clocked <| s.privWrite m 0x10100 fun s => s.writeTideCfg (v ||| (1 : Word) <<< 63)

/-- A refused write of the event ring's registers (R541). -/
def State.rasRefused (s : State) : State := s.onRas fun r => { r with cCfgRefused := r.cCfgRefused + 1 }

/-- CF_EVT_BASE: while ENABLE is 1, BASE and LOG2 do not change (R541, R666). -/
def State.writeEvtBase (v : Word) (s : State) : State :=
  let base := bits v 12 36 * 4096
  let log2 := bits v 48 5
  if log2 < 8 ∨ 16 < log2 then s.rasRefused
  else if s.ras.enable then
    let s1 := s.onRas fun r => { r with enable := bit v 63 }
    if base = s.ras.base ∧ log2 = s.ras.log2 then s1 else s1.rasRefused
  else if !s.fitsBase base (64 * 2 ^ log2) then s.rasRefused
  else s.onRas fun r => { r with base := base, log2 := log2, enable := bit v 63 }

/-- A base of the CF_ block without a CFG_REFUSED field (R570, R666). -/
def State.writeCfBase (a n : Nat) (f : HostIf → HostIf) (s : State) : State := if s.fitsBase a n then s.onHif f else s.refusedWrite

/-- CF_ writes. -/
def State.writeCf (o : Nat) (v : Word) (s : State) : State :=
  if o = 0x10 then s.writeCommit v
  else if o = 0x100 then s.writeTideCfg v
  else if o = 0x200 then s.writeEvtBase v
  else if o = 0x208 then
    if bits v 0 2 = 3 then s.rasRefused else s.onRas fun r => { r with irqMode := bits v 0 2, msiVector := bits v 4 11 }
  else if o = 0x218 then s.onRas fun r => { r with consumed := v.truncate 32 }
  else if o = 0x220 then if bits v 0 8 < 2 then s.rasRefused else s.onRas fun r => { r with hangTides := bits v 0 8 }
  else if o = 0x300 then s.writeCfBase (bits v 19 29 * 2 ^ 19) (2 ^ 19) fun h => { h with hostBind := bits v 19 29 * 2 ^ 19 }
  else if o = 0x308 then s.writeCfBase (bits v 27 21 * 2 ^ 27) (2 ^ 27) fun h => { h with bar2Base := bits v 27 21 * 2 ^ 27 }
  else if o = 0x800 then s.writeFuncMode v
  else s

/-! PW_ and SC_ registers -/

/-- PW_MODE: BOOST takes effect at the next boundary (R511). -/
def State.writePwMode (v : Word) (s : State) : State :=
  let safe := bits v 4 12
  let ceil := bits v 16 12
  let guard := bits v 28 8
  let droop := bits v 36 7
  if !isPoint safe ∨ 1000 < safe ∨ !isPoint ceil ∨ 1750 < ceil ∨ guard < 10 ∨ 40 < guard ∨ droop < 20 ∨ 80 < droop then s.pwRefused
  else ((s.onPw fun w => { w with
    boostNext := some (bit v 0), safeFreq := safe, freqCeil := ceil, guardMv := guard, droopMv := droop }).setRegions).decideJob

/-- PW_THERM: thresholds may be lowered, not raised above their defaults (R503, R511). -/
def State.writePwTherm (v : Word) (s : State) : State :=
  let f (i : Nat) : Nat := bits v (8 * i) 8
  if 95 < f 0 ∨ 105 < f 1 ∨ 90 < f 2 ∨ 95 < f 3 then s.pwRefused
  else s.onPw fun w => { w with dieWarn := f 0, dieThrottle := f 1, hbmWarn := f 2, hbmThrottle := f 3 }

/-- PW_ writes. -/
def State.writePw (m : Master) (o : Nat) (v : Word) (s : State) : State :=
  if o = 8 then s.writeCmd v
  else if o = 0x18 then s.writeBudget m v
  else if o = 0x20 then s.writePwMode v
  else if o = 0x28 then s.writePwTherm v
  else if o = 0x30 then
    if bits v 0 10 < 1 ∨ 1000 < bits v 0 10 then s.pwRefused
    else s.onPw fun w => { w with
      periodMs := bits v 0 10, linkAlert := bit v 10, coolantMax := bits v 16 8, carrierMax := bits v 24 8 }
  else if o = 0x50 then s.writePolicy v
  else if o = 0x58 then s.writeGate v
  else if 0x100 ≤ o ∧ o < 0x180 then s.writeHsub ((o - 0x100) / 8) v
  else s

/-- SC_ writes (R563). -/
def State.writeSc (o : Nat) (v : Word) (s : State) : State :=
  if o = 0x28 then s.submitKeys v
  else if o = 0x40 ∨ o = 0x48 then s.writePortKey ((o - 0x40) / 8) v
  else if o = 0x50 then s.onSec fun c => { c with ideRequired := bits v 0 4 }
  else if o = 0x60 then s.onSec fun c => { c with partnerId := bits v 0 16 }
  else s

/-! HB_, XL_ and LK_ registers -/

/-- HB_ writes (R359, R441, R642). -/
def State.writeHb (m : Master) (o : Nat) (v : Word) (s : State) : State :=
  if o = 0 then s.run (execHbReq m v)
  else if o = 8 then s.run (execHbCancel m v)
  else if 0x400 ≤ o ∧ o < 0x800 then s.writeReg (o % 16 == 8) ((o - 0x400) / 16) v
  else if 0x800 ≤ o ∧ o < 0xC00 then s.writeSlice ((o - 0x800) / 16) (o % 16 / 8) v
  else if 0xC00 ≤ o ∧ o < 0xC40 then s.onHb fun m => { m with
    budgetCeil := (List.range 8).foldl (fun t i => tabPut t (o - 0xC00 + i) (bits v (8 * i) 8)) m.budgetCeil }
  else s

/-- XL_FQ_CFG_h: while ENABLE is 1 only IRQ_MODE and MSI_VECTOR change; a queue that is enabled takes held requests (R415, R423, R666). -/
def State.writeFqCfg (h : Nat) (v : Word) (s : State) : State :=
  let base := bits v 20 28 * 2 ^ 20
  let x := s.fq h
  let irq (q : FaultQ) : FaultQ := { q with irqMode := bits v 1 2, msiVector := bits v 4 11 }
  if bits v 1 2 = 3 then s.xlRefused
  else if x.enable then if bit v 0 ∧ base = x.base then s.onFq h irq else s.xlRefused
  else if !s.fitsBase base (2 ^ 20) then s.xlRefused
  else
    let s1 := s.onFq h fun q => { irq q with base := base, enable := bit v 0 }
    if bit v 0 then s1.retryHeld h else s1

/-- A fault page, by the command its register carries (R424). -/
def State.writeXlf (m : Master) (pasid : Option Nat) (h o : Nat) (v : Word) (s : State) : State :=
  if o = 8 then s.run (execXlfConsWrite m pasid h v)
  else if o = 0x10 then
    match bits v 32 2 with
    | 0 => s.run (execXlfResume m pasid h v)
    | 1 => s.run (execXlfAbort m pasid h v)
    | _ => s.respIgnored h
  else if o = 0x18 then s.onFq h fun q => { q with invAddr := bits v 12 45 * 4096 }
  else if o = 0x20 then
    match bits v 16 2 with
    | 0 => s.run (execInvRange m pasid h v)
    | 1 => s.run (execInvAsid m pasid h v)
    | 2 => s.run (execInvHarbour m pasid h v)
    | _ => s.xlRefused
  else s

/-- XL_ writes (R423, R424). -/
def State.writeXl (m : Master) (pasid : Option Nat) (o : Nat) (v : Word) (s : State) : State :=
  if o = 8 then
    let a := bits v 21 27 * 2 ^ 21
    if s.xl.anyValid ∨ !s.fitsBase a (2 ^ 21) then s.xlRefused else s.onXl fun x => { x with ctxBase := a }
  else if 0x100 ≤ o ∧ o < 0x300 then s.writeFqCfg ((o - 0x100) / 8) v
  else if 0x10000 ≤ o ∧ o < 0x50000 then s.writeXlf m pasid ((o - 0x10000) / 0x1000) (o % 0x1000) v
  else s

/-- LK_CFG (R476). -/
def State.writeLkCfg (v : Word) (s : State) : State :=
  let t := bits v 16 10
  let l := bits v 32 8
  if t < 1 ∨ 1000 < t ∨ l < 2 ∨ (bits v 0 12 ≠ s.lk.nodeId ∧ s.linksActive) then s.lkRefused
  else s.onLk fun x => { x with nodeId := bits v 0 12, remoteTimeout := t, leaseTides := l }

/-- LK_NODE_j: its four entries in order; the own entry is written when it changes (R528, R540). -/
def State.writeNodes (j : Nat) (v : Word) (s : State) : State :=
  foldState [0, 1, 2, 3] (fun a i =>
    if (a.node (4 * j + i)).epoch = bits v (16 * i) 8 then a else a.writeNode (4 * j + i) (bits v (16 * i) 8)) s

/-- LKP_CTL: DISABLE, then RETRAIN (R446, R477). -/
def State.writePortCtl (p : Nat) (v : Word) (s : State) : State :=
  if !s.portPresent p then s
  else
    let s1 := if bit v 1 = (s.port p).disable then s else s.portDisable p (bit v 1)
    if bit v 0 then s1.portRetrain p else s1

/-- LK_ writes (R476, R477, R540, R666). -/
def State.writeLk (m : Master) (o : Nat) (v : Word) (s : State) : State :=
  let a := bits v 20 28 * 2 ^ 20
  if o = 8 then s.writeLkCfg v
  else if o = 0x10 then if s.fitsBase a (2 ^ 19) then s.onLk fun x => { x with routeBase := a } else s.lkRefused
  else if o = 0x18 then if s.fitsBase a (2 ^ 16) then s.onLk fun x => { x with spanBase := a } else s.lkRefused
  else if o = 0x20 then
    let n := bits v 48 5
    if n < 10 ∨ 20 < n ∨ !s.fitsBase a (64 * 2 ^ n) then s.lkRefused else s.onLk fun x => { x with mapBase := a, mapLog2 := n }
  else if o = 0x28 then s.run (execLkRoleReq m v)
  else if 0x4000 ≤ o ∧ o < 0x6000 then s.writeNodes ((o - 0x4000) / 8) v
  else if 0x10000 ≤ o ∧ o < 0x20000 ∧ o % 0x1000 = 8 then s.writePortCtl ((o - 0x10000) / 0x1000) v
  else s

/-! MC_ and HM_ registers -/

/-- MC_ writes: channel pages, remap pages and interleave sets (R395–R397, R540). -/
def State.writeMc (m : Master) (o : Nat) (v : Word) (s : State) : State :=
  let c := o / 0x1000
  let r := o % 0x1000
  if 0x202000 ≤ o then s
  else if 0x200000 ≤ o then s.run (execMcIsetWrite m ((o - 0x200000) / 0x80) (o % 0x80 / 8) v)
  else if 0x100 ≤ c then
    if c < 0x108 ∧ r < 0x100 then s.run (execMcRemapWrite m (c - 0x100) (r / 8) v) else s
  else if r = 8 then s.run (execMcLevelWrite m c v)
  else if r = 0x28 then if bit v 63 then s.run (execScrubCancel m c) else s.run (execMcScrub m c v)
  else if r = 0x30 ∧ bit v 0 then s.run (execMcRetire m c)
  else s

/-- HM_WHEEL_j: in force from the next boundary (R261, R294). -/
def State.writeWheel (j : Nat) (v : Word) (s : State) : State :=
  let own := ((List.range 8).map fun i => (8 * j + i, bits v (8 * i) 6, bit v (8 * i + 7))).filter fun x => x.1 != 0 && x.1 != 64
  s.onHm fun h => { h with
    wheelNext := own.foldl (fun t x => if x.2.2 then tabPut t x.1 x.2.1 else tabDel t x.1) h.wheelNext
    wheelIdle := own.foldl (fun t x => if x.2.2 ∨ x.2.1 = 0 then tabDel t x.1 else tabPut t x.1 x.2.1) h.wheelIdle }

/-- HM_FENCE_CFG: refused while any fence is LIVE (R326, R666). -/
def State.writeFenceCfg (v : Word) (s : State) : State :=
  let a := bits v 12 36 * 4096
  let n := bits v 48 5
  if n < 16 ∨ 24 < n ∨ !s.fu.fences.isEmpty ∨ !s.fitsBase a (32 * 2 ^ n) then s.hmRefused
  else s.onFu fun u => { u with storeBase := a, storeLog2 := n }

/-- HM_BERTH_CFG1 to HM_BERTH_CFG5: of an enabled berth only MSI_VECTOR and IRQ_MODE change (R295). -/
def State.writeBerthCfg (b r : Nat) (v : Word) (s : State) : State :=
  let x := s.berth b
  let y := x.withCfg r v
  if !cfgInRange r v then s.hmRefused
  else if !x.enable then s.onBerth b fun _ => y
  else
    let z : Berth := { x with msiVector := y.msiVector, irqMode := y.irqMode }
    let s1 := s.onBerth b fun _ => z
    if y = z then s1 else s1.hmRefused

/-- A berth's registers (R285, R295). -/
def State.writeBerth (m : Master) (b r : Nat) (v : Word) (s : State) : State :=
  if r = 0 then if bit v 0 then s.run (execBerthEnable m b v) else s.run (execBerthDisable m b v)
  else if r = 6 then
    let s1 := if bit v 0 = (s.berth b).stop then s else s.stopBerth b (bit v 0)
    if bit v 1 then s1.abortBerth b else s1
  else if r = 7 then s
  else s.writeBerthCfg b r v

/-- A doorbell page (R258, R296, R308, R327). -/
def State.writeDoorbell (m : Master) (pasid : Option Nat) (b r : Nat) (v : Word) (s : State) : State :=
  match r with
  | 0 => s.run (execDbSubmit m pasid b (v.truncate 32))
  | 8 => s.run (execDbCplConsumed m pasid b (v.truncate 32))
  | 0x10 => s.run (execDbCapConsumed m pasid b (v.truncate 32))
  | 0x40 => s.onBerth b fun x => { x with stagedHandle := v.truncate 32, stagedError := bit v 32 }
  | 0x48 => s.run (execDbFenceSignal m pasid b v)
  | _ => s

/-- Word `i` of a list is replaced; missing words before it are zero. -/
def setWord (ws : List Word) (i : Nat) (v : Word) : List Word := (List.range (max ws.length (i + 1))).map fun k => if k = i then v else wordAt ws k

/-- A command page (R575). -/
def State.writePage (f : Nat) (pasid : Option Nat) (r : Nat) (v : Word) (s : State) : State :=
  if r < 0x80 then s.onPage f fun p => { p with words := setWord p.words (r / 8) v }
  else if r = 0x80 then s.submit f pasid (v.truncate 32)
  else if r = 0xB0 then s.onPage f fun p => { p with irqVector := bits v 0 11, irqEnable := bit v 11 }
  else s

/-- HM_ writes (R293–R296, R326, R327, R575). -/
def State.writeHm (m : Master) (pasid : Option Nat) (o : Nat) (v : Word) (s : State) : State :=
  if 0x100 ≤ o ∧ o < 0x180 then s.writeWheel ((o - 0x100) / 8) v
  else if 0x200 ≤ o ∧ o < 0x280 then s.run (execLtQuotaWrite m ((o - 0x200) / 8) v)
  else if o = 0x400 then s.writeFenceCfg v
  else if o = 0x420 then
    let a := bits v 20 28 * 2 ^ 20
    if s.fitsBase a (2 ^ 20) then s.onFu fun u => { u with bufBase := a } else s.hmRefused
  else if o = 0x428 then s.run (execHmCycleAnswer m v)
  else if o = 0x430 then s.run (execHmFenceEvict m v)
  else if 0x100000 ≤ o ∧ o < 0x180000 then s.writeBerth m ((o - 0x100000) / 0x40) (o % 0x40 / 8) v
  else if 0x800000 ≤ o ∧ o < 0x880000 then s.writePage ((o - 0x800000) / 0x1000) pasid (o % 0x1000) v
  else if 0x1000000 ≤ o ∧ o < 0x3000000 then s.writeDoorbell m pasid ((o - 0x1000000) / 0x1000) (o % 0x1000) v
  else s

/-! Access (R625–R629) -/

/-- A write of a register that its master reaches: RO registers and absent units ignore it (R28, R624). -/
def State.writeReach (m : Master) (pasid : Option Nat) (o : Nat) (v : Word) (s : State) : State :=
  if o < 0x10000 then s
  else if o < 0x20000 then s.writeCf (o - 0x10000) v
  else if o < 0x30000 then s.writePw m (o - 0x20000) v
  else if o < 0x40000 then s.writeSc (o - 0x30000) v
  else if o < 0x80000 then s
  else if o < 0x100000 then s.writeHb m (o - 0x80000) v
  else if o < 0x180000 then s.writeXl m pasid (o - 0x100000) v
  else if o < 0x1C0000 then s.writeLk m (o - 0x180000) v
  else if o < 0x400000 then s
  else if o < 0x800000 then if o % 0x1000 = 0x28 then s.writeTlCtl ((o - 0x400000) / 0x1000) v else s
  else if o < 0xC00000 then s.writeMc m (o - 0x800000) v
  else if o < 0xE00000 then if o = 0xC00100 then s.writeFreeze v else s
  else if o < 0x1000000 then s
  else s.writeHm m pasid (o - 0x1000000) v

/-- A write was made to a size or alignment that BAR0 does not accept (R627). -/
def State.sizeRefused (s : State) : State := s.onCrc fun c => { c with size := c.size + 1 }

/-- A write of one whole register (R628). -/
def State.writeOne (m : Master) (pasid : Option Nat) (o : Nat) (v : Word) (s : State) : State :=
  if !s.served o ∨ s.absentUnit o then s
  else if reservedBar0 o ∨ 0x4000000 ≤ o then s.onCrc fun c => { c with unmapped := c.unmapped + 1 }
  else if s.reaches m pasid true o then s.writeReach m pasid o v
  else match doorbellPage o with
  | some b => s.dbReject b false
  | none => s.rwpIgnored m o

/-- A 4-byte write: the other half keeps what it reads, unless a field spans both halves or a WO field would be written in part
(R627). -/
def State.writeHalf (m : Master) (pasid : Option Nat) (o : Nat) (v : Word) (s : State) : State :=
  let base := o / 8 * 8
  let lo := o % 8 * 8
  match s.regAt base with
  | none => if s.reaches m pasid true base && !reservedBar0 base && decide (base < 0x4000000) then s else s.writeOne m pasid base 0
  | some r =>
    if !s.served base ∨ !s.reaches m pasid true base then s.writeOne m pasid base 0
    else if r.spans ∨ r.wo.any (fun f => f.1 < lo ∨ lo + 32 < f.1 + f.2) then s.sizeRefused
    else s.writeOne m pasid base (w64 (putBits r.value.toNat lo 32 v.toNat))

/-- A BAR0 write (R627, R628). -/
def execRegisterWrite (m : Master) (a : BarWrite) (s : State) : Host.Outcome State Fault Refusal :=
  s.clocked <|
    if !s.served a.offset then s
    else if a.size = 4 then
      if a.offset % 4 = 0 then s.writeHalf m a.pasid a.offset (wordAt a.words 0) else s.sizeRefused
    else if a.size % 8 ≠ 0 ∨ a.size = 0 ∨ 512 < a.size ∨ a.offset % 8 ≠ 0 then s.sizeRefused
    else foldState (List.range (a.size / 8)) (fun t i => t.writeOne m a.pasid (a.offset + 8 * i) (wordAt a.words i)) s

end Sys2Proof.Machine
end

