-- ==== Sys2Proof/Machine/StartupOps.lean ====
section
/-! DEFINITION. Start-up: the choice of an image, the configuration records, the harbour map, stops, and the resume from WATCH and HOLD
(19_startup_freeze_cascade R595–R610, R621; 15_power_and_health R483, R484; 20_register_map R666). -/
namespace Sys2Proof.Machine
open Sys2Proof

/-! Begin and choice of the image (R595–R598, R603) -/

/-- The keys that the controller derives from the root secret and the seed, while the root secret is valid (R550, R552). -/
def Security.derive (c : Security) : Option SecKeys :=
  let k (i : Nat) : Nat := Config.derivedKey i c.rootSecret.toNat c.seed
  if c.rootValid then some { attest := (k 0, k 1), mlKem := (k 2, k 3), ecdh := (k 4, k 5), slotTag := k 6 } else none

/-- Start-up begins: the controller derives its keys, and the rail enables are asserted (R550, R603, R604 steps 1 to 3). -/
def State.startUp (cause : Nat) (s : State) : State :=
  ((s.onBoot fun b => { b with life := .starting, step := 3, cause := cause }).onSec fun c => { c with keys := c.derive }).powerOn

/-- VSTBY becomes valid on a mated module, or a reset ends with MOD_RST_N and FREEZE_N deasserted (R53, R603, R613, R617, R653). -/
def execStartupBegin (vstby : Bool) (s : State) : Host.Outcome State Fault Refusal :=
  done <|
    if vstby then
      let frozen := decide (s.boot.life = .frozen)
      let s0 := if s.boot.life = .unpowered then s else s.powerLost
      let s1 := if frozen then s0.onRas fun r => { r with kept := [s.freezeReset] } else s0
      let s2 := s1.onPins fun p => { p with mate0 := true, mate1 := true, modRst := false }
      if s2.pins.freeze then s2.onBoot fun b => { b with life := .inReset, nextCause := if frozen then 6 else 0 }
      else s2.startUp (if frozen then 6 else 0)
    else if s.boot.life = .inReset ∧ !s.pins.modRst ∧ !s.pins.freeze ∧ !s.pins.thermTrip ∧ s.pins.seq ≠ 3 then
      s.startUp s.boot.nextCause
    else s

/-- Bit of PARTS that names the part (R595). -/
def partBit : Part → Nat
  | .kln8200 => 0
  | .kln8160 => 1
  | .kln8120 => 2

/-- Failure code of a slot: 1 and 2 keep it from being a candidate, 3 to 7 are found in the order of R597; 0 = accepted. -/
def State.slotFail (s : State) (x : Image) : Nat :=
  if !x.wellFormed then 1
  else if bitsN x.parts (partBit s.part) 1 = 0 then 2
  else if !x.keysOk then 3
  else if !x.mldsaOk then 4
  else if !x.ecdsaOk then 5
  else if x.svn < s.boot.floor then 6
  else if !x.digestsOk then 7
  else 0

/-- The slot that is tried first is B (R597). -/
def State.firstB (s : State) : Bool :=
  let a := s.slotFail s.boot.imageA
  let b := s.slotFail s.boot.imageB
  let cand (n : Nat) : Bool := n != 1 && n != 2
  cand b && (!cand a || decide (s.boot.imageA.version.toNat < s.boot.imageB.version.toNat))

/-- The accepted image. -/
def State.image (s : State) : Image := if s.boot.slotB then s.boot.imageB else s.boot.imageA

/-- A stop: PCIE_RDY_N is asserted, link 0 carries FUNC 0, clusters are gated and ports OFF (R606, R607). -/
def State.stopStart (code failRecord : Nat) (s : State) : State :=
  let s1 := s.onBoot fun b => { b with life := .stopped, stop := code, failRecord := failRecord }
  let s2 := foldState ((List.range 32).filter s.clusterPresent) (fun a c => a.onCluster c fun x => { x with gated := true }) s1
  ((s2.onPins fun p => { p with pcieRdy := true }).onLk fun x => { x with
    ports := x.ports.map fun p => (p.1, { p.2 with st := .off }) }).onHif fun h => { h with links := [(0, { pres := true })] }

/-- The better of two copies of the margin table: a good CRC, and the higher PLAN_TIDE (R507). -/
def bestCopy (a b : Option Margin) : Option Margin :=
  match a.filter (·.crcOk), b.filter (·.crcOk) with
  | some x, some y => some (if y.planTide.toNat ≤ x.planTide.toNat then x else y)
  | some x, none => some x
  | none, y => y

/-- The margin table chosen at step 6, with its source (R507). -/
def State.chooseMargin (s : State) : Nat × Margin :=
  match bestCopy s.pw.marginA s.pw.marginB, bestCopy s.pw.flashA s.pw.flashB with
  | some a, _ => (0, a)
  | none, some f => (1, f)
  | none, none => (2, {})

/-- The tile rails stand at the voltages that the table gives for a frequency; VDD_F and VDD_N stand at their points in the load image
(R487, R490). -/
def State.setRails (f : Nat) (s : State) : State :=
  s.onPw fun w => { w with rails := [(0, { mv := s.dieVolt w.margin 0 f }), (1, { mv := s.dieVolt w.margin 1 f }),
    (2, { mv := Config.factoryVolt 16 0 }), (3, { mv := Config.factoryVolt 17 0 })] }

/-- Step 6 of R604: the margin table is chosen, and the tile rails stand at its voltage for 1,000 MHz. -/
def State.startRails (s : State) : State :=
  let (src, m) := s.chooseMargin
  ((s.onPw fun w => { w with margin := m }).onBoot fun b => { b with marginSource := src }).setRails 1000

/-- Step 6 of start-up; then a slot is verified and read, or the next one is tried (R597, R604 steps 4 to 8). The pilot's version is read from the pilot
section, whose contents the spec leaves open: a free value. -/
def execImageAccept (s : State) : Host.Outcome State Fault Refusal :=
  done <|
    if s.boot.life ≠ .starting ∨ !s.railsGood ∨ s.boot.step ≠ 3 then s
    else
      let a := s.slotFail s.boot.imageA
      let b := s.slotFail s.boot.imageB
      let first := if s.firstB then b else a
      let second := if s.firstB then a else b
      let cand (n : Nat) : Bool := n != 1 && n != 2
      let fallback := first != 0 && second == 0
      let useB := s.firstB != fallback
      let tried (n : Nat) (isFirst : Bool) : Nat := if isFirst ∨ first ≠ 0 ∨ !cand n then n else 0
      let s1 := s.startRails.onBoot fun x => { x with failA := tried a (!s.firstB), failB := tried b s.firstB }
      if first ≠ 0 ∧ second ≠ 0 then s1.stopStart 2 0
      else
        let img := if useB then s.boot.imageB else s.boot.imageA
        (s1.onBoot fun x => { x with
          step := 8, slotB := useB, fallback := fallback, version := img.version, svn := img.svn, members := img.members }).onHm
            (fun h => { h with pilotVersion := bits s.fresh 0 16 }) |>.drawn

/-! Configuration records (R599, R600) -/

/-- A mask of fields (lowest bit, width). -/
def fieldMask (fs : List (Nat × Nat)) : Nat := (packFields (fs.map fun f => (f.1, 2 ^ f.2 - 1))).toNat

/-- A field of `n` bits at each of `k` places `step` bits apart. -/
def each (k step lo n : Nat) : List (Nat × Nat) := (List.range k).map fun i => (step * i + lo, n)

/-- The RW and RWP fields of a page of the CF_, PW_ or SC_ block. -/
def maskLow (o : Nat) : List (Nat × Nat) :=
  match o with
  | 0x10010 => [(0, 32)]
  | 0x10100 => [(0, 10), (12, 12)]
  | 0x10200 => [(12, 36), (48, 5), (63, 1)]
  | 0x10208 => [(0, 2), (4, 11)]
  | 0x10218 => [(0, 32)]
  | 0x10220 => [(0, 8)]
  | 0x10300 => [(19, 29)]
  | 0x10308 => [(27, 21)]
  | 0x10800 => [(0, 8)]
  | 0x20018 => [(0, 12)]
  | 0x20020 => [(0, 1), (4, 12), (16, 12), (28, 8), (36, 7)]
  | 0x20028 => [(0, 32)]
  | 0x20030 => [(0, 11), (16, 16)]
  | 0x20058 => [(0, 32)]
  | 0x30040 | 0x30048 => each 8 8 0 6 ++ each 8 8 7 1
  | 0x30050 => [(0, 4)]
  | 0x30060 => [(0, 16)]
  | _ => if 0x20100 ≤ o ∧ o < 0x20180 then each 4 16 0 12 else []

/-- The RW and RWP fields of the HB_, XL_ and LK_ blocks. -/
def maskMid (o : Nat) : List (Nat × Nat) :=
  if 0x80400 ≤ o ∧ o < 0x80800 then
    if o % 16 = 0 then [(0, 32), (32, 7), (39, 1), (40, 8), (48, 1)] else [(0, 10), (16, 8)]
  else if 0x80800 ≤ o ∧ o < 0x80C00 then if o % 16 = 0 then [(0, 13), (16, 20)] else [(0, 64)]
  else if 0x80C00 ≤ o ∧ o < 0x80C40 then [(0, 64)]
  else if o = 0x100008 then [(21, 27)]
  else if 0x100100 ≤ o ∧ o < 0x100300 then [(0, 3), (4, 11), (20, 28)]
  else if 0x110000 ≤ o ∧ o < 0x150000 then
    if o % 0x1000 = 8 then [(0, 32)] else if o % 0x1000 = 0x18 then [(12, 45)] else []
  else if o = 0x180008 then [(0, 12), (16, 10), (32, 8)]
  else if o = 0x180010 ∨ o = 0x180018 then [(20, 28)]
  else if o = 0x180020 then [(20, 28), (48, 5)]
  else if 0x184000 ≤ o ∧ o < 0x186000 then each 4 16 0 8
  else if 0x190000 ≤ o ∧ o < 0x1A0000 ∧ o % 0x1000 = 8 then [(1, 1)]
  else []

/-- The RW and RWP fields of the MC_, DB_ and HM_ blocks. -/
def maskHigh (o : Nat) : List (Nat × Nat) :=
  if 0x800000 ≤ o ∧ o < 0x900000 then if o % 0x1000 = 8 then [(0, 2)] else []
  else if 0x900000 ≤ o ∧ o < 0x908000 then if o % 0x1000 < 0x100 then [(0, 34), (37, 1), (63, 1)] else []
  else if 0xA00000 ≤ o ∧ o < 0xA02000 then [(0, 14), (15, 1)]
  else if o = 0xC00100 then [(1, 2)]
  else if 0x1000100 ≤ o ∧ o < 0x1000180 then each 8 8 0 6 ++ each 8 8 7 1
  else if 0x1000200 ≤ o ∧ o < 0x1000280 then each 4 16 0 13
  else if o = 0x1000400 then [(12, 36), (48, 5)]
  else if o = 0x1000420 then [(20, 28)]
  else if 0x1100000 ≤ o ∧ o < 0x1180000 then
    match o % 0x40 / 8 with
    | 0 => [(0, 7), (8, 44)]
    | 1 | 2 | 3 => [(0, 57)]
    | 4 => [(0, 61)]
    | 5 => [(0, 28), (32, 11), (44, 2)]
    | 6 => [(0, 1)]
    | _ => []
  else []

/-- The bits of the register at a BAR0 offset that a record may write: its RW and RWP fields (R599). -/
def recordMask (o : Nat) : Nat := fieldMask (if o < 0x40000 then maskLow o else if o < 0x200000 then maskMid o else maskHigh o)

/-- Every count of refused writes. -/
def State.refusals (s : State) : Nat :=
  s.crc.refused.toNat + s.crc.rwpIgnored.toNat + s.tide.cApplyRefused.toNat + s.ras.cCfgRefused.toNat + s.pw.cCfgRefused.toNat
  + s.lk.cCfgRefused.toNat + s.hm.cCfgRefused.toNat + s.xl.cCfgRefused.toNat + s.rg.cCfgRefused.toNat + s.hb.cRefused.toNat
  + s.sec.cReject.toNat + (s.mem.chans.map fun c => c.2.cCfgRefused.toNat).sum

/-- Apply the records in order; the index of the first refused one, or none (R599). -/
def applyRecords : Nat → List (Nat × Word) → State → Option Nat × State
  | _, [], s => (none, s)
  | i, (o, v) :: t, s =>
    let m := recordMask o
    if m = 0 ∨ v.toNat &&& m ≠ v.toNat ∨ o % 8 ≠ 0 then (some i, s)
    else
      let s1 := s.writeReach .pilot none o v
      if s1.refusals = s.refusals then applyRecords (i + 1) t s1 else (some i, s)

/-- The fields as written are in force before the first tide (R599, R601). -/
def State.inForce (s : State) : State :=
  let s1 := foldState ((List.range 32).filter s.clusterPresent) (fun a c => a.onCluster c fun x => { x with
    gated := x.request == some true, request := none, wait := 0 }) s
  let s2 := s1.onTide fun t => { t with period := t.nextPeriod, slack := t.nextSlack }
  let s3 := s2.onPw fun w => { w with boost := w.boostNext.getD w.boost, boostNext := none, source := 0, hsubInForce := w.hsub }
  let s4 := s3.onHm fun h => { h with wheel := h.wheelNext, quota := h.quotaNext }
  let s5 := s4.onRg fun r => { r with inForce := r.fields }
  let s6 := s5.onHif fun h => { h with modeInForce := h.mode }
  (s6.onMem fun m => { m with chans := m.chans.map fun c => (c.1, { c.2 with clearing := false }) }).onLk fun x => { x with
    ports := x.ports.map fun p => (p.1, { p.2 with st := .off }) }

/-- A number lies in a range. -/
def within (lo hi n : Nat) : Bool := decide (lo ≤ n ∧ n ≤ hi)

/-- Every "image" field lies in its stated range, and the tide period and slack fit each other (R76, R600). -/
def State.fieldsOk (s : State) : Bool :=
  within 25 1000 s.tide.nextPeriod && within 5 2500 s.tide.nextSlack && slackFits s.tide.nextPeriod s.tide.nextSlack
  && within 1200 3600 s.pw.capW && within 600 1000 s.pw.safeFreq && isPoint s.pw.safeFreq
  && within 600 1750 s.pw.freqCeil && isPoint s.pw.freqCeil && within 10 40 s.pw.guardMv && within 20 80 s.pw.droopMv
  && within 2 255 s.ras.hangTides && within 2 255 s.lk.leaseTides && within 1 1000 s.lk.remoteTimeout
  && within 1 1000 s.pw.periodMs && within 10 20 s.lk.mapLog2 && within 16 24 s.fu.storeLog2 && within 8 16 s.ras.log2
  && (List.range 64).all fun h => (s.regFields h).cmax.all (within 1 8)

/-! Failed units (R46, R520–R522, R606) -/

/-- A tile fails its self-test: its column's spare serves the place, or the place is retired (R520, R521, R606). -/
def State.startTileFail (bad : List Nat) (t : Nat) (s : State) : State :=
  if !s.tilePresent t then s
  else
    let s1 := (s.onTile t fun x => { x with failed := true, failCause := 1, retired := true, errorHalt := true }).keepEvent 0x0902 1 t
      [pair 1 t, 1, 0]
    if 512 ≤ t then s1
    else if (s.place t).cond = .retired then s1
    else if s1.spareFree t ∧ !bad.contains (spareOf t) then
      ((s1.onPlace t fun x => { x with spare := some (t % 16) }).onTile (spareOf t) fun x => { x with standsFor := some t }).keepEvent
        0x0904 1 (spareOf t) [pair (spareOf t) t, 0]
    else (s1.onPlace t fun x => { x with cond := .retired }).keepEvent 0x0905 1 t [w64 t, 0, 0]

/-- A hold fails its self-test: its place is retired (R48, R521, R606). -/
def State.startHoldFail (p : Nat) (s : State) : State :=
  if !s.placePresent p ∨ (s.place p).cond = .retired then s
  else ((s.onPlace p fun x => { x with cond := .retired, holdFailed := true }).onTile p fun t => { t with retired := true }).keepEvent
    0x0905 1 p [w64 p, 0, 0]

/-- A stack fails training: its channels are retired (R522, R606). -/
def State.startStackFail (n : Nat) (s : State) : State :=
  foldState ((List.range 32).map (n * 32 + ·) |>.filter s.channelPresent) (fun a c =>
    ((a.onChan c fun x => { x with retired := true, retireCause := 1 }).onHb fun m => { m with
      channels := tabPut m.channels c .retired }).keepEvent 0x0906 3 c [w64 c, 0]) s

/-- Step 7 of R604: what the self-tests find. -/
def State.selfTests (t : StartIn) (s : State) : State :=
  let s1 := foldState t.failedHolds (fun a p => a.startHoldFail p) s
  let s2 := foldState t.failedTiles (fun a x => a.startTileFail t.failedTiles x) s1
  let s3 := foldState t.failedStacks (fun a n => a.startStackFail n) s2
  let s4 := s3.onHm fun h => { h with activeDie := if t.failedHm.contains 0 then 1 else 0, standby := t.failedHm.isEmpty }
  if t.bridge < 128 then
    (s4.onRas fun r => { r with bridge := t.bridge }).keepEvent 0x0907 0 0 [w64 t.bridge, w64 (125 * t.bridge)]
  else s4

/-! The harbour map (R602, R604 step 11, R608) -/

/-- A request without the units found failed (R602). -/
def State.withoutFailed (s : State) (ws : List Word) : List Word :=
  let n := min 256 (bits (wordAt ws 0) 16 9)
  let keep := ((List.range n).map fun i => wordAt ws (8 + i)).filter fun w =>
    let type := bits w 0 3
    let unit := if type = 2 then bits w 4 10 else bits w 14 10
    s.unitCond type unit != .retired
  (List.range 8).map (fun i => if i = 0 then w64 (putBits (wordAt ws 0).toNat 16 9 keep.length) else wordAt ws i)
  ++ keep ++ List.replicate (256 - keep.length) 0

/-- Some entry of a request adds a unit of TYPE `type`. -/
def addsType (type : Nat) (ws : List Word) : Bool := (reqEntries ws).any fun e => e.type == type

/-- The requests of the default map, applied in order: the state, or none when one is refused (R602). -/
def loadDefault : List (List Word) → Bool → List Nat → State → Option State
  | [], _, _, s => some s
  | ws :: t, first, left, s =>
    let x := s.withoutFailed ws
    let h := reqHarbour x
    let op := reqOp x
    let short := op == 0 && addsType 0 ws && addsType 1 ws && !(addsType 0 x && addsType 1 x)
    if first ∧ (op ≠ 0 ∨ h ≠ 0) then none
    else if h ≠ 0 ∧ (short ∨ left.contains h) then loadDefault t false (h :: left) s
    else if (op ≠ 0 ∧ op ≠ 1 ∧ op ≠ 5) ∨ s.reqReason x x false ≠ 0 then none
    else
      let j : Proc := { harbour := h, op := op, oldHgen := s.hgen h, newHgen := nextGen (s.hgen h), request := x }
      loadDefault t false left (s.bumpMap j)

/-- The map of the always-on store: every unit that has not failed is bound again, with the binding generation it had (R340, R341,
R608, log entry 55). -/
def State.loadStored (m : Tab Harbour) (s : State) : State :=
  let bind (type h : Nat) (a : State) (n : Nat) : State :=
    if a.unitCond type n = .retired then a else a.bindUnit h (tabGet (a.hgen h).toNat a.boot.mapGens (type * 1024 + n)) type n
  foldState m (fun a x =>
    let a1 := x.2.tiles.foldl (bind 0 x.1) a
    let a2 := x.2.channels.foldl (bind 1 x.1) a1
    let a3 := x.2.laneGroups.foldl (bind 3 x.1) a2
    foldState x.2.millSlots (fun b k => b.setMillSlots k.1 x.1 k.2) a3) (s.onHb fun b => { b with harbours := m })

/-- Replay the journal, before the harbour map is loaded: ownership is settled on the map of the always-on store, whose units and
checker entries loading writes whole (R355). A slot that shows STEP 0 is empty. -/
def State.replay (s : State) : State :=
  match s.boot.mapCopy with
  | none => s
  | some m =>
    let s1 := foldState s.hb.journal (fun a j =>
      if j.2.step = 0 then a.onHb fun m => { m with journal := tabDel m.journal j.1 }
      else if j.2.step < 5 then a.rollback j.1 4 8
      else a.commitProc j.1 j.2) (s.onHb fun b => { b with harbours := m })
    (s1.onBoot fun b => { b with mapCopy := some s1.hb.harbours }).onHb fun b => { b with harbours := [] }

/-! The end of start-up (R604 steps 9 to 12) -/

/-- PCIe links of the image (R564, R601). -/
def linksOf (x : Image) : Tab Link :=
  [(0, { pres := true }), (1, { pres := x.bifur0 }), (2, { pres := true }), (3, { pres := x.bifur1 })]

/-- The role of R609, and whether a would-be master has another node's ID. -/
def State.roleOf (s : State) (x : Image) (mst : Bool) : TideRole × Bool :=
  let master := x.cascade == 2 || (x.cascade == 1 && mst)
  if x.cascade = 0 then (.standalone, false)
  else if !master then (.slave, false)
  else if s.lk.nodeId ≠ x.masterNode then (.standalone, true)
  else (.master, false)

/-- Every port whose DISABLE is 0 goes to TRAINING (R445, R604). -/
def State.trainPorts (s : State) : State :=
  foldState ((List.range 16).filter fun p => s.portPresent p && !(s.port p).disable) (fun a p => a.toTraining p) s

/-- TAMPER, from the tamper record (R552). -/
def State.tellTamper (s : State) : State :=
  match s.sec.tamperRec with
  | some (cause, tide, powered) =>
    if s.sec.tamperTold then s
    else (s.onSec fun c => { c with tamperTold := true }).event 0x0A00 0 0 [w64 cause, tide, if powered then 1 else 0]
  | none => s

/-- A slave begins an echo exchange with its master (R97). -/
def State.startEcho (s : State) : State := (s.onTide fun t => { t with sinceEcho := 0, echoDue := true }).emit (.echo s.tide.masterNode)

/-- Steps 11 and 12 once the map is loaded: held events, the key slots' tags, tide 0, a slave's first measure of its delay, ports, START_DONE (R97, R554,
R604, R607). -/
def State.finishStart (x : Image) (t : StartIn) (conflict : Bool) (s : State) : State :=
  let s1 := foldState (List.range 64) (fun a k => a.checkSlot k) s.raiseKept.tellTamper
  let s2 := s1.onBoot fun b => { b with
    life := .running, step := 12, done := true, timeUs := t.timeUs, nextCause := 0
    svnRaise := if x.raiseSvn ∧ b.floor < x.svn then some x.svn else none }
  let s3 := (s2.onTide fun t => { t with num := 0, stopped := false, isolated := t.role == .slave }).computeAllow
  let s4 := ((((s3.onTide fun t => { t with jobFreq := s3.pw.fAllow }).onPw fun w => { w with counted := s3.countKey, lastDecision := s3.pw.fAllow }).setRails s3.pw.fAllow).setRegions) |> fun a => if a.tide.role = .slave then a.startEcho else a
  let s5 := (s4.trainPorts).onCrc fun c => { c with adopting := true }
  let s6 := if s.boot.fallback then
      s5.event 0x0C01 0 0 [if s.boot.slotB then 0 else 1, w64 (if s.boot.slotB then s.boot.failA else s.boot.failB)] else s5
  let s7 := if conflict then s6.event 0x0C02 0 0 [pair s.lk.nodeId x.masterNode, w64 x.groupId] else s6
  s7.event 0x0C00 0 0 [pair (if s.boot.slotB then 1 else 0) x.version.toNat,
    pair s.boot.cause (if s.boot.mapStored then 1 else 0), w64 t.timeUs]

/-- The harbours of the default map that span modules take their span registers and members from the image (R337, R360, log
entry 44). -/
def State.setSpans (cfg : List SpanCfg) (s : State) : State :=
  foldState cfg (fun a c => a.onHarbour c.harbour fun x => { x with
    spanId := c.spanId, member := c.member, span := c.span, peers := c.peers }) s

/-- The harbour map: the stored one, else the image's default map (R602, R604 step 11, R608). -/
def State.loadMap (s : State) : Option State :=
  match s.boot.mapCopy with
  | some m => some (s.loadStored m)
  | none => (loadDefault s.image.map true [] s).map (State.setSpans s.image.spans)

/-- Steps 9 to 12 of start-up, or the stop of R606 that ends it. -/
def execStartDone (t : StartIn) (s : State) : Host.Outcome State Fault Refusal :=
  done <|
    if s.boot.life ≠ .starting ∨ s.boot.step ≠ 8 ∨ !s.railsGood then s
    else
      let x := s.image
      if t.failedHm.contains 0 ∧ t.failedHm.contains 1 then s.stopStart 5 0
      else if t.bridge = 0 then s.stopStart 7 0
      else
        let s1 := (s.selfTests t).onBoot fun b => { b with step := 9 }
        let (bad, s2) := applyRecords 0 x.records s1
        match bad with
        | some i => s2.stopStart 3 i
        | none =>
          let (role, conflict) := s2.roleOf x t.cascadeMst
          let s3 := ((s2.inForce).onTide fun c => { c with
            role := role, groupId := x.groupId, masterNode := x.masterNode }).onHif fun h => { h with links := linksOf x }
          if !s3.fieldsOk then s3.stopStart 4 0
          else
            let s4 := (s3.onPins fun p => { p with pcieRdy := true }).onBoot fun b => { b with
              step := 11, mapStored := b.mapCopy.isSome }
            match s4.replay.loadMap with
            | none => s4.replay.stopStart 6 0
            | some s5 =>
              let h0 := (s5.harbour 0).getD {}
              let held (type : Nat) (us : List Nat) : Bool := us.any fun n => s5.unitOf 0 type n
              if !held 0 h0.tiles ∨ !held 1 h0.channels then s5.stopStart 6 0
              else if s5.structures.any fun b => (s5.resolve 0 b.1 b.2).isNone then s5.stopStart 4 0
              else s5.finishStart x t conflict

/-- A failure of a step that start-up meets (R606). -/
def execStartupStop (code record : Nat) (s : State) : Host.Outcome State Fault Refusal :=
  done <| if s.boot.life ≠ .starting ∨ code = 0 ∨ 7 < code then s else s.stopStart code record

/-- The security controller has blown the fuses up to the image's SVN (R598). -/
def execSvnFuseBlow (s : State) : Host.Outcome State Fault Refusal :=
  done <| match s.boot.svnRaise with
  | none => s
  | some n => s.onBoot fun b => { b with floor := max b.floor n, svnRaise := none }

/-- PERST_N is released once PCIE_RDY_N is asserted, and each present link trains to a width and a speed (R605). -/
def execPerstNDeassert (widths : List (Nat × Nat)) (s : State) : Host.Outcome State Fault Refusal :=
  done <|
    if !s.pins.pcieRdy ∨ !s.pins.perst then s
    else (s.onPins fun p => { p with perst := false }).onHif fun h => { h with
      links := h.links.map fun l => if l.2.pres then
        (l.1, { l.2 with up := true, l23 := false, grace := false, width := (widths.getD l.1 (0, 0)).1, speed := (widths.getD l.1 (0, 0)).2 })
        else l }

/-! Resume from WATCH and HOLD (R483, R484) -/

/-- What the saved register set keeps of a berth. -/
def Berth.saved (b : Berth) : Berth :=
  { harbour := b.harbour, context := b.context, log2 := b.log2, serial := b.serial, hostSubmit := b.hostSubmit
    deviceSubmit := b.deviceSubmit, timeout := b.timeoutNext.getD b.timeout, subVa := b.subVa, cplVa := b.cplVa, statusVa := b.statusVa
    capVa := b.capVa, capLog2 := b.capLog2, pasid := b.pasid, pasidCheck := b.pasidCheck, func := b.func, msiVector := b.msiVector
    irqMode := b.irqMode }

/-- The module with its "image" fields at the image's values and everything that a resume does not keep cleared (R483, R484). -/
def State.resumeBase (s : State) : State :=
  let t : Tide := { role := s.tide.role, groupId := s.tide.groupId, masterNode := s.tide.masterNode, lastMaster := s.tide.lastMaster,
                    delay := s.tide.delay, isolated := s.tide.role == .slave, shadow := s.tide.shadow, jobFreq := s.tide.jobFreq }
  let w : Power := { rails := s.pw.rails, margin := s.pw.margin, marginA := s.pw.marginA, marginB := s.pw.marginB,
                     flashA := s.pw.flashA, flashB := s.pw.flashB, flashWriting := s.pw.flashWriting, sincePlan := s.pw.sincePlan, watchLog := s.pw.watchLog
                     watchNext := s.pw.watchNext }
  let base : State := {
    part := s.part, disabled := s.disabled, uid := s.uid, formats := s.formats, frenor := s.frenor
    tide := t, pw := w, mem := { remap := s.mem.remap, aon := s.mem.aon, aonTick := s.mem.aonTick }, sec := s.sec, pins := { s.pins with alert := false }
    ras := { kept := s.ras.kept, bridge := s.ras.bridge }
    hm := { activeDie := s.hm.activeDie, standby := s.hm.standby, gen := s.hm.gen, lost := s.hm.lost, lostApplied := s.hm.lostApplied
            pilotVersion := s.hm.pilotVersion }
    hif := { links := s.hif.links, msix := s.hif.msix, bar2Gib := s.hif.bar2Gib }
    boot := { s.boot with life := .starting, dumpEn := false, dumpHolds := false }
    out := s.out, freeTick := s.freeTick, pending := s.pending }
  let a := ((applyRecords 0 s.image.records base).2).inForce
  let chan (c : Nat) : Chan := { level := (a.chan c).level, retired := (s.chan c).retired, retireCause := (s.chan c).retireCause }
  let chans := ((List.range 256).filter s.channelPresent).map fun c => (c, chan c)
  { a with
    places := s.places
    tiles := s.tiles.map fun t => (t.1, { t.2 with cSaves := 0, cRestores := 0, cWindowErr := 0, cEccCorr := 0, misses := 0 })
    mills := s.mills.map fun m => (m.1, { bound := m.2.bound, failed := m.2.failed, failCause := m.2.failCause })
    hb := { s.hb with cStaleSpeaker := 0, cFencedDrop := 0, cRolledBack := 0, cRefused := 0, budgetCeil := a.hb.budgetCeil }
    mem := { a.mem with chans := chans }
    xl := { a.xl with anyValid := s.xl.anyValid }
    lk := { a.lk with pool := s.lk.pool } }

/-- The saved register set over the image's values (R484). -/
def State.restoreSaved (old s : State) : State :=
  { s with
    tide := { s.tide with nextPeriod := old.tide.nextPeriod, nextSlack := old.tide.nextSlack, period := old.tide.period, slack := old.tide.slack }
    hm := { s.hm with wheel := old.hm.wheelNext, wheelNext := old.hm.wheelNext, wheelIdle := old.hm.wheelIdle, quota := old.hm.quotaNext, quotaNext := old.hm.quotaNext }
    berths := old.berths.map fun b => (b.1, b.2.saved)
    fu := { s.fu with storeBase := old.fu.storeBase, storeLog2 := old.fu.storeLog2, bufBase := old.fu.bufBase }
    rg := { s.rg with fields := old.rg.fields, inForce := old.rg.fields, slices := old.rg.slices, regrant := old.rg.regrant }
    hb := { s.hb with budgetCeil := old.hb.budgetCeil }
    mem := { s.mem with
      isets := old.mem.isets
      chans := s.mem.chans.map fun c => (c.1, { c.2 with level := (old.chan c.1).level }) }
    xl := { s.xl with
      ctxBase := old.xl.ctxBase
      fq := old.xl.fq.map fun q => (q.1, { enable := q.2.enable, irqMode := q.2.irqMode, msiVector := q.2.msiVector, base := q.2.base }) }
    lk := { s.lk with
      nodeId := old.lk.nodeId, remoteTimeout := old.lk.remoteTimeout, leaseTides := old.lk.leaseTides, routeBase := old.lk.routeBase
      spanBase := old.lk.spanBase, mapBase := old.lk.mapBase, mapLog2 := old.lk.mapLog2
      nodes := old.lk.nodes, ports := old.lk.ports.map fun p => (p.1, { disable := p.2.disable }) }
    pw := { s.pw with
      capW := old.pw.capW, source := old.pw.source, boost := old.pw.boostNext.getD old.pw.boost, safeFreq := old.pw.safeFreq
      freqCeil := old.pw.freqCeil, guardMv := old.pw.guardMv, droopMv := old.pw.droopMv, dieWarn := old.pw.dieWarn
      dieThrottle := old.pw.dieThrottle, hbmWarn := old.pw.hbmWarn, hbmThrottle := old.pw.hbmThrottle, periodMs := old.pw.periodMs
      linkAlert := old.pw.linkAlert, coolantMax := old.pw.coolantMax, carrierMax := old.pw.carrierMax, hsub := old.pw.hsub
      hsubInForce := old.pw.hsub }
    hif := { s.hif with mode := old.hif.mode, modeInForce := old.hif.mode } }

/-- WATCH_ALERT of every alert entry of the log, in order (R485, R509). -/
def State.raiseAlerts (s : State) : State :=
  foldState (s.pw.watchLog.filter (·.alert)) (fun a e => a.event 0x0801 0 0 [w64 e.ms, w64 e.source, w64 e.value])
    (s.onPw fun w => { w with watchLog := [] })

/-- The first boundary after a resume: the saved set is restored, or the image's values stand in its place, and the module is ACTIVE
(R80, R483 steps 3 to 5). -/
def execResumeDone (crcOk : Bool) (s : State) : Host.Outcome State Fault Refusal :=
  s.clocked <|
    if !s.running ∨ !s.pw.resuming ∨ !s.railsGood then s
    else
      let s1 := if crcOk then s.restoreSaved s.resumeBase else s.resumeBase
      let s2 := foldState ((List.range 32).filter s.clusterPresent) (fun a c => a.onCluster c fun x => { x with
        gated := !s.pw.savedUngated.contains c, request := none }) s1
      let s3 := (s2.onTide fun t => { t with num := t.shadow + 1, stopped := false }).onBoot fun b => { b with life := .running }
      let s4 := (s3.raiseKept.raiseAlerts).pstateEvent s.pw.st .active (!crcOk)
      let s5 := ((s4.decideJob).setRegions).trainPorts
      s5.onCrc fun c => { c with adopting := true }

end Sys2Proof.Machine
end

