-- ==== Sys2Proof/Machine/TideOps.lean ====
section
/-! DEFINITION. The boundary of a tide and what every unit does at it, the tick messages of a cascade group (02_tides), berth
timeouts, and the end of a Harbourmaster takeover (08_harbourmaster). -/
namespace Sys2Proof.Machine
open Sys2Proof

/-! Berth timeouts (R93, R278, R279) -/

/-- The timeout that is due for an entry fires (R279). -/
def State.fireTimeout (l : Nat) (s : State) : State :=
  match s.launch l with
  | none => s
  | some e =>
    if !e.timeoutDue ∨ s.hmSilent then s
    else
      let s1 := s.onLaunch l fun e => { e with timeoutDue := false }
      if e.state = .completing ∨ e.retiring then s1 else s1.abortLaunch l .timeout none

/-- BERTH_TIMEOUT: the launch has reached its count (R83 step 3, R279). A boundary fires the timeouts that are due at it itself; the row
does so while one is still due (log entry 16). -/
def execBerthTimeout (l : Nat) (s : State) : Host.Outcome State Fault Refusal :=
  s.clocked <| match s.launch l with
  | none => s
  | some e => if e.timeoutDue then (s.fireTimeout l).settle else s

/-! Ticks of a cascade group (R96–R100) -/

/-- This module is a slave whose tides run. -/
def State.slaved (s : State) : Bool := s.running && s.tide.role == .slave && !s.tide.stopped

/-- The tick comes from the master that the load image names (R97, R610). -/
def State.tickOurs (s : State) (node : Nat) (t : TickMsg) : Bool :=
  node == s.tide.masterNode && t.masterNode == s.tide.masterNode && t.groupId == s.tide.groupId

/-- A change announced in a tick is in force in tide `n` (R82, R96). -/
def tickChanged (t : TickMsg) (n : Word) : Bool := t.changeValid && decide ((n - t.changeTide).toNat < 2 ^ 63)

/-- A tick counts as missed: holdover begins at the first, and isolation at the eighth in a row (R97, R99, R100). LOCKED stays 1 in
holdover and falls at isolation (DESIGN CHOICE, log entry 129). -/
def State.missTick (s : State) : State :=
  let n := s.tide.missRun + 1
  let s1 := s.onTide fun t => { t with
    cMissedTick := t.cMissedTick + 1, missRun := n, aligned := 0, holdover := t.holdover || !t.isolated }
  if n = 8 ∧ !s.tide.isolated then
    (s1.onTide fun t => { t with isolated := true, locked := false, slaveChange := none }).event 0x0200 0 0
      [s.tide.lastMaster, w64 s.tide.masterNode]
  else s1

/-- A tick with the values in force once its boundary has applied its changes: it carries those that were in force before (R83 steps 1
and 2, R96), and `last` announced a change for its tide. -/
def tickApplied (last : Option TickMsg) (t : TickMsg) : TickMsg :=
  match last with
  | some c => if c.changeTide = t.tide then { t with period := c.newPeriod, slack := c.newSlack, jobFreq := c.newJobFreq } else t
  | none => t

/-- The last tick that announced a change, after tick `t` (R96). -/
def tickAnnounced (last : Option TickMsg) (t : TickMsg) : Option TickMsg := if t.changeValid then some t else last

/-- An accepted tick: the slave is locked, and it takes the changes the tick announces (R97, R99, R490, R495). A slave that a
deferred raise or a holdover left at another frequency returns to its master's when its own F_ALLOW admits it. -/
def State.acceptTick (t0 : TickMsg) (s : State) : State :=
  let t := tickApplied s.tide.lastChange t0
  let own := s.tide.jobFreq
  let follow := t.changeValid || decide (t.jobFreq ≤ s.pw.fAllow)
  let target := if t.changeValid then t.newJobFreq else t.jobFreq
  let s1 := s.onTide fun x => { x with
    lastMaster := t.tide, missRun := 0, holdover := false, locked := true, lastChange := tickAnnounced x.lastChange t0
    slaveChange := if t.changeValid then some t else x.slaveChange
    freqAnnounced := if !follow then x.freqAnnounced else if target = own then none else some target }
  if follow ∧ own < target ∧ s.tide.freqAnnounced ≠ some target ∧ !s.pw.brown ∧ !s.pw.brownHold then
    s1.askVolts s1.pw.margin target
  else s1

/-- An isolated slave receives a tick: after two in a row, one period apart, it realigns at the master's next boundary, or at the
one after when the next falls less than half a period after its own last (R99). Its own boundary between the tick and the
realignment tide passes first. -/
def State.alignTick (t0 : TickMsg) (inWindow : Bool) (phaseUs : Nat) (s : State) : State :=
  let t := tickApplied s.tide.lastChange t0
  let n := if inWindow then s.tide.aligned + 1 else 1
  let s1 := s.onTide fun x => { x with aligned := n, lastMaster := t.tide, lastChange := tickAnnounced x.lastChange t0 }
  if n < 2 ∨ s.tide.rejoin.isSome then s1
  else
    let target := if t.period ≤ 2 * phaseUs then (t.tide + 1, phaseUs) else (t.tide + 2, t.period + phaseUs)
    s1.onTide fun x => { x with rejoin := some target, rejoinSkip := true, slaveChange := some t }

/-- TICK_MESSAGE (R97, R99). -/
def execTickMessage (node : Nat) (t : TickMsg) (inWindow : Bool) (phaseUs : Nat) (s : State) :
    Host.Outcome State Fault Refusal :=
  s.clocked <|
    if !s.slaved then s
    else if !s.tickOurs node t then s.missTick
    else if s.tide.isolated then (if inWindow then s else s.missTick).alignTick t inWindow phaseUs
    else if inWindow then s.acceptTick t
    else s.missTick

/-- MISSED_TICK (R97, R99). -/
def execMissedTick (s : State) : Host.Outcome State Fault Refusal := s.clocked <| if s.slaved then s.missTick else s

/-- ECHO_EXCHANGE: half the round trip is the delay (R97). -/
def execEchoExchange (roundTrip : Nat) (s : State) : Host.Outcome State Fault Refusal :=
  s.clocked <| if s.slaved then s.onTide fun t => { t with delay := roundTrip / 2, sinceEcho := 0, echoDue := false } else s

/-- The tick message of this boundary, as step 1 sends it: the settings in force have not changed yet, and what the next boundary will
apply is announced (R82, R83, R91, R96). -/
def State.tickMsg (s : State) : TickMsg :=
  let t := s.tide
  { tide := t.num, period := t.period, slack := t.slack, jobFreq := t.jobFreq, masterNode := t.masterNode, groupId := t.groupId
    newPeriod := match t.change with | some c => c.period | none => t.period
    newSlack := match t.change with | some c => c.slack | none => t.slack
    newJobFreq := t.freqDecided.getD (t.freqAnnounced.getD t.jobFreq)
    changeValid := (match t.change with | some c => c.left == 2 | none => false) || t.freqDecided.isSome
    changeTide := t.num + 1 }

/-- The four words of a tick message (R96). -/
def tickWords (t : TickMsg) : List Word :=
  [t.tide,
   w64 (t.period + t.slack * 2 ^ 12 + t.jobFreq * 2 ^ 24 + t.masterNode * 2 ^ 36 + t.groupId * 2 ^ 48),
   w64 (t.newPeriod + t.newSlack * 2 ^ 12 + t.newJobFreq * 2 ^ 24 + (if t.changeValid then 2 ^ 36 else 0)), t.changeTide]

/-- A master sends its tick to every slave (R96, R610). -/
def State.sendTicks (s : State) : State :=
  if s.tide.role ≠ .master then s
  else
    let m := s.tickMsg
    foldState s.boot.members (fun a n => (a.emit (.tick n m)).sendTxn 0 n 0
      (txnHeader 7 0 32 0 0 0 (Config.signalKind 0 % 256) false ++ tickWords m) []) s

/-- F_ALLOW as a slave reports it: while a raise of a tile rail has failed, the frequency that it runs at (R508). -/
def State.allowReported (s : State) : Nat :=
  if (s.rail 0).fault || (s.rail 1).fault then min s.pw.fAllow s.tide.jobFreq else s.pw.fAllow

/-- A slave sends its F_ALLOW to its master in slack (R495). -/
def State.sendAllow (s : State) : State :=
  if s.tide.role ≠ .slave then s
  else s.sendTxn 0 s.tide.masterNode 0 (txnHeader 7 0 16 0 0 0 0x10 false ++ [w64 s.allowReported, s.tide.num]) []

/-! Step 1 of a boundary (R78, R83, R99) -/

/-- The boundary ends a realignment tide: the slave carries its master's tide number, period and slack, and takes its master's job
frequency at the next boundary (R99, R490). -/
def State.rejoinGroup (n : Word) (len : Nat) (s : State) : State :=
  let t := s.tide.slaveChange.getD {}
  let new := tickChanged t n
  let f := if new then t.newJobFreq else t.jobFreq
  let s1 := s.onTide fun x => { x with
    num := n, isolated := false, holdover := false, locked := true, missRun := 0, aligned := 0, rejoin := none
    period := if new then t.newPeriod else t.period
    slack := if new then t.newSlack else t.slack
    slaveChange := if t.changeValid && !new then some t else none
    freqAnnounced := if f = x.jobFreq then none else some f }
  let s2 := if s.tide.jobFreq < f then s1.askVolts s1.pw.margin f else s1
  s2.event 0x0201 0 0 [s.tide.num, n, w64 len]

/-- This boundary ends a realignment tide. -/
def State.rejoins (s : State) : Option (Word × Nat) := if s.tide.rejoinSkip then none else s.tide.rejoin

/-- The tick: the tide number advances (R78, R83 step 1). -/
def State.tickNumber (s : State) : State :=
  match s.rejoins with
  | some (n, len) => s.rejoinGroup n len
  | none => s.onTide fun t => { t with num := t.num + 1, rejoinSkip := false }

/-- A slave measures its delay again every 1,024 tides (R97). -/
def State.countEcho (s : State) : State :=
  if s.tide.role ≠ .slave then s
  else if 1023 ≤ s.tide.sinceEcho then s.startEcho
  else s.onTide fun t => { t with sinceEcho := t.sinceEcho + 1 }

/-- Counts of single tides start again, and what the units measured in the tide that ends is kept (R310, R325, R385, R453, R511). -/
def State.newTide (b : BoundaryIn) (ended : Word) (s : State) : State :=
  let s1 := s.countEcho.onHm fun h => { h with lostApplied := h.lost }
  let s2 := (s1.onFu fun u => { u with spillRaised := false, tideAccesses := 0 }).onLk fun x => { x with
    lgs := x.lgs.map fun g => (g.1, { g.2 with tagFails := 0, fecBad := false }) }
  let s3 := s2.onMem fun m => { m with chans := m.chans.map fun c => (c.1, { c.2 with
    hist := c.2.hist.map fun h => { h with rows := h.rows.map fun r => (r.1, r.2 + 1) } }) }
  s3.onPw fun w => { w with
    moduleW := b.moduleW, tileW := b.tileW, powerTide := ended
    harbourW := b.harbourW.foldl (fun t x => tabPut t x.1 x.2) [] }

/-! Step 2 of a boundary (R82, R83, R91) -/

/-- A change of period and slack takes effect, or comes one boundary nearer (R82). -/
def State.periodBoundary (s : State) : State :=
  let s1 := match s.tide.change with
    | none => s
    | some c =>
      if c.left ≤ 1 then s.onTide fun t => { t with period := c.period, slack := c.slack, change := none }
      else s.onTide fun t => { t with change := some { c with left := c.left - 1 } }
  match s1.tide.slaveChange with
  | some t => if tickChanged t s1.tide.num ∧ !s1.tide.isolated then
      s1.onTide fun x => { x with period := t.newPeriod, slack := t.newSlack, slaveChange := none } else s1
  | none => s1

/-- A slave in holdover or isolation (R99). -/
def State.cutOff (s : State) : Bool := s.tide.role == .slave && (s.tide.holdover || s.tide.isolated)

/-- No job-frequency change is applied at this boundary: a slave that is cut off holds a harbour spanning modules, a realignment
tide begins, or the announced change belongs to a later tide (R96, R99). -/
def State.freqHeld (s : State) : Bool := (s.cutOff && s.spans) || s.tide.rejoin.isSome || s.tide.slaveChange.isSome

/-- A lower F_ALLOW that waited for the rejoin takes effect (R496). -/
def State.deferredCap (s : State) : State :=
  if !s.pw.capDeferred ∨ s.cutOff then s
  else
    let s1 := s.onPw fun w => { w with capDeferred := false }
    if s1.pw.fAllow < s1.tide.jobFreq then s1.applyFreq s1.pw.fAllow else s1

/-- What the module's own settings do at step 2 (R83, R91, R261, R271, R280, R338, R426, R478, R482, R587). `rejoined` says that the
boundary ends a realignment tide. -/
def State.changeBoundary (rejoined : Bool) (s : State) : State :=
  let s1 := if s.pw.st = .idle ∧ s.pw.waking then
    ((s.onPw fun w => { w with st := .active, waking := false }).setRegions).pstateEvent .idle .active false else s
  let s2 := s1.periodBoundary
  let s3 := if rejoined ∨ s2.freqHeld then s2 else s2.deferredCap.freqBoundary
  let s4 := s3.brownBoundary.boostBoundary.planBoundary.gateBoundary
  let hold (h : Nat) : Bool := s4.cutOff && (match s4.harbour h with | some x => x.span | none => false)
  let s5 := s4.onPw fun w => { w with hsubInForce :=
    (w.hsubInForce.filter fun x => hold x.1) ++ (w.hsub.filter fun x => !hold x.1) }
  let s6 := (s5.roleBoundary.modeBoundary).onHm fun h => { h with wheel := h.wheelNext, quota := h.quotaNext }
  let s7 : State := { s6 with berths := s6.berths.map fun b => (b.1, { b.2 with
    timeout := b.2.timeoutNext.getD b.2.timeout, timeoutNext := none }) }
  let counts (x : Harbour) : Harbour := match x.spanNext with
    | some (t, c) => { x with
        peers := x.peers.modify (x.peers.length - 1) fun p => { p with tiles := t, channels := c }, spanNext := none }
    | none => x
  ((s7.onRg fun r => { r with inForce := r.fields }).onHb fun m => { m with
    harbours := m.harbours.map fun h => (h.1, counts h.2) }).enterDeep

/-! Steps 3, 5 and 6: the Harbourmaster (R83, R279, R290, R311–R314, R434, R526) -/

/-- An entry of a lost context that is WAITING, READY or SAVED completes with LOST; the live nodes of a lost graph launch go their
own way (R320, R526). -/
def State.loseLaunch (l : Nat) (s : State) : State :=
  match s.launch l with
  | none => s
  | some e =>
    if e.state = .active ∨ e.state = .completing then s
    else match e.run with
    | none => s.abortOne l .lost none
    | some r =>
      let live (i : Nat) : Bool := s.hm.launches.any fun x => x.2.node == some (l, i)
      ((s.abortOne l .lost none).onLaunch l fun x => { x with run := x.run.map fun q => { q with
        pending := []
        done := (List.range r.nodes).foldl (fun t i => if (tabFind t i).isSome ∨ live i then t else tabPut t i .lost) q.done } })
          |>.advanceGraph l

/-- The timeout counts take in the boundary, and those that are reached are due (R93, R278). -/
def State.countTimeouts (s : State) : State :=
  s.onHm fun h => { h with launches := h.launches.map fun x =>
    let e := x.2
    if e.state = .waiting then x
    else
      let n := e.readyTides + 1
      let limit := (s.berth e.berth).timeout
      (x.1, { e with
        readyTides := n
        timeoutDue := e.timeoutDue || (limit != 0 && decide (limit ≤ n) && e.node.isNone && e.state != .completing && !e.retiring) }) }

/-- Step 3: LOST completions, then the timeouts (R83, R93, R278, R279, R526). -/
def State.lostAndTimeouts (s : State) : State :=
  let s1 := (foldState (s.entriesOf fun e => s.ras.lost.contains e.context) (fun a l => a.loseLaunch l) s).settleLate.countTimeouts
  (foldState (s1.entriesOf (·.timeoutDue)) (fun a l => a.fireTimeout l) s1).settleLate

/-- Step 6: in hardware mode the members found in the last snapshot become a result. A result is applied, and the boundary's own snapshot
is taken (R311–R314). -/
def State.cycleBoundary (host : Bool) (s : State) : State :=
  let s1 := match host, s.fu.snap with
    | false, some x =>
      let ms := cycleMembers x.cands
      if ms.isEmpty then s else s.onFu fun u => { u with result := some ⟨x.tide, ms.map CycleCand.entry⟩ }
    | _, _ => s
  if s1.fu.result.isSome then (s1.onFu fun u => { u with resultDue := true }).run execWaitCycleApply else s1.takeSnapshot

/-- A part of the launch that has not retired lies on a place that a re-bind drains (R94). -/
def State.onDraining (s : State) (e : Launch) : Bool :=
  e.parts.zipIdx.any fun p => match p.1 with
    | .slot q _ => !e.retired.contains p.2 && (s.place q).draining
    | _ => false

/-- The budget check of every launch that runs in all its unfinished parts; parts of a gang share one budget. A launch on a place that is
drained is pre-empted whatever its budget (R83, R86, R94, R107, R193, R201). -/
def State.checkBudgets (s : State) : State :=
  s.onHm fun h => { h with launches := h.launches.map fun x =>
    let e : Launch := { x.2 with elapsed := if x.2.started then x.2.elapsed + 1 else x.2.elapsed }
    let run := e.parts.zipIdx.all fun p => match p.1 with
      | .slot q k => e.retired.contains p.2 || (s.slotAt q k).state == .running
      | _ => true
    if e.kind ≠ 0 ∨ e.state ≠ .active ∨ e.timeoutDue ∨ e.retiring then (x.1, e)
    else if (s.onDraining e || (run && e.budgetLeft == 0)) then (x.1, { e with preemptDue := true })
    else if !run ∨ e.budgetLeft = 255 then (x.1, e)
    else (x.1, { e with budgetLeft := e.budgetLeft - 1 }) }

/-- Step 4: the budget checks, and the pre-emptions they call for (R83, R86, R94). -/
def State.budgets (s : State) : State :=
  let s1 := s.checkBudgets
  foldState (s1.entriesOf (·.preemptDue)) (fun a l => a.run (execBudgetPreempt l)) s1

/-! Step 7: in slack (R83, R208, R277, R418) -/

/-- The per-tide interrupts of berths, fault queues and the event ring that the tide now ending calls for: function and vector (R277,
R416, R535). -/
def State.tideIrqs (s : State) : List (Nat × Nat) :=
  ((s.berths.filter fun b => b.2.irqMode == 2 && b.2.wrote).map fun b => (b.2.func, b.2.msiVector))
  ++ ((s.xl.fq.filter fun q => q.2.irqMode == 2 && q.2.created).map fun q => (s.faultFunc q.1, q.2.msiVector))
  ++ if s.ras.irqMode = 2 ∧ s.ras.wrote then [(0, s.ras.msiVector)] else []

/-- What is written from now on belongs to the tide that begins (R277). -/
def State.clearWrote (s : State) : State :=
  let s1 : State := { s with berths := s.berths.map fun b => (b.1, { b.2 with wrote := false }) }
  (s1.onXl fun x => { x with fq := x.fq.map fun q => (q.1, { q.2 with created := false }) }).onRas fun r => { r with wrote := false }

/-- A 16-bit and a 32-bit count saturate (R208). -/
def sat (n v : Nat) : Nat := min v (2 ^ n - 1)

/-- The words of a harbour's pacing area as they stand, SEQ first (R208). Nodes of graph launches are counted with their graph
launch. -/
def State.pacingWords (s : State) (h : Nat) (x : Harbour) : List Word :=
  let es := (s.hm.launches.filter fun l => l.2.harbour == h && l.2.node.isNone).map (·.2)
  let bs := s.berths.filter fun b => b.2.enable && b.2.harbour == h
  let count (f : Launch → Bool) : Nat := (es.filter f).length
  let placed (e : Launch) : Bool := e.state == .active || e.state == .saved || e.state == .completing
  let open_ := x.tiles.filter fun p => s.placePresent p && (s.place p).cond != .retired && !(s.cluster (clusterOf p)).gated
  let free := (open_.map fun p => 32 - (s.place p).slots.length).sum
  [w64 (x.pacingSeq + 2), s.tide.num,
   w64 (sat 16 bs.length + sat 16 free * 2 ^ 16 + sat 16 open_.length * 2 ^ 32),
   w64 (sat 32 (count fun e => e.state == .ready) + sat 32 (count placed) * 2 ^ 32),
   w64 (sat 32 (count fun e => e.state == .waiting) + sat 32 (count fun e => e.state == .saved) * 2 ^ 32), 0, 0, 0]
  ++ bs.map fun b =>
    let on (f : Launch → Bool) : Nat := sat 16 (count fun e => e.berth == b.1 && f e)
    w64 (sat 16 (b.2.producer - b.2.fetch).toNat + on (fun e => e.state == .waiting) * 2 ^ 16
      + on (fun e => e.state == .ready) * 2 ^ 32 + on placed * 2 ^ 48)

/-- Every harbour's pacing area is rewritten; entries that an earlier update wrote beyond BERTHS become zero (R208–R210). -/
def State.writePacing (s : State) : State :=
  foldState s.hb.harbours (fun a h => match s.pacingByte h.1 with
    | none => a
    | some (c, b) =>
      let ws := s.pacingWords h.1 h.2
      let n := ws.length - 8
      (a.hbmPut c b ((ws ++ List.replicate (h.2.pacingBerths - n) 0).flatMap wordBytes) false).onHarbour h.1 fun y =>
        { y with pacingSeq := y.pacingSeq + 2, pacingBerths := n }) s

/-- What happens in slack k, with the per-tide interrupts of tide k − 1 (R83 step 7). -/
def State.slackWork (irqs : List (Nat × Nat)) (s : State) : State :=
  let s1 := foldState irqs (fun a i => a.msix i.1 i.2) (foldState s.xl.fq (fun a q => a.rewalk q.1 fun _ => true) s)
  let s2 := if s1.hmSilent then s1 else s1.writePacing
  let s3 := s2.procsAtBoundary.ownBoundary
  let s4 := if s3.hmSilent then s3.pollPages else s3.teardownBoundary
  s4.spareBoundary.stuckBoundary.sendAllow

/-! Step 8: the plan (R84, R90, R205, R207) -/

/-- Launches that stayed ready or saved and unplaced count the boundary (R207). -/
def State.countUnplaced (s : State) : State :=
  s.onHm fun h => { h with launches := h.launches.map fun x =>
    if (x.2.state = .ready ∨ x.2.state = .saved) ∧ x.2.kind ≤ 1 ∧ !x.2.timeoutDue then
      (x.1, { x.2 with unplaced := x.2.unplaced + 1 }) else x }

/-- The plan reads the tag tables (R205). The model reads them at the boundary itself (DESIGN CHOICE, log entry 131). -/
def State.readTags (s : State) : State := { s with places := s.places.map fun p => (p.1, { p.2 with planTags := p.2.tags }) }

/-- The launches of the plan start, unless the plan is late: then they start as the rest of the tide places them (R83 step 8,
R90). PLAN_LATE of CF_TIDE_STATUS returns to 0 at the next boundary whose plan is on time (DESIGN CHOICE, log entry 130). -/
def State.startPlan (late : Bool) (s : State) : State :=
  let s1 := s.countUnplaced
  let s2 := if late ∧ !s1.hm.lostApplied then s1.onTide fun t => { t with cPlanLate := t.cPlanLate + 1, planLate := true }
    else if s1.hmSilent then s1
    else s1.onTide fun t => { t with planLate := false }
  if s2.hmSilent then s2
  else if late then s2.readTags.settleLate
  else
    let s3 := s2.readTags.clearPoolFull
    (foldState (s3.plan fun _ => true) (fun a l => a.tryPlace l) s3).settle

/-! The boundary -/

/-- A launch that its berth's ABORT stopped ends: its parts and Mill slots have stopped, and its record is due (R285). -/
def State.endAborted (l : Nat) (s : State) : State :=
  match s.launch l with
  | none => s
  | some e =>
    if !e.abortDue then s
    else
      let s1 := foldState e.parts (fun a x => match x with | .slot p k => a.abortEnds p k | _ => a) s
      let s2 := foldState (s1.mills.map (·.1)) (fun a m => a.millAborted m l) s1
      if e.run.isSome then s2.finishGraph l else s2.complete l

/-- What the tide that ends left to its boundary: the records of launches that a berth's ABORT stopped, the nodes of graph launches
first, and marks that no command has carried out. -/
def State.settleDue (s : State) : State :=
  let s1 := foldState (s.entriesOf fun e => e.abortDue && e.node.isSome) (fun a l => a.endAborted l) s
  let s2 := (foldState (s1.entriesOf (·.abortDue)) (fun a l => a.endAborted l) s1).run execWaitCycleApply
  let s3 := foldState (s2.entriesOf (·.timeoutDue)) (fun a l => a.fireTimeout l) s2
  (foldState (s3.entriesOf (·.preemptDue)) (fun a l => a.run (execBudgetPreempt l)) s3).decideChanged

/-- The Harbourmaster's steps 3, 5 and 6 of a boundary at which no instance served (R290). -/
def State.heldStep (b : HeldBoundary) (s : State) : State :=
  ((s.lostAndTimeouts).publishSlow b.ended b.len b.slow).cycleBoundary b.cycleHost

/-- TIDE_BOUNDARY: the steps of R83 in their order. While a takeover runs, steps 3, 5 and 6 wait for its end; with no Harbourmaster left
they do not happen (R290, R291). -/
def State.boundary (b : BoundaryIn) (s0 : State) : State :=
  let s := s0.settleDue
  let irqs := s.tideIrqs
  let held : HeldBoundary := {
    ended := s.tide.num, len := (match s.rejoins with | some x => x.2 | none => s.tide.period) * 1000
    cycleHost := s.hostMode 3, slow := b.slow }
  let s1 := (s.clearWrote.tickNumber.newTide b held.ended).sendTicks
  let s2 := s1.changeBoundary s.rejoins.isSome
  let s3 := if s2.hmSilent then s2 else s2.lostAndTimeouts
  let s4 := s3.budgets
  let s6 :=
    if s4.hm.takeover then s4.onRg fun r => { r with held := r.held ++ [held] }
    else if s4.hmSilent then s4
    else (s4.publishSlow held.ended held.len held.slow).cycleBoundary held.cycleHost
  (s6.slackWork irqs).startPlan b.planLate

def execTideBoundary (b : BoundaryIn) (s : State) : Host.Outcome State Fault Refusal :=
  s.clocked <| if !s.running ∨ s.tide.stopped then s else s.boundary b

/-! The end of a takeover (R289–R292) -/

/-- The steps of the boundaries that fell inside the takeover, in order (R290). -/
def State.heldSteps (s : State) : State := foldState s.rg.held (fun a b => a.heldStep b) (s.onRg fun r => { r with held := [] })

/-- Records of an entry of the log tail (R292). -/
def LogRec.records (r : LogRec) : Nat := (if r.cplAt.isSome then 1 else 0) + (if r.capAt.isSome then 1 else 0)

/-- The new instance writes a record of the log tail again, identically at the same position, and repeats its signals (R289 step 3). -/
def State.rewriteRec (r : LogRec) (s : State) : State :=
  let put (at_ : Option Nat) (ws : List Word) (s : State) : State := match at_ with
    | some va => s.vaWrite r.context va (ws.flatMap wordBytes)
    | none => s
  ((put r.cplAt r.cpl (put r.capAt r.cap s)).onFu fun u => { u with inflight := u.inflight ++ r.signals }).onHm fun h => { h with
    rewritten := h.rewritten + r.records }

/-- HM_FAILOVER: the standby has replayed the log tail and becomes active, raises the event, writes the records of launches that ended
meanwhile, and runs the steps that waited (R289 steps 3 and 4, R290–R292). -/
def execHmFailover (s : State) : Host.Outcome State Fault Refusal :=
  s.clocked <|
    if !s.hm.takeover then s
    else
      let s1 := foldState s.hm.tail (fun a r => a.rewriteRec r) s
      let h := s1.hm
      let s2 := (s1.onHm fun h => { h with takeover := false, standby := false, activeDie := 1 - h.activeDie
                                           cFailovers := h.cFailovers + 1 }).eventAt h.takeoverTide 0x0300 11 (1 - h.activeDie)
          [w64 h.takeoverNs, w64 h.rewritten, w64 h.returned]
      s2.flushAll.heldSteps.advanceProcs.settle

end Sys2Proof.Machine
end

