-- ==== Sys2Proof/Machine/Dispatch.lean ====
section
/-! DEFINITION. What each command does: one arm per constructor, one call of its meaning. -/
namespace Sys2Proof.Machine
open Sys2Proof

/-- The effect of a command on everything but the queue. -/
def exec (i : Instr) (s : State) : Host.Outcome State Fault Refusal :=
  match i with
  | .tideBoundary b => Sys2Proof.Machine.execTideBoundary b s
  | .budgetPreempt l => Sys2Proof.Machine.execBudgetPreempt l s
  | .berthTimeout l => Sys2Proof.Machine.execBerthTimeout l s
  | .tideApply m v => Sys2Proof.Machine.execTideApply m v s
  | .tickMessage node t inWindow phaseUs => Sys2Proof.Machine.execTickMessage node t inWindow phaseUs s
  | .missedTick => Sys2Proof.Machine.execMissedTick s
  | .echoExchange roundTrip => Sys2Proof.Machine.execEchoExchange roundTrip s
  | .loadComplete place slot => Sys2Proof.Machine.execLoadComplete place slot s
  | .restoreComplete place slot crcOk poisoned => Sys2Proof.Machine.execRestoreComplete place slot crcOk poisoned s
  | .drainComplete place slot => Sys2Proof.Machine.execDrainComplete place slot s
  | .saveWindowClose place slot late => Sys2Proof.Machine.execSaveWindowClose place slot late s
  | .partRetire place slot => Sys2Proof.Machine.execPartRetire place slot s
  | .launchComplete l => Sys2Proof.Machine.execLaunchComplete l s
  | .abortComplete place slot => Sys2Proof.Machine.execAbortComplete place slot s
  | .evictionComplete place => Sys2Proof.Machine.execEvictionComplete place s
  | .saveHeapZeroingDone place => Sys2Proof.Machine.execSaveHeapZeroingDone place s
  | .tileError place slot code addr => Sys2Proof.Machine.execTileError place slot code addr s
  | .tensorInstruction place slot t => Sys2Proof.Machine.execTensorInstruction place slot t s
  | .exactRowMerge place slot row addr store => Sys2Proof.Machine.execExactRowMerge place slot row addr store s
  | .rowRound place slot r => Sys2Proof.Machine.execRowRound place slot r s
  | .rowClear place slot row => Sys2Proof.Machine.execRowClear place slot row s
  | .vectorInstruction place slot v => Sys2Proof.Machine.execVectorInstruction place slot v s
  | .transcendentalInstruction place slot fn dst src => Sys2Proof.Machine.execTranscendentalInstruction place slot fn dst src s
  | .dmaDescriptor place slot engine src dst len atomic => Sys2Proof.Machine.execDmaDescriptor place slot engine src dst len atomic s
  | .kernelFenceWait place slot handle target dstValue dstStatus => Sys2Proof.Machine.execKernelFenceWait place slot handle target dstValue dstStatus s
  | .fenceReachedNotice place slot => Sys2Proof.Machine.execFenceReachedNotice place slot s
  | .kernelFenceSignal place slot handle v => Sys2Proof.Machine.execKernelFenceSignal place slot handle v s
  | .deviceDoorbell place slot berth v => Sys2Proof.Machine.execDeviceDoorbell place slot berth v s
  | .gangReduction place slot op v dst => Sys2Proof.Machine.execGangReduction place slot op v dst s
  | .gangBroadcast place slot root v dst => Sys2Proof.Machine.execGangBroadcast place slot root v dst s
  | .reductionResult l seq => Sys2Proof.Machine.execReductionResult l seq s
  | .setTag place slot tag base length => Sys2Proof.Machine.execSetTag place slot tag base length s
  | .clearTag place slot tag => Sys2Proof.Machine.execClearTag place slot tag s
  | .readSpecialScalar place slot n dst => Sys2Proof.Machine.execReadSpecialScalar place slot n dst s
  | .kernelExit place slot v => Sys2Proof.Machine.execKernelExit place slot v s
  | .kernelTrap place slot code => Sys2Proof.Machine.execKernelTrap place slot code s
  | .millLoadComplete mill entry crcOk => Sys2Proof.Machine.execMillLoadComplete mill entry crcOk s
  | .millRecord mill entry => Sys2Proof.Machine.execMillRecord mill entry s
  | .millScanEnd mill entry => Sys2Proof.Machine.execMillScanEnd mill entry s
  | .millListAccepted mill entry => Sys2Proof.Machine.execMillListAccepted mill entry s
  | .mergeComplete l => Sys2Proof.Machine.execMergeComplete l s
  | .millListReceive l idx lists => Sys2Proof.Machine.execMillListReceive l idx lists s
  | .millSlotSaved mill entry => Sys2Proof.Machine.execMillSlotSaved mill entry s
  | .millZeroingDone mill slot => Sys2Proof.Machine.execMillZeroingDone mill slot s
  | .millAbortDone mill entry => Sys2Proof.Machine.execMillAbortDone mill entry s
  | .dbSubmit m pasid berth v => Sys2Proof.Machine.execDbSubmit m pasid berth v s
  | .dbCplConsumed m pasid berth v => Sys2Proof.Machine.execDbCplConsumed m pasid berth v s
  | .dbCapConsumed m pasid berth v => Sys2Proof.Machine.execDbCapConsumed m pasid berth v s
  | .dbFenceSignal m pasid berth v => Sys2Proof.Machine.execDbFenceSignal m pasid berth v s
  | .wheelPosition pos => Sys2Proof.Machine.execWheelPosition pos s
  | .manifestFetch berth => Sys2Proof.Machine.execManifestFetch berth s
  | .berthEnable m berth v => Sys2Proof.Machine.execBerthEnable m berth v s
  | .berthDisable m berth v => Sys2Proof.Machine.execBerthDisable m berth v s
  | .berthStop m berth => Sys2Proof.Machine.execBerthStop m berth s
  | .berthAbort m berth => Sys2Proof.Machine.execBerthAbort m berth s
  | .ltQuotaWrite m j v => Sys2Proof.Machine.execLtQuotaWrite m j v s
  | .heartbeat => Sys2Proof.Machine.execHeartbeat s
  | .heartbeatLoss => Sys2Proof.Machine.execHeartbeatLoss s
  | .selfCheckReport => Sys2Proof.Machine.execSelfCheckReport s
  | .hmFailover => Sys2Proof.Machine.execHmFailover s
  | .hmLost standbyReady => Sys2Proof.Machine.execHmLost standbyReady s
  | .fenceSignalApply => Sys2Proof.Machine.execFenceSignalApply s
  | .hmFenceEvict m v => Sys2Proof.Machine.execHmFenceEvict m v s
  | .waitCycleApply => Sys2Proof.Machine.execWaitCycleApply s
  | .hmCycleAnswer m v => Sys2Proof.Machine.execHmCycleAnswer m v s
  | .patchApply l => Sys2Proof.Machine.execPatchApply l s
  | .hbReq m v => Sys2Proof.Machine.execHbReq m v s
  | .hbCancel m v => Sys2Proof.Machine.execHbCancel m v s
  | .rebindDrain j => Sys2Proof.Machine.execRebindDrain j s
  | .rebindSave j => Sys2Proof.Machine.execRebindSave j s
  | .rebindZeroDone j => Sys2Proof.Machine.execRebindZeroDone j s
  | .rebindTransferDone j => Sys2Proof.Machine.execRebindTransferDone j s
  | .rebindBump j => Sys2Proof.Machine.execRebindBump j s
  | .rebindRestore j => Sys2Proof.Machine.execRebindRestore j s
  | .rebindReleaseDone j => Sys2Proof.Machine.execRebindReleaseDone j s
  | .harbourCommit j => Sys2Proof.Machine.execHarbourCommit j s
  | .holdWaitExpire j => Sys2Proof.Machine.execHoldWaitExpire j s
  | .staleSpeaker source h gen => Sys2Proof.Machine.execStaleSpeaker source h gen s
  | .hbmRead r errs => Sys2Proof.Machine.execHbmRead r errs s
  | .hbmWrite r data poison errs => Sys2Proof.Machine.execHbmWrite r data poison errs s
  | .hbmAtomic r a errs => Sys2Proof.Machine.execHbmAtomic r a errs s
  | .correctedWriteback ch => Sys2Proof.Machine.execCorrectedWriteback ch s
  | .writtenBitsClearDone ch => Sys2Proof.Machine.execWrittenBitsClearDone ch s
  | .mcLevelWrite m ch v => Sys2Proof.Machine.execMcLevelWrite m ch v s
  | .remapInstall ch => Sys2Proof.Machine.execRemapInstall ch s
  | .mcRemapWrite m stack entry v => Sys2Proof.Machine.execMcRemapWrite m stack entry v s
  | .mcScrub m ch v => Sys2Proof.Machine.execMcScrub m ch v s
  | .scrubCancel m ch => Sys2Proof.Machine.execScrubCancel m ch s
  | .scrubDone ch errs => Sys2Proof.Machine.execScrubDone ch errs s
  | .mcIsetWrite m h set v => Sys2Proof.Machine.execMcIsetWrite m h set v s
  | .mcRetire m ch => Sys2Proof.Machine.execMcRetire m ch s
  | .translateWalk place slot engine => Sys2Proof.Machine.execTranslateWalk place slot engine s
  | .xlfConsWrite m pasid h v => Sys2Proof.Machine.execXlfConsWrite m pasid h v s
  | .xlfResume m pasid h v => Sys2Proof.Machine.execXlfResume m pasid h v s
  | .xlfAbort m pasid h v => Sys2Proof.Machine.execXlfAbort m pasid h v s
  | .invRange m pasid h v => Sys2Proof.Machine.execInvRange m pasid h v s
  | .invAsid m pasid h v => Sys2Proof.Machine.execInvAsid m pasid h v s
  | .invHarbour m pasid h v => Sys2Proof.Machine.execInvHarbour m pasid h v s
  | .invalidationComplete h => Sys2Proof.Machine.execInvalidationComplete h s
  | .urgencySample unit fill => Sys2Proof.Machine.execUrgencySample unit fill s
  | .regReserveWrite m regB h v => Sys2Proof.Machine.execRegReserveWrite m regB h v s
  | .hbSliceWrite m slice word v => Sys2Proof.Machine.execHbSliceWrite m slice word v s
  | .linkUp port partner us credits => Sys2Proof.Machine.execLinkUp port partner us credits s
  | .trainingTimeout port => Sys2Proof.Machine.execTrainingTimeout port s
  | .retrainComplete port us ok => Sys2Proof.Machine.execRetrainComplete port us ok s
  | .lossOfLight port => Sys2Proof.Machine.execLossOfLight port s
  | .downRetry port => Sys2Proof.Machine.execDownRetry port s
  | .wakePattern port => Sys2Proof.Machine.execWakePattern port s
  | .flitReceive lg f fec tagOk => Sys2Proof.Machine.execFlitReceive lg f fec tagOk s
  | .ackControlFlit lg => Sys2Proof.Machine.execAckControlFlit lg s
  | .keyPhaseChange lg => Sys2Proof.Machine.execKeyPhaseChange lg s
  | .read node t => Sys2Proof.Machine.execRead node t s
  | .write node t data poison => Sys2Proof.Machine.execWrite node t data poison s
  | .atomic node t a => Sys2Proof.Machine.execAtomic node t a s
  | .readResp tag status data poison => Sys2Proof.Machine.execReadResp tag status data poison s
  | .writeAck tag status => Sys2Proof.Machine.execWriteAck tag status s
  | .atomicResp tag status v => Sys2Proof.Machine.execAtomicResp tag status v s
  | .message node mailbox words => Sys2Proof.Machine.execMessage node mailbox words s
  | .signal node item => Sys2Proof.Machine.execSignal node item s
  | .streamAck node vc seq => Sys2Proof.Machine.execStreamAck node vc seq s
  | .remoteResendTimeout node vc => Sys2Proof.Machine.execRemoteResendTimeout node vc s
  | .move node m => Sys2Proof.Machine.execMove node m s
  | .give node m => Sys2Proof.Machine.execGive node m s
  | .stateCopyComplete stateId => Sys2Proof.Machine.execStateCopyComplete stateId s
  | .take node m => Sys2Proof.Machine.execTake node m s
  | .ack node m => Sys2Proof.Machine.execAck node m s
  | .renew node m => Sys2Proof.Machine.execRenew node m s
  | .renewAck node m => Sys2Proof.Machine.execRenewAck node m s
  | .query node m => Sys2Proof.Machine.execQuery node m s
  | .answer node m => Sys2Proof.Machine.execAnswer node m s
  | .revoke node m => Sys2Proof.Machine.execRevoke node m s
  | .restore node m => Sys2Proof.Machine.execRestore node m s
  | .stateReplay stateId => Sys2Proof.Machine.execStateReplay stateId s
  | .ckpt node m => Sys2Proof.Machine.execCkpt node m s
  | .ckptAck node m => Sys2Proof.Machine.execCkptAck node m s
  | .handoverQuery stateId => Sys2Proof.Machine.execHandoverQuery stateId s
  | .leaseExpired stateId newHolder => Sys2Proof.Machine.execLeaseExpired stateId newHolder s
  | .orphaned stateId => Sys2Proof.Machine.execOrphaned stateId s
  | .lkRoleReq m v => Sys2Proof.Machine.execLkRoleReq m v s
  | .roleShift => Sys2Proof.Machine.execRoleShift s
  | .lkpRetrain m port => Sys2Proof.Machine.execLkpRetrain m port s
  | .lkpDisable m port v => Sys2Proof.Machine.execLkpDisable m port v s
  | .lkNodeWrite m node epoch => Sys2Proof.Machine.execLkNodeWrite m node epoch s
  | .pwCmdIdle m => Sys2Proof.Machine.execPwCmdIdle m s
  | .pwCmdWatch m => Sys2Proof.Machine.execPwCmdWatch m s
  | .pwCmdHold m => Sys2Proof.Machine.execPwCmdHold m s
  | .pwCmdActive m => Sys2Proof.Machine.execPwCmdActive m s
  | .lowpowerEntryDone => Sys2Proof.Machine.execLowpowerEntryDone s
  | .wakeN => Sys2Proof.Machine.execWakeN s
  | .idleWakeTraffic => Sys2Proof.Machine.execIdleWakeTraffic s
  | .resumeDone crcOk => Sys2Proof.Machine.execResumeDone crcOk s
  | .watchSample ms samples => Sys2Proof.Machine.execWatchSample ms samples s
  | .avsRequest rail mv => Sys2Proof.Machine.execAvsRequest rail mv s
  | .avsStatusPoll rail ackCode vdone => Sys2Proof.Machine.execAvsStatusPoll rail ackCode vdone s
  | .avsTimeout rail => Sys2Proof.Machine.execAvsTimeout rail s
  | .pwBudgetWrite m v => Sys2Proof.Machine.execPwBudgetWrite m v s
  | .pwHsubWrite m j v => Sys2Proof.Machine.execPwHsubWrite m j v s
  | .boostUpdate => Sys2Proof.Machine.execBoostUpdate s
  | .droop region => Sys2Proof.Machine.execDroop region s
  | .brownWarn => Sys2Proof.Machine.execBrownWarn s
  | .brownRecover => Sys2Proof.Machine.execBrownRecover s
  | .brownHoldEnd => Sys2Proof.Machine.execBrownHoldEnd s
  | .thermWarn sensor temp => Sys2Proof.Machine.execThermWarn sensor temp s
  | .thermThrottle sensor temp => Sys2Proof.Machine.execThermThrottle sensor temp s
  | .throttleRelease die => Sys2Proof.Machine.execThrottleRelease die s
  | .thermTrip sensor temp => Sys2Proof.Machine.execThermTrip sensor temp s
  | .marginMeasure => Sys2Proof.Machine.execMarginMeasure s
  | .marginReplan least fabric => Sys2Proof.Machine.execMarginReplan least fabric s
  | .pwGateWrite m v => Sys2Proof.Machine.execPwGateWrite m v s
  | .ungateComplete cluster => Sys2Proof.Machine.execUngateComplete cluster s
  | .pwPolicyWrite m v => Sys2Proof.Machine.execPwPolicyWrite m v s
  | .livenessCheck missing => Sys2Proof.Machine.execLivenessCheck missing s
  | .slotWatchdog unit slot => Sys2Proof.Machine.execSlotWatchdog unit slot s
  | .unitSelfCheckFail unit => Sys2Proof.Machine.execUnitSelfCheckFail unit s
  | .tlReset m tile => Sys2Proof.Machine.execTlReset m tile s
  | .tlClusterReset m tile => Sys2Proof.Machine.execTlClusterReset m tile s
  | .tlSubstitute m tile => Sys2Proof.Machine.execTlSubstitute m tile s
  | .tlRetire m tile => Sys2Proof.Machine.execTlRetire m tile s
  | .tlFail m tile => Sys2Proof.Machine.execTlFail m tile s
  | .tileResetComplete tile => Sys2Proof.Machine.execTileResetComplete tile s
  | .clusterResetTimeout cluster => Sys2Proof.Machine.execClusterResetTimeout cluster s
  | .spareIn place => Sys2Proof.Machine.execSpareIn place s
  | .placeResume place => Sys2Proof.Machine.execPlaceResume place s
  | .channelControllerFail ch cause => Sys2Proof.Machine.execChannelControllerFail ch cause s
  | .millFail mill cause => Sys2Proof.Machine.execMillFail mill cause s
  | .bridgeDegrade working => Sys2Proof.Machine.execBridgeDegrade working s
  | .tamper cause => Sys2Proof.Machine.execTamper cause s
  | .battLow mv => Sys2Proof.Machine.execBattLow mv s
  | .scKeyupd m v => Sys2Proof.Machine.execScKeyupd m v s
  | .keyUpdate c => Sys2Proof.Machine.execKeyUpdate c s
  | .getVersion => Sys2Proof.Machine.execGetVersion s
  | .getCapabilities => Sys2Proof.Machine.execGetCapabilities s
  | .negotiateAlgorithms ok => Sys2Proof.Machine.execNegotiateAlgorithms ok s
  | .getMeasurements index => Sys2Proof.Machine.execGetMeasurements index s
  | .spdmOtherRequest r => Sys2Proof.Machine.execSpdmOtherRequest r s
  | .keyProg link stream set => Sys2Proof.Machine.execKeyProg link stream set s
  | .kSetGo link stream set => Sys2Proof.Machine.execKSetGo link stream set s
  | .kSetStop link stream set => Sys2Proof.Machine.execKSetStop link stream set s
  | .ideInsecure link stream => Sys2Proof.Machine.execIdeInsecure link stream s
  | .bar2Read func offset len secure => Sys2Proof.Machine.execBar2Read func offset len secure s
  | .bar2Write func offset data poison secure => Sys2Proof.Machine.execBar2Write func offset data poison secure s
  | .pcieCompletion req status data poison => Sys2Proof.Machine.execPcieCompletion req status data poison s
  | .pcieCompletionTimeout req => Sys2Proof.Machine.execPcieCompletionTimeout req s
  | .msixUnmask func vector => Sys2Proof.Machine.execMsixUnmask func vector s
  | .ctxCreate c => Sys2Proof.Machine.execCtxCreate c s
  | .ctxDestroy c => Sys2Proof.Machine.execCtxDestroy c s
  | .memCreate c => Sys2Proof.Machine.execMemCreate c s
  | .memRelease c => Sys2Proof.Machine.execMemRelease c s
  | .memExport c => Sys2Proof.Machine.execMemExport c s
  | .memImport c => Sys2Proof.Machine.execMemImport c s
  | .memPin c => Sys2Proof.Machine.execMemPin c s
  | .memUnpin c => Sys2Proof.Machine.execMemUnpin c s
  | .map c => Sys2Proof.Machine.execMap c s
  | .mapHost c => Sys2Proof.Machine.execMapHost c s
  | .unmap c => Sys2Proof.Machine.execUnmap c s
  | .barMap c => Sys2Proof.Machine.execBarMap c s
  | .fenceCreate c => Sys2Proof.Machine.execFenceCreate c s
  | .fenceExport c => Sys2Proof.Machine.execFenceExport c s
  | .fenceImport c => Sys2Proof.Machine.execFenceImport c s
  | .fenceDestroy c => Sys2Proof.Machine.execFenceDestroy c s
  | .fenceMirror c => Sys2Proof.Machine.execFenceMirror c s
  | .berthCreate c => Sys2Proof.Machine.execBerthCreate c s
  | .berthDestroy c => Sys2Proof.Machine.execBerthDestroy c s
  | .eventBind c => Sys2Proof.Machine.execEventBind c s
  | .eventUnbind c => Sys2Proof.Machine.execEventUnbind c s
  | .graphRegister c => Sys2Proof.Machine.execGraphRegister c s
  | .graphUnregister c => Sys2Proof.Machine.execGraphUnregister c s
  | .stateCreate c => Sys2Proof.Machine.execStateCreate c s
  | .stateMove c => Sys2Proof.Machine.execStateMove c s
  | .phaseEnd c => Sys2Proof.Machine.execPhaseEnd c s
  | .stateDestroy c => Sys2Proof.Machine.execStateDestroy c s
  | .teardownQuiesced asid => Sys2Proof.Machine.execTeardownQuiesced asid s
  | .ctxTeardown asid => Sys2Proof.Machine.execCtxTeardown asid s
  | .functionLevelReset func => Sys2Proof.Machine.execFunctionLevelReset func s
  | .hostLinkDown link => Sys2Proof.Machine.execHostLinkDown link s
  | .linkDownGraceExpire link => Sys2Proof.Machine.execLinkDownGraceExpire link s
  | .cfFuncModeWrite m v => Sys2Proof.Machine.execCfFuncModeWrite m v s
  | .startupBegin fresh => Sys2Proof.Machine.execStartupBegin fresh s
  | .imageAccept => Sys2Proof.Machine.execImageAccept s
  | .startDone t => Sys2Proof.Machine.execStartDone t s
  | .startupStop code record => Sys2Proof.Machine.execStartupStop code record s
  | .svnFuseBlow => Sys2Proof.Machine.execSvnFuseBlow s
  | .perstNDeassert widths => Sys2Proof.Machine.execPerstNDeassert widths s
  | .modRstN asserted => Sys2Proof.Machine.execModRstN asserted s
  | .freezeN asserted => Sys2Proof.Machine.execFreezeN asserted s
  | .dbFreezeSoft m v => Sys2Proof.Machine.execDbFreezeSoft m v s
  | .dumpFrame => Sys2Proof.Machine.execDumpFrame s
  | .tapDump => Sys2Proof.Machine.execTapDump s
  | .tapExtest => Sys2Proof.Machine.execTapExtest s
  | .tapIdcode => Sys2Proof.Machine.execTapIdcode s
  | .tapBypass => Sys2Proof.Machine.execTapBypass s
  | .tapSamplePreload => Sys2Proof.Machine.execTapSamplePreload s
  | .supplyReset => Sys2Proof.Machine.execSupplyReset s
  | .pgFault => Sys2Proof.Machine.execPgFault s
  | .mateOpen contact => Sys2Proof.Machine.execMateOpen contact s
  | .crcPassEnd => Sys2Proof.Machine.execCrcPassEnd s
  | .crcRefWrite m v => Sys2Proof.Machine.execCrcRefWrite m v s
  | .crcAdopt m => Sys2Proof.Machine.execCrcAdopt m s
  | .registerWrite m a => Sys2Proof.Machine.execRegisterWrite m a s
  | .hostLinkReturn link width speed => Sys2Proof.Machine.execHostLinkReturn link width speed s
  | .wakePatternSend port => Sys2Proof.Machine.execWakePatternSend port s
  | .streamAckSend node vc => Sys2Proof.Machine.execStreamAckSend node vc s
  | .scalarInstruction place slot op => Sys2Proof.Machine.execScalarInstruction place slot op s
  | .fabricDomainFailure => Sys2Proof.Machine.execFabricDomainFailure s
  | .holdFailure place => Sys2Proof.Machine.execHoldFailure place s
  | .holdOrLocalStoreRequest place slot r => Sys2Proof.Machine.execHoldOrLocalStoreRequest place slot r s
  | .marginFlashWriteDone ok => Sys2Proof.Machine.execMarginFlashWriteDone ok s
  | .powerGoodChange group good => Sys2Proof.Machine.execPowerGoodChange group good s

end Sys2Proof.Machine
end

