-- ==== Sys2Proof/Laws/State.lean ====
section
/-! SUPPORT. What every update of one block of the state leaves and sets, one lemma per field, so that no proof unfolds a
record update; and what the tables answer after a write. -/
namespace Sys2Proof
open Sys2Proof

/-! Tables -/

/-- A written entry is found. -/
@[simp] theorem tabFind_tabPut_same {α : Type} (t : Tab α) (k : Nat) (v : α) : tabFind (tabPut t k v) k = some v := by
  induction t with
  | nil => simp [tabPut, tabFind]
  | cons x t ih =>
    obtain ⟨j, w⟩ := x
    simp only [tabPut]
    split
    · simp [tabFind]
    · split
      · simp [tabFind]
      · rename_i h
        simp [tabFind, Ne.symm h, ih]

/-- A write leaves every other entry. -/
theorem tabFind_tabPut_other {α : Type} (t : Tab α) (k i : Nat) (v : α) (h : i ≠ k) :
    tabFind (tabPut t k v) i = tabFind t i := by
  induction t with
  | nil => simp [tabPut, tabFind, Ne.symm h]
  | cons x t ih =>
    obtain ⟨j, w⟩ := x
    simp only [tabPut]
    split
    · simp [tabFind, Ne.symm h]
    · split
      · rename_i e
        simp [tabFind, ← e, Ne.symm h]
      · simp only [tabFind, ih]

/-- A written entry reads as written. -/
@[simp] theorem tabGet_tabPut_same {α : Type} (d : α) (t : Tab α) (k : Nat) (v : α) : tabGet d (tabPut t k v) k = v := by
  simp [tabGet]

/-- A write leaves what every other number reads as. -/
theorem tabGet_tabPut_other {α : Type} (d : α) (t : Tab α) (k i : Nat) (v : α) (h : i ≠ k) :
    tabGet d (tabPut t k v) i = tabGet d t i := by
  simp [tabGet, tabFind_tabPut_other t k i v h]

/-- A changed entry reads as changed. -/
@[simp] theorem tabGet_tabMod_same {α : Type} (d : α) (t : Tab α) (k : Nat) (f : α → α) :
    tabGet d (tabMod d t k f) k = f (tabGet d t k) := by
  simp [tabMod]

/-- A change leaves what every other number reads as. -/
theorem tabGet_tabMod_other {α : Type} (d : α) (t : Tab α) (k i : Nat) (f : α → α) (h : i ≠ k) :
    tabGet d (tabMod d t k f) i = tabGet d t i :=
  tabGet_tabPut_other d t k i _ h

namespace Machine

/-! Updates of one block -/

@[simp] theorem State.onTide_part (g : Tide → Tide) (s : State) : (s.onTide g).part = s.part := rfl
@[simp] theorem State.onTide_disabled (g : Tide → Tide) (s : State) : (s.onTide g).disabled = s.disabled := rfl
@[simp] theorem State.onTide_uid (g : Tide → Tide) (s : State) : (s.onTide g).uid = s.uid := rfl
@[simp] theorem State.onTide_formats (g : Tide → Tide) (s : State) : (s.onTide g).formats = s.formats := rfl
@[simp] theorem State.onTide_frenor (g : Tide → Tide) (s : State) : (s.onTide g).frenor = s.frenor := rfl
@[simp] theorem State.onTide_tide (g : Tide → Tide) (s : State) : (s.onTide g).tide = g s.tide := rfl
@[simp] theorem State.onTide_places (g : Tide → Tide) (s : State) : (s.onTide g).places = s.places := rfl
@[simp] theorem State.onTide_tiles (g : Tide → Tide) (s : State) : (s.onTide g).tiles = s.tiles := rfl
@[simp] theorem State.onTide_clusters (g : Tide → Tide) (s : State) : (s.onTide g).clusters = s.clusters := rfl
@[simp] theorem State.onTide_hm (g : Tide → Tide) (s : State) : (s.onTide g).hm = s.hm := rfl
@[simp] theorem State.onTide_berths (g : Tide → Tide) (s : State) : (s.onTide g).berths = s.berths := rfl
@[simp] theorem State.onTide_fu (g : Tide → Tide) (s : State) : (s.onTide g).fu = s.fu := rfl
@[simp] theorem State.onTide_graphs (g : Tide → Tide) (s : State) : (s.onTide g).graphs = s.graphs := rfl
@[simp] theorem State.onTide_hb (g : Tide → Tide) (s : State) : (s.onTide g).hb = s.hb := rfl
@[simp] theorem State.onTide_mills (g : Tide → Tide) (s : State) : (s.onTide g).mills = s.mills := rfl
@[simp] theorem State.onTide_scans (g : Tide → Tide) (s : State) : (s.onTide g).scans = s.scans := rfl
@[simp] theorem State.onTide_mergeHalves (g : Tide → Tide) (s : State) : (s.onTide g).mergeHalves = s.mergeHalves := rfl
@[simp] theorem State.onTide_mem (g : Tide → Tide) (s : State) : (s.onTide g).mem = s.mem := rfl
@[simp] theorem State.onTide_xl (g : Tide → Tide) (s : State) : (s.onTide g).xl = s.xl := rfl
@[simp] theorem State.onTide_rg (g : Tide → Tide) (s : State) : (s.onTide g).rg = s.rg := rfl
@[simp] theorem State.onTide_lk (g : Tide → Tide) (s : State) : (s.onTide g).lk = s.lk := rfl
@[simp] theorem State.onTide_pw (g : Tide → Tide) (s : State) : (s.onTide g).pw = s.pw := rfl
@[simp] theorem State.onTide_ras (g : Tide → Tide) (s : State) : (s.onTide g).ras = s.ras := rfl
@[simp] theorem State.onTide_sec (g : Tide → Tide) (s : State) : (s.onTide g).sec = s.sec := rfl
@[simp] theorem State.onTide_hif (g : Tide → Tide) (s : State) : (s.onTide g).hif = s.hif := rfl
@[simp] theorem State.onTide_boot (g : Tide → Tide) (s : State) : (s.onTide g).boot = s.boot := rfl
@[simp] theorem State.onTide_crc (g : Tide → Tide) (s : State) : (s.onTide g).crc = s.crc := rfl
@[simp] theorem State.onTide_pins (g : Tide → Tide) (s : State) : (s.onTide g).pins = s.pins := rfl
@[simp] theorem State.onTide_out (g : Tide → Tide) (s : State) : (s.onTide g).out = s.out := rfl
@[simp] theorem State.onTide_freeTick (g : Tide → Tide) (s : State) : (s.onTide g).freeTick = s.freeTick := rfl
@[simp] theorem State.onTide_pending (g : Tide → Tide) (s : State) : (s.onTide g).pending = s.pending := rfl
@[simp] theorem State.onHm_part (g : Hm → Hm) (s : State) : (s.onHm g).part = s.part := rfl
@[simp] theorem State.onHm_disabled (g : Hm → Hm) (s : State) : (s.onHm g).disabled = s.disabled := rfl
@[simp] theorem State.onHm_uid (g : Hm → Hm) (s : State) : (s.onHm g).uid = s.uid := rfl
@[simp] theorem State.onHm_formats (g : Hm → Hm) (s : State) : (s.onHm g).formats = s.formats := rfl
@[simp] theorem State.onHm_frenor (g : Hm → Hm) (s : State) : (s.onHm g).frenor = s.frenor := rfl
@[simp] theorem State.onHm_tide (g : Hm → Hm) (s : State) : (s.onHm g).tide = s.tide := rfl
@[simp] theorem State.onHm_places (g : Hm → Hm) (s : State) : (s.onHm g).places = s.places := rfl
@[simp] theorem State.onHm_tiles (g : Hm → Hm) (s : State) : (s.onHm g).tiles = s.tiles := rfl
@[simp] theorem State.onHm_clusters (g : Hm → Hm) (s : State) : (s.onHm g).clusters = s.clusters := rfl
@[simp] theorem State.onHm_hm (g : Hm → Hm) (s : State) : (s.onHm g).hm = g s.hm := rfl
@[simp] theorem State.onHm_berths (g : Hm → Hm) (s : State) : (s.onHm g).berths = s.berths := rfl
@[simp] theorem State.onHm_fu (g : Hm → Hm) (s : State) : (s.onHm g).fu = s.fu := rfl
@[simp] theorem State.onHm_graphs (g : Hm → Hm) (s : State) : (s.onHm g).graphs = s.graphs := rfl
@[simp] theorem State.onHm_hb (g : Hm → Hm) (s : State) : (s.onHm g).hb = s.hb := rfl
@[simp] theorem State.onHm_mills (g : Hm → Hm) (s : State) : (s.onHm g).mills = s.mills := rfl
@[simp] theorem State.onHm_scans (g : Hm → Hm) (s : State) : (s.onHm g).scans = s.scans := rfl
@[simp] theorem State.onHm_mergeHalves (g : Hm → Hm) (s : State) : (s.onHm g).mergeHalves = s.mergeHalves := rfl
@[simp] theorem State.onHm_mem (g : Hm → Hm) (s : State) : (s.onHm g).mem = s.mem := rfl
@[simp] theorem State.onHm_xl (g : Hm → Hm) (s : State) : (s.onHm g).xl = s.xl := rfl
@[simp] theorem State.onHm_rg (g : Hm → Hm) (s : State) : (s.onHm g).rg = s.rg := rfl
@[simp] theorem State.onHm_lk (g : Hm → Hm) (s : State) : (s.onHm g).lk = s.lk := rfl
@[simp] theorem State.onHm_pw (g : Hm → Hm) (s : State) : (s.onHm g).pw = s.pw := rfl
@[simp] theorem State.onHm_ras (g : Hm → Hm) (s : State) : (s.onHm g).ras = s.ras := rfl
@[simp] theorem State.onHm_sec (g : Hm → Hm) (s : State) : (s.onHm g).sec = s.sec := rfl
@[simp] theorem State.onHm_hif (g : Hm → Hm) (s : State) : (s.onHm g).hif = s.hif := rfl
@[simp] theorem State.onHm_boot (g : Hm → Hm) (s : State) : (s.onHm g).boot = s.boot := rfl
@[simp] theorem State.onHm_crc (g : Hm → Hm) (s : State) : (s.onHm g).crc = s.crc := rfl
@[simp] theorem State.onHm_pins (g : Hm → Hm) (s : State) : (s.onHm g).pins = s.pins := rfl
@[simp] theorem State.onHm_out (g : Hm → Hm) (s : State) : (s.onHm g).out = s.out := rfl
@[simp] theorem State.onHm_freeTick (g : Hm → Hm) (s : State) : (s.onHm g).freeTick = s.freeTick := rfl
@[simp] theorem State.onHm_pending (g : Hm → Hm) (s : State) : (s.onHm g).pending = s.pending := rfl
@[simp] theorem State.onFu_part (g : FenceUnit → FenceUnit) (s : State) : (s.onFu g).part = s.part := rfl
@[simp] theorem State.onFu_disabled (g : FenceUnit → FenceUnit) (s : State) : (s.onFu g).disabled = s.disabled := rfl
@[simp] theorem State.onFu_uid (g : FenceUnit → FenceUnit) (s : State) : (s.onFu g).uid = s.uid := rfl
@[simp] theorem State.onFu_formats (g : FenceUnit → FenceUnit) (s : State) : (s.onFu g).formats = s.formats := rfl
@[simp] theorem State.onFu_frenor (g : FenceUnit → FenceUnit) (s : State) : (s.onFu g).frenor = s.frenor := rfl
@[simp] theorem State.onFu_tide (g : FenceUnit → FenceUnit) (s : State) : (s.onFu g).tide = s.tide := rfl
@[simp] theorem State.onFu_places (g : FenceUnit → FenceUnit) (s : State) : (s.onFu g).places = s.places := rfl
@[simp] theorem State.onFu_tiles (g : FenceUnit → FenceUnit) (s : State) : (s.onFu g).tiles = s.tiles := rfl
@[simp] theorem State.onFu_clusters (g : FenceUnit → FenceUnit) (s : State) : (s.onFu g).clusters = s.clusters := rfl
@[simp] theorem State.onFu_hm (g : FenceUnit → FenceUnit) (s : State) : (s.onFu g).hm = s.hm := rfl
@[simp] theorem State.onFu_berths (g : FenceUnit → FenceUnit) (s : State) : (s.onFu g).berths = s.berths := rfl
@[simp] theorem State.onFu_fu (g : FenceUnit → FenceUnit) (s : State) : (s.onFu g).fu = g s.fu := rfl
@[simp] theorem State.onFu_graphs (g : FenceUnit → FenceUnit) (s : State) : (s.onFu g).graphs = s.graphs := rfl
@[simp] theorem State.onFu_hb (g : FenceUnit → FenceUnit) (s : State) : (s.onFu g).hb = s.hb := rfl
@[simp] theorem State.onFu_mills (g : FenceUnit → FenceUnit) (s : State) : (s.onFu g).mills = s.mills := rfl
@[simp] theorem State.onFu_scans (g : FenceUnit → FenceUnit) (s : State) : (s.onFu g).scans = s.scans := rfl
@[simp] theorem State.onFu_mergeHalves (g : FenceUnit → FenceUnit) (s : State) : (s.onFu g).mergeHalves = s.mergeHalves := rfl
@[simp] theorem State.onFu_mem (g : FenceUnit → FenceUnit) (s : State) : (s.onFu g).mem = s.mem := rfl
@[simp] theorem State.onFu_xl (g : FenceUnit → FenceUnit) (s : State) : (s.onFu g).xl = s.xl := rfl
@[simp] theorem State.onFu_rg (g : FenceUnit → FenceUnit) (s : State) : (s.onFu g).rg = s.rg := rfl
@[simp] theorem State.onFu_lk (g : FenceUnit → FenceUnit) (s : State) : (s.onFu g).lk = s.lk := rfl
@[simp] theorem State.onFu_pw (g : FenceUnit → FenceUnit) (s : State) : (s.onFu g).pw = s.pw := rfl
@[simp] theorem State.onFu_ras (g : FenceUnit → FenceUnit) (s : State) : (s.onFu g).ras = s.ras := rfl
@[simp] theorem State.onFu_sec (g : FenceUnit → FenceUnit) (s : State) : (s.onFu g).sec = s.sec := rfl
@[simp] theorem State.onFu_hif (g : FenceUnit → FenceUnit) (s : State) : (s.onFu g).hif = s.hif := rfl
@[simp] theorem State.onFu_boot (g : FenceUnit → FenceUnit) (s : State) : (s.onFu g).boot = s.boot := rfl
@[simp] theorem State.onFu_crc (g : FenceUnit → FenceUnit) (s : State) : (s.onFu g).crc = s.crc := rfl
@[simp] theorem State.onFu_pins (g : FenceUnit → FenceUnit) (s : State) : (s.onFu g).pins = s.pins := rfl
@[simp] theorem State.onFu_out (g : FenceUnit → FenceUnit) (s : State) : (s.onFu g).out = s.out := rfl
@[simp] theorem State.onFu_freeTick (g : FenceUnit → FenceUnit) (s : State) : (s.onFu g).freeTick = s.freeTick := rfl
@[simp] theorem State.onFu_pending (g : FenceUnit → FenceUnit) (s : State) : (s.onFu g).pending = s.pending := rfl
@[simp] theorem State.onHb_part (g : HarbourMap → HarbourMap) (s : State) : (s.onHb g).part = s.part := rfl
@[simp] theorem State.onHb_disabled (g : HarbourMap → HarbourMap) (s : State) : (s.onHb g).disabled = s.disabled := rfl
@[simp] theorem State.onHb_uid (g : HarbourMap → HarbourMap) (s : State) : (s.onHb g).uid = s.uid := rfl
@[simp] theorem State.onHb_formats (g : HarbourMap → HarbourMap) (s : State) : (s.onHb g).formats = s.formats := rfl
@[simp] theorem State.onHb_frenor (g : HarbourMap → HarbourMap) (s : State) : (s.onHb g).frenor = s.frenor := rfl
@[simp] theorem State.onHb_tide (g : HarbourMap → HarbourMap) (s : State) : (s.onHb g).tide = s.tide := rfl
@[simp] theorem State.onHb_places (g : HarbourMap → HarbourMap) (s : State) : (s.onHb g).places = s.places := rfl
@[simp] theorem State.onHb_tiles (g : HarbourMap → HarbourMap) (s : State) : (s.onHb g).tiles = s.tiles := rfl
@[simp] theorem State.onHb_clusters (g : HarbourMap → HarbourMap) (s : State) : (s.onHb g).clusters = s.clusters := rfl
@[simp] theorem State.onHb_hm (g : HarbourMap → HarbourMap) (s : State) : (s.onHb g).hm = s.hm := rfl
@[simp] theorem State.onHb_berths (g : HarbourMap → HarbourMap) (s : State) : (s.onHb g).berths = s.berths := rfl
@[simp] theorem State.onHb_fu (g : HarbourMap → HarbourMap) (s : State) : (s.onHb g).fu = s.fu := rfl
@[simp] theorem State.onHb_graphs (g : HarbourMap → HarbourMap) (s : State) : (s.onHb g).graphs = s.graphs := rfl
@[simp] theorem State.onHb_hb (g : HarbourMap → HarbourMap) (s : State) : (s.onHb g).hb = g s.hb := rfl
@[simp] theorem State.onHb_mills (g : HarbourMap → HarbourMap) (s : State) : (s.onHb g).mills = s.mills := rfl
@[simp] theorem State.onHb_scans (g : HarbourMap → HarbourMap) (s : State) : (s.onHb g).scans = s.scans := rfl
@[simp] theorem State.onHb_mergeHalves (g : HarbourMap → HarbourMap) (s : State) : (s.onHb g).mergeHalves = s.mergeHalves := rfl
@[simp] theorem State.onHb_mem (g : HarbourMap → HarbourMap) (s : State) : (s.onHb g).mem = s.mem := rfl
@[simp] theorem State.onHb_xl (g : HarbourMap → HarbourMap) (s : State) : (s.onHb g).xl = s.xl := rfl
@[simp] theorem State.onHb_rg (g : HarbourMap → HarbourMap) (s : State) : (s.onHb g).rg = s.rg := rfl
@[simp] theorem State.onHb_lk (g : HarbourMap → HarbourMap) (s : State) : (s.onHb g).lk = s.lk := rfl
@[simp] theorem State.onHb_pw (g : HarbourMap → HarbourMap) (s : State) : (s.onHb g).pw = s.pw := rfl
@[simp] theorem State.onHb_ras (g : HarbourMap → HarbourMap) (s : State) : (s.onHb g).ras = s.ras := rfl
@[simp] theorem State.onHb_sec (g : HarbourMap → HarbourMap) (s : State) : (s.onHb g).sec = s.sec := rfl
@[simp] theorem State.onHb_hif (g : HarbourMap → HarbourMap) (s : State) : (s.onHb g).hif = s.hif := rfl
@[simp] theorem State.onHb_boot (g : HarbourMap → HarbourMap) (s : State) : (s.onHb g).boot = s.boot := rfl
@[simp] theorem State.onHb_crc (g : HarbourMap → HarbourMap) (s : State) : (s.onHb g).crc = s.crc := rfl
@[simp] theorem State.onHb_pins (g : HarbourMap → HarbourMap) (s : State) : (s.onHb g).pins = s.pins := rfl
@[simp] theorem State.onHb_out (g : HarbourMap → HarbourMap) (s : State) : (s.onHb g).out = s.out := rfl
@[simp] theorem State.onHb_freeTick (g : HarbourMap → HarbourMap) (s : State) : (s.onHb g).freeTick = s.freeTick := rfl
@[simp] theorem State.onHb_pending (g : HarbourMap → HarbourMap) (s : State) : (s.onHb g).pending = s.pending := rfl
@[simp] theorem State.onMem_part (g : Memory → Memory) (s : State) : (s.onMem g).part = s.part := rfl
@[simp] theorem State.onMem_disabled (g : Memory → Memory) (s : State) : (s.onMem g).disabled = s.disabled := rfl
@[simp] theorem State.onMem_uid (g : Memory → Memory) (s : State) : (s.onMem g).uid = s.uid := rfl
@[simp] theorem State.onMem_formats (g : Memory → Memory) (s : State) : (s.onMem g).formats = s.formats := rfl
@[simp] theorem State.onMem_frenor (g : Memory → Memory) (s : State) : (s.onMem g).frenor = s.frenor := rfl
@[simp] theorem State.onMem_tide (g : Memory → Memory) (s : State) : (s.onMem g).tide = s.tide := rfl
@[simp] theorem State.onMem_places (g : Memory → Memory) (s : State) : (s.onMem g).places = s.places := rfl
@[simp] theorem State.onMem_tiles (g : Memory → Memory) (s : State) : (s.onMem g).tiles = s.tiles := rfl
@[simp] theorem State.onMem_clusters (g : Memory → Memory) (s : State) : (s.onMem g).clusters = s.clusters := rfl
@[simp] theorem State.onMem_hm (g : Memory → Memory) (s : State) : (s.onMem g).hm = s.hm := rfl
@[simp] theorem State.onMem_berths (g : Memory → Memory) (s : State) : (s.onMem g).berths = s.berths := rfl
@[simp] theorem State.onMem_fu (g : Memory → Memory) (s : State) : (s.onMem g).fu = s.fu := rfl
@[simp] theorem State.onMem_graphs (g : Memory → Memory) (s : State) : (s.onMem g).graphs = s.graphs := rfl
@[simp] theorem State.onMem_hb (g : Memory → Memory) (s : State) : (s.onMem g).hb = s.hb := rfl
@[simp] theorem State.onMem_mills (g : Memory → Memory) (s : State) : (s.onMem g).mills = s.mills := rfl
@[simp] theorem State.onMem_scans (g : Memory → Memory) (s : State) : (s.onMem g).scans = s.scans := rfl
@[simp] theorem State.onMem_mergeHalves (g : Memory → Memory) (s : State) : (s.onMem g).mergeHalves = s.mergeHalves := rfl
@[simp] theorem State.onMem_mem (g : Memory → Memory) (s : State) : (s.onMem g).mem = g s.mem := rfl
@[simp] theorem State.onMem_xl (g : Memory → Memory) (s : State) : (s.onMem g).xl = s.xl := rfl
@[simp] theorem State.onMem_rg (g : Memory → Memory) (s : State) : (s.onMem g).rg = s.rg := rfl
@[simp] theorem State.onMem_lk (g : Memory → Memory) (s : State) : (s.onMem g).lk = s.lk := rfl
@[simp] theorem State.onMem_pw (g : Memory → Memory) (s : State) : (s.onMem g).pw = s.pw := rfl
@[simp] theorem State.onMem_ras (g : Memory → Memory) (s : State) : (s.onMem g).ras = s.ras := rfl
@[simp] theorem State.onMem_sec (g : Memory → Memory) (s : State) : (s.onMem g).sec = s.sec := rfl
@[simp] theorem State.onMem_hif (g : Memory → Memory) (s : State) : (s.onMem g).hif = s.hif := rfl
@[simp] theorem State.onMem_boot (g : Memory → Memory) (s : State) : (s.onMem g).boot = s.boot := rfl
@[simp] theorem State.onMem_crc (g : Memory → Memory) (s : State) : (s.onMem g).crc = s.crc := rfl
@[simp] theorem State.onMem_pins (g : Memory → Memory) (s : State) : (s.onMem g).pins = s.pins := rfl
@[simp] theorem State.onMem_out (g : Memory → Memory) (s : State) : (s.onMem g).out = s.out := rfl
@[simp] theorem State.onMem_freeTick (g : Memory → Memory) (s : State) : (s.onMem g).freeTick = s.freeTick := rfl
@[simp] theorem State.onMem_pending (g : Memory → Memory) (s : State) : (s.onMem g).pending = s.pending := rfl
@[simp] theorem State.onXl_part (g : Xlate → Xlate) (s : State) : (s.onXl g).part = s.part := rfl
@[simp] theorem State.onXl_disabled (g : Xlate → Xlate) (s : State) : (s.onXl g).disabled = s.disabled := rfl
@[simp] theorem State.onXl_uid (g : Xlate → Xlate) (s : State) : (s.onXl g).uid = s.uid := rfl
@[simp] theorem State.onXl_formats (g : Xlate → Xlate) (s : State) : (s.onXl g).formats = s.formats := rfl
@[simp] theorem State.onXl_frenor (g : Xlate → Xlate) (s : State) : (s.onXl g).frenor = s.frenor := rfl
@[simp] theorem State.onXl_tide (g : Xlate → Xlate) (s : State) : (s.onXl g).tide = s.tide := rfl
@[simp] theorem State.onXl_places (g : Xlate → Xlate) (s : State) : (s.onXl g).places = s.places := rfl
@[simp] theorem State.onXl_tiles (g : Xlate → Xlate) (s : State) : (s.onXl g).tiles = s.tiles := rfl
@[simp] theorem State.onXl_clusters (g : Xlate → Xlate) (s : State) : (s.onXl g).clusters = s.clusters := rfl
@[simp] theorem State.onXl_hm (g : Xlate → Xlate) (s : State) : (s.onXl g).hm = s.hm := rfl
@[simp] theorem State.onXl_berths (g : Xlate → Xlate) (s : State) : (s.onXl g).berths = s.berths := rfl
@[simp] theorem State.onXl_fu (g : Xlate → Xlate) (s : State) : (s.onXl g).fu = s.fu := rfl
@[simp] theorem State.onXl_graphs (g : Xlate → Xlate) (s : State) : (s.onXl g).graphs = s.graphs := rfl
@[simp] theorem State.onXl_hb (g : Xlate → Xlate) (s : State) : (s.onXl g).hb = s.hb := rfl
@[simp] theorem State.onXl_mills (g : Xlate → Xlate) (s : State) : (s.onXl g).mills = s.mills := rfl
@[simp] theorem State.onXl_scans (g : Xlate → Xlate) (s : State) : (s.onXl g).scans = s.scans := rfl
@[simp] theorem State.onXl_mergeHalves (g : Xlate → Xlate) (s : State) : (s.onXl g).mergeHalves = s.mergeHalves := rfl
@[simp] theorem State.onXl_mem (g : Xlate → Xlate) (s : State) : (s.onXl g).mem = s.mem := rfl
@[simp] theorem State.onXl_xl (g : Xlate → Xlate) (s : State) : (s.onXl g).xl = g s.xl := rfl
@[simp] theorem State.onXl_rg (g : Xlate → Xlate) (s : State) : (s.onXl g).rg = s.rg := rfl
@[simp] theorem State.onXl_lk (g : Xlate → Xlate) (s : State) : (s.onXl g).lk = s.lk := rfl
@[simp] theorem State.onXl_pw (g : Xlate → Xlate) (s : State) : (s.onXl g).pw = s.pw := rfl
@[simp] theorem State.onXl_ras (g : Xlate → Xlate) (s : State) : (s.onXl g).ras = s.ras := rfl
@[simp] theorem State.onXl_sec (g : Xlate → Xlate) (s : State) : (s.onXl g).sec = s.sec := rfl
@[simp] theorem State.onXl_hif (g : Xlate → Xlate) (s : State) : (s.onXl g).hif = s.hif := rfl
@[simp] theorem State.onXl_boot (g : Xlate → Xlate) (s : State) : (s.onXl g).boot = s.boot := rfl
@[simp] theorem State.onXl_crc (g : Xlate → Xlate) (s : State) : (s.onXl g).crc = s.crc := rfl
@[simp] theorem State.onXl_pins (g : Xlate → Xlate) (s : State) : (s.onXl g).pins = s.pins := rfl
@[simp] theorem State.onXl_out (g : Xlate → Xlate) (s : State) : (s.onXl g).out = s.out := rfl
@[simp] theorem State.onXl_freeTick (g : Xlate → Xlate) (s : State) : (s.onXl g).freeTick = s.freeTick := rfl
@[simp] theorem State.onXl_pending (g : Xlate → Xlate) (s : State) : (s.onXl g).pending = s.pending := rfl
@[simp] theorem State.onRg_part (g : Regul → Regul) (s : State) : (s.onRg g).part = s.part := rfl
@[simp] theorem State.onRg_disabled (g : Regul → Regul) (s : State) : (s.onRg g).disabled = s.disabled := rfl
@[simp] theorem State.onRg_uid (g : Regul → Regul) (s : State) : (s.onRg g).uid = s.uid := rfl
@[simp] theorem State.onRg_formats (g : Regul → Regul) (s : State) : (s.onRg g).formats = s.formats := rfl
@[simp] theorem State.onRg_frenor (g : Regul → Regul) (s : State) : (s.onRg g).frenor = s.frenor := rfl
@[simp] theorem State.onRg_tide (g : Regul → Regul) (s : State) : (s.onRg g).tide = s.tide := rfl
@[simp] theorem State.onRg_places (g : Regul → Regul) (s : State) : (s.onRg g).places = s.places := rfl
@[simp] theorem State.onRg_tiles (g : Regul → Regul) (s : State) : (s.onRg g).tiles = s.tiles := rfl
@[simp] theorem State.onRg_clusters (g : Regul → Regul) (s : State) : (s.onRg g).clusters = s.clusters := rfl
@[simp] theorem State.onRg_hm (g : Regul → Regul) (s : State) : (s.onRg g).hm = s.hm := rfl
@[simp] theorem State.onRg_berths (g : Regul → Regul) (s : State) : (s.onRg g).berths = s.berths := rfl
@[simp] theorem State.onRg_fu (g : Regul → Regul) (s : State) : (s.onRg g).fu = s.fu := rfl
@[simp] theorem State.onRg_graphs (g : Regul → Regul) (s : State) : (s.onRg g).graphs = s.graphs := rfl
@[simp] theorem State.onRg_hb (g : Regul → Regul) (s : State) : (s.onRg g).hb = s.hb := rfl
@[simp] theorem State.onRg_mills (g : Regul → Regul) (s : State) : (s.onRg g).mills = s.mills := rfl
@[simp] theorem State.onRg_scans (g : Regul → Regul) (s : State) : (s.onRg g).scans = s.scans := rfl
@[simp] theorem State.onRg_mergeHalves (g : Regul → Regul) (s : State) : (s.onRg g).mergeHalves = s.mergeHalves := rfl
@[simp] theorem State.onRg_mem (g : Regul → Regul) (s : State) : (s.onRg g).mem = s.mem := rfl
@[simp] theorem State.onRg_xl (g : Regul → Regul) (s : State) : (s.onRg g).xl = s.xl := rfl
@[simp] theorem State.onRg_rg (g : Regul → Regul) (s : State) : (s.onRg g).rg = g s.rg := rfl
@[simp] theorem State.onRg_lk (g : Regul → Regul) (s : State) : (s.onRg g).lk = s.lk := rfl
@[simp] theorem State.onRg_pw (g : Regul → Regul) (s : State) : (s.onRg g).pw = s.pw := rfl
@[simp] theorem State.onRg_ras (g : Regul → Regul) (s : State) : (s.onRg g).ras = s.ras := rfl
@[simp] theorem State.onRg_sec (g : Regul → Regul) (s : State) : (s.onRg g).sec = s.sec := rfl
@[simp] theorem State.onRg_hif (g : Regul → Regul) (s : State) : (s.onRg g).hif = s.hif := rfl
@[simp] theorem State.onRg_boot (g : Regul → Regul) (s : State) : (s.onRg g).boot = s.boot := rfl
@[simp] theorem State.onRg_crc (g : Regul → Regul) (s : State) : (s.onRg g).crc = s.crc := rfl
@[simp] theorem State.onRg_pins (g : Regul → Regul) (s : State) : (s.onRg g).pins = s.pins := rfl
@[simp] theorem State.onRg_out (g : Regul → Regul) (s : State) : (s.onRg g).out = s.out := rfl
@[simp] theorem State.onRg_freeTick (g : Regul → Regul) (s : State) : (s.onRg g).freeTick = s.freeTick := rfl
@[simp] theorem State.onRg_pending (g : Regul → Regul) (s : State) : (s.onRg g).pending = s.pending := rfl
@[simp] theorem State.onLk_part (g : Links → Links) (s : State) : (s.onLk g).part = s.part := rfl
@[simp] theorem State.onLk_disabled (g : Links → Links) (s : State) : (s.onLk g).disabled = s.disabled := rfl
@[simp] theorem State.onLk_uid (g : Links → Links) (s : State) : (s.onLk g).uid = s.uid := rfl
@[simp] theorem State.onLk_formats (g : Links → Links) (s : State) : (s.onLk g).formats = s.formats := rfl
@[simp] theorem State.onLk_frenor (g : Links → Links) (s : State) : (s.onLk g).frenor = s.frenor := rfl
@[simp] theorem State.onLk_tide (g : Links → Links) (s : State) : (s.onLk g).tide = s.tide := rfl
@[simp] theorem State.onLk_places (g : Links → Links) (s : State) : (s.onLk g).places = s.places := rfl
@[simp] theorem State.onLk_tiles (g : Links → Links) (s : State) : (s.onLk g).tiles = s.tiles := rfl
@[simp] theorem State.onLk_clusters (g : Links → Links) (s : State) : (s.onLk g).clusters = s.clusters := rfl
@[simp] theorem State.onLk_hm (g : Links → Links) (s : State) : (s.onLk g).hm = s.hm := rfl
@[simp] theorem State.onLk_berths (g : Links → Links) (s : State) : (s.onLk g).berths = s.berths := rfl
@[simp] theorem State.onLk_fu (g : Links → Links) (s : State) : (s.onLk g).fu = s.fu := rfl
@[simp] theorem State.onLk_graphs (g : Links → Links) (s : State) : (s.onLk g).graphs = s.graphs := rfl
@[simp] theorem State.onLk_hb (g : Links → Links) (s : State) : (s.onLk g).hb = s.hb := rfl
@[simp] theorem State.onLk_mills (g : Links → Links) (s : State) : (s.onLk g).mills = s.mills := rfl
@[simp] theorem State.onLk_scans (g : Links → Links) (s : State) : (s.onLk g).scans = s.scans := rfl
@[simp] theorem State.onLk_mergeHalves (g : Links → Links) (s : State) : (s.onLk g).mergeHalves = s.mergeHalves := rfl
@[simp] theorem State.onLk_mem (g : Links → Links) (s : State) : (s.onLk g).mem = s.mem := rfl
@[simp] theorem State.onLk_xl (g : Links → Links) (s : State) : (s.onLk g).xl = s.xl := rfl
@[simp] theorem State.onLk_rg (g : Links → Links) (s : State) : (s.onLk g).rg = s.rg := rfl
@[simp] theorem State.onLk_lk (g : Links → Links) (s : State) : (s.onLk g).lk = g s.lk := rfl
@[simp] theorem State.onLk_pw (g : Links → Links) (s : State) : (s.onLk g).pw = s.pw := rfl
@[simp] theorem State.onLk_ras (g : Links → Links) (s : State) : (s.onLk g).ras = s.ras := rfl
@[simp] theorem State.onLk_sec (g : Links → Links) (s : State) : (s.onLk g).sec = s.sec := rfl
@[simp] theorem State.onLk_hif (g : Links → Links) (s : State) : (s.onLk g).hif = s.hif := rfl
@[simp] theorem State.onLk_boot (g : Links → Links) (s : State) : (s.onLk g).boot = s.boot := rfl
@[simp] theorem State.onLk_crc (g : Links → Links) (s : State) : (s.onLk g).crc = s.crc := rfl
@[simp] theorem State.onLk_pins (g : Links → Links) (s : State) : (s.onLk g).pins = s.pins := rfl
@[simp] theorem State.onLk_out (g : Links → Links) (s : State) : (s.onLk g).out = s.out := rfl
@[simp] theorem State.onLk_freeTick (g : Links → Links) (s : State) : (s.onLk g).freeTick = s.freeTick := rfl
@[simp] theorem State.onLk_pending (g : Links → Links) (s : State) : (s.onLk g).pending = s.pending := rfl
@[simp] theorem State.onPw_part (g : Power → Power) (s : State) : (s.onPw g).part = s.part := rfl
@[simp] theorem State.onPw_disabled (g : Power → Power) (s : State) : (s.onPw g).disabled = s.disabled := rfl
@[simp] theorem State.onPw_uid (g : Power → Power) (s : State) : (s.onPw g).uid = s.uid := rfl
@[simp] theorem State.onPw_formats (g : Power → Power) (s : State) : (s.onPw g).formats = s.formats := rfl
@[simp] theorem State.onPw_frenor (g : Power → Power) (s : State) : (s.onPw g).frenor = s.frenor := rfl
@[simp] theorem State.onPw_tide (g : Power → Power) (s : State) : (s.onPw g).tide = s.tide := rfl
@[simp] theorem State.onPw_places (g : Power → Power) (s : State) : (s.onPw g).places = s.places := rfl
@[simp] theorem State.onPw_tiles (g : Power → Power) (s : State) : (s.onPw g).tiles = s.tiles := rfl
@[simp] theorem State.onPw_clusters (g : Power → Power) (s : State) : (s.onPw g).clusters = s.clusters := rfl
@[simp] theorem State.onPw_hm (g : Power → Power) (s : State) : (s.onPw g).hm = s.hm := rfl
@[simp] theorem State.onPw_berths (g : Power → Power) (s : State) : (s.onPw g).berths = s.berths := rfl
@[simp] theorem State.onPw_fu (g : Power → Power) (s : State) : (s.onPw g).fu = s.fu := rfl
@[simp] theorem State.onPw_graphs (g : Power → Power) (s : State) : (s.onPw g).graphs = s.graphs := rfl
@[simp] theorem State.onPw_hb (g : Power → Power) (s : State) : (s.onPw g).hb = s.hb := rfl
@[simp] theorem State.onPw_mills (g : Power → Power) (s : State) : (s.onPw g).mills = s.mills := rfl
@[simp] theorem State.onPw_scans (g : Power → Power) (s : State) : (s.onPw g).scans = s.scans := rfl
@[simp] theorem State.onPw_mergeHalves (g : Power → Power) (s : State) : (s.onPw g).mergeHalves = s.mergeHalves := rfl
@[simp] theorem State.onPw_mem (g : Power → Power) (s : State) : (s.onPw g).mem = s.mem := rfl
@[simp] theorem State.onPw_xl (g : Power → Power) (s : State) : (s.onPw g).xl = s.xl := rfl
@[simp] theorem State.onPw_rg (g : Power → Power) (s : State) : (s.onPw g).rg = s.rg := rfl
@[simp] theorem State.onPw_lk (g : Power → Power) (s : State) : (s.onPw g).lk = s.lk := rfl
@[simp] theorem State.onPw_pw (g : Power → Power) (s : State) : (s.onPw g).pw = g s.pw := rfl
@[simp] theorem State.onPw_ras (g : Power → Power) (s : State) : (s.onPw g).ras = s.ras := rfl
@[simp] theorem State.onPw_sec (g : Power → Power) (s : State) : (s.onPw g).sec = s.sec := rfl
@[simp] theorem State.onPw_hif (g : Power → Power) (s : State) : (s.onPw g).hif = s.hif := rfl
@[simp] theorem State.onPw_boot (g : Power → Power) (s : State) : (s.onPw g).boot = s.boot := rfl
@[simp] theorem State.onPw_crc (g : Power → Power) (s : State) : (s.onPw g).crc = s.crc := rfl
@[simp] theorem State.onPw_pins (g : Power → Power) (s : State) : (s.onPw g).pins = s.pins := rfl
@[simp] theorem State.onPw_out (g : Power → Power) (s : State) : (s.onPw g).out = s.out := rfl
@[simp] theorem State.onPw_freeTick (g : Power → Power) (s : State) : (s.onPw g).freeTick = s.freeTick := rfl
@[simp] theorem State.onPw_pending (g : Power → Power) (s : State) : (s.onPw g).pending = s.pending := rfl
@[simp] theorem State.onRas_part (g : Ras → Ras) (s : State) : (s.onRas g).part = s.part := rfl
@[simp] theorem State.onRas_disabled (g : Ras → Ras) (s : State) : (s.onRas g).disabled = s.disabled := rfl
@[simp] theorem State.onRas_uid (g : Ras → Ras) (s : State) : (s.onRas g).uid = s.uid := rfl
@[simp] theorem State.onRas_formats (g : Ras → Ras) (s : State) : (s.onRas g).formats = s.formats := rfl
@[simp] theorem State.onRas_frenor (g : Ras → Ras) (s : State) : (s.onRas g).frenor = s.frenor := rfl
@[simp] theorem State.onRas_tide (g : Ras → Ras) (s : State) : (s.onRas g).tide = s.tide := rfl
@[simp] theorem State.onRas_places (g : Ras → Ras) (s : State) : (s.onRas g).places = s.places := rfl
@[simp] theorem State.onRas_tiles (g : Ras → Ras) (s : State) : (s.onRas g).tiles = s.tiles := rfl
@[simp] theorem State.onRas_clusters (g : Ras → Ras) (s : State) : (s.onRas g).clusters = s.clusters := rfl
@[simp] theorem State.onRas_hm (g : Ras → Ras) (s : State) : (s.onRas g).hm = s.hm := rfl
@[simp] theorem State.onRas_berths (g : Ras → Ras) (s : State) : (s.onRas g).berths = s.berths := rfl
@[simp] theorem State.onRas_fu (g : Ras → Ras) (s : State) : (s.onRas g).fu = s.fu := rfl
@[simp] theorem State.onRas_graphs (g : Ras → Ras) (s : State) : (s.onRas g).graphs = s.graphs := rfl
@[simp] theorem State.onRas_hb (g : Ras → Ras) (s : State) : (s.onRas g).hb = s.hb := rfl
@[simp] theorem State.onRas_mills (g : Ras → Ras) (s : State) : (s.onRas g).mills = s.mills := rfl
@[simp] theorem State.onRas_scans (g : Ras → Ras) (s : State) : (s.onRas g).scans = s.scans := rfl
@[simp] theorem State.onRas_mergeHalves (g : Ras → Ras) (s : State) : (s.onRas g).mergeHalves = s.mergeHalves := rfl
@[simp] theorem State.onRas_mem (g : Ras → Ras) (s : State) : (s.onRas g).mem = s.mem := rfl
@[simp] theorem State.onRas_xl (g : Ras → Ras) (s : State) : (s.onRas g).xl = s.xl := rfl
@[simp] theorem State.onRas_rg (g : Ras → Ras) (s : State) : (s.onRas g).rg = s.rg := rfl
@[simp] theorem State.onRas_lk (g : Ras → Ras) (s : State) : (s.onRas g).lk = s.lk := rfl
@[simp] theorem State.onRas_pw (g : Ras → Ras) (s : State) : (s.onRas g).pw = s.pw := rfl
@[simp] theorem State.onRas_ras (g : Ras → Ras) (s : State) : (s.onRas g).ras = g s.ras := rfl
@[simp] theorem State.onRas_sec (g : Ras → Ras) (s : State) : (s.onRas g).sec = s.sec := rfl
@[simp] theorem State.onRas_hif (g : Ras → Ras) (s : State) : (s.onRas g).hif = s.hif := rfl
@[simp] theorem State.onRas_boot (g : Ras → Ras) (s : State) : (s.onRas g).boot = s.boot := rfl
@[simp] theorem State.onRas_crc (g : Ras → Ras) (s : State) : (s.onRas g).crc = s.crc := rfl
@[simp] theorem State.onRas_pins (g : Ras → Ras) (s : State) : (s.onRas g).pins = s.pins := rfl
@[simp] theorem State.onRas_out (g : Ras → Ras) (s : State) : (s.onRas g).out = s.out := rfl
@[simp] theorem State.onRas_freeTick (g : Ras → Ras) (s : State) : (s.onRas g).freeTick = s.freeTick := rfl
@[simp] theorem State.onRas_pending (g : Ras → Ras) (s : State) : (s.onRas g).pending = s.pending := rfl
@[simp] theorem State.onSec_part (g : Security → Security) (s : State) : (s.onSec g).part = s.part := rfl
@[simp] theorem State.onSec_disabled (g : Security → Security) (s : State) : (s.onSec g).disabled = s.disabled := rfl
@[simp] theorem State.onSec_uid (g : Security → Security) (s : State) : (s.onSec g).uid = s.uid := rfl
@[simp] theorem State.onSec_formats (g : Security → Security) (s : State) : (s.onSec g).formats = s.formats := rfl
@[simp] theorem State.onSec_frenor (g : Security → Security) (s : State) : (s.onSec g).frenor = s.frenor := rfl
@[simp] theorem State.onSec_tide (g : Security → Security) (s : State) : (s.onSec g).tide = s.tide := rfl
@[simp] theorem State.onSec_places (g : Security → Security) (s : State) : (s.onSec g).places = s.places := rfl
@[simp] theorem State.onSec_tiles (g : Security → Security) (s : State) : (s.onSec g).tiles = s.tiles := rfl
@[simp] theorem State.onSec_clusters (g : Security → Security) (s : State) : (s.onSec g).clusters = s.clusters := rfl
@[simp] theorem State.onSec_hm (g : Security → Security) (s : State) : (s.onSec g).hm = s.hm := rfl
@[simp] theorem State.onSec_berths (g : Security → Security) (s : State) : (s.onSec g).berths = s.berths := rfl
@[simp] theorem State.onSec_fu (g : Security → Security) (s : State) : (s.onSec g).fu = s.fu := rfl
@[simp] theorem State.onSec_graphs (g : Security → Security) (s : State) : (s.onSec g).graphs = s.graphs := rfl
@[simp] theorem State.onSec_hb (g : Security → Security) (s : State) : (s.onSec g).hb = s.hb := rfl
@[simp] theorem State.onSec_mills (g : Security → Security) (s : State) : (s.onSec g).mills = s.mills := rfl
@[simp] theorem State.onSec_scans (g : Security → Security) (s : State) : (s.onSec g).scans = s.scans := rfl
@[simp] theorem State.onSec_mergeHalves (g : Security → Security) (s : State) : (s.onSec g).mergeHalves = s.mergeHalves := rfl
@[simp] theorem State.onSec_mem (g : Security → Security) (s : State) : (s.onSec g).mem = s.mem := rfl
@[simp] theorem State.onSec_xl (g : Security → Security) (s : State) : (s.onSec g).xl = s.xl := rfl
@[simp] theorem State.onSec_rg (g : Security → Security) (s : State) : (s.onSec g).rg = s.rg := rfl
@[simp] theorem State.onSec_lk (g : Security → Security) (s : State) : (s.onSec g).lk = s.lk := rfl
@[simp] theorem State.onSec_pw (g : Security → Security) (s : State) : (s.onSec g).pw = s.pw := rfl
@[simp] theorem State.onSec_ras (g : Security → Security) (s : State) : (s.onSec g).ras = s.ras := rfl
@[simp] theorem State.onSec_sec (g : Security → Security) (s : State) : (s.onSec g).sec = g s.sec := rfl
@[simp] theorem State.onSec_hif (g : Security → Security) (s : State) : (s.onSec g).hif = s.hif := rfl
@[simp] theorem State.onSec_boot (g : Security → Security) (s : State) : (s.onSec g).boot = s.boot := rfl
@[simp] theorem State.onSec_crc (g : Security → Security) (s : State) : (s.onSec g).crc = s.crc := rfl
@[simp] theorem State.onSec_pins (g : Security → Security) (s : State) : (s.onSec g).pins = s.pins := rfl
@[simp] theorem State.onSec_out (g : Security → Security) (s : State) : (s.onSec g).out = s.out := rfl
@[simp] theorem State.onSec_freeTick (g : Security → Security) (s : State) : (s.onSec g).freeTick = s.freeTick := rfl
@[simp] theorem State.onSec_pending (g : Security → Security) (s : State) : (s.onSec g).pending = s.pending := rfl
@[simp] theorem State.onHif_part (g : HostIf → HostIf) (s : State) : (s.onHif g).part = s.part := rfl
@[simp] theorem State.onHif_disabled (g : HostIf → HostIf) (s : State) : (s.onHif g).disabled = s.disabled := rfl
@[simp] theorem State.onHif_uid (g : HostIf → HostIf) (s : State) : (s.onHif g).uid = s.uid := rfl
@[simp] theorem State.onHif_formats (g : HostIf → HostIf) (s : State) : (s.onHif g).formats = s.formats := rfl
@[simp] theorem State.onHif_frenor (g : HostIf → HostIf) (s : State) : (s.onHif g).frenor = s.frenor := rfl
@[simp] theorem State.onHif_tide (g : HostIf → HostIf) (s : State) : (s.onHif g).tide = s.tide := rfl
@[simp] theorem State.onHif_places (g : HostIf → HostIf) (s : State) : (s.onHif g).places = s.places := rfl
@[simp] theorem State.onHif_tiles (g : HostIf → HostIf) (s : State) : (s.onHif g).tiles = s.tiles := rfl
@[simp] theorem State.onHif_clusters (g : HostIf → HostIf) (s : State) : (s.onHif g).clusters = s.clusters := rfl
@[simp] theorem State.onHif_hm (g : HostIf → HostIf) (s : State) : (s.onHif g).hm = s.hm := rfl
@[simp] theorem State.onHif_berths (g : HostIf → HostIf) (s : State) : (s.onHif g).berths = s.berths := rfl
@[simp] theorem State.onHif_fu (g : HostIf → HostIf) (s : State) : (s.onHif g).fu = s.fu := rfl
@[simp] theorem State.onHif_graphs (g : HostIf → HostIf) (s : State) : (s.onHif g).graphs = s.graphs := rfl
@[simp] theorem State.onHif_hb (g : HostIf → HostIf) (s : State) : (s.onHif g).hb = s.hb := rfl
@[simp] theorem State.onHif_mills (g : HostIf → HostIf) (s : State) : (s.onHif g).mills = s.mills := rfl
@[simp] theorem State.onHif_scans (g : HostIf → HostIf) (s : State) : (s.onHif g).scans = s.scans := rfl
@[simp] theorem State.onHif_mergeHalves (g : HostIf → HostIf) (s : State) : (s.onHif g).mergeHalves = s.mergeHalves := rfl
@[simp] theorem State.onHif_mem (g : HostIf → HostIf) (s : State) : (s.onHif g).mem = s.mem := rfl
@[simp] theorem State.onHif_xl (g : HostIf → HostIf) (s : State) : (s.onHif g).xl = s.xl := rfl
@[simp] theorem State.onHif_rg (g : HostIf → HostIf) (s : State) : (s.onHif g).rg = s.rg := rfl
@[simp] theorem State.onHif_lk (g : HostIf → HostIf) (s : State) : (s.onHif g).lk = s.lk := rfl
@[simp] theorem State.onHif_pw (g : HostIf → HostIf) (s : State) : (s.onHif g).pw = s.pw := rfl
@[simp] theorem State.onHif_ras (g : HostIf → HostIf) (s : State) : (s.onHif g).ras = s.ras := rfl
@[simp] theorem State.onHif_sec (g : HostIf → HostIf) (s : State) : (s.onHif g).sec = s.sec := rfl
@[simp] theorem State.onHif_hif (g : HostIf → HostIf) (s : State) : (s.onHif g).hif = g s.hif := rfl
@[simp] theorem State.onHif_boot (g : HostIf → HostIf) (s : State) : (s.onHif g).boot = s.boot := rfl
@[simp] theorem State.onHif_crc (g : HostIf → HostIf) (s : State) : (s.onHif g).crc = s.crc := rfl
@[simp] theorem State.onHif_pins (g : HostIf → HostIf) (s : State) : (s.onHif g).pins = s.pins := rfl
@[simp] theorem State.onHif_out (g : HostIf → HostIf) (s : State) : (s.onHif g).out = s.out := rfl
@[simp] theorem State.onHif_freeTick (g : HostIf → HostIf) (s : State) : (s.onHif g).freeTick = s.freeTick := rfl
@[simp] theorem State.onHif_pending (g : HostIf → HostIf) (s : State) : (s.onHif g).pending = s.pending := rfl
@[simp] theorem State.onBoot_part (g : Boot → Boot) (s : State) : (s.onBoot g).part = s.part := rfl
@[simp] theorem State.onBoot_disabled (g : Boot → Boot) (s : State) : (s.onBoot g).disabled = s.disabled := rfl
@[simp] theorem State.onBoot_uid (g : Boot → Boot) (s : State) : (s.onBoot g).uid = s.uid := rfl
@[simp] theorem State.onBoot_formats (g : Boot → Boot) (s : State) : (s.onBoot g).formats = s.formats := rfl
@[simp] theorem State.onBoot_frenor (g : Boot → Boot) (s : State) : (s.onBoot g).frenor = s.frenor := rfl
@[simp] theorem State.onBoot_tide (g : Boot → Boot) (s : State) : (s.onBoot g).tide = s.tide := rfl
@[simp] theorem State.onBoot_places (g : Boot → Boot) (s : State) : (s.onBoot g).places = s.places := rfl
@[simp] theorem State.onBoot_tiles (g : Boot → Boot) (s : State) : (s.onBoot g).tiles = s.tiles := rfl
@[simp] theorem State.onBoot_clusters (g : Boot → Boot) (s : State) : (s.onBoot g).clusters = s.clusters := rfl
@[simp] theorem State.onBoot_hm (g : Boot → Boot) (s : State) : (s.onBoot g).hm = s.hm := rfl
@[simp] theorem State.onBoot_berths (g : Boot → Boot) (s : State) : (s.onBoot g).berths = s.berths := rfl
@[simp] theorem State.onBoot_fu (g : Boot → Boot) (s : State) : (s.onBoot g).fu = s.fu := rfl
@[simp] theorem State.onBoot_graphs (g : Boot → Boot) (s : State) : (s.onBoot g).graphs = s.graphs := rfl
@[simp] theorem State.onBoot_hb (g : Boot → Boot) (s : State) : (s.onBoot g).hb = s.hb := rfl
@[simp] theorem State.onBoot_mills (g : Boot → Boot) (s : State) : (s.onBoot g).mills = s.mills := rfl
@[simp] theorem State.onBoot_scans (g : Boot → Boot) (s : State) : (s.onBoot g).scans = s.scans := rfl
@[simp] theorem State.onBoot_mergeHalves (g : Boot → Boot) (s : State) : (s.onBoot g).mergeHalves = s.mergeHalves := rfl
@[simp] theorem State.onBoot_mem (g : Boot → Boot) (s : State) : (s.onBoot g).mem = s.mem := rfl
@[simp] theorem State.onBoot_xl (g : Boot → Boot) (s : State) : (s.onBoot g).xl = s.xl := rfl
@[simp] theorem State.onBoot_rg (g : Boot → Boot) (s : State) : (s.onBoot g).rg = s.rg := rfl
@[simp] theorem State.onBoot_lk (g : Boot → Boot) (s : State) : (s.onBoot g).lk = s.lk := rfl
@[simp] theorem State.onBoot_pw (g : Boot → Boot) (s : State) : (s.onBoot g).pw = s.pw := rfl
@[simp] theorem State.onBoot_ras (g : Boot → Boot) (s : State) : (s.onBoot g).ras = s.ras := rfl
@[simp] theorem State.onBoot_sec (g : Boot → Boot) (s : State) : (s.onBoot g).sec = s.sec := rfl
@[simp] theorem State.onBoot_hif (g : Boot → Boot) (s : State) : (s.onBoot g).hif = s.hif := rfl
@[simp] theorem State.onBoot_boot (g : Boot → Boot) (s : State) : (s.onBoot g).boot = g s.boot := rfl
@[simp] theorem State.onBoot_crc (g : Boot → Boot) (s : State) : (s.onBoot g).crc = s.crc := rfl
@[simp] theorem State.onBoot_pins (g : Boot → Boot) (s : State) : (s.onBoot g).pins = s.pins := rfl
@[simp] theorem State.onBoot_out (g : Boot → Boot) (s : State) : (s.onBoot g).out = s.out := rfl
@[simp] theorem State.onBoot_freeTick (g : Boot → Boot) (s : State) : (s.onBoot g).freeTick = s.freeTick := rfl
@[simp] theorem State.onBoot_pending (g : Boot → Boot) (s : State) : (s.onBoot g).pending = s.pending := rfl
@[simp] theorem State.onCrc_part (g : Crc → Crc) (s : State) : (s.onCrc g).part = s.part := rfl
@[simp] theorem State.onCrc_disabled (g : Crc → Crc) (s : State) : (s.onCrc g).disabled = s.disabled := rfl
@[simp] theorem State.onCrc_uid (g : Crc → Crc) (s : State) : (s.onCrc g).uid = s.uid := rfl
@[simp] theorem State.onCrc_formats (g : Crc → Crc) (s : State) : (s.onCrc g).formats = s.formats := rfl
@[simp] theorem State.onCrc_frenor (g : Crc → Crc) (s : State) : (s.onCrc g).frenor = s.frenor := rfl
@[simp] theorem State.onCrc_tide (g : Crc → Crc) (s : State) : (s.onCrc g).tide = s.tide := rfl
@[simp] theorem State.onCrc_places (g : Crc → Crc) (s : State) : (s.onCrc g).places = s.places := rfl
@[simp] theorem State.onCrc_tiles (g : Crc → Crc) (s : State) : (s.onCrc g).tiles = s.tiles := rfl
@[simp] theorem State.onCrc_clusters (g : Crc → Crc) (s : State) : (s.onCrc g).clusters = s.clusters := rfl
@[simp] theorem State.onCrc_hm (g : Crc → Crc) (s : State) : (s.onCrc g).hm = s.hm := rfl
@[simp] theorem State.onCrc_berths (g : Crc → Crc) (s : State) : (s.onCrc g).berths = s.berths := rfl
@[simp] theorem State.onCrc_fu (g : Crc → Crc) (s : State) : (s.onCrc g).fu = s.fu := rfl
@[simp] theorem State.onCrc_graphs (g : Crc → Crc) (s : State) : (s.onCrc g).graphs = s.graphs := rfl
@[simp] theorem State.onCrc_hb (g : Crc → Crc) (s : State) : (s.onCrc g).hb = s.hb := rfl
@[simp] theorem State.onCrc_mills (g : Crc → Crc) (s : State) : (s.onCrc g).mills = s.mills := rfl
@[simp] theorem State.onCrc_scans (g : Crc → Crc) (s : State) : (s.onCrc g).scans = s.scans := rfl
@[simp] theorem State.onCrc_mergeHalves (g : Crc → Crc) (s : State) : (s.onCrc g).mergeHalves = s.mergeHalves := rfl
@[simp] theorem State.onCrc_mem (g : Crc → Crc) (s : State) : (s.onCrc g).mem = s.mem := rfl
@[simp] theorem State.onCrc_xl (g : Crc → Crc) (s : State) : (s.onCrc g).xl = s.xl := rfl
@[simp] theorem State.onCrc_rg (g : Crc → Crc) (s : State) : (s.onCrc g).rg = s.rg := rfl
@[simp] theorem State.onCrc_lk (g : Crc → Crc) (s : State) : (s.onCrc g).lk = s.lk := rfl
@[simp] theorem State.onCrc_pw (g : Crc → Crc) (s : State) : (s.onCrc g).pw = s.pw := rfl
@[simp] theorem State.onCrc_ras (g : Crc → Crc) (s : State) : (s.onCrc g).ras = s.ras := rfl
@[simp] theorem State.onCrc_sec (g : Crc → Crc) (s : State) : (s.onCrc g).sec = s.sec := rfl
@[simp] theorem State.onCrc_hif (g : Crc → Crc) (s : State) : (s.onCrc g).hif = s.hif := rfl
@[simp] theorem State.onCrc_boot (g : Crc → Crc) (s : State) : (s.onCrc g).boot = s.boot := rfl
@[simp] theorem State.onCrc_crc (g : Crc → Crc) (s : State) : (s.onCrc g).crc = g s.crc := rfl
@[simp] theorem State.onCrc_pins (g : Crc → Crc) (s : State) : (s.onCrc g).pins = s.pins := rfl
@[simp] theorem State.onCrc_out (g : Crc → Crc) (s : State) : (s.onCrc g).out = s.out := rfl
@[simp] theorem State.onCrc_freeTick (g : Crc → Crc) (s : State) : (s.onCrc g).freeTick = s.freeTick := rfl
@[simp] theorem State.onCrc_pending (g : Crc → Crc) (s : State) : (s.onCrc g).pending = s.pending := rfl
@[simp] theorem State.onPins_part (g : Pins → Pins) (s : State) : (s.onPins g).part = s.part := rfl
@[simp] theorem State.onPins_disabled (g : Pins → Pins) (s : State) : (s.onPins g).disabled = s.disabled := rfl
@[simp] theorem State.onPins_uid (g : Pins → Pins) (s : State) : (s.onPins g).uid = s.uid := rfl
@[simp] theorem State.onPins_formats (g : Pins → Pins) (s : State) : (s.onPins g).formats = s.formats := rfl
@[simp] theorem State.onPins_frenor (g : Pins → Pins) (s : State) : (s.onPins g).frenor = s.frenor := rfl
@[simp] theorem State.onPins_tide (g : Pins → Pins) (s : State) : (s.onPins g).tide = s.tide := rfl
@[simp] theorem State.onPins_places (g : Pins → Pins) (s : State) : (s.onPins g).places = s.places := rfl
@[simp] theorem State.onPins_tiles (g : Pins → Pins) (s : State) : (s.onPins g).tiles = s.tiles := rfl
@[simp] theorem State.onPins_clusters (g : Pins → Pins) (s : State) : (s.onPins g).clusters = s.clusters := rfl
@[simp] theorem State.onPins_hm (g : Pins → Pins) (s : State) : (s.onPins g).hm = s.hm := rfl
@[simp] theorem State.onPins_berths (g : Pins → Pins) (s : State) : (s.onPins g).berths = s.berths := rfl
@[simp] theorem State.onPins_fu (g : Pins → Pins) (s : State) : (s.onPins g).fu = s.fu := rfl
@[simp] theorem State.onPins_graphs (g : Pins → Pins) (s : State) : (s.onPins g).graphs = s.graphs := rfl
@[simp] theorem State.onPins_hb (g : Pins → Pins) (s : State) : (s.onPins g).hb = s.hb := rfl
@[simp] theorem State.onPins_mills (g : Pins → Pins) (s : State) : (s.onPins g).mills = s.mills := rfl
@[simp] theorem State.onPins_scans (g : Pins → Pins) (s : State) : (s.onPins g).scans = s.scans := rfl
@[simp] theorem State.onPins_mergeHalves (g : Pins → Pins) (s : State) : (s.onPins g).mergeHalves = s.mergeHalves := rfl
@[simp] theorem State.onPins_mem (g : Pins → Pins) (s : State) : (s.onPins g).mem = s.mem := rfl
@[simp] theorem State.onPins_xl (g : Pins → Pins) (s : State) : (s.onPins g).xl = s.xl := rfl
@[simp] theorem State.onPins_rg (g : Pins → Pins) (s : State) : (s.onPins g).rg = s.rg := rfl
@[simp] theorem State.onPins_lk (g : Pins → Pins) (s : State) : (s.onPins g).lk = s.lk := rfl
@[simp] theorem State.onPins_pw (g : Pins → Pins) (s : State) : (s.onPins g).pw = s.pw := rfl
@[simp] theorem State.onPins_ras (g : Pins → Pins) (s : State) : (s.onPins g).ras = s.ras := rfl
@[simp] theorem State.onPins_sec (g : Pins → Pins) (s : State) : (s.onPins g).sec = s.sec := rfl
@[simp] theorem State.onPins_hif (g : Pins → Pins) (s : State) : (s.onPins g).hif = s.hif := rfl
@[simp] theorem State.onPins_boot (g : Pins → Pins) (s : State) : (s.onPins g).boot = s.boot := rfl
@[simp] theorem State.onPins_crc (g : Pins → Pins) (s : State) : (s.onPins g).crc = s.crc := rfl
@[simp] theorem State.onPins_pins (g : Pins → Pins) (s : State) : (s.onPins g).pins = g s.pins := rfl
@[simp] theorem State.onPins_out (g : Pins → Pins) (s : State) : (s.onPins g).out = s.out := rfl
@[simp] theorem State.onPins_freeTick (g : Pins → Pins) (s : State) : (s.onPins g).freeTick = s.freeTick := rfl
@[simp] theorem State.onPins_pending (g : Pins → Pins) (s : State) : (s.onPins g).pending = s.pending := rfl

/-! Updates of one unit -/

@[simp] theorem State.onPlace_part (p : Nat) (g : Place → Place) (s : State) : (s.onPlace p g).part = s.part := rfl
@[simp] theorem State.onPlace_disabled (p : Nat) (g : Place → Place) (s : State) : (s.onPlace p g).disabled = s.disabled := rfl
@[simp] theorem State.onPlace_uid (p : Nat) (g : Place → Place) (s : State) : (s.onPlace p g).uid = s.uid := rfl
@[simp] theorem State.onPlace_formats (p : Nat) (g : Place → Place) (s : State) : (s.onPlace p g).formats = s.formats := rfl
@[simp] theorem State.onPlace_frenor (p : Nat) (g : Place → Place) (s : State) : (s.onPlace p g).frenor = s.frenor := rfl
@[simp] theorem State.onPlace_tide (p : Nat) (g : Place → Place) (s : State) : (s.onPlace p g).tide = s.tide := rfl
@[simp] theorem State.onPlace_places (p : Nat) (g : Place → Place) (s : State) : (s.onPlace p g).places = tabMod {} s.places p g := rfl
@[simp] theorem State.onPlace_tiles (p : Nat) (g : Place → Place) (s : State) : (s.onPlace p g).tiles = s.tiles := rfl
@[simp] theorem State.onPlace_clusters (p : Nat) (g : Place → Place) (s : State) : (s.onPlace p g).clusters = s.clusters := rfl
@[simp] theorem State.onPlace_hm (p : Nat) (g : Place → Place) (s : State) : (s.onPlace p g).hm = s.hm := rfl
@[simp] theorem State.onPlace_berths (p : Nat) (g : Place → Place) (s : State) : (s.onPlace p g).berths = s.berths := rfl
@[simp] theorem State.onPlace_fu (p : Nat) (g : Place → Place) (s : State) : (s.onPlace p g).fu = s.fu := rfl
@[simp] theorem State.onPlace_graphs (p : Nat) (g : Place → Place) (s : State) : (s.onPlace p g).graphs = s.graphs := rfl
@[simp] theorem State.onPlace_hb (p : Nat) (g : Place → Place) (s : State) : (s.onPlace p g).hb = s.hb := rfl
@[simp] theorem State.onPlace_mills (p : Nat) (g : Place → Place) (s : State) : (s.onPlace p g).mills = s.mills := rfl
@[simp] theorem State.onPlace_scans (p : Nat) (g : Place → Place) (s : State) : (s.onPlace p g).scans = s.scans := rfl
@[simp] theorem State.onPlace_mergeHalves (p : Nat) (g : Place → Place) (s : State) : (s.onPlace p g).mergeHalves = s.mergeHalves := rfl
@[simp] theorem State.onPlace_mem (p : Nat) (g : Place → Place) (s : State) : (s.onPlace p g).mem = s.mem := rfl
@[simp] theorem State.onPlace_xl (p : Nat) (g : Place → Place) (s : State) : (s.onPlace p g).xl = s.xl := rfl
@[simp] theorem State.onPlace_rg (p : Nat) (g : Place → Place) (s : State) : (s.onPlace p g).rg = s.rg := rfl
@[simp] theorem State.onPlace_lk (p : Nat) (g : Place → Place) (s : State) : (s.onPlace p g).lk = s.lk := rfl
@[simp] theorem State.onPlace_pw (p : Nat) (g : Place → Place) (s : State) : (s.onPlace p g).pw = s.pw := rfl
@[simp] theorem State.onPlace_ras (p : Nat) (g : Place → Place) (s : State) : (s.onPlace p g).ras = s.ras := rfl
@[simp] theorem State.onPlace_sec (p : Nat) (g : Place → Place) (s : State) : (s.onPlace p g).sec = s.sec := rfl
@[simp] theorem State.onPlace_hif (p : Nat) (g : Place → Place) (s : State) : (s.onPlace p g).hif = s.hif := rfl
@[simp] theorem State.onPlace_boot (p : Nat) (g : Place → Place) (s : State) : (s.onPlace p g).boot = s.boot := rfl
@[simp] theorem State.onPlace_crc (p : Nat) (g : Place → Place) (s : State) : (s.onPlace p g).crc = s.crc := rfl
@[simp] theorem State.onPlace_pins (p : Nat) (g : Place → Place) (s : State) : (s.onPlace p g).pins = s.pins := rfl
@[simp] theorem State.onPlace_out (p : Nat) (g : Place → Place) (s : State) : (s.onPlace p g).out = s.out := rfl
@[simp] theorem State.onPlace_freeTick (p : Nat) (g : Place → Place) (s : State) : (s.onPlace p g).freeTick = s.freeTick := rfl
@[simp] theorem State.onPlace_pending (p : Nat) (g : Place → Place) (s : State) : (s.onPlace p g).pending = s.pending := rfl
@[simp] theorem State.onTile_part (p : Nat) (g : PhysTile → PhysTile) (s : State) : (s.onTile p g).part = s.part := rfl
@[simp] theorem State.onTile_disabled (p : Nat) (g : PhysTile → PhysTile) (s : State) : (s.onTile p g).disabled = s.disabled := rfl
@[simp] theorem State.onTile_uid (p : Nat) (g : PhysTile → PhysTile) (s : State) : (s.onTile p g).uid = s.uid := rfl
@[simp] theorem State.onTile_formats (p : Nat) (g : PhysTile → PhysTile) (s : State) : (s.onTile p g).formats = s.formats := rfl
@[simp] theorem State.onTile_frenor (p : Nat) (g : PhysTile → PhysTile) (s : State) : (s.onTile p g).frenor = s.frenor := rfl
@[simp] theorem State.onTile_tide (p : Nat) (g : PhysTile → PhysTile) (s : State) : (s.onTile p g).tide = s.tide := rfl
@[simp] theorem State.onTile_places (p : Nat) (g : PhysTile → PhysTile) (s : State) : (s.onTile p g).places = s.places := rfl
@[simp] theorem State.onTile_tiles (p : Nat) (g : PhysTile → PhysTile) (s : State) : (s.onTile p g).tiles = tabMod {} s.tiles p g := rfl
@[simp] theorem State.onTile_clusters (p : Nat) (g : PhysTile → PhysTile) (s : State) : (s.onTile p g).clusters = s.clusters := rfl
@[simp] theorem State.onTile_hm (p : Nat) (g : PhysTile → PhysTile) (s : State) : (s.onTile p g).hm = s.hm := rfl
@[simp] theorem State.onTile_berths (p : Nat) (g : PhysTile → PhysTile) (s : State) : (s.onTile p g).berths = s.berths := rfl
@[simp] theorem State.onTile_fu (p : Nat) (g : PhysTile → PhysTile) (s : State) : (s.onTile p g).fu = s.fu := rfl
@[simp] theorem State.onTile_graphs (p : Nat) (g : PhysTile → PhysTile) (s : State) : (s.onTile p g).graphs = s.graphs := rfl
@[simp] theorem State.onTile_hb (p : Nat) (g : PhysTile → PhysTile) (s : State) : (s.onTile p g).hb = s.hb := rfl
@[simp] theorem State.onTile_mills (p : Nat) (g : PhysTile → PhysTile) (s : State) : (s.onTile p g).mills = s.mills := rfl
@[simp] theorem State.onTile_scans (p : Nat) (g : PhysTile → PhysTile) (s : State) : (s.onTile p g).scans = s.scans := rfl
@[simp] theorem State.onTile_mergeHalves (p : Nat) (g : PhysTile → PhysTile) (s : State) : (s.onTile p g).mergeHalves = s.mergeHalves := rfl
@[simp] theorem State.onTile_mem (p : Nat) (g : PhysTile → PhysTile) (s : State) : (s.onTile p g).mem = s.mem := rfl
@[simp] theorem State.onTile_xl (p : Nat) (g : PhysTile → PhysTile) (s : State) : (s.onTile p g).xl = s.xl := rfl
@[simp] theorem State.onTile_rg (p : Nat) (g : PhysTile → PhysTile) (s : State) : (s.onTile p g).rg = s.rg := rfl
@[simp] theorem State.onTile_lk (p : Nat) (g : PhysTile → PhysTile) (s : State) : (s.onTile p g).lk = s.lk := rfl
@[simp] theorem State.onTile_pw (p : Nat) (g : PhysTile → PhysTile) (s : State) : (s.onTile p g).pw = s.pw := rfl
@[simp] theorem State.onTile_ras (p : Nat) (g : PhysTile → PhysTile) (s : State) : (s.onTile p g).ras = s.ras := rfl
@[simp] theorem State.onTile_sec (p : Nat) (g : PhysTile → PhysTile) (s : State) : (s.onTile p g).sec = s.sec := rfl
@[simp] theorem State.onTile_hif (p : Nat) (g : PhysTile → PhysTile) (s : State) : (s.onTile p g).hif = s.hif := rfl
@[simp] theorem State.onTile_boot (p : Nat) (g : PhysTile → PhysTile) (s : State) : (s.onTile p g).boot = s.boot := rfl
@[simp] theorem State.onTile_crc (p : Nat) (g : PhysTile → PhysTile) (s : State) : (s.onTile p g).crc = s.crc := rfl
@[simp] theorem State.onTile_pins (p : Nat) (g : PhysTile → PhysTile) (s : State) : (s.onTile p g).pins = s.pins := rfl
@[simp] theorem State.onTile_out (p : Nat) (g : PhysTile → PhysTile) (s : State) : (s.onTile p g).out = s.out := rfl
@[simp] theorem State.onTile_freeTick (p : Nat) (g : PhysTile → PhysTile) (s : State) : (s.onTile p g).freeTick = s.freeTick := rfl
@[simp] theorem State.onTile_pending (p : Nat) (g : PhysTile → PhysTile) (s : State) : (s.onTile p g).pending = s.pending := rfl
@[simp] theorem State.onCluster_part (p : Nat) (g : Cluster → Cluster) (s : State) : (s.onCluster p g).part = s.part := rfl
@[simp] theorem State.onCluster_disabled (p : Nat) (g : Cluster → Cluster) (s : State) : (s.onCluster p g).disabled = s.disabled := rfl
@[simp] theorem State.onCluster_uid (p : Nat) (g : Cluster → Cluster) (s : State) : (s.onCluster p g).uid = s.uid := rfl
@[simp] theorem State.onCluster_formats (p : Nat) (g : Cluster → Cluster) (s : State) : (s.onCluster p g).formats = s.formats := rfl
@[simp] theorem State.onCluster_frenor (p : Nat) (g : Cluster → Cluster) (s : State) : (s.onCluster p g).frenor = s.frenor := rfl
@[simp] theorem State.onCluster_tide (p : Nat) (g : Cluster → Cluster) (s : State) : (s.onCluster p g).tide = s.tide := rfl
@[simp] theorem State.onCluster_places (p : Nat) (g : Cluster → Cluster) (s : State) : (s.onCluster p g).places = s.places := rfl
@[simp] theorem State.onCluster_tiles (p : Nat) (g : Cluster → Cluster) (s : State) : (s.onCluster p g).tiles = s.tiles := rfl
@[simp] theorem State.onCluster_clusters (p : Nat) (g : Cluster → Cluster) (s : State) : (s.onCluster p g).clusters = tabMod {} s.clusters p g := rfl
@[simp] theorem State.onCluster_hm (p : Nat) (g : Cluster → Cluster) (s : State) : (s.onCluster p g).hm = s.hm := rfl
@[simp] theorem State.onCluster_berths (p : Nat) (g : Cluster → Cluster) (s : State) : (s.onCluster p g).berths = s.berths := rfl
@[simp] theorem State.onCluster_fu (p : Nat) (g : Cluster → Cluster) (s : State) : (s.onCluster p g).fu = s.fu := rfl
@[simp] theorem State.onCluster_graphs (p : Nat) (g : Cluster → Cluster) (s : State) : (s.onCluster p g).graphs = s.graphs := rfl
@[simp] theorem State.onCluster_hb (p : Nat) (g : Cluster → Cluster) (s : State) : (s.onCluster p g).hb = s.hb := rfl
@[simp] theorem State.onCluster_mills (p : Nat) (g : Cluster → Cluster) (s : State) : (s.onCluster p g).mills = s.mills := rfl
@[simp] theorem State.onCluster_scans (p : Nat) (g : Cluster → Cluster) (s : State) : (s.onCluster p g).scans = s.scans := rfl
@[simp] theorem State.onCluster_mergeHalves (p : Nat) (g : Cluster → Cluster) (s : State) : (s.onCluster p g).mergeHalves = s.mergeHalves := rfl
@[simp] theorem State.onCluster_mem (p : Nat) (g : Cluster → Cluster) (s : State) : (s.onCluster p g).mem = s.mem := rfl
@[simp] theorem State.onCluster_xl (p : Nat) (g : Cluster → Cluster) (s : State) : (s.onCluster p g).xl = s.xl := rfl
@[simp] theorem State.onCluster_rg (p : Nat) (g : Cluster → Cluster) (s : State) : (s.onCluster p g).rg = s.rg := rfl
@[simp] theorem State.onCluster_lk (p : Nat) (g : Cluster → Cluster) (s : State) : (s.onCluster p g).lk = s.lk := rfl
@[simp] theorem State.onCluster_pw (p : Nat) (g : Cluster → Cluster) (s : State) : (s.onCluster p g).pw = s.pw := rfl
@[simp] theorem State.onCluster_ras (p : Nat) (g : Cluster → Cluster) (s : State) : (s.onCluster p g).ras = s.ras := rfl
@[simp] theorem State.onCluster_sec (p : Nat) (g : Cluster → Cluster) (s : State) : (s.onCluster p g).sec = s.sec := rfl
@[simp] theorem State.onCluster_hif (p : Nat) (g : Cluster → Cluster) (s : State) : (s.onCluster p g).hif = s.hif := rfl
@[simp] theorem State.onCluster_boot (p : Nat) (g : Cluster → Cluster) (s : State) : (s.onCluster p g).boot = s.boot := rfl
@[simp] theorem State.onCluster_crc (p : Nat) (g : Cluster → Cluster) (s : State) : (s.onCluster p g).crc = s.crc := rfl
@[simp] theorem State.onCluster_pins (p : Nat) (g : Cluster → Cluster) (s : State) : (s.onCluster p g).pins = s.pins := rfl
@[simp] theorem State.onCluster_out (p : Nat) (g : Cluster → Cluster) (s : State) : (s.onCluster p g).out = s.out := rfl
@[simp] theorem State.onCluster_freeTick (p : Nat) (g : Cluster → Cluster) (s : State) : (s.onCluster p g).freeTick = s.freeTick := rfl
@[simp] theorem State.onCluster_pending (p : Nat) (g : Cluster → Cluster) (s : State) : (s.onCluster p g).pending = s.pending := rfl
@[simp] theorem State.onBerth_part (p : Nat) (g : Berth → Berth) (s : State) : (s.onBerth p g).part = s.part := rfl
@[simp] theorem State.onBerth_disabled (p : Nat) (g : Berth → Berth) (s : State) : (s.onBerth p g).disabled = s.disabled := rfl
@[simp] theorem State.onBerth_uid (p : Nat) (g : Berth → Berth) (s : State) : (s.onBerth p g).uid = s.uid := rfl
@[simp] theorem State.onBerth_formats (p : Nat) (g : Berth → Berth) (s : State) : (s.onBerth p g).formats = s.formats := rfl
@[simp] theorem State.onBerth_frenor (p : Nat) (g : Berth → Berth) (s : State) : (s.onBerth p g).frenor = s.frenor := rfl
@[simp] theorem State.onBerth_tide (p : Nat) (g : Berth → Berth) (s : State) : (s.onBerth p g).tide = s.tide := rfl
@[simp] theorem State.onBerth_places (p : Nat) (g : Berth → Berth) (s : State) : (s.onBerth p g).places = s.places := rfl
@[simp] theorem State.onBerth_tiles (p : Nat) (g : Berth → Berth) (s : State) : (s.onBerth p g).tiles = s.tiles := rfl
@[simp] theorem State.onBerth_clusters (p : Nat) (g : Berth → Berth) (s : State) : (s.onBerth p g).clusters = s.clusters := rfl
@[simp] theorem State.onBerth_hm (p : Nat) (g : Berth → Berth) (s : State) : (s.onBerth p g).hm = s.hm := rfl
@[simp] theorem State.onBerth_berths (p : Nat) (g : Berth → Berth) (s : State) : (s.onBerth p g).berths = tabMod {} s.berths p g := rfl
@[simp] theorem State.onBerth_fu (p : Nat) (g : Berth → Berth) (s : State) : (s.onBerth p g).fu = s.fu := rfl
@[simp] theorem State.onBerth_graphs (p : Nat) (g : Berth → Berth) (s : State) : (s.onBerth p g).graphs = s.graphs := rfl
@[simp] theorem State.onBerth_hb (p : Nat) (g : Berth → Berth) (s : State) : (s.onBerth p g).hb = s.hb := rfl
@[simp] theorem State.onBerth_mills (p : Nat) (g : Berth → Berth) (s : State) : (s.onBerth p g).mills = s.mills := rfl
@[simp] theorem State.onBerth_scans (p : Nat) (g : Berth → Berth) (s : State) : (s.onBerth p g).scans = s.scans := rfl
@[simp] theorem State.onBerth_mergeHalves (p : Nat) (g : Berth → Berth) (s : State) : (s.onBerth p g).mergeHalves = s.mergeHalves := rfl
@[simp] theorem State.onBerth_mem (p : Nat) (g : Berth → Berth) (s : State) : (s.onBerth p g).mem = s.mem := rfl
@[simp] theorem State.onBerth_xl (p : Nat) (g : Berth → Berth) (s : State) : (s.onBerth p g).xl = s.xl := rfl
@[simp] theorem State.onBerth_rg (p : Nat) (g : Berth → Berth) (s : State) : (s.onBerth p g).rg = s.rg := rfl
@[simp] theorem State.onBerth_lk (p : Nat) (g : Berth → Berth) (s : State) : (s.onBerth p g).lk = s.lk := rfl
@[simp] theorem State.onBerth_pw (p : Nat) (g : Berth → Berth) (s : State) : (s.onBerth p g).pw = s.pw := rfl
@[simp] theorem State.onBerth_ras (p : Nat) (g : Berth → Berth) (s : State) : (s.onBerth p g).ras = s.ras := rfl
@[simp] theorem State.onBerth_sec (p : Nat) (g : Berth → Berth) (s : State) : (s.onBerth p g).sec = s.sec := rfl
@[simp] theorem State.onBerth_hif (p : Nat) (g : Berth → Berth) (s : State) : (s.onBerth p g).hif = s.hif := rfl
@[simp] theorem State.onBerth_boot (p : Nat) (g : Berth → Berth) (s : State) : (s.onBerth p g).boot = s.boot := rfl
@[simp] theorem State.onBerth_crc (p : Nat) (g : Berth → Berth) (s : State) : (s.onBerth p g).crc = s.crc := rfl
@[simp] theorem State.onBerth_pins (p : Nat) (g : Berth → Berth) (s : State) : (s.onBerth p g).pins = s.pins := rfl
@[simp] theorem State.onBerth_out (p : Nat) (g : Berth → Berth) (s : State) : (s.onBerth p g).out = s.out := rfl
@[simp] theorem State.onBerth_freeTick (p : Nat) (g : Berth → Berth) (s : State) : (s.onBerth p g).freeTick = s.freeTick := rfl
@[simp] theorem State.onBerth_pending (p : Nat) (g : Berth → Berth) (s : State) : (s.onBerth p g).pending = s.pending := rfl
@[simp] theorem State.onMill_part (p : Nat) (g : Mill → Mill) (s : State) : (s.onMill p g).part = s.part := rfl
@[simp] theorem State.onMill_disabled (p : Nat) (g : Mill → Mill) (s : State) : (s.onMill p g).disabled = s.disabled := rfl
@[simp] theorem State.onMill_uid (p : Nat) (g : Mill → Mill) (s : State) : (s.onMill p g).uid = s.uid := rfl
@[simp] theorem State.onMill_formats (p : Nat) (g : Mill → Mill) (s : State) : (s.onMill p g).formats = s.formats := rfl
@[simp] theorem State.onMill_frenor (p : Nat) (g : Mill → Mill) (s : State) : (s.onMill p g).frenor = s.frenor := rfl
@[simp] theorem State.onMill_tide (p : Nat) (g : Mill → Mill) (s : State) : (s.onMill p g).tide = s.tide := rfl
@[simp] theorem State.onMill_places (p : Nat) (g : Mill → Mill) (s : State) : (s.onMill p g).places = s.places := rfl
@[simp] theorem State.onMill_tiles (p : Nat) (g : Mill → Mill) (s : State) : (s.onMill p g).tiles = s.tiles := rfl
@[simp] theorem State.onMill_clusters (p : Nat) (g : Mill → Mill) (s : State) : (s.onMill p g).clusters = s.clusters := rfl
@[simp] theorem State.onMill_hm (p : Nat) (g : Mill → Mill) (s : State) : (s.onMill p g).hm = s.hm := rfl
@[simp] theorem State.onMill_berths (p : Nat) (g : Mill → Mill) (s : State) : (s.onMill p g).berths = s.berths := rfl
@[simp] theorem State.onMill_fu (p : Nat) (g : Mill → Mill) (s : State) : (s.onMill p g).fu = s.fu := rfl
@[simp] theorem State.onMill_graphs (p : Nat) (g : Mill → Mill) (s : State) : (s.onMill p g).graphs = s.graphs := rfl
@[simp] theorem State.onMill_hb (p : Nat) (g : Mill → Mill) (s : State) : (s.onMill p g).hb = s.hb := rfl
@[simp] theorem State.onMill_mills (p : Nat) (g : Mill → Mill) (s : State) : (s.onMill p g).mills = tabMod {} s.mills p g := rfl
@[simp] theorem State.onMill_scans (p : Nat) (g : Mill → Mill) (s : State) : (s.onMill p g).scans = s.scans := rfl
@[simp] theorem State.onMill_mergeHalves (p : Nat) (g : Mill → Mill) (s : State) : (s.onMill p g).mergeHalves = s.mergeHalves := rfl
@[simp] theorem State.onMill_mem (p : Nat) (g : Mill → Mill) (s : State) : (s.onMill p g).mem = s.mem := rfl
@[simp] theorem State.onMill_xl (p : Nat) (g : Mill → Mill) (s : State) : (s.onMill p g).xl = s.xl := rfl
@[simp] theorem State.onMill_rg (p : Nat) (g : Mill → Mill) (s : State) : (s.onMill p g).rg = s.rg := rfl
@[simp] theorem State.onMill_lk (p : Nat) (g : Mill → Mill) (s : State) : (s.onMill p g).lk = s.lk := rfl
@[simp] theorem State.onMill_pw (p : Nat) (g : Mill → Mill) (s : State) : (s.onMill p g).pw = s.pw := rfl
@[simp] theorem State.onMill_ras (p : Nat) (g : Mill → Mill) (s : State) : (s.onMill p g).ras = s.ras := rfl
@[simp] theorem State.onMill_sec (p : Nat) (g : Mill → Mill) (s : State) : (s.onMill p g).sec = s.sec := rfl
@[simp] theorem State.onMill_hif (p : Nat) (g : Mill → Mill) (s : State) : (s.onMill p g).hif = s.hif := rfl
@[simp] theorem State.onMill_boot (p : Nat) (g : Mill → Mill) (s : State) : (s.onMill p g).boot = s.boot := rfl
@[simp] theorem State.onMill_crc (p : Nat) (g : Mill → Mill) (s : State) : (s.onMill p g).crc = s.crc := rfl
@[simp] theorem State.onMill_pins (p : Nat) (g : Mill → Mill) (s : State) : (s.onMill p g).pins = s.pins := rfl
@[simp] theorem State.onMill_out (p : Nat) (g : Mill → Mill) (s : State) : (s.onMill p g).out = s.out := rfl
@[simp] theorem State.onMill_freeTick (p : Nat) (g : Mill → Mill) (s : State) : (s.onMill p g).freeTick = s.freeTick := rfl
@[simp] theorem State.onMill_pending (p : Nat) (g : Mill → Mill) (s : State) : (s.onMill p g).pending = s.pending := rfl
@[simp] theorem State.onChan_part (p : Nat) (g : Chan → Chan) (s : State) : (s.onChan p g).part = s.part := rfl
@[simp] theorem State.onChan_disabled (p : Nat) (g : Chan → Chan) (s : State) : (s.onChan p g).disabled = s.disabled := rfl
@[simp] theorem State.onChan_uid (p : Nat) (g : Chan → Chan) (s : State) : (s.onChan p g).uid = s.uid := rfl
@[simp] theorem State.onChan_formats (p : Nat) (g : Chan → Chan) (s : State) : (s.onChan p g).formats = s.formats := rfl
@[simp] theorem State.onChan_frenor (p : Nat) (g : Chan → Chan) (s : State) : (s.onChan p g).frenor = s.frenor := rfl
@[simp] theorem State.onChan_tide (p : Nat) (g : Chan → Chan) (s : State) : (s.onChan p g).tide = s.tide := rfl
@[simp] theorem State.onChan_places (p : Nat) (g : Chan → Chan) (s : State) : (s.onChan p g).places = s.places := rfl
@[simp] theorem State.onChan_tiles (p : Nat) (g : Chan → Chan) (s : State) : (s.onChan p g).tiles = s.tiles := rfl
@[simp] theorem State.onChan_clusters (p : Nat) (g : Chan → Chan) (s : State) : (s.onChan p g).clusters = s.clusters := rfl
@[simp] theorem State.onChan_hm (p : Nat) (g : Chan → Chan) (s : State) : (s.onChan p g).hm = s.hm := rfl
@[simp] theorem State.onChan_berths (p : Nat) (g : Chan → Chan) (s : State) : (s.onChan p g).berths = s.berths := rfl
@[simp] theorem State.onChan_fu (p : Nat) (g : Chan → Chan) (s : State) : (s.onChan p g).fu = s.fu := rfl
@[simp] theorem State.onChan_graphs (p : Nat) (g : Chan → Chan) (s : State) : (s.onChan p g).graphs = s.graphs := rfl
@[simp] theorem State.onChan_hb (p : Nat) (g : Chan → Chan) (s : State) : (s.onChan p g).hb = s.hb := rfl
@[simp] theorem State.onChan_mills (p : Nat) (g : Chan → Chan) (s : State) : (s.onChan p g).mills = s.mills := rfl
@[simp] theorem State.onChan_scans (p : Nat) (g : Chan → Chan) (s : State) : (s.onChan p g).scans = s.scans := rfl
@[simp] theorem State.onChan_mergeHalves (p : Nat) (g : Chan → Chan) (s : State) : (s.onChan p g).mergeHalves = s.mergeHalves := rfl
@[simp] theorem State.onChan_mem (p : Nat) (g : Chan → Chan) (s : State) : (s.onChan p g).mem = { s.mem with chans := tabMod {} s.mem.chans p g } := rfl
@[simp] theorem State.onChan_xl (p : Nat) (g : Chan → Chan) (s : State) : (s.onChan p g).xl = s.xl := rfl
@[simp] theorem State.onChan_rg (p : Nat) (g : Chan → Chan) (s : State) : (s.onChan p g).rg = s.rg := rfl
@[simp] theorem State.onChan_lk (p : Nat) (g : Chan → Chan) (s : State) : (s.onChan p g).lk = s.lk := rfl
@[simp] theorem State.onChan_pw (p : Nat) (g : Chan → Chan) (s : State) : (s.onChan p g).pw = s.pw := rfl
@[simp] theorem State.onChan_ras (p : Nat) (g : Chan → Chan) (s : State) : (s.onChan p g).ras = s.ras := rfl
@[simp] theorem State.onChan_sec (p : Nat) (g : Chan → Chan) (s : State) : (s.onChan p g).sec = s.sec := rfl
@[simp] theorem State.onChan_hif (p : Nat) (g : Chan → Chan) (s : State) : (s.onChan p g).hif = s.hif := rfl
@[simp] theorem State.onChan_boot (p : Nat) (g : Chan → Chan) (s : State) : (s.onChan p g).boot = s.boot := rfl
@[simp] theorem State.onChan_crc (p : Nat) (g : Chan → Chan) (s : State) : (s.onChan p g).crc = s.crc := rfl
@[simp] theorem State.onChan_pins (p : Nat) (g : Chan → Chan) (s : State) : (s.onChan p g).pins = s.pins := rfl
@[simp] theorem State.onChan_out (p : Nat) (g : Chan → Chan) (s : State) : (s.onChan p g).out = s.out := rfl
@[simp] theorem State.onChan_freeTick (p : Nat) (g : Chan → Chan) (s : State) : (s.onChan p g).freeTick = s.freeTick := rfl
@[simp] theorem State.onChan_pending (p : Nat) (g : Chan → Chan) (s : State) : (s.onChan p g).pending = s.pending := rfl
@[simp] theorem State.onPort_part (p : Nat) (g : Port → Port) (s : State) : (s.onPort p g).part = s.part := rfl
@[simp] theorem State.onPort_disabled (p : Nat) (g : Port → Port) (s : State) : (s.onPort p g).disabled = s.disabled := rfl
@[simp] theorem State.onPort_uid (p : Nat) (g : Port → Port) (s : State) : (s.onPort p g).uid = s.uid := rfl
@[simp] theorem State.onPort_formats (p : Nat) (g : Port → Port) (s : State) : (s.onPort p g).formats = s.formats := rfl
@[simp] theorem State.onPort_frenor (p : Nat) (g : Port → Port) (s : State) : (s.onPort p g).frenor = s.frenor := rfl
@[simp] theorem State.onPort_tide (p : Nat) (g : Port → Port) (s : State) : (s.onPort p g).tide = s.tide := rfl
@[simp] theorem State.onPort_places (p : Nat) (g : Port → Port) (s : State) : (s.onPort p g).places = s.places := rfl
@[simp] theorem State.onPort_tiles (p : Nat) (g : Port → Port) (s : State) : (s.onPort p g).tiles = s.tiles := rfl
@[simp] theorem State.onPort_clusters (p : Nat) (g : Port → Port) (s : State) : (s.onPort p g).clusters = s.clusters := rfl
@[simp] theorem State.onPort_hm (p : Nat) (g : Port → Port) (s : State) : (s.onPort p g).hm = s.hm := rfl
@[simp] theorem State.onPort_berths (p : Nat) (g : Port → Port) (s : State) : (s.onPort p g).berths = s.berths := rfl
@[simp] theorem State.onPort_fu (p : Nat) (g : Port → Port) (s : State) : (s.onPort p g).fu = s.fu := rfl
@[simp] theorem State.onPort_graphs (p : Nat) (g : Port → Port) (s : State) : (s.onPort p g).graphs = s.graphs := rfl
@[simp] theorem State.onPort_hb (p : Nat) (g : Port → Port) (s : State) : (s.onPort p g).hb = s.hb := rfl
@[simp] theorem State.onPort_mills (p : Nat) (g : Port → Port) (s : State) : (s.onPort p g).mills = s.mills := rfl
@[simp] theorem State.onPort_scans (p : Nat) (g : Port → Port) (s : State) : (s.onPort p g).scans = s.scans := rfl
@[simp] theorem State.onPort_mergeHalves (p : Nat) (g : Port → Port) (s : State) : (s.onPort p g).mergeHalves = s.mergeHalves := rfl
@[simp] theorem State.onPort_mem (p : Nat) (g : Port → Port) (s : State) : (s.onPort p g).mem = s.mem := rfl
@[simp] theorem State.onPort_xl (p : Nat) (g : Port → Port) (s : State) : (s.onPort p g).xl = s.xl := rfl
@[simp] theorem State.onPort_rg (p : Nat) (g : Port → Port) (s : State) : (s.onPort p g).rg = s.rg := rfl
@[simp] theorem State.onPort_lk (p : Nat) (g : Port → Port) (s : State) : (s.onPort p g).lk = { s.lk with ports := tabMod {} s.lk.ports p g } := rfl
@[simp] theorem State.onPort_pw (p : Nat) (g : Port → Port) (s : State) : (s.onPort p g).pw = s.pw := rfl
@[simp] theorem State.onPort_ras (p : Nat) (g : Port → Port) (s : State) : (s.onPort p g).ras = s.ras := rfl
@[simp] theorem State.onPort_sec (p : Nat) (g : Port → Port) (s : State) : (s.onPort p g).sec = s.sec := rfl
@[simp] theorem State.onPort_hif (p : Nat) (g : Port → Port) (s : State) : (s.onPort p g).hif = s.hif := rfl
@[simp] theorem State.onPort_boot (p : Nat) (g : Port → Port) (s : State) : (s.onPort p g).boot = s.boot := rfl
@[simp] theorem State.onPort_crc (p : Nat) (g : Port → Port) (s : State) : (s.onPort p g).crc = s.crc := rfl
@[simp] theorem State.onPort_pins (p : Nat) (g : Port → Port) (s : State) : (s.onPort p g).pins = s.pins := rfl
@[simp] theorem State.onPort_out (p : Nat) (g : Port → Port) (s : State) : (s.onPort p g).out = s.out := rfl
@[simp] theorem State.onPort_freeTick (p : Nat) (g : Port → Port) (s : State) : (s.onPort p g).freeTick = s.freeTick := rfl
@[simp] theorem State.onPort_pending (p : Nat) (g : Port → Port) (s : State) : (s.onPort p g).pending = s.pending := rfl
@[simp] theorem State.onLg_part (p : Nat) (g : LaneGroup → LaneGroup) (s : State) : (s.onLg p g).part = s.part := rfl
@[simp] theorem State.onLg_disabled (p : Nat) (g : LaneGroup → LaneGroup) (s : State) : (s.onLg p g).disabled = s.disabled := rfl
@[simp] theorem State.onLg_uid (p : Nat) (g : LaneGroup → LaneGroup) (s : State) : (s.onLg p g).uid = s.uid := rfl
@[simp] theorem State.onLg_formats (p : Nat) (g : LaneGroup → LaneGroup) (s : State) : (s.onLg p g).formats = s.formats := rfl
@[simp] theorem State.onLg_frenor (p : Nat) (g : LaneGroup → LaneGroup) (s : State) : (s.onLg p g).frenor = s.frenor := rfl
@[simp] theorem State.onLg_tide (p : Nat) (g : LaneGroup → LaneGroup) (s : State) : (s.onLg p g).tide = s.tide := rfl
@[simp] theorem State.onLg_places (p : Nat) (g : LaneGroup → LaneGroup) (s : State) : (s.onLg p g).places = s.places := rfl
@[simp] theorem State.onLg_tiles (p : Nat) (g : LaneGroup → LaneGroup) (s : State) : (s.onLg p g).tiles = s.tiles := rfl
@[simp] theorem State.onLg_clusters (p : Nat) (g : LaneGroup → LaneGroup) (s : State) : (s.onLg p g).clusters = s.clusters := rfl
@[simp] theorem State.onLg_hm (p : Nat) (g : LaneGroup → LaneGroup) (s : State) : (s.onLg p g).hm = s.hm := rfl
@[simp] theorem State.onLg_berths (p : Nat) (g : LaneGroup → LaneGroup) (s : State) : (s.onLg p g).berths = s.berths := rfl
@[simp] theorem State.onLg_fu (p : Nat) (g : LaneGroup → LaneGroup) (s : State) : (s.onLg p g).fu = s.fu := rfl
@[simp] theorem State.onLg_graphs (p : Nat) (g : LaneGroup → LaneGroup) (s : State) : (s.onLg p g).graphs = s.graphs := rfl
@[simp] theorem State.onLg_hb (p : Nat) (g : LaneGroup → LaneGroup) (s : State) : (s.onLg p g).hb = s.hb := rfl
@[simp] theorem State.onLg_mills (p : Nat) (g : LaneGroup → LaneGroup) (s : State) : (s.onLg p g).mills = s.mills := rfl
@[simp] theorem State.onLg_scans (p : Nat) (g : LaneGroup → LaneGroup) (s : State) : (s.onLg p g).scans = s.scans := rfl
@[simp] theorem State.onLg_mergeHalves (p : Nat) (g : LaneGroup → LaneGroup) (s : State) : (s.onLg p g).mergeHalves = s.mergeHalves := rfl
@[simp] theorem State.onLg_mem (p : Nat) (g : LaneGroup → LaneGroup) (s : State) : (s.onLg p g).mem = s.mem := rfl
@[simp] theorem State.onLg_xl (p : Nat) (g : LaneGroup → LaneGroup) (s : State) : (s.onLg p g).xl = s.xl := rfl
@[simp] theorem State.onLg_rg (p : Nat) (g : LaneGroup → LaneGroup) (s : State) : (s.onLg p g).rg = s.rg := rfl
@[simp] theorem State.onLg_lk (p : Nat) (g : LaneGroup → LaneGroup) (s : State) : (s.onLg p g).lk = { s.lk with lgs := tabMod {} s.lk.lgs p g } := rfl
@[simp] theorem State.onLg_pw (p : Nat) (g : LaneGroup → LaneGroup) (s : State) : (s.onLg p g).pw = s.pw := rfl
@[simp] theorem State.onLg_ras (p : Nat) (g : LaneGroup → LaneGroup) (s : State) : (s.onLg p g).ras = s.ras := rfl
@[simp] theorem State.onLg_sec (p : Nat) (g : LaneGroup → LaneGroup) (s : State) : (s.onLg p g).sec = s.sec := rfl
@[simp] theorem State.onLg_hif (p : Nat) (g : LaneGroup → LaneGroup) (s : State) : (s.onLg p g).hif = s.hif := rfl
@[simp] theorem State.onLg_boot (p : Nat) (g : LaneGroup → LaneGroup) (s : State) : (s.onLg p g).boot = s.boot := rfl
@[simp] theorem State.onLg_crc (p : Nat) (g : LaneGroup → LaneGroup) (s : State) : (s.onLg p g).crc = s.crc := rfl
@[simp] theorem State.onLg_pins (p : Nat) (g : LaneGroup → LaneGroup) (s : State) : (s.onLg p g).pins = s.pins := rfl
@[simp] theorem State.onLg_out (p : Nat) (g : LaneGroup → LaneGroup) (s : State) : (s.onLg p g).out = s.out := rfl
@[simp] theorem State.onLg_freeTick (p : Nat) (g : LaneGroup → LaneGroup) (s : State) : (s.onLg p g).freeTick = s.freeTick := rfl
@[simp] theorem State.onLg_pending (p : Nat) (g : LaneGroup → LaneGroup) (s : State) : (s.onLg p g).pending = s.pending := rfl
@[simp] theorem State.onLink_part (p : Nat) (g : Link → Link) (s : State) : (s.onLink p g).part = s.part := rfl
@[simp] theorem State.onLink_disabled (p : Nat) (g : Link → Link) (s : State) : (s.onLink p g).disabled = s.disabled := rfl
@[simp] theorem State.onLink_uid (p : Nat) (g : Link → Link) (s : State) : (s.onLink p g).uid = s.uid := rfl
@[simp] theorem State.onLink_formats (p : Nat) (g : Link → Link) (s : State) : (s.onLink p g).formats = s.formats := rfl
@[simp] theorem State.onLink_frenor (p : Nat) (g : Link → Link) (s : State) : (s.onLink p g).frenor = s.frenor := rfl
@[simp] theorem State.onLink_tide (p : Nat) (g : Link → Link) (s : State) : (s.onLink p g).tide = s.tide := rfl
@[simp] theorem State.onLink_places (p : Nat) (g : Link → Link) (s : State) : (s.onLink p g).places = s.places := rfl
@[simp] theorem State.onLink_tiles (p : Nat) (g : Link → Link) (s : State) : (s.onLink p g).tiles = s.tiles := rfl
@[simp] theorem State.onLink_clusters (p : Nat) (g : Link → Link) (s : State) : (s.onLink p g).clusters = s.clusters := rfl
@[simp] theorem State.onLink_hm (p : Nat) (g : Link → Link) (s : State) : (s.onLink p g).hm = s.hm := rfl
@[simp] theorem State.onLink_berths (p : Nat) (g : Link → Link) (s : State) : (s.onLink p g).berths = s.berths := rfl
@[simp] theorem State.onLink_fu (p : Nat) (g : Link → Link) (s : State) : (s.onLink p g).fu = s.fu := rfl
@[simp] theorem State.onLink_graphs (p : Nat) (g : Link → Link) (s : State) : (s.onLink p g).graphs = s.graphs := rfl
@[simp] theorem State.onLink_hb (p : Nat) (g : Link → Link) (s : State) : (s.onLink p g).hb = s.hb := rfl
@[simp] theorem State.onLink_mills (p : Nat) (g : Link → Link) (s : State) : (s.onLink p g).mills = s.mills := rfl
@[simp] theorem State.onLink_scans (p : Nat) (g : Link → Link) (s : State) : (s.onLink p g).scans = s.scans := rfl
@[simp] theorem State.onLink_mergeHalves (p : Nat) (g : Link → Link) (s : State) : (s.onLink p g).mergeHalves = s.mergeHalves := rfl
@[simp] theorem State.onLink_mem (p : Nat) (g : Link → Link) (s : State) : (s.onLink p g).mem = s.mem := rfl
@[simp] theorem State.onLink_xl (p : Nat) (g : Link → Link) (s : State) : (s.onLink p g).xl = s.xl := rfl
@[simp] theorem State.onLink_rg (p : Nat) (g : Link → Link) (s : State) : (s.onLink p g).rg = s.rg := rfl
@[simp] theorem State.onLink_lk (p : Nat) (g : Link → Link) (s : State) : (s.onLink p g).lk = s.lk := rfl
@[simp] theorem State.onLink_pw (p : Nat) (g : Link → Link) (s : State) : (s.onLink p g).pw = s.pw := rfl
@[simp] theorem State.onLink_ras (p : Nat) (g : Link → Link) (s : State) : (s.onLink p g).ras = s.ras := rfl
@[simp] theorem State.onLink_sec (p : Nat) (g : Link → Link) (s : State) : (s.onLink p g).sec = s.sec := rfl
@[simp] theorem State.onLink_hif (p : Nat) (g : Link → Link) (s : State) : (s.onLink p g).hif = { s.hif with links := tabMod {} s.hif.links p g } := rfl
@[simp] theorem State.onLink_boot (p : Nat) (g : Link → Link) (s : State) : (s.onLink p g).boot = s.boot := rfl
@[simp] theorem State.onLink_crc (p : Nat) (g : Link → Link) (s : State) : (s.onLink p g).crc = s.crc := rfl
@[simp] theorem State.onLink_pins (p : Nat) (g : Link → Link) (s : State) : (s.onLink p g).pins = s.pins := rfl
@[simp] theorem State.onLink_out (p : Nat) (g : Link → Link) (s : State) : (s.onLink p g).out = s.out := rfl
@[simp] theorem State.onLink_freeTick (p : Nat) (g : Link → Link) (s : State) : (s.onLink p g).freeTick = s.freeTick := rfl
@[simp] theorem State.onLink_pending (p : Nat) (g : Link → Link) (s : State) : (s.onLink p g).pending = s.pending := rfl
@[simp] theorem State.onPage_part (p : Nat) (g : CmdPage → CmdPage) (s : State) : (s.onPage p g).part = s.part := rfl
@[simp] theorem State.onPage_disabled (p : Nat) (g : CmdPage → CmdPage) (s : State) : (s.onPage p g).disabled = s.disabled := rfl
@[simp] theorem State.onPage_uid (p : Nat) (g : CmdPage → CmdPage) (s : State) : (s.onPage p g).uid = s.uid := rfl
@[simp] theorem State.onPage_formats (p : Nat) (g : CmdPage → CmdPage) (s : State) : (s.onPage p g).formats = s.formats := rfl
@[simp] theorem State.onPage_frenor (p : Nat) (g : CmdPage → CmdPage) (s : State) : (s.onPage p g).frenor = s.frenor := rfl
@[simp] theorem State.onPage_tide (p : Nat) (g : CmdPage → CmdPage) (s : State) : (s.onPage p g).tide = s.tide := rfl
@[simp] theorem State.onPage_places (p : Nat) (g : CmdPage → CmdPage) (s : State) : (s.onPage p g).places = s.places := rfl
@[simp] theorem State.onPage_tiles (p : Nat) (g : CmdPage → CmdPage) (s : State) : (s.onPage p g).tiles = s.tiles := rfl
@[simp] theorem State.onPage_clusters (p : Nat) (g : CmdPage → CmdPage) (s : State) : (s.onPage p g).clusters = s.clusters := rfl
@[simp] theorem State.onPage_hm (p : Nat) (g : CmdPage → CmdPage) (s : State) : (s.onPage p g).hm = s.hm := rfl
@[simp] theorem State.onPage_berths (p : Nat) (g : CmdPage → CmdPage) (s : State) : (s.onPage p g).berths = s.berths := rfl
@[simp] theorem State.onPage_fu (p : Nat) (g : CmdPage → CmdPage) (s : State) : (s.onPage p g).fu = s.fu := rfl
@[simp] theorem State.onPage_graphs (p : Nat) (g : CmdPage → CmdPage) (s : State) : (s.onPage p g).graphs = s.graphs := rfl
@[simp] theorem State.onPage_hb (p : Nat) (g : CmdPage → CmdPage) (s : State) : (s.onPage p g).hb = s.hb := rfl
@[simp] theorem State.onPage_mills (p : Nat) (g : CmdPage → CmdPage) (s : State) : (s.onPage p g).mills = s.mills := rfl
@[simp] theorem State.onPage_scans (p : Nat) (g : CmdPage → CmdPage) (s : State) : (s.onPage p g).scans = s.scans := rfl
@[simp] theorem State.onPage_mergeHalves (p : Nat) (g : CmdPage → CmdPage) (s : State) : (s.onPage p g).mergeHalves = s.mergeHalves := rfl
@[simp] theorem State.onPage_mem (p : Nat) (g : CmdPage → CmdPage) (s : State) : (s.onPage p g).mem = s.mem := rfl
@[simp] theorem State.onPage_xl (p : Nat) (g : CmdPage → CmdPage) (s : State) : (s.onPage p g).xl = s.xl := rfl
@[simp] theorem State.onPage_rg (p : Nat) (g : CmdPage → CmdPage) (s : State) : (s.onPage p g).rg = s.rg := rfl
@[simp] theorem State.onPage_lk (p : Nat) (g : CmdPage → CmdPage) (s : State) : (s.onPage p g).lk = s.lk := rfl
@[simp] theorem State.onPage_pw (p : Nat) (g : CmdPage → CmdPage) (s : State) : (s.onPage p g).pw = s.pw := rfl
@[simp] theorem State.onPage_ras (p : Nat) (g : CmdPage → CmdPage) (s : State) : (s.onPage p g).ras = s.ras := rfl
@[simp] theorem State.onPage_sec (p : Nat) (g : CmdPage → CmdPage) (s : State) : (s.onPage p g).sec = s.sec := rfl
@[simp] theorem State.onPage_hif (p : Nat) (g : CmdPage → CmdPage) (s : State) : (s.onPage p g).hif = { s.hif with pages := tabMod {} s.hif.pages p g } := rfl
@[simp] theorem State.onPage_boot (p : Nat) (g : CmdPage → CmdPage) (s : State) : (s.onPage p g).boot = s.boot := rfl
@[simp] theorem State.onPage_crc (p : Nat) (g : CmdPage → CmdPage) (s : State) : (s.onPage p g).crc = s.crc := rfl
@[simp] theorem State.onPage_pins (p : Nat) (g : CmdPage → CmdPage) (s : State) : (s.onPage p g).pins = s.pins := rfl
@[simp] theorem State.onPage_out (p : Nat) (g : CmdPage → CmdPage) (s : State) : (s.onPage p g).out = s.out := rfl
@[simp] theorem State.onPage_freeTick (p : Nat) (g : CmdPage → CmdPage) (s : State) : (s.onPage p g).freeTick = s.freeTick := rfl
@[simp] theorem State.onPage_pending (p : Nat) (g : CmdPage → CmdPage) (s : State) : (s.onPage p g).pending = s.pending := rfl
@[simp] theorem State.onFq_part (p : Nat) (g : FaultQ → FaultQ) (s : State) : (s.onFq p g).part = s.part := rfl
@[simp] theorem State.onFq_disabled (p : Nat) (g : FaultQ → FaultQ) (s : State) : (s.onFq p g).disabled = s.disabled := rfl
@[simp] theorem State.onFq_uid (p : Nat) (g : FaultQ → FaultQ) (s : State) : (s.onFq p g).uid = s.uid := rfl
@[simp] theorem State.onFq_formats (p : Nat) (g : FaultQ → FaultQ) (s : State) : (s.onFq p g).formats = s.formats := rfl
@[simp] theorem State.onFq_frenor (p : Nat) (g : FaultQ → FaultQ) (s : State) : (s.onFq p g).frenor = s.frenor := rfl
@[simp] theorem State.onFq_tide (p : Nat) (g : FaultQ → FaultQ) (s : State) : (s.onFq p g).tide = s.tide := rfl
@[simp] theorem State.onFq_places (p : Nat) (g : FaultQ → FaultQ) (s : State) : (s.onFq p g).places = s.places := rfl
@[simp] theorem State.onFq_tiles (p : Nat) (g : FaultQ → FaultQ) (s : State) : (s.onFq p g).tiles = s.tiles := rfl
@[simp] theorem State.onFq_clusters (p : Nat) (g : FaultQ → FaultQ) (s : State) : (s.onFq p g).clusters = s.clusters := rfl
@[simp] theorem State.onFq_hm (p : Nat) (g : FaultQ → FaultQ) (s : State) : (s.onFq p g).hm = s.hm := rfl
@[simp] theorem State.onFq_berths (p : Nat) (g : FaultQ → FaultQ) (s : State) : (s.onFq p g).berths = s.berths := rfl
@[simp] theorem State.onFq_fu (p : Nat) (g : FaultQ → FaultQ) (s : State) : (s.onFq p g).fu = s.fu := rfl
@[simp] theorem State.onFq_graphs (p : Nat) (g : FaultQ → FaultQ) (s : State) : (s.onFq p g).graphs = s.graphs := rfl
@[simp] theorem State.onFq_hb (p : Nat) (g : FaultQ → FaultQ) (s : State) : (s.onFq p g).hb = s.hb := rfl
@[simp] theorem State.onFq_mills (p : Nat) (g : FaultQ → FaultQ) (s : State) : (s.onFq p g).mills = s.mills := rfl
@[simp] theorem State.onFq_scans (p : Nat) (g : FaultQ → FaultQ) (s : State) : (s.onFq p g).scans = s.scans := rfl
@[simp] theorem State.onFq_mergeHalves (p : Nat) (g : FaultQ → FaultQ) (s : State) : (s.onFq p g).mergeHalves = s.mergeHalves := rfl
@[simp] theorem State.onFq_mem (p : Nat) (g : FaultQ → FaultQ) (s : State) : (s.onFq p g).mem = s.mem := rfl
@[simp] theorem State.onFq_xl (p : Nat) (g : FaultQ → FaultQ) (s : State) : (s.onFq p g).xl = { s.xl with fq := tabMod {} s.xl.fq p g } := rfl
@[simp] theorem State.onFq_rg (p : Nat) (g : FaultQ → FaultQ) (s : State) : (s.onFq p g).rg = s.rg := rfl
@[simp] theorem State.onFq_lk (p : Nat) (g : FaultQ → FaultQ) (s : State) : (s.onFq p g).lk = s.lk := rfl
@[simp] theorem State.onFq_pw (p : Nat) (g : FaultQ → FaultQ) (s : State) : (s.onFq p g).pw = s.pw := rfl
@[simp] theorem State.onFq_ras (p : Nat) (g : FaultQ → FaultQ) (s : State) : (s.onFq p g).ras = s.ras := rfl
@[simp] theorem State.onFq_sec (p : Nat) (g : FaultQ → FaultQ) (s : State) : (s.onFq p g).sec = s.sec := rfl
@[simp] theorem State.onFq_hif (p : Nat) (g : FaultQ → FaultQ) (s : State) : (s.onFq p g).hif = s.hif := rfl
@[simp] theorem State.onFq_boot (p : Nat) (g : FaultQ → FaultQ) (s : State) : (s.onFq p g).boot = s.boot := rfl
@[simp] theorem State.onFq_crc (p : Nat) (g : FaultQ → FaultQ) (s : State) : (s.onFq p g).crc = s.crc := rfl
@[simp] theorem State.onFq_pins (p : Nat) (g : FaultQ → FaultQ) (s : State) : (s.onFq p g).pins = s.pins := rfl
@[simp] theorem State.onFq_out (p : Nat) (g : FaultQ → FaultQ) (s : State) : (s.onFq p g).out = s.out := rfl
@[simp] theorem State.onFq_freeTick (p : Nat) (g : FaultQ → FaultQ) (s : State) : (s.onFq p g).freeTick = s.freeTick := rfl
@[simp] theorem State.onFq_pending (p : Nat) (g : FaultQ → FaultQ) (s : State) : (s.onFq p g).pending = s.pending := rfl
@[simp] theorem State.onRail_part (p : Nat) (g : Rail → Rail) (s : State) : (s.onRail p g).part = s.part := rfl
@[simp] theorem State.onRail_disabled (p : Nat) (g : Rail → Rail) (s : State) : (s.onRail p g).disabled = s.disabled := rfl
@[simp] theorem State.onRail_uid (p : Nat) (g : Rail → Rail) (s : State) : (s.onRail p g).uid = s.uid := rfl
@[simp] theorem State.onRail_formats (p : Nat) (g : Rail → Rail) (s : State) : (s.onRail p g).formats = s.formats := rfl
@[simp] theorem State.onRail_frenor (p : Nat) (g : Rail → Rail) (s : State) : (s.onRail p g).frenor = s.frenor := rfl
@[simp] theorem State.onRail_tide (p : Nat) (g : Rail → Rail) (s : State) : (s.onRail p g).tide = s.tide := rfl
@[simp] theorem State.onRail_places (p : Nat) (g : Rail → Rail) (s : State) : (s.onRail p g).places = s.places := rfl
@[simp] theorem State.onRail_tiles (p : Nat) (g : Rail → Rail) (s : State) : (s.onRail p g).tiles = s.tiles := rfl
@[simp] theorem State.onRail_clusters (p : Nat) (g : Rail → Rail) (s : State) : (s.onRail p g).clusters = s.clusters := rfl
@[simp] theorem State.onRail_hm (p : Nat) (g : Rail → Rail) (s : State) : (s.onRail p g).hm = s.hm := rfl
@[simp] theorem State.onRail_berths (p : Nat) (g : Rail → Rail) (s : State) : (s.onRail p g).berths = s.berths := rfl
@[simp] theorem State.onRail_fu (p : Nat) (g : Rail → Rail) (s : State) : (s.onRail p g).fu = s.fu := rfl
@[simp] theorem State.onRail_graphs (p : Nat) (g : Rail → Rail) (s : State) : (s.onRail p g).graphs = s.graphs := rfl
@[simp] theorem State.onRail_hb (p : Nat) (g : Rail → Rail) (s : State) : (s.onRail p g).hb = s.hb := rfl
@[simp] theorem State.onRail_mills (p : Nat) (g : Rail → Rail) (s : State) : (s.onRail p g).mills = s.mills := rfl
@[simp] theorem State.onRail_scans (p : Nat) (g : Rail → Rail) (s : State) : (s.onRail p g).scans = s.scans := rfl
@[simp] theorem State.onRail_mergeHalves (p : Nat) (g : Rail → Rail) (s : State) : (s.onRail p g).mergeHalves = s.mergeHalves := rfl
@[simp] theorem State.onRail_mem (p : Nat) (g : Rail → Rail) (s : State) : (s.onRail p g).mem = s.mem := rfl
@[simp] theorem State.onRail_xl (p : Nat) (g : Rail → Rail) (s : State) : (s.onRail p g).xl = s.xl := rfl
@[simp] theorem State.onRail_rg (p : Nat) (g : Rail → Rail) (s : State) : (s.onRail p g).rg = s.rg := rfl
@[simp] theorem State.onRail_lk (p : Nat) (g : Rail → Rail) (s : State) : (s.onRail p g).lk = s.lk := rfl
@[simp] theorem State.onRail_pw (p : Nat) (g : Rail → Rail) (s : State) : (s.onRail p g).pw = { s.pw with rails := tabMod {} s.pw.rails p g } := rfl
@[simp] theorem State.onRail_ras (p : Nat) (g : Rail → Rail) (s : State) : (s.onRail p g).ras = s.ras := rfl
@[simp] theorem State.onRail_sec (p : Nat) (g : Rail → Rail) (s : State) : (s.onRail p g).sec = s.sec := rfl
@[simp] theorem State.onRail_hif (p : Nat) (g : Rail → Rail) (s : State) : (s.onRail p g).hif = s.hif := rfl
@[simp] theorem State.onRail_boot (p : Nat) (g : Rail → Rail) (s : State) : (s.onRail p g).boot = s.boot := rfl
@[simp] theorem State.onRail_crc (p : Nat) (g : Rail → Rail) (s : State) : (s.onRail p g).crc = s.crc := rfl
@[simp] theorem State.onRail_pins (p : Nat) (g : Rail → Rail) (s : State) : (s.onRail p g).pins = s.pins := rfl
@[simp] theorem State.onRail_out (p : Nat) (g : Rail → Rail) (s : State) : (s.onRail p g).out = s.out := rfl
@[simp] theorem State.onRail_freeTick (p : Nat) (g : Rail → Rail) (s : State) : (s.onRail p g).freeTick = s.freeTick := rfl
@[simp] theorem State.onRail_pending (p : Nat) (g : Rail → Rail) (s : State) : (s.onRail p g).pending = s.pending := rfl
@[simp] theorem State.setSlot_part (p k : Nat) (v : Slot) (s : State) : (s.setSlot p k v).part = s.part := rfl
@[simp] theorem State.setSlot_disabled (p k : Nat) (v : Slot) (s : State) : (s.setSlot p k v).disabled = s.disabled := rfl
@[simp] theorem State.setSlot_uid (p k : Nat) (v : Slot) (s : State) : (s.setSlot p k v).uid = s.uid := rfl
@[simp] theorem State.setSlot_formats (p k : Nat) (v : Slot) (s : State) : (s.setSlot p k v).formats = s.formats := rfl
@[simp] theorem State.setSlot_frenor (p k : Nat) (v : Slot) (s : State) : (s.setSlot p k v).frenor = s.frenor := rfl
@[simp] theorem State.setSlot_tide (p k : Nat) (v : Slot) (s : State) : (s.setSlot p k v).tide = s.tide := rfl
@[simp] theorem State.setSlot_places (p k : Nat) (v : Slot) (s : State) : (s.setSlot p k v).places = tabMod {} s.places p (fun q => { q with slots := tabSet {} q.slots k v }) := rfl
@[simp] theorem State.setSlot_tiles (p k : Nat) (v : Slot) (s : State) : (s.setSlot p k v).tiles = s.tiles := rfl
@[simp] theorem State.setSlot_clusters (p k : Nat) (v : Slot) (s : State) : (s.setSlot p k v).clusters = s.clusters := rfl
@[simp] theorem State.setSlot_hm (p k : Nat) (v : Slot) (s : State) : (s.setSlot p k v).hm = s.hm := rfl
@[simp] theorem State.setSlot_berths (p k : Nat) (v : Slot) (s : State) : (s.setSlot p k v).berths = s.berths := rfl
@[simp] theorem State.setSlot_fu (p k : Nat) (v : Slot) (s : State) : (s.setSlot p k v).fu = s.fu := rfl
@[simp] theorem State.setSlot_graphs (p k : Nat) (v : Slot) (s : State) : (s.setSlot p k v).graphs = s.graphs := rfl
@[simp] theorem State.setSlot_hb (p k : Nat) (v : Slot) (s : State) : (s.setSlot p k v).hb = s.hb := rfl
@[simp] theorem State.setSlot_mills (p k : Nat) (v : Slot) (s : State) : (s.setSlot p k v).mills = s.mills := rfl
@[simp] theorem State.setSlot_scans (p k : Nat) (v : Slot) (s : State) : (s.setSlot p k v).scans = s.scans := rfl
@[simp] theorem State.setSlot_mergeHalves (p k : Nat) (v : Slot) (s : State) : (s.setSlot p k v).mergeHalves = s.mergeHalves := rfl
@[simp] theorem State.setSlot_mem (p k : Nat) (v : Slot) (s : State) : (s.setSlot p k v).mem = s.mem := rfl
@[simp] theorem State.setSlot_xl (p k : Nat) (v : Slot) (s : State) : (s.setSlot p k v).xl = s.xl := rfl
@[simp] theorem State.setSlot_rg (p k : Nat) (v : Slot) (s : State) : (s.setSlot p k v).rg = s.rg := rfl
@[simp] theorem State.setSlot_lk (p k : Nat) (v : Slot) (s : State) : (s.setSlot p k v).lk = s.lk := rfl
@[simp] theorem State.setSlot_pw (p k : Nat) (v : Slot) (s : State) : (s.setSlot p k v).pw = s.pw := rfl
@[simp] theorem State.setSlot_ras (p k : Nat) (v : Slot) (s : State) : (s.setSlot p k v).ras = s.ras := rfl
@[simp] theorem State.setSlot_sec (p k : Nat) (v : Slot) (s : State) : (s.setSlot p k v).sec = s.sec := rfl
@[simp] theorem State.setSlot_hif (p k : Nat) (v : Slot) (s : State) : (s.setSlot p k v).hif = s.hif := rfl
@[simp] theorem State.setSlot_boot (p k : Nat) (v : Slot) (s : State) : (s.setSlot p k v).boot = s.boot := rfl
@[simp] theorem State.setSlot_crc (p k : Nat) (v : Slot) (s : State) : (s.setSlot p k v).crc = s.crc := rfl
@[simp] theorem State.setSlot_pins (p k : Nat) (v : Slot) (s : State) : (s.setSlot p k v).pins = s.pins := rfl
@[simp] theorem State.setSlot_out (p k : Nat) (v : Slot) (s : State) : (s.setSlot p k v).out = s.out := rfl
@[simp] theorem State.setSlot_freeTick (p k : Nat) (v : Slot) (s : State) : (s.setSlot p k v).freeTick = s.freeTick := rfl
@[simp] theorem State.setSlot_pending (p k : Nat) (v : Slot) (s : State) : (s.setSlot p k v).pending = s.pending := rfl
@[simp] theorem State.onSlot_part (p k : Nat) (g : Slot → Slot) (s : State) : (s.onSlot p k g).part = s.part := rfl
@[simp] theorem State.onSlot_disabled (p k : Nat) (g : Slot → Slot) (s : State) : (s.onSlot p k g).disabled = s.disabled := rfl
@[simp] theorem State.onSlot_uid (p k : Nat) (g : Slot → Slot) (s : State) : (s.onSlot p k g).uid = s.uid := rfl
@[simp] theorem State.onSlot_formats (p k : Nat) (g : Slot → Slot) (s : State) : (s.onSlot p k g).formats = s.formats := rfl
@[simp] theorem State.onSlot_frenor (p k : Nat) (g : Slot → Slot) (s : State) : (s.onSlot p k g).frenor = s.frenor := rfl
@[simp] theorem State.onSlot_tide (p k : Nat) (g : Slot → Slot) (s : State) : (s.onSlot p k g).tide = s.tide := rfl
@[simp] theorem State.onSlot_places (p k : Nat) (g : Slot → Slot) (s : State) : (s.onSlot p k g).places = tabMod {} s.places p (fun q => { q with slots := tabSet {} q.slots k (g (s.slotAt p k)) }) := rfl
@[simp] theorem State.onSlot_tiles (p k : Nat) (g : Slot → Slot) (s : State) : (s.onSlot p k g).tiles = s.tiles := rfl
@[simp] theorem State.onSlot_clusters (p k : Nat) (g : Slot → Slot) (s : State) : (s.onSlot p k g).clusters = s.clusters := rfl
@[simp] theorem State.onSlot_hm (p k : Nat) (g : Slot → Slot) (s : State) : (s.onSlot p k g).hm = s.hm := rfl
@[simp] theorem State.onSlot_berths (p k : Nat) (g : Slot → Slot) (s : State) : (s.onSlot p k g).berths = s.berths := rfl
@[simp] theorem State.onSlot_fu (p k : Nat) (g : Slot → Slot) (s : State) : (s.onSlot p k g).fu = s.fu := rfl
@[simp] theorem State.onSlot_graphs (p k : Nat) (g : Slot → Slot) (s : State) : (s.onSlot p k g).graphs = s.graphs := rfl
@[simp] theorem State.onSlot_hb (p k : Nat) (g : Slot → Slot) (s : State) : (s.onSlot p k g).hb = s.hb := rfl
@[simp] theorem State.onSlot_mills (p k : Nat) (g : Slot → Slot) (s : State) : (s.onSlot p k g).mills = s.mills := rfl
@[simp] theorem State.onSlot_scans (p k : Nat) (g : Slot → Slot) (s : State) : (s.onSlot p k g).scans = s.scans := rfl
@[simp] theorem State.onSlot_mergeHalves (p k : Nat) (g : Slot → Slot) (s : State) : (s.onSlot p k g).mergeHalves = s.mergeHalves := rfl
@[simp] theorem State.onSlot_mem (p k : Nat) (g : Slot → Slot) (s : State) : (s.onSlot p k g).mem = s.mem := rfl
@[simp] theorem State.onSlot_xl (p k : Nat) (g : Slot → Slot) (s : State) : (s.onSlot p k g).xl = s.xl := rfl
@[simp] theorem State.onSlot_rg (p k : Nat) (g : Slot → Slot) (s : State) : (s.onSlot p k g).rg = s.rg := rfl
@[simp] theorem State.onSlot_lk (p k : Nat) (g : Slot → Slot) (s : State) : (s.onSlot p k g).lk = s.lk := rfl
@[simp] theorem State.onSlot_pw (p k : Nat) (g : Slot → Slot) (s : State) : (s.onSlot p k g).pw = s.pw := rfl
@[simp] theorem State.onSlot_ras (p k : Nat) (g : Slot → Slot) (s : State) : (s.onSlot p k g).ras = s.ras := rfl
@[simp] theorem State.onSlot_sec (p k : Nat) (g : Slot → Slot) (s : State) : (s.onSlot p k g).sec = s.sec := rfl
@[simp] theorem State.onSlot_hif (p k : Nat) (g : Slot → Slot) (s : State) : (s.onSlot p k g).hif = s.hif := rfl
@[simp] theorem State.onSlot_boot (p k : Nat) (g : Slot → Slot) (s : State) : (s.onSlot p k g).boot = s.boot := rfl
@[simp] theorem State.onSlot_crc (p k : Nat) (g : Slot → Slot) (s : State) : (s.onSlot p k g).crc = s.crc := rfl
@[simp] theorem State.onSlot_pins (p k : Nat) (g : Slot → Slot) (s : State) : (s.onSlot p k g).pins = s.pins := rfl
@[simp] theorem State.onSlot_out (p k : Nat) (g : Slot → Slot) (s : State) : (s.onSlot p k g).out = s.out := rfl
@[simp] theorem State.onSlot_freeTick (p k : Nat) (g : Slot → Slot) (s : State) : (s.onSlot p k g).freeTick = s.freeTick := rfl
@[simp] theorem State.onSlot_pending (p k : Nat) (g : Slot → Slot) (s : State) : (s.onSlot p k g).pending = s.pending := rfl
@[simp] theorem State.emit_part (o : Out) (s : State) : (s.emit o).part = s.part := rfl
@[simp] theorem State.emit_disabled (o : Out) (s : State) : (s.emit o).disabled = s.disabled := rfl
@[simp] theorem State.emit_uid (o : Out) (s : State) : (s.emit o).uid = s.uid := rfl
@[simp] theorem State.emit_formats (o : Out) (s : State) : (s.emit o).formats = s.formats := rfl
@[simp] theorem State.emit_frenor (o : Out) (s : State) : (s.emit o).frenor = s.frenor := rfl
@[simp] theorem State.emit_tide (o : Out) (s : State) : (s.emit o).tide = s.tide := rfl
@[simp] theorem State.emit_places (o : Out) (s : State) : (s.emit o).places = s.places := rfl
@[simp] theorem State.emit_tiles (o : Out) (s : State) : (s.emit o).tiles = s.tiles := rfl
@[simp] theorem State.emit_clusters (o : Out) (s : State) : (s.emit o).clusters = s.clusters := rfl
@[simp] theorem State.emit_hm (o : Out) (s : State) : (s.emit o).hm = s.hm := rfl
@[simp] theorem State.emit_berths (o : Out) (s : State) : (s.emit o).berths = s.berths := rfl
@[simp] theorem State.emit_fu (o : Out) (s : State) : (s.emit o).fu = s.fu := rfl
@[simp] theorem State.emit_graphs (o : Out) (s : State) : (s.emit o).graphs = s.graphs := rfl
@[simp] theorem State.emit_hb (o : Out) (s : State) : (s.emit o).hb = s.hb := rfl
@[simp] theorem State.emit_mills (o : Out) (s : State) : (s.emit o).mills = s.mills := rfl
@[simp] theorem State.emit_scans (o : Out) (s : State) : (s.emit o).scans = s.scans := rfl
@[simp] theorem State.emit_mergeHalves (o : Out) (s : State) : (s.emit o).mergeHalves = s.mergeHalves := rfl
@[simp] theorem State.emit_mem (o : Out) (s : State) : (s.emit o).mem = s.mem := rfl
@[simp] theorem State.emit_xl (o : Out) (s : State) : (s.emit o).xl = s.xl := rfl
@[simp] theorem State.emit_rg (o : Out) (s : State) : (s.emit o).rg = s.rg := rfl
@[simp] theorem State.emit_lk (o : Out) (s : State) : (s.emit o).lk = s.lk := rfl
@[simp] theorem State.emit_pw (o : Out) (s : State) : (s.emit o).pw = s.pw := rfl
@[simp] theorem State.emit_ras (o : Out) (s : State) : (s.emit o).ras = s.ras := rfl
@[simp] theorem State.emit_sec (o : Out) (s : State) : (s.emit o).sec = s.sec := rfl
@[simp] theorem State.emit_hif (o : Out) (s : State) : (s.emit o).hif = s.hif := rfl
@[simp] theorem State.emit_boot (o : Out) (s : State) : (s.emit o).boot = s.boot := rfl
@[simp] theorem State.emit_crc (o : Out) (s : State) : (s.emit o).crc = s.crc := rfl
@[simp] theorem State.emit_pins (o : Out) (s : State) : (s.emit o).pins = s.pins := rfl
@[simp] theorem State.emit_out (o : Out) (s : State) : (s.emit o).out = s.out ++ [o] := rfl
@[simp] theorem State.emit_freeTick (o : Out) (s : State) : (s.emit o).freeTick = s.freeTick := rfl
@[simp] theorem State.emit_pending (o : Out) (s : State) : (s.emit o).pending = s.pending := rfl
@[simp] theorem State.drawn_part (s : State) : s.drawn.part = s.part := rfl
@[simp] theorem State.drawn_disabled (s : State) : s.drawn.disabled = s.disabled := rfl
@[simp] theorem State.drawn_uid (s : State) : s.drawn.uid = s.uid := rfl
@[simp] theorem State.drawn_formats (s : State) : s.drawn.formats = s.formats := rfl
@[simp] theorem State.drawn_frenor (s : State) : s.drawn.frenor = s.frenor := rfl
@[simp] theorem State.drawn_tide (s : State) : s.drawn.tide = s.tide := rfl
@[simp] theorem State.drawn_places (s : State) : s.drawn.places = s.places := rfl
@[simp] theorem State.drawn_tiles (s : State) : s.drawn.tiles = s.tiles := rfl
@[simp] theorem State.drawn_clusters (s : State) : s.drawn.clusters = s.clusters := rfl
@[simp] theorem State.drawn_hm (s : State) : s.drawn.hm = s.hm := rfl
@[simp] theorem State.drawn_berths (s : State) : s.drawn.berths = s.berths := rfl
@[simp] theorem State.drawn_fu (s : State) : s.drawn.fu = s.fu := rfl
@[simp] theorem State.drawn_graphs (s : State) : s.drawn.graphs = s.graphs := rfl
@[simp] theorem State.drawn_hb (s : State) : s.drawn.hb = s.hb := rfl
@[simp] theorem State.drawn_mills (s : State) : s.drawn.mills = s.mills := rfl
@[simp] theorem State.drawn_scans (s : State) : s.drawn.scans = s.scans := rfl
@[simp] theorem State.drawn_mergeHalves (s : State) : s.drawn.mergeHalves = s.mergeHalves := rfl
@[simp] theorem State.drawn_mem (s : State) : s.drawn.mem = s.mem := rfl
@[simp] theorem State.drawn_xl (s : State) : s.drawn.xl = s.xl := rfl
@[simp] theorem State.drawn_rg (s : State) : s.drawn.rg = s.rg := rfl
@[simp] theorem State.drawn_lk (s : State) : s.drawn.lk = s.lk := rfl
@[simp] theorem State.drawn_pw (s : State) : s.drawn.pw = s.pw := rfl
@[simp] theorem State.drawn_ras (s : State) : s.drawn.ras = s.ras := rfl
@[simp] theorem State.drawn_sec (s : State) : s.drawn.sec = s.sec := rfl
@[simp] theorem State.drawn_hif (s : State) : s.drawn.hif = s.hif := rfl
@[simp] theorem State.drawn_boot (s : State) : s.drawn.boot = s.boot := rfl
@[simp] theorem State.drawn_crc (s : State) : s.drawn.crc = s.crc := rfl
@[simp] theorem State.drawn_pins (s : State) : s.drawn.pins = s.pins := rfl
@[simp] theorem State.drawn_out (s : State) : s.drawn.out = s.out := rfl
@[simp] theorem State.drawn_freeTick (s : State) : s.drawn.freeTick = s.freeTick + 1 := rfl
@[simp] theorem State.drawn_pending (s : State) : s.drawn.pending = s.pending := rfl
@[simp] theorem State.onLaunch_part (p : Nat) (g : Launch → Launch) (s : State) : (s.onLaunch p g).part = s.part := by
  unfold State.onLaunch; split <;> rfl
@[simp] theorem State.onLaunch_disabled (p : Nat) (g : Launch → Launch) (s : State) : (s.onLaunch p g).disabled = s.disabled := by
  unfold State.onLaunch; split <;> rfl
@[simp] theorem State.onLaunch_uid (p : Nat) (g : Launch → Launch) (s : State) : (s.onLaunch p g).uid = s.uid := by
  unfold State.onLaunch; split <;> rfl
@[simp] theorem State.onLaunch_formats (p : Nat) (g : Launch → Launch) (s : State) : (s.onLaunch p g).formats = s.formats := by
  unfold State.onLaunch; split <;> rfl
@[simp] theorem State.onLaunch_frenor (p : Nat) (g : Launch → Launch) (s : State) : (s.onLaunch p g).frenor = s.frenor := by
  unfold State.onLaunch; split <;> rfl
@[simp] theorem State.onLaunch_tide (p : Nat) (g : Launch → Launch) (s : State) : (s.onLaunch p g).tide = s.tide := by
  unfold State.onLaunch; split <;> rfl
@[simp] theorem State.onLaunch_places (p : Nat) (g : Launch → Launch) (s : State) : (s.onLaunch p g).places = s.places := by
  unfold State.onLaunch; split <;> rfl
@[simp] theorem State.onLaunch_tiles (p : Nat) (g : Launch → Launch) (s : State) : (s.onLaunch p g).tiles = s.tiles := by
  unfold State.onLaunch; split <;> rfl
@[simp] theorem State.onLaunch_clusters (p : Nat) (g : Launch → Launch) (s : State) : (s.onLaunch p g).clusters = s.clusters := by
  unfold State.onLaunch; split <;> rfl
@[simp] theorem State.onLaunch_berths (p : Nat) (g : Launch → Launch) (s : State) : (s.onLaunch p g).berths = s.berths := by
  unfold State.onLaunch; split <;> rfl
@[simp] theorem State.onLaunch_fu (p : Nat) (g : Launch → Launch) (s : State) : (s.onLaunch p g).fu = s.fu := by
  unfold State.onLaunch; split <;> rfl
@[simp] theorem State.onLaunch_graphs (p : Nat) (g : Launch → Launch) (s : State) : (s.onLaunch p g).graphs = s.graphs := by
  unfold State.onLaunch; split <;> rfl
@[simp] theorem State.onLaunch_hb (p : Nat) (g : Launch → Launch) (s : State) : (s.onLaunch p g).hb = s.hb := by
  unfold State.onLaunch; split <;> rfl
@[simp] theorem State.onLaunch_mills (p : Nat) (g : Launch → Launch) (s : State) : (s.onLaunch p g).mills = s.mills := by
  unfold State.onLaunch; split <;> rfl
@[simp] theorem State.onLaunch_scans (p : Nat) (g : Launch → Launch) (s : State) : (s.onLaunch p g).scans = s.scans := by
  unfold State.onLaunch; split <;> rfl
@[simp] theorem State.onLaunch_mergeHalves (p : Nat) (g : Launch → Launch) (s : State) : (s.onLaunch p g).mergeHalves = s.mergeHalves := by
  unfold State.onLaunch; split <;> rfl
@[simp] theorem State.onLaunch_mem (p : Nat) (g : Launch → Launch) (s : State) : (s.onLaunch p g).mem = s.mem := by
  unfold State.onLaunch; split <;> rfl
@[simp] theorem State.onLaunch_xl (p : Nat) (g : Launch → Launch) (s : State) : (s.onLaunch p g).xl = s.xl := by
  unfold State.onLaunch; split <;> rfl
@[simp] theorem State.onLaunch_rg (p : Nat) (g : Launch → Launch) (s : State) : (s.onLaunch p g).rg = s.rg := by
  unfold State.onLaunch; split <;> rfl
@[simp] theorem State.onLaunch_lk (p : Nat) (g : Launch → Launch) (s : State) : (s.onLaunch p g).lk = s.lk := by
  unfold State.onLaunch; split <;> rfl
@[simp] theorem State.onLaunch_pw (p : Nat) (g : Launch → Launch) (s : State) : (s.onLaunch p g).pw = s.pw := by
  unfold State.onLaunch; split <;> rfl
@[simp] theorem State.onLaunch_ras (p : Nat) (g : Launch → Launch) (s : State) : (s.onLaunch p g).ras = s.ras := by
  unfold State.onLaunch; split <;> rfl
@[simp] theorem State.onLaunch_sec (p : Nat) (g : Launch → Launch) (s : State) : (s.onLaunch p g).sec = s.sec := by
  unfold State.onLaunch; split <;> rfl
@[simp] theorem State.onLaunch_hif (p : Nat) (g : Launch → Launch) (s : State) : (s.onLaunch p g).hif = s.hif := by
  unfold State.onLaunch; split <;> rfl
@[simp] theorem State.onLaunch_boot (p : Nat) (g : Launch → Launch) (s : State) : (s.onLaunch p g).boot = s.boot := by
  unfold State.onLaunch; split <;> rfl
@[simp] theorem State.onLaunch_crc (p : Nat) (g : Launch → Launch) (s : State) : (s.onLaunch p g).crc = s.crc := by
  unfold State.onLaunch; split <;> rfl
@[simp] theorem State.onLaunch_pins (p : Nat) (g : Launch → Launch) (s : State) : (s.onLaunch p g).pins = s.pins := by
  unfold State.onLaunch; split <;> rfl
@[simp] theorem State.onLaunch_out (p : Nat) (g : Launch → Launch) (s : State) : (s.onLaunch p g).out = s.out := by
  unfold State.onLaunch; split <;> rfl
@[simp] theorem State.onLaunch_freeTick (p : Nat) (g : Launch → Launch) (s : State) : (s.onLaunch p g).freeTick = s.freeTick := by
  unfold State.onLaunch; split <;> rfl
@[simp] theorem State.onLaunch_pending (p : Nat) (g : Launch → Launch) (s : State) : (s.onLaunch p g).pending = s.pending := by
  unfold State.onLaunch; split <;> rfl
@[simp] theorem State.onHarbour_part (p : Nat) (g : Harbour → Harbour) (s : State) : (s.onHarbour p g).part = s.part := by
  unfold State.onHarbour; split <;> rfl
@[simp] theorem State.onHarbour_disabled (p : Nat) (g : Harbour → Harbour) (s : State) : (s.onHarbour p g).disabled = s.disabled := by
  unfold State.onHarbour; split <;> rfl
@[simp] theorem State.onHarbour_uid (p : Nat) (g : Harbour → Harbour) (s : State) : (s.onHarbour p g).uid = s.uid := by
  unfold State.onHarbour; split <;> rfl
@[simp] theorem State.onHarbour_formats (p : Nat) (g : Harbour → Harbour) (s : State) : (s.onHarbour p g).formats = s.formats := by
  unfold State.onHarbour; split <;> rfl
@[simp] theorem State.onHarbour_frenor (p : Nat) (g : Harbour → Harbour) (s : State) : (s.onHarbour p g).frenor = s.frenor := by
  unfold State.onHarbour; split <;> rfl
@[simp] theorem State.onHarbour_tide (p : Nat) (g : Harbour → Harbour) (s : State) : (s.onHarbour p g).tide = s.tide := by
  unfold State.onHarbour; split <;> rfl
@[simp] theorem State.onHarbour_places (p : Nat) (g : Harbour → Harbour) (s : State) : (s.onHarbour p g).places = s.places := by
  unfold State.onHarbour; split <;> rfl
@[simp] theorem State.onHarbour_tiles (p : Nat) (g : Harbour → Harbour) (s : State) : (s.onHarbour p g).tiles = s.tiles := by
  unfold State.onHarbour; split <;> rfl
@[simp] theorem State.onHarbour_clusters (p : Nat) (g : Harbour → Harbour) (s : State) : (s.onHarbour p g).clusters = s.clusters := by
  unfold State.onHarbour; split <;> rfl
@[simp] theorem State.onHarbour_hm (p : Nat) (g : Harbour → Harbour) (s : State) : (s.onHarbour p g).hm = s.hm := by
  unfold State.onHarbour; split <;> rfl
@[simp] theorem State.onHarbour_berths (p : Nat) (g : Harbour → Harbour) (s : State) : (s.onHarbour p g).berths = s.berths := by
  unfold State.onHarbour; split <;> rfl
@[simp] theorem State.onHarbour_fu (p : Nat) (g : Harbour → Harbour) (s : State) : (s.onHarbour p g).fu = s.fu := by
  unfold State.onHarbour; split <;> rfl
@[simp] theorem State.onHarbour_graphs (p : Nat) (g : Harbour → Harbour) (s : State) : (s.onHarbour p g).graphs = s.graphs := by
  unfold State.onHarbour; split <;> rfl
@[simp] theorem State.onHarbour_mills (p : Nat) (g : Harbour → Harbour) (s : State) : (s.onHarbour p g).mills = s.mills := by
  unfold State.onHarbour; split <;> rfl
@[simp] theorem State.onHarbour_scans (p : Nat) (g : Harbour → Harbour) (s : State) : (s.onHarbour p g).scans = s.scans := by
  unfold State.onHarbour; split <;> rfl
@[simp] theorem State.onHarbour_mergeHalves (p : Nat) (g : Harbour → Harbour) (s : State) : (s.onHarbour p g).mergeHalves = s.mergeHalves := by
  unfold State.onHarbour; split <;> rfl
@[simp] theorem State.onHarbour_mem (p : Nat) (g : Harbour → Harbour) (s : State) : (s.onHarbour p g).mem = s.mem := by
  unfold State.onHarbour; split <;> rfl
@[simp] theorem State.onHarbour_xl (p : Nat) (g : Harbour → Harbour) (s : State) : (s.onHarbour p g).xl = s.xl := by
  unfold State.onHarbour; split <;> rfl
@[simp] theorem State.onHarbour_rg (p : Nat) (g : Harbour → Harbour) (s : State) : (s.onHarbour p g).rg = s.rg := by
  unfold State.onHarbour; split <;> rfl
@[simp] theorem State.onHarbour_lk (p : Nat) (g : Harbour → Harbour) (s : State) : (s.onHarbour p g).lk = s.lk := by
  unfold State.onHarbour; split <;> rfl
@[simp] theorem State.onHarbour_pw (p : Nat) (g : Harbour → Harbour) (s : State) : (s.onHarbour p g).pw = s.pw := by
  unfold State.onHarbour; split <;> rfl
@[simp] theorem State.onHarbour_ras (p : Nat) (g : Harbour → Harbour) (s : State) : (s.onHarbour p g).ras = s.ras := by
  unfold State.onHarbour; split <;> rfl
@[simp] theorem State.onHarbour_sec (p : Nat) (g : Harbour → Harbour) (s : State) : (s.onHarbour p g).sec = s.sec := by
  unfold State.onHarbour; split <;> rfl
@[simp] theorem State.onHarbour_hif (p : Nat) (g : Harbour → Harbour) (s : State) : (s.onHarbour p g).hif = s.hif := by
  unfold State.onHarbour; split <;> rfl
@[simp] theorem State.onHarbour_boot (p : Nat) (g : Harbour → Harbour) (s : State) : (s.onHarbour p g).boot = s.boot := by
  unfold State.onHarbour; split <;> rfl
@[simp] theorem State.onHarbour_crc (p : Nat) (g : Harbour → Harbour) (s : State) : (s.onHarbour p g).crc = s.crc := by
  unfold State.onHarbour; split <;> rfl
@[simp] theorem State.onHarbour_pins (p : Nat) (g : Harbour → Harbour) (s : State) : (s.onHarbour p g).pins = s.pins := by
  unfold State.onHarbour; split <;> rfl
@[simp] theorem State.onHarbour_out (p : Nat) (g : Harbour → Harbour) (s : State) : (s.onHarbour p g).out = s.out := by
  unfold State.onHarbour; split <;> rfl
@[simp] theorem State.onHarbour_freeTick (p : Nat) (g : Harbour → Harbour) (s : State) : (s.onHarbour p g).freeTick = s.freeTick := by
  unfold State.onHarbour; split <;> rfl
@[simp] theorem State.onHarbour_pending (p : Nat) (g : Harbour → Harbour) (s : State) : (s.onHarbour p g).pending = s.pending := by
  unfold State.onHarbour; split <;> rfl
@[simp] theorem State.onAsid_part (p : Nat) (g : Ctx → Ctx) (s : State) : (s.onAsid p g).part = s.part := by
  unfold State.onAsid; split <;> rfl
@[simp] theorem State.onAsid_disabled (p : Nat) (g : Ctx → Ctx) (s : State) : (s.onAsid p g).disabled = s.disabled := by
  unfold State.onAsid; split <;> rfl
@[simp] theorem State.onAsid_uid (p : Nat) (g : Ctx → Ctx) (s : State) : (s.onAsid p g).uid = s.uid := by
  unfold State.onAsid; split <;> rfl
@[simp] theorem State.onAsid_formats (p : Nat) (g : Ctx → Ctx) (s : State) : (s.onAsid p g).formats = s.formats := by
  unfold State.onAsid; split <;> rfl
@[simp] theorem State.onAsid_frenor (p : Nat) (g : Ctx → Ctx) (s : State) : (s.onAsid p g).frenor = s.frenor := by
  unfold State.onAsid; split <;> rfl
@[simp] theorem State.onAsid_tide (p : Nat) (g : Ctx → Ctx) (s : State) : (s.onAsid p g).tide = s.tide := by
  unfold State.onAsid; split <;> rfl
@[simp] theorem State.onAsid_places (p : Nat) (g : Ctx → Ctx) (s : State) : (s.onAsid p g).places = s.places := by
  unfold State.onAsid; split <;> rfl
@[simp] theorem State.onAsid_tiles (p : Nat) (g : Ctx → Ctx) (s : State) : (s.onAsid p g).tiles = s.tiles := by
  unfold State.onAsid; split <;> rfl
@[simp] theorem State.onAsid_clusters (p : Nat) (g : Ctx → Ctx) (s : State) : (s.onAsid p g).clusters = s.clusters := by
  unfold State.onAsid; split <;> rfl
@[simp] theorem State.onAsid_hm (p : Nat) (g : Ctx → Ctx) (s : State) : (s.onAsid p g).hm = s.hm := by
  unfold State.onAsid; split <;> rfl
@[simp] theorem State.onAsid_berths (p : Nat) (g : Ctx → Ctx) (s : State) : (s.onAsid p g).berths = s.berths := by
  unfold State.onAsid; split <;> rfl
@[simp] theorem State.onAsid_fu (p : Nat) (g : Ctx → Ctx) (s : State) : (s.onAsid p g).fu = s.fu := by
  unfold State.onAsid; split <;> rfl
@[simp] theorem State.onAsid_graphs (p : Nat) (g : Ctx → Ctx) (s : State) : (s.onAsid p g).graphs = s.graphs := by
  unfold State.onAsid; split <;> rfl
@[simp] theorem State.onAsid_hb (p : Nat) (g : Ctx → Ctx) (s : State) : (s.onAsid p g).hb = s.hb := by
  unfold State.onAsid; split <;> rfl
@[simp] theorem State.onAsid_mills (p : Nat) (g : Ctx → Ctx) (s : State) : (s.onAsid p g).mills = s.mills := by
  unfold State.onAsid; split <;> rfl
@[simp] theorem State.onAsid_scans (p : Nat) (g : Ctx → Ctx) (s : State) : (s.onAsid p g).scans = s.scans := by
  unfold State.onAsid; split <;> rfl
@[simp] theorem State.onAsid_mergeHalves (p : Nat) (g : Ctx → Ctx) (s : State) : (s.onAsid p g).mergeHalves = s.mergeHalves := by
  unfold State.onAsid; split <;> rfl
@[simp] theorem State.onAsid_mem (p : Nat) (g : Ctx → Ctx) (s : State) : (s.onAsid p g).mem = s.mem := by
  unfold State.onAsid; split <;> rfl
@[simp] theorem State.onAsid_xl (p : Nat) (g : Ctx → Ctx) (s : State) : (s.onAsid p g).xl = s.xl := by
  unfold State.onAsid; split <;> rfl
@[simp] theorem State.onAsid_rg (p : Nat) (g : Ctx → Ctx) (s : State) : (s.onAsid p g).rg = s.rg := by
  unfold State.onAsid; split <;> rfl
@[simp] theorem State.onAsid_lk (p : Nat) (g : Ctx → Ctx) (s : State) : (s.onAsid p g).lk = s.lk := by
  unfold State.onAsid; split <;> rfl
@[simp] theorem State.onAsid_pw (p : Nat) (g : Ctx → Ctx) (s : State) : (s.onAsid p g).pw = s.pw := by
  unfold State.onAsid; split <;> rfl
@[simp] theorem State.onAsid_ras (p : Nat) (g : Ctx → Ctx) (s : State) : (s.onAsid p g).ras = s.ras := by
  unfold State.onAsid; split <;> rfl
@[simp] theorem State.onAsid_sec (p : Nat) (g : Ctx → Ctx) (s : State) : (s.onAsid p g).sec = s.sec := by
  unfold State.onAsid; split <;> rfl
@[simp] theorem State.onAsid_boot (p : Nat) (g : Ctx → Ctx) (s : State) : (s.onAsid p g).boot = s.boot := by
  unfold State.onAsid; split <;> rfl
@[simp] theorem State.onAsid_crc (p : Nat) (g : Ctx → Ctx) (s : State) : (s.onAsid p g).crc = s.crc := by
  unfold State.onAsid; split <;> rfl
@[simp] theorem State.onAsid_pins (p : Nat) (g : Ctx → Ctx) (s : State) : (s.onAsid p g).pins = s.pins := by
  unfold State.onAsid; split <;> rfl
@[simp] theorem State.onAsid_out (p : Nat) (g : Ctx → Ctx) (s : State) : (s.onAsid p g).out = s.out := by
  unfold State.onAsid; split <;> rfl
@[simp] theorem State.onAsid_freeTick (p : Nat) (g : Ctx → Ctx) (s : State) : (s.onAsid p g).freeTick = s.freeTick := by
  unfold State.onAsid; split <;> rfl
@[simp] theorem State.onAsid_pending (p : Nat) (g : Ctx → Ctx) (s : State) : (s.onAsid p g).pending = s.pending := by
  unfold State.onAsid; split <;> rfl

/-! Commands of units with a clock (R611), and writes by a master that may make them -/

/-- While the clocks run, a command has its effect. -/
@[simp] theorem State.clocked_run (s t : State) (h : s.halted = false) : s.clocked t = .next t := by
  simp [State.clocked, h]

/-- While they stand still, it has none. -/
theorem State.clocked_halt (s t : State) (h : s.halted = true) : s.clocked t = .next s := by
  simp [State.clocked, h]

/-- A write that its master may make, of a register of a present unit, takes effect. -/
theorem State.privWrite_run {m : Master} {o : Nat} {f : State → State} {s : State} (hm : m.privileged = true)
    (ha : s.absentUnit o = false) : s.privWrite m o f = f s := by
  simp [State.privWrite, hm, ha]

/-- A write that its master may not make is ignored, and counted unless the unit is absent. -/
theorem State.privWrite_ignored {m : Master} {o : Nat} {f : State → State} {s : State} (hm : m.privileged = false) :
    s.privWrite m o f = if s.absentUnit o then s else s.rwpIgnored m o := by
  simp [State.privWrite, hm]


/-! Reading a unit after its update -/

/-- The changed one reads as changed. -/
@[simp] theorem State.place_onPlace (p : Nat) (g : Place → Place) (s : State) : (s.onPlace p g).place p = g (s.place p) := by
  simp [State.place]

/-- Every other one is unchanged. -/
theorem State.place_onPlace_other (p q : Nat) (g : Place → Place) (s : State) (h : q ≠ p) : (s.onPlace p g).place q = s.place q := by
  simp [State.place, tabGet_tabMod_other, h]

/-- The changed one reads as changed. -/
@[simp] theorem State.tile_onTile (p : Nat) (g : PhysTile → PhysTile) (s : State) : (s.onTile p g).tile p = g (s.tile p) := by
  simp [State.tile]

/-- Every other one is unchanged. -/
theorem State.tile_onTile_other (p q : Nat) (g : PhysTile → PhysTile) (s : State) (h : q ≠ p) : (s.onTile p g).tile q = s.tile q := by
  simp [State.tile, tabGet_tabMod_other, h]

/-- The changed one reads as changed. -/
@[simp] theorem State.cluster_onCluster (p : Nat) (g : Cluster → Cluster) (s : State) : (s.onCluster p g).cluster p = g (s.cluster p) := by
  simp [State.cluster]

/-- Every other one is unchanged. -/
theorem State.cluster_onCluster_other (p q : Nat) (g : Cluster → Cluster) (s : State) (h : q ≠ p) : (s.onCluster p g).cluster q = s.cluster q := by
  simp [State.cluster, tabGet_tabMod_other, h]

/-- The changed one reads as changed. -/
@[simp] theorem State.berth_onBerth (p : Nat) (g : Berth → Berth) (s : State) : (s.onBerth p g).berth p = g (s.berth p) := by
  simp [State.berth]

/-- Every other one is unchanged. -/
theorem State.berth_onBerth_other (p q : Nat) (g : Berth → Berth) (s : State) (h : q ≠ p) : (s.onBerth p g).berth q = s.berth q := by
  simp [State.berth, tabGet_tabMod_other, h]

/-- The changed one reads as changed. -/
@[simp] theorem State.mill_onMill (p : Nat) (g : Mill → Mill) (s : State) : (s.onMill p g).mill p = g (s.mill p) := by
  simp [State.mill]

/-- Every other one is unchanged. -/
theorem State.mill_onMill_other (p q : Nat) (g : Mill → Mill) (s : State) (h : q ≠ p) : (s.onMill p g).mill q = s.mill q := by
  simp [State.mill, tabGet_tabMod_other, h]

/-- The changed one reads as changed. -/
@[simp] theorem State.chan_onChan (p : Nat) (g : Chan → Chan) (s : State) : (s.onChan p g).chan p = g (s.chan p) := by
  simp [State.chan]

/-- Every other one is unchanged. -/
theorem State.chan_onChan_other (p q : Nat) (g : Chan → Chan) (s : State) (h : q ≠ p) : (s.onChan p g).chan q = s.chan q := by
  simp [State.chan, tabGet_tabMod_other, h]

/-- The changed one reads as changed. -/
@[simp] theorem State.port_onPort (p : Nat) (g : Port → Port) (s : State) : (s.onPort p g).port p = g (s.port p) := by
  simp [State.port]

/-- Every other one is unchanged. -/
theorem State.port_onPort_other (p q : Nat) (g : Port → Port) (s : State) (h : q ≠ p) : (s.onPort p g).port q = s.port q := by
  simp [State.port, tabGet_tabMod_other, h]

/-- The changed one reads as changed. -/
@[simp] theorem State.lg_onLg (p : Nat) (g : LaneGroup → LaneGroup) (s : State) : (s.onLg p g).lg p = g (s.lg p) := by
  simp [State.lg]

/-- Every other one is unchanged. -/
theorem State.lg_onLg_other (p q : Nat) (g : LaneGroup → LaneGroup) (s : State) (h : q ≠ p) : (s.onLg p g).lg q = s.lg q := by
  simp [State.lg, tabGet_tabMod_other, h]

/-- The changed one reads as changed. -/
@[simp] theorem State.link_onLink (p : Nat) (g : Link → Link) (s : State) : (s.onLink p g).link p = g (s.link p) := by
  simp [State.link]

/-- Every other one is unchanged. -/
theorem State.link_onLink_other (p q : Nat) (g : Link → Link) (s : State) (h : q ≠ p) : (s.onLink p g).link q = s.link q := by
  simp [State.link, tabGet_tabMod_other, h]

/-- The changed one reads as changed. -/
@[simp] theorem State.page_onPage (p : Nat) (g : CmdPage → CmdPage) (s : State) : (s.onPage p g).page p = g (s.page p) := by
  simp [State.page]

/-- Every other one is unchanged. -/
theorem State.page_onPage_other (p q : Nat) (g : CmdPage → CmdPage) (s : State) (h : q ≠ p) : (s.onPage p g).page q = s.page q := by
  simp [State.page, tabGet_tabMod_other, h]

/-- The changed one reads as changed. -/
@[simp] theorem State.fq_onFq (p : Nat) (g : FaultQ → FaultQ) (s : State) : (s.onFq p g).fq p = g (s.fq p) := by
  simp [State.fq]

/-- Every other one is unchanged. -/
theorem State.fq_onFq_other (p q : Nat) (g : FaultQ → FaultQ) (s : State) (h : q ≠ p) : (s.onFq p g).fq q = s.fq q := by
  simp [State.fq, tabGet_tabMod_other, h]

/-- The changed one reads as changed. -/
@[simp] theorem State.rail_onRail (p : Nat) (g : Rail → Rail) (s : State) : (s.onRail p g).rail p = g (s.rail p) := by
  simp [State.rail]

/-- Every other one is unchanged. -/
theorem State.rail_onRail_other (p q : Nat) (g : Rail → Rail) (s : State) (h : q ≠ p) : (s.onRail p g).rail q = s.rail q := by
  simp [State.rail, tabGet_tabMod_other, h]

/-- The changed launch reads as changed. -/
theorem State.launch_onLaunch (l : Nat) (g : Launch → Launch) (s : State) : (s.onLaunch l g).launch l = (s.launch l).map g := by
  unfold State.onLaunch
  split
  · next h => simp [h]
  · next e h => rw [h]; simp [State.launch, State.onHm]

/-- The changed harbour reads as changed. -/
theorem State.harbour_onHarbour (l : Nat) (g : Harbour → Harbour) (s : State) :
    (s.onHarbour l g).harbour l = (s.harbour l).map g := by
  unfold State.onHarbour
  split
  · next h => simp [h]
  · next e h => rw [h]; simp [State.harbour, State.onHb]

/-- The changed context reads as changed. -/
theorem State.ctx_onAsid (l : Nat) (g : Ctx → Ctx) (s : State) : (s.onAsid l g).ctx l = (s.ctx l).map g := by
  unfold State.onAsid
  split
  · next h => simp [h]
  · next e h => rw [h]; simp [State.ctx, State.onHif]

end Machine
end Sys2Proof
end

