-- ==== Sys2Proof/Safety.lean ====
section
/-! DEFINITION. What counts as a safe step, in the terms statements use. -/
namespace Sys2Proof.Machine
open Sys2Proof

/-- An outcome is a next state: neither a fault nor a refusal. -/
def goesOn (o : Host.Outcome State Fault Refusal) : Prop := ∃ t, o = .next t

/-- An outcome is a next state with a property. -/
def nextWith (o : Host.Outcome State Fault Refusal) (p : State → Prop) : Prop := ∃ t, o = .next t ∧ p t

/-- A window read of a part answers `b`: the window covers the bytes and may be read, its target answers, and no word of them is
poisoned (R115, R116, R119). -/
def State.reads (s : State) (p k : Nat) (addr : Word) (n : Nat) (b : List Byte) : Prop :=
  ∃ w off, s.windowAt p k addr n false = some (w, off) ∧ match w.target with
    | .localStore => s.lsRead p k off n = (b, false)
    | .hold => s.holdRead p off n = (b, false)
    | .hbm => s.heard (s.placeSpeaker p) = true ∧ s.readH (s.slotHarbour p k) off n = some (b, false)

/-- An operand of an instruction is read; one of no bytes is not read at all. -/
def State.operand (s : State) (p k : Nat) (addr : Word) (n : Nat) (b : List Byte) : Prop :=
  if n = 0 then b = [] else s.reads p k addr n b

/-- A window write of a part leads from `s` to `t`: the window covers the bytes and may be written, and its target takes them (R115,
R116, R118, R364). -/
def State.writes (s : State) (p k : Nat) (addr : Word) (data : List Byte) (t : State) : Prop :=
  ∃ w off, s.windowAt p k addr data.length true = some (w, off) ∧ match w.target with
    | .localStore => t = s.lsWrite p k off data false
    | .hold => t = s.holdWrite p off data false
    | .hbm => s.heard (s.placeSpeaker p) = true ∧ ∃ ps, s.resolve (s.slotHarbour p k) off data.length = some ps ∧
        ps.any s.touchesPacing = false ∧ t = s.writePieces ps data false

/-- A result of an instruction is written; one of no bytes is not written at all. -/
def State.result (s : State) (p k : Nat) (addr : Word) (data : List Byte) (t : State) : Prop :=
  if data.isEmpty then t = s else s.writes p k addr data t

/-- Commands that need no clock of the module: those of its pins and of the units that keep running in a freeze (the dump controller, the
security controller, the tamper monitor and the thermal trip), and those of start-up, which a frozen or tripped module is not in
(R505, R551, R604, R611, R612, R616). -/
def unclocked : Instr → Bool
  | .thermTrip _ _ | .supplyReset | .pgFault | .powerGoodChange _ _ | .freezeN _ | .modRstN _ | .dumpFrame | .tapDump |
    .tapExtest | .tapIdcode | .tapBypass | .tapSamplePreload | .tamper _ | .mateOpen _ | .battLow _ | .getVersion |
    .getCapabilities | .negotiateAlgorithms _ | .getMeasurements _ | .spdmOtherRequest _ | .startupBegin _ | .imageAccept |
    .startDone _ | .startupStop _ _ | .svnFuseBlow | .perstNDeassert _ => true
  | _ => false

/-- Cells in their one canonical form: addresses strictly rising, and no cell equal to what an unlisted address reads as (R375). -/
abbrev cellsWf (t : List Host.Cell) : Prop := t.Pairwise (fun x y => x.1 < y.1) ∧ ∀ x ∈ t, x.2 ≠ 0

/-- A rising set of numbers. -/
abbrev setWf (t : NSet) : Prop := t.Pairwise (· < ·)

/-- The HBM system stands in its canonical form, and everything it stores lies in a written granule: a granule that is not
written holds neither a byte other than zero nor poison (R375). -/
abbrev Memory.wf (m : Memory) : Prop :=
  cellsWf m.bytes ∧ setWf m.written ∧ setWf m.poison ∧
  (∀ x ∈ m.bytes, x.1 / 64 ∈ m.written) ∧ ∀ g ∈ m.poison, g ∈ m.written

end Sys2Proof.Machine
end

