-- ==== Sys2Proof/Certificates/Slice0/Obligations.lean ====
section
/-! DEFINITION. The statements for the provers. Each says what the commands of one family do, or what holds of every step. -/
open Sys2Proof Sys2Proof.Machine

/-- For every command and state: a step of a state with that command at the front of its queue is the command's own effect on the
state whose queue is the rest. -/
def Obligations.StepRunsTheFrontCommand : Prop :=
  ∀ (c : Instr) (q : List Instr) (s : State), step { s with pending := c :: q } = exec c { s with pending := q }

/-- No command ends in a fault or a refusal, in any state: every step answers a next state. On an empty queue the block idles:
the step answers the state it was given (DESIGN CHOICE of the model, log entry 1). -/
def Obligations.EveryStepGoesOn : Prop :=
  (∀ (c : Instr) (s : State), goesOn (exec c s)) ∧ (∀ s : State, goesOn (step s)) ∧
  ∀ s : State, s.pending = [] → step s = .next s

/-- After reset the module is in reset with nothing started; HBM lists no byte, no written granule and no poison, so it reads
zero and is in canonical form; there is no harbour, launch, context, berth, fence, state record, session or queued command;
the tides stand at 0; every event counter and SEQ is 0. The part KLN-8200, the two image slots with the default image and the
accepted number format are the model's choices (DESIGN CHOICE, log entries 9, 10 and 11). -/
def Obligations.ResetState : Prop :=
  Memory.wf State.reset.mem ∧ State.reset.mem.bytes = [] ∧ State.reset.mem.written = [] ∧ State.reset.mem.poison = [] ∧
  State.reset.boot.life = .inReset ∧ State.reset.tide.num = 0 ∧ State.reset.tide.role = .standalone ∧
  State.reset.hm.launches = [] ∧ State.reset.hb.harbours = [] ∧ State.reset.hb.journal = [] ∧ State.reset.hif.ctxs = [] ∧
  State.reset.berths = [] ∧ State.reset.fu.fences = [] ∧ State.reset.lk.own = [] ∧ State.reset.sec.sessions = 0 ∧
  State.reset.ras.seq = 0 ∧ State.reset.ras.counts = [] ∧ State.reset.crc.rwpIgnored = 0 ∧ State.reset.crc.unmapped = 0 ∧
  State.reset.out = [] ∧ State.reset.pending = [] ∧ State.reset.part = .kln8200 ∧
  State.reset.boot.imageA = defaultImage .kln8200 [] ∧ State.reset.boot.imageB = defaultImage .kln8200 [] ∧ State.reset.formats = [1]

/-- The HBM system stands in its canonical form when its cells are strictly rising and none is zero, its sets of written and of
poisoned granules rise, and every stored byte and every poisoned granule lies in a written granule. Every step of every state
in that form that answers a next state answers one in that form: no command leaves a byte or poison in an unwritten granule,
so an unwritten granule always reads zero without poison. -/
def Obligations.StepKeepsMemoryForm : Prop :=
  ∀ s t : State, Memory.wf s.mem → step s = .next t → Memory.wf t.mem

/-- Whatever a step does, the part and its disabled units, the device UID, the accepted formats and the oldest accepted format
stay, the commands that wait behind the one that ran stay in their order, and the fused security version floor never falls. -/
def Obligations.StepKeepsThePart : Prop :=
  ∀ s t : State, step s = .next t → t.part = s.part ∧ t.disabled = s.disabled ∧ t.uid = s.uid ∧ t.formats = s.formats ∧
    t.frenor = s.frenor ∧ t.pending = s.pending.tail ∧ s.boot.floor ≤ t.boot.floor

/-- In canonical memory whose array holds no symbol error: after data are written to a channel that is not retired, each byte of
the range reads as written, also in the destination of a TRANSFER that has copied the range's first byte, and every byte
outside the range and outside the same range of that destination, of any channel, reads as before; after a clear of a range
each byte of it reads zero; and a byte of an unwritten granule reads zero, without poison where its channel is not retired. -/
def Obligations.HbmReadsAfterWrites : Prop :=
  ∀ s : State, Memory.wf s.mem → s.mem.damage = [] →
   (∀ (c b : Nat) (data : List Byte) (p : Bool), (s.chan c).retired = false →
    (s.throughTo c b = none →
      (∀ (i : Nat) (hi : i < data.length), (s.hbmPut c b data p).hbmByte c (b + i) = data[i]) ∧
      (∀ c' b', byteKey c' b' < byteKey c b ∨ byteKey c b + data.length ≤ byteKey c' b' →
        (s.hbmPut c b data p).hbmByte c' b' = s.hbmByte c' b')) ∧
    (∀ d, s.throughTo c b = some d → (s.chan d).retired = false → c ≠ d → b + data.length ≤ 2147483648 →
      (∀ (i : Nat) (hi : i < data.length), (s.hbmPut c b data p).hbmByte c (b + i) = data[i] ∧
        (s.hbmPut c b data p).hbmByte d (b + i) = data[i]) ∧
      (∀ c' b', byteKey c' b' < byteKey c b ∨ byteKey c b + data.length ≤ byteKey c' b' →
        byteKey c' b' < byteKey d b ∨ byteKey d b + data.length ≤ byteKey c' b' →
        (s.hbmPut c b data p).hbmByte c' b' = s.hbmByte c' b'))) ∧
   (∀ c b n i, i < n → (s.hbmClear c b n).hbmByte c (b + i) = 0) ∧
   (∀ c b, granule c b ∉ s.mem.written → s.hbmByte c b = 0 ∧ ((s.chan c).retired = false → s.hbmPoison c b 1 = false))

/-- In a module whose array holds no symbol error: an event of a code in a tide takes the next SEQ (mod 2^32), its counter counts
it (mod 2^32) and keeps that SEQ, and no other counter changes. While the ring is not enabled no record is written; while the
ring is full the record is dropped and counted; otherwise the record of eight words (the code, the unit and SEQ, the tide,
the items and zeros) is written to slot SEQ mod 2^LOG2. -/
def Obligations.EventsAreCounted : Prop :=
  ∀ (tide : Word) (code kind unit : Nat) (items : List Word) (s : State), s.mem.damage = [] →
    let r := s.ras
    let s1 := s.onRas fun r => { r with
      seq := r.seq + 1, counts := tabMod 0 r.counts code (· + 1), lastSeq := tabPut r.lastSeq code r.seq }
    let rec64 := w64 (code % 65536 + kind % 16 * 65536 + unit % 4096 * 1048576 + r.seq.toNat * 2 ^ 32) :: tide
      :: (items ++ List.replicate (6 - items.length) 0).take 6
    let s2 := (s1.put0 (r.base + r.seq.toNat % 2 ^ r.log2 * 64) rec64).onRas fun r => { r with wrote := true }
    (tabGet 0 s1.ras.counts code = tabGet 0 r.counts code + 1 ∧ (∀ k, k ≠ code → tabGet 0 s1.ras.counts k = tabGet 0 r.counts k)) ∧
    (r.enable = false → s.eventAt tide code kind unit items = s1) ∧
    (r.enable = true → 2 ^ r.log2 ≤ (r.seq - r.consumed).toNat →
      s.eventAt tide code kind unit items = s1.onRas fun r => { r with dropped := r.dropped + 1 }) ∧
    (r.enable = true → (r.seq - r.consumed).toNat < 2 ^ r.log2 → r.irqMode ≠ 1 → s.eventAt tide code kind unit items = s2) ∧
    (r.enable = true → (r.seq - r.consumed).toNat < 2 ^ r.log2 → r.irqMode = 1 →
      s.eventAt tide code kind unit items = s2.msix 0 r.msiVector)

/-- On a module whose clocks run, a privileged write of a journal slot's number to HB_CANCEL, when the slot's procedure stands
before BUMP (step 5) and its BUMP is not due, undoes what its steps did to each unit (a destination that was copied to or
ungated is zeroed, a draining place drains no more, a TRANSFER of a channel ends), writes the result with STATUS ABORTED (1)
and REASON CANCELLED (9), clears the journal slot, counts the rollback and raises its event. A cancel of a procedure at BUMP
or later, of one whose BUMP is due, or of a slot that holds none, changes nothing but the count of refused requests. -/
def Obligations.CancelOfAProcedure : Prop :=
  ∀ (m : Master) (v : Word) (s : State), s.halted = false → m.privileged = true →
    let slot := bits v 0 2
    (∀ j, tabFind s.hb.journal slot = some j → j.step < 5 → s.bumpDue j = false →
      let undo := foldState j.rows (fun a x =>
        let a1 := if addsUnit j.op x.1 ∧ (x.2.xferPos ≠ 0 ∨ x.2.xferDone ∨ x.2.dstWasUngated ∨ !x.2.dstZeroed) then
          a.zeroUnit x.1.type x.1.dst else a
        let a2 := if takesUnit j.op x.1 ∧ x.1.type = 0 then a1.onPlace x.1.src fun p => { p with draining := false } else a1
        if x.1.type = 1 ∧ j.op = 3 then a2.endTransfer x.1.src x.1.dst else a2) (s.onProc slot fun y => { y with back := true })
      exec (.hbCancel m v) s = .next ((((((undo.procResult j.reqAddr 1 9 0).journalClear slot).onHb fun m => { m with
        cRolledBack := m.cRolledBack + 1 }).procEvent 0x0501 j.harbour
          [w64 j.harbour, w64 j.op, wordAt j.request 1, w64 j.step, w64 9])).settle)) ∧
    (∀ j, tabFind s.hb.journal slot = some j → 5 ≤ j.step ∨ s.bumpDue j = true →
      exec (.hbCancel m v) s = .next (s.onHb fun m => { m with cRefused := m.cRefused + 1 })) ∧
    (tabFind s.hb.journal slot = none →
      exec (.hbCancel m v) s = .next (s.onHb fun m => { m with cRefused := m.cRefused + 1 }))

/-- Bits [23:0] of a memory handle index the context's object table, those of a token the export table, and bits [31:24] carry
the entry's generation: one whose generation differs names nothing, and for the owner of a context that is not being torn
down every Eweas command on it is answered with NOT_FOUND (REASON 5, STATUS 4) and changes nothing else. A new handle or
token in an entry that was used before carries the entry's generation plus one, modulo 256; while all 2^24 entries are used
there is none. The commands are of a function whose link is up, on a running module. -/
def Obligations.HandlesAndTokens : Prop :=
  (∀ (c : Ctx) (h : Nat) (y : Handle), tabFind c.handles (h % 2 ^ 24) = some y → h / 2 ^ 24 ≠ y.gen → c.handle h = none) ∧
  (∀ (s : State) (t : Nat) (e : Nat × Option Export), tabFind s.hif.exports (t % 2 ^ 24) = some e → t / 2 ^ 24 ≠ e.1 → s.token t = none) ∧
  (∀ (s : State) (a o r i : Nat) (c : Ctx) (y : Handle), s.ctx a = some c →
    (lowestFree (c.handles.length + 1) fun i => match tabFind c.handles i with | some x => x.obj.isSome | none => false) = i →
    (2 ^ 24 ≤ i → s.newHandle a o r = none) ∧
    (tabFind c.handles i = some y → i < 2 ^ 24 → ∃ t, s.newHandle a o r = some ((y.gen + 1) % 256 * 2 ^ 24 + i, t))) ∧
  (∀ (s : State) (e : Export) (i : Nat) (y : Nat × Option Export),
    (lowestFree (s.hif.exports.length + 1) fun i => match tabFind s.hif.exports i with | some x => x.2.isSome | none => false) = i →
    (2 ^ 24 ≤ i → s.newToken e = none) ∧
    (tabFind s.hif.exports i = some y → i < 2 ^ 24 → ∃ t, s.newToken e = some ((y.1 + 1) % 256 * 2 ^ 24 + i, t))) ∧
  (∀ c x s, c.func < 128 → s.running = true → (s.link (c.func / 32)).up = true → (s.page c.func).busy = false → s.ctx (c.arg 1) = some x → x.passes c = true →
    x.teardown = 0 →
    (∀ y, tabFind x.handles (c.arg 2 % 2 ^ 24) = some y → c.arg 2 / 2 ^ 24 ≠ y.gen →
      exec (.memRelease c) s = .next ((s.taken 0x04 c).pageDone c.func 4 5 []) ∧
      exec (.memExport c) s = .next ((s.taken 0x05 c).pageDone c.func 4 5 []) ∧
      exec (.memPin c) s = .next ((s.taken 0x07 c).pageDone c.func 4 5 []) ∧
      exec (.memUnpin c) s = .next ((s.taken 0x08 c).pageDone c.func 4 5 []) ∧
      exec (.barMap c) s = .next ((s.taken 0x0C c).pageDone c.func 4 5 []) ∧
      exec (.graphRegister c) s = .next ((s.taken 0x20 c).pageDone c.func 4 5 [])) ∧
    (∀ y, tabFind x.handles (c.arg 3 % 2 ^ 24) = some y → c.arg 3 / 2 ^ 24 ≠ y.gen →
      exec (.map c) s = .next ((s.taken 0x09 c).pageDone c.func 4 5 [])) ∧
    (∀ e, tabFind s.hif.exports (c.arg 2 % 2 ^ 24) = some e → c.arg 2 / 2 ^ 24 ≠ e.1 →
      exec (.memImport c) s = .next ((s.taken 0x06 c).pageDone c.func 4 5 []) ∧
      exec (.fenceImport c) s = .next ((s.taken 0x12 c).pageDone c.func 4 5 [])))

/-- While ROOT_VALID reads 0 on a powered module, GET_VERSION, GET_CAPABILITIES and NEGOTIATE_ALGORITHMS are answered as they are
with any ROOT_VALID, without error, and every other supported request is answered with ERROR. -/
def Obligations.SpdmWithoutARoot : Prop :=
  ∀ s : State, s.boot.life ≠ .unpowered →
    (∃ code ws, ∀ b, let u := s.onSec fun c => { c with rootValid := b }
      exec .getVersion u = .next (u.emit (.spdm code false ws))) ∧
    (∃ code ws, ∀ b, let u := s.onSec fun c => { c with rootValid := b }
      exec .getCapabilities u = .next (u.emit (.spdm code false ws))) ∧
    (∃ code ws, ∀ b, let u := s.onSec fun c => { c with rootValid := b }
      exec (.negotiateAlgorithms true) u = .next (u.emit (.spdm code false ws))) ∧
    (s.sec.rootValid = false →
      (∀ i, ∃ code, exec (.getMeasurements i) s = .next (s.emit (.spdm code true []))) ∧
      (∀ r, ∃ code, exec (.spdmOtherRequest r) s = .next (s.emit (.spdm code true []))))

/-- A command that writes a register only the manager, the security controller or the pilot may write, sent by another master,
leaves everything as it is but CF_ACCESS: the ignored write is counted and CF_ACCESS_LAST describes it by master, offset and
tide. Of a unit the part does not have, the write is skipped uncounted. A budget write of the sideband is its own. Commands
that need a running module have this effect on one that runs. -/
def Obligations.UnprivilegedWritesAreIgnored : Prop :=
  ∀ (m : Master) (v : Word) (n k : Nat) (s : State), s.halted = false → m.privileged = false →
    let ignored (o : Nat) : Host.Outcome State Fault Refusal := .next (if s.absentUnit o then s else s.rwpIgnored m o)
    exec (.berthEnable m n v) s = ignored (berthOffset n 0) ∧
    exec (.berthDisable m n v) s = ignored (berthOffset n 0) ∧
    exec (.berthStop m n) s = ignored (berthOffset n 6) ∧
    exec (.berthAbort m n) s = ignored (berthOffset n 6) ∧
    exec (.ltQuotaWrite m n v) s = ignored (0x1000000 + 0x200 + 8 * n) ∧
    exec (.hmFenceEvict m v) s = ignored 0x1000430 ∧
    exec (.hmCycleAnswer m v) s = ignored 0x1000428 ∧
    exec (.crcRefWrite m v) s = ignored 0x10010 ∧
    exec (.crcAdopt m) s = ignored 0x10010 ∧
    exec (.hbReq m v) s = ignored 0x80000 ∧
    exec (.hbCancel m v) s = ignored 0x80008 ∧
    exec (.lkpRetrain m n) s = ignored (0x190008 + n * 0x1000) ∧
    exec (.lkpDisable m n v) s = ignored (0x190008 + n * 0x1000) ∧
    exec (.mcLevelWrite m n v) s = ignored (0x800000 + n * 0x1000 + 8) ∧
    exec (.mcRemapWrite m n k v) s = ignored (0x900000 + n * 0x1000 + k * 8) ∧
    exec (.mcScrub m n v) s = ignored (0x800000 + n * 0x1000 + 0x28) ∧
    exec (.mcIsetWrite m n k v) s = ignored (0xA00000 + n * 0x80 + k * 8) ∧
    exec (.lkRoleReq m v) s = ignored 0x180028 ∧
    exec (.lkNodeWrite m n k) s = ignored (0x184000 + n / 4 * 8) ∧
    exec (.pwHsubWrite m n v) s = ignored (0x20100 + 8 * n) ∧
    exec (.pwPolicyWrite m v) s = ignored 0x20050 ∧
    exec (.pwGateWrite m v) s = ignored 0x20058 ∧
    exec (.mcRetire m n) s = ignored (0x800000 + n * 0x1000 + 0x30) ∧
    exec (.tlReset m n) s = ignored (tlCtl n) ∧
    exec (.tlClusterReset m n) s = ignored (tlCtl n) ∧
    exec (.tlSubstitute m n) s = ignored (tlCtl n) ∧
    exec (.tlRetire m n) s = ignored (tlCtl n) ∧
    exec (.tlFail m n) s = ignored (tlCtl n) ∧
    exec (.tideApply m v) s = ignored 0x10100 ∧
    exec (.hbSliceWrite m n k v) s = ignored (0x80800 + 16 * n + 8 * k) ∧
    exec (.scKeyupd m v) s = ignored 0x30028 ∧
    exec (.cfFuncModeWrite m v) s = ignored 0x10800 ∧
    (s.running = true → exec (.pwCmdActive m) s = ignored 0x20008) ∧
    (s.running = true → exec (.pwCmdIdle m) s = ignored 0x20008) ∧
    (s.running = true → exec (.pwCmdWatch m) s = ignored 0x20008) ∧
    (s.running = true → exec (.pwCmdHold m) s = ignored 0x20008) ∧
    (s.running = true → exec (.dbFreezeSoft m v) s = ignored 0xC00100) ∧
    (m ≠ .sideband → exec (.pwBudgetWrite m v) s = ignored 0x20018)

/-- In a running module whose generator is not stopped, TIDE_BOUNDARY lets what was still due happen, advances the tide number
and sends the ticks (step 1), carries out the changes (step 2), drops launches of lost contexts and times out entries (step
3, unless the Harbourmaster is silent), pre-empts launches whose budget ran out (step 4), publishes the slow-tide words of
the ended tide and takes or applies the wait cycle (steps 5 and 6, which wait during a takeover and do not happen without a
Harbourmaster), then does the work in slack and starts the plan. The tide number grows by one outside a rejoin.
BUDGET_PREEMPT of an active launch whose budget ran out pre-empts each of its resident parts, and of a running part that
stops its issue at the place and drops its latches and requests. BERTH_TIMEOUT of an entry whose count is reached clears the
mark and aborts the launch with TIMEOUT. TIDE_APPLY by the manager with a period and slack in range, outside a slave and with
no change pending, accepts the change for the second boundary to come. -/
def Obligations.TideAndBudgetCommands : Prop :=
  (∀ b s, s.running = true → s.tide.stopped = false →
    let s1 := s.settleDue
    let held : HeldBoundary := {
      ended := s1.tide.num, len := (match s1.rejoins with | some x => x.2 | none => s1.tide.period) * 1000
      cycleHost := s1.hostMode 3, slow := b.slow }
    let s2 := ((s1.clearWrote.tickNumber.newTide b s1.tide.num).sendTicks).changeBoundary s1.rejoins.isSome
    let s3 := if s2.hmSilent then s2 else s2.lostAndTimeouts
    let s4 := s3.budgets
    let s6 := if s4.hm.takeover then s4.onRg fun r => { r with held := r.held ++ [held] }
      else if s4.hmSilent then s4
      else (s4.publishSlow held.ended held.len held.slow).cycleBoundary held.cycleHost
    exec (.tideBoundary b) s = .next ((s6.slackWork s1.tideIrqs).startPlan b.planLate)) ∧
  (∀ s : State, s.rejoins = none → s.tickNumber = s.onTide fun t => { t with num := t.num + 1, rejoinSkip := false }) ∧
  (∀ l s e, s.halted = false → s.launch l = some e → e.preemptDue = true → e.state = .active →
    exec (.budgetPreempt l) s = .next (foldState e.parts (fun a x => match x with | .slot p k => a.preemptPart p k | _ => a)
      (s.onLaunch l fun e => { e with preemptDue := false }))) ∧
  (∀ (p k : Nat) (s : State), (s.slotAt p k).state = .running →
    s.preemptPart p k = (((s.startDrain true p k).dropLatches p k).cancelReqs p k).onCtx p k fun c => { c with
      dma0 := c.dma0.rewind, dma1 := c.dma1.rewind }) ∧
  (∀ l s e, s.halted = false → s.launch l = some e → e.timeoutDue = true → s.hmSilent = false → e.state ≠ .completing →
    e.retiring = false →
    exec (.berthTimeout l) s = .next ((s.onLaunch l fun e => { e with timeoutDue := false }).abortLaunch l .timeout none).settle) ∧
  (∀ m v s, s.halted = false → m.privileged = true → 25 ≤ bits v 0 10 → bits v 0 10 ≤ 1000 → 5 ≤ bits v 12 12 → bits v 12 12 ≤ 2500 →
    slackFits (bits v 0 10) (bits v 12 12) = true → s.tide.role ≠ .slave → s.tide.change = none →
    exec (.tideApply m v) s = .next (s.onTide fun t => { t with
      nextPeriod := bits v 0 10, nextSlack := bits v 12 12, change := some ⟨bits v 0 10, bits v 12 12, 2⟩ }))

/-- A running slave that is not isolated and receives a tick of its own master and group in the window, which announces no change
and whose job frequency (that of an announced change once its tide is reached) is the slave's own, records the tide number of
the master, clears the run of missed ticks and HOLDOVER and sets LOCKED; an announced frequency that the tick withdraws is
forgotten; nothing else changes. A tick outside the window, or of another master or group, is a missed tick. A missed tick is
counted, adds to the run and begins HOLDOVER; the eighth in a row of a slave not isolated sets ISOLATED, clears LOCKED and
raises event 0x0200. An isolated slave that receives its first aligned tick in the window records it and counts it as
aligned. ECHO_EXCHANGE stores half the round trip and starts the count of tides since it. -/
def Obligations.TickCommands : Prop :=
  (∀ node t ph s, s.slaved = true → s.tickOurs node t = true → s.tide.isolated = false → t.changeValid = false →
    (tickApplied s.tide.lastChange t).jobFreq = s.tide.jobFreq →
    exec (.tickMessage node t true ph) s = .next (s.onTide fun x => { x with
      lastMaster := t.tide, missRun := 0, holdover := false, locked := true
      freqAnnounced := if s.tide.jobFreq ≤ s.pw.fAllow then none else x.freqAnnounced })) ∧
  (∀ node t ph s, s.slaved = true → s.tickOurs node t = true → s.tide.isolated = false →
    exec (.tickMessage node t false ph) s = exec .missedTick s) ∧
  (∀ node t w ph s, s.slaved = true → s.tickOurs node t = false → exec (.tickMessage node t w ph) s = exec .missedTick s) ∧
  (∀ s : State, s.slaved = true → s.tide.missRun ≠ 7 ∨ s.tide.isolated = true →
    exec .missedTick s = .next (s.onTide fun t => { t with
      cMissedTick := t.cMissedTick + 1, missRun := t.missRun + 1, aligned := 0, holdover := t.holdover || !t.isolated })) ∧
  (∀ s : State, s.slaved = true → s.tide.missRun = 7 → s.tide.isolated = false →
    exec .missedTick s = .next ((s.onTide fun t => { t with
      cMissedTick := t.cMissedTick + 1, missRun := 8, aligned := 0, holdover := true, isolated := true, locked := false
      slaveChange := none }).event 0x0200 0 0 [s.tide.lastMaster, w64 s.tide.masterNode])) ∧
  (∀ node t ph s, s.slaved = true → s.tickOurs node t = true → s.tide.isolated = true → s.tide.aligned = 0 → t.changeValid = false →
    exec (.tickMessage node t true ph) s = .next (s.onTide fun x => { x with aligned := 1, lastMaster := t.tide })) ∧
  (∀ r s, s.slaved = true → exec (.echoExchange r) s = .next (s.onTide fun t => { t with delay := r / 2, sinceEcho := 0, echoDue := false }))

/-- On a module whose clocks run: LOAD_COMPLETE of a slot in LOADING whose pins and binary still resolve, and that no pre-emption
or drain awaits, gives the part the context that loading leaves (its window table, the payload in its partition, its special
scalars), moves the slot to RUNNING and marks the launch started; where one awaits, the slot goes to DRAINING instead.
RESTORE_COMPLETE with a good CRC and no poison gives the part its saved context with its new logical tile number, counts the
restore, releases the record and moves the slot on in the same way. DRAIN_COMPLETE of a draining slot without outstanding
atomics or writes drops its requests and moves it to SAVING. SAVE_WINDOW_CLOSE of a saving slot, while no slot of its window
still drains, closes the save of each slot of that window: its record goes into the save heap of its place and the slot is
freed, and an overrun is counted when the window ended late or the slack is shorter than 4 µs. -/
def Obligations.SlotTransitionsOfARun : Prop :=
  ∀ s : State, s.halted = false →
  (∀ p k e ws, s.launch (s.slotAt p k).entry = some e → (s.slotAt p k).state = .loading → s.loadWindows e = some ws →
    exec (.loadComplete p k) s = .next (((s.onCtx p k fun _ => s.loadedCtx e p (s.slotAt p k).part ws).enterRun p k).onLaunch
      (s.slotAt p k).entry fun e => { e with started := true })) ∧
  (∀ p k : Nat, s.drainsNow p k = false → s.enterRun p k = s.onSlot p k fun v => { v with state := .running, stuck := 0 }) ∧
  (∀ p k : Nat, s.drainsNow p k = true → s.enterRun p k = s.startDrain false p k) ∧
  (∀ p k e r, s.launch (s.slotAt p k).entry = some e → (s.slotAt p k).state = .restoring →
    s.recordOf (s.slotAt p k).entry (s.slotAt p k).part e.harbour = some r →
    exec (.restoreComplete p k true false) s = .next ((((((s.releaseRecord (s.slotAt p k).entry (s.slotAt p k).part).dropPoolRecord
      e.harbour (s.slotAt p k).entry (s.slotAt p k).part).onCtx p k fun _ => { r.ctx with logicalTile := s.logicalNumber e.harbour p }).onTile
      (s.servingTile p) fun t => { t with cRestores := t.cRestores + 1 }).enterRun p k))) ∧
  (∀ p k, (s.slotAt p k).state = .draining → (s.slotAt p k).ctx.dma0.reqs.any (·.pending) = false →
    (s.slotAt p k).ctx.dma1.reqs.any (·.pending) = false →
    exec (.drainComplete p k) s = .next ((s.cancelReqs p k).onSlot p k fun v => { v with
      state := .saving, ctx := { v.ctx with dma0 := v.ctx.dma0.rewind, dma1 := v.ctx.dma1.rewind } })) ∧
  (∀ p k late, (s.slotAt p k).state = .saving →
    let shared := (s.place p).slots.filter fun x => x.2.inWindow && x.2.window == (s.slotAt p k).window
    shared.any (fun x => x.2.state == .draining) = false →
    exec (.saveWindowClose p k late) s = .next ((foldState (shared.map (·.1)) (fun a j => a.closeSave p late j) s).settle)) ∧
  (∀ p k late e, s.launch (s.slotAt p k).entry = some e →
    s.closeSave p late k = (if late ∨ s.tide.slack < 40 then s.onTide fun t => { t with cSaveOverrun := t.cSaveOverrun + 1 }
      else s).saveSlot p k (s.slotAt p k) e)

/-- On a module whose clocks run: PART_RETIRE of a running slot moves it to RETIRING, marks the part retired and, for part 0,
takes its exit value, when no other part of the gang waits for a contribution of it. LAUNCH_COMPLETE of a kernel launch whose
parts have all retired and drained completes it. ABORT_COMPLETE of an aborting slot marks the part released, gives up what
its requests would bring and clears its partitions, and completes the launch when no other part is still busy.
EVICTION_COMPLETE writes the oldest record of the save heap of a place into the eviction area of the harbour, lists it there,
and its bytes in the heap are to be zeroed. SAVE_HEAP_ZEROING_DONE frees the bytes of the record released first. Completing
takes the entry's place in the order of its berth, marks it ended with its status (OK where none is fixed) and writes the
records of the berth that are next. -/
def Obligations.LaunchEndsAndSaveHeap : Prop :=
  ∀ s : State, s.halted = false →
  (∀ p k e, s.launch (s.slotAt p k).entry = some e → (s.slotAt p k).state = .running →
    let s1 := (s.onSlot p k fun v => { v with state := .retiring, stuck := 0 }).onLaunch (s.slotAt p k).entry fun e => { e with
      retired := setIns e.retired (s.slotAt p k).part
      exitValue := if (s.slotAt p k).part = 0 then (s.slotAt p k).ctx.exitValue else e.exitValue }
    (∀ x ∈ s1.liveParts (s.slotAt p k).entry, ∀ r ∈ x.2.reds, r.seq < (s.slotAt p k).ctx.nextRed) →
    exec (.partRetire p k) s = .next s1) ∧
  (∀ l e, s.launch l = some e → e.kind = 0 → s.allRetired e = true → exec (.launchComplete l) s = .next (s.complete l).settle) ∧
  (∀ p k, (s.slotAt p k).state = .aborting →
    let s1 := ((s.onLaunch (s.slotAt p k).entry fun e => { e with released := setIns e.released (s.slotAt p k).part }).orphan p k).onCtx
      p k fun _ => {}
    exec (.abortComplete p k) s = .next (if s1.stillBusy (s.slotAt p k).entry then s1 else (s1.complete (s.slotAt p k).entry).settle)) ∧
  (∀ p r t h, 0 < (s.place p).evicting → (s.place p).heap = r :: t → s.placeHarbour p = some h →
    exec (.evictionComplete p) s = .next ((((((s.evictPut h r).2).onPlace p fun x => { x with
      heap := t, zeroing := x.zeroing ++ [r.size], evicting := x.evicting - 1 }).onHarbour h fun y => { y with
      poolEvicted := y.poolEvicted ++ [(s.evictPut h r).1] }).onLaunch r.entry fun e => { e with parts := e.parts.set r.part (.pool p) }).settle)) ∧
  (∀ p, (s.place p).zeroing ≠ [] →
    exec (.saveHeapZeroingDone p) s = .next ((s.onPlace p fun x => { x with zeroing := x.zeroing.drop 1 }).settle)) ∧
  (∀ l e, s.launch l = some e → e.node = none →
    s.complete l = (((s.stamp l).onLaunch l fun e => { e with
      ended := true, state := .completing, status := some (e.status.getD .ok) }).flushBerth e.berth
        ((((s.stamp l).onLaunch l fun e => { e with
          ended := true, state := .completing, status := some (e.status.getD .ok) }).hm.launches.length) + 1)))

/-- On a module whose clocks run: TILE_ERROR with a code of a compute engine or sequencer, of a part that loads, restores, runs,
drains or saves and holds a launch, records code and address, stops issue, marks the context lost and aborts the launch with
FAULT; code 1 also counts a window error on the serving tile; code 3 does so with POISON. KERNEL_EXIT takes the exit value
and stops issue. KERNEL_TRAP records the trap and its code and is a tile error with code 4. SET_TAG with a tag, length and
range in bounds puts the tag into the table of the place, and CLEAR_TAG removes it; the part goes on. -/
def Obligations.TileErrorExitAndTags : Prop :=
  ∀ s : State, s.halted = false →
  (∀ p k code a e, abortable (s.slotAt p k).state = true → s.launch (s.slotAt p k).entry = some e → tileErrorCode code = true →
    exec (.tileError p k code a) s =
      let s0 := if code = 1 then s.onTile (s.servingTile p) fun t => { t with cWindowErr := t.cWindowErr + 1 } else s
      let s1 := s0.onCtx p k fun c => { c with errCode := code, errAddr := a, stopped := true }
      .next (((s1.markLost e.context e.harbour e.ident (worse e.status .fault)).abortLaunch (s.slotAt p k).entry .fault
        (some (s.slotAt p k).part)).settle)) ∧
  (∀ p k a e, abortable (s.slotAt p k).state = true → s.launch (s.slotAt p k).entry = some e →
    exec (.tileError p k 3 a) s =
      let s1 := s.onCtx p k fun c => { c with errCode := 3, errAddr := a, stopped := true }
      .next (((s1.markLost e.context e.harbour e.ident (worse e.status .poison)).abortLaunch (s.slotAt p k).entry .poison
        (some (s.slotAt p k).part)).settle)) ∧
  (∀ st, abortable st = true ↔ st = .loading ∨ st = .restoring ∨ st = .running ∨ st = .draining ∨ st = .saving) ∧
  (∀ p k v, s.issuing p k = true →
    exec (.kernelExit p k v) s = .next (s.onCtx p k fun c => { c with exitValue := v, stopped := true })) ∧
  (∀ p k code, s.issuing p k = true →
    exec (.kernelTrap p k code) s =
      .next (((s.onCtx p k fun c => { c with trapTaken := true, trapCode := code % 256 }).tileErr p k 4 0).settle)) ∧
  (∀ p k tag base len, s.issuing p k = true → tag ≠ 0 → tag < 2 ^ 40 → len ≠ 0 → base + len ≤ 496 →
    exec (.setTag p k tag base len) s =
      .next ((s.onPlace p fun x => { x with tags := setTagIn x.tags ⟨tag, base, len⟩ }).nextPc p k)) ∧
  (∀ p k tag, s.issuing p k = true →
    exec (.clearTag p k tag) s = .next ((s.onPlace p fun x => { x with tags := x.tags.filter fun t => t.tag != tag }).nextPc p k))

/-- For a part that issues, on a module whose clocks run: ROW_CLEAR of a row it holds makes every entry of the row zero with MODE
0. EXACT_ROW_MERGE of a row image that a window read answers adds it into the row entry by entry, where no entry is in error;
the storing form writes the row as an image through a window. ROW_ROUND converts the row and writes the codes, the scale
bytes (none without scales) and the mask through windows. TENSOR_INSTRUCTION of two formats of one row of the format table,
on 1 to 64 rows that the part holds, whose operands the windows answer and whose anchors are below 512, adds each streamed
row to its accumulator row, where no row is in error: the entries are those of the products summed over K, and no other entry
changes. After each, the program counter is a free value (log entry 3) and nothing else has changed. -/
def Obligations.EngineInstructions : Prop :=
  ∀ (p k : Nat) (s : State), s.halted = false → s.issuing p k = true →
  (∀ row, row < s.rowsHeld p k →
    exec (.rowClear p k row) s = .next ((s.onCtx p k fun c => c.putRow row (List.replicate 64 {})).nextPc p k)) ∧
  (∀ row a b es, row < s.rowsHeld p k → s.reads p k a 1152 b →
    (((List.range 64).map ((s.slotAt p k).ctx.accAt row)).zipIdx.mapM fun e => mergeEntry (imageEntry b e.2) e.1) = some es →
    exec (.exactRowMerge p k row a false) s = .next ((s.onCtx p k fun c => c.putRow row es).nextPc p k)) ∧
  (∀ row a t, row < s.rowsHeld p k → s.writes p k a (rowImage ((List.range 64).map ((s.slotAt p k).ctx.accAt row))) t →
    exec (.exactRowMerge p k row a true) s = .next (t.nextPc p k)) ∧
  (∀ r t1 t2 t3, r.row < s.rowsHeld p k → outputFmt r.fmt r.scaled = true →
    let es := (List.range 64).map ((s.slotAt p k).ctx.accAt r.row)
    let x := convertAll r.fmt r.scaled (es.map entryVal) fun i => (s.launchAt p k).rounding r.shard (r.index + i)
    s.result p k r.dst x.1 t1 → t1.result p k r.scaleDst x.2.1 t2 →
    t2.result p k r.maskDst (natBytes 8 (maskOf ((es.zip x.2.2).map fun y => y.1.range || y.2))) t3 →
    exec (.rowRound p k r) s = .next (t3.nextPc p k)) ∧
  (∀ (t : TensorOp) ra b sb an a sa (es : Nat → List AccEntry), fmtRow t.fmtA t.scaledA = some ra → fmtRow t.fmtB t.scaledB = some ra →
    1 ≤ t.rows → t.rows ≤ 64 → t.rows ≤ s.rowsHeld p k →
    let kk := rowK ra
    let na := kk * t.fmtA.width / 8
    let nb := kk * t.fmtB.width / 8
    s.operand p k t.b (64 * nb) b → s.operand p k t.bScale (if t.scaledB then 64 * (kk / 32) else 0) sb →
    s.operand p k t.anchors (if ra = 0 then 0 else 128) an → s.operand p k t.a (t.rows * na) a →
    s.operand p k t.aScale (if t.scaledA then t.rows * (kk / 32) else 0) sa →
    let anchors := (List.range 64).map fun j => leNat (slice an j 2)
    (∀ x ∈ anchors, x < 512) →
    let cols := (List.range 64).map fun j => (leNat (slice b j nb), slice sb j (kk / 32), BitVec.ofNat 9 (anchors.getD j 0))
    (∀ i < t.rows, tensorRow t kk (leNat (slice a i na)) (slice sa i (kk / 32)) cols
      ((List.range 64).map ((s.slotAt p k).ctx.accAt i)) = some (es i)) →
    exec (.tensorInstruction p k t) s =
      .next ((foldState (List.range t.rows) (fun u i => u.onCtx p k fun c => c.putRow i (es i)) s).nextPc p k))

/-- For a part that issues, on a module whose clocks run, and registers and rows that it holds: a lanewise FP32 or integer
operation writes each of the 32 lanes of its destination with its function of the lanes of its sources; a load takes 32
little-endian words that a window read answers, a store writes them through a window; widen decodes 32 elements of a format
(times their block's scale) to FP32, all canonical NaN where the scale is NaN; narrow writes the converted codes and scale
bytes through windows; an accumulator half row is read converted to FP32; a reduction of the first lanes of a register, or of
the first entries of a row converted to FP32, writes the value of the canonical tree to a scalar register, zero-extended.
TRANSCENDENTAL_INSTRUCTION writes each lane of its destination with the function of the lane of its source, the same for the
same input everywhere, and within two units in the last place of the exact value where that is finite, or that value rounded.
Conversions round as the manifest selects. After each, the program counter is a free value (log entry 3) and nothing else has
changed. -/
def Obligations.VectorInstructions : Prop :=
  ∀ (p k : Nat) (s : State), s.halted = false → s.issuing p k = true →
  let c := (s.slotAt p k).ctx
  let n := s.regsHeld p k
  let lanes (f : Nat → Word32) := (List.range 32).map f
  let round (shard index i : Nat) := (s.launchAt p k).rounding shard (index + i)
  (∀ f dst a b d, dst < n → a < n → b < n → d < n →
    exec (.vectorInstruction p k (.fp f dst a b d)) s = .next ((s.onCtx p k fun x => x.putReg dst (lanes fun i =>
      fpLane f (x.lane a i) (x.lane b i) (x.lane d i))).nextPc p k)) ∧
  (∀ f dst a b, dst < n → a < n → b < n →
    exec (.vectorInstruction p k (.int f dst a b)) s = .next ((s.onCtx p k fun x => x.putReg dst (lanes fun i =>
      intLane f (x.lane a i) (x.lane b i))).nextPc p k)) ∧
  (∀ dst a b, dst < n → s.reads p k a 128 b →
    exec (.vectorInstruction p k (.load dst a)) s = .next ((s.onCtx p k fun x => x.putReg dst (lanes fun i =>
      BitVec.ofNat 32 (leNat (slice b i 4)))).nextPc p k)) ∧
  (∀ src a t, src < n → s.writes p k a ((c.reg src).flatMap fun x => natBytes 4 x.toNat) t →
    exec (.vectorInstruction p k (.store src a)) s = .next (t.nextPc p k)) ∧
  (∀ f sc dst a scale b sb, dst < n → outputFmt f sc = true → s.operand p k a (4 * f.width) b →
    s.operand p k scale (if sc then 1 else 0) sb →
    exec (.vectorInstruction p k (.widen f sc dst a scale)) s = .next ((s.onCtx p k fun x => x.putReg dst (lanes fun i =>
      match blockExp sc sb 0 with
      | none => qnan
      | some e => BitVec.ofNat 32 (convert .fp32 .nearest ((decodeElem f (element f.width (leNat b) i)).shift e)).1)).nextPc p k)) ∧
  (∀ f sc src a scale shard index t1 t2, src < n → outputFmt f sc = true →
    let x := convertAll f sc ((c.reg src).map fpVal) (round shard index)
    s.result p k a x.1 t1 → t1.result p k scale x.2.1 t2 →
    exec (.vectorInstruction p k (.narrow f sc src a scale shard index)) s = .next (t2.nextPc p k)) ∧
  (∀ dst row half shard index, dst < n → row < s.rowsHeld p k →
    exec (.vectorInstruction p k (.readRow dst row half shard index)) s = .next ((s.onCtx p k fun x => x.putReg dst (lanes fun i =>
      BitVec.ofNat 32 (convert .fp32 (round shard index i) (entryVal (x.accAt row (half % 2 * 32 + i)))).1)).nextPc p k)) ∧
  (∀ f src count dst, src < n → count ≤ 32 → dst < 64 → reduces f = true →
    exec (.vectorInstruction p k (.reduceReg f src count dst)) s = .next ((s.onCtx p k fun x =>
      x.putSreg dst ((fpReduce f ((x.reg src).take count)).zeroExtend 64)).nextPc p k)) ∧
  (∀ f row count dst shard index, row < s.rowsHeld p k → count ≤ 64 → dst < 64 → reduces f = true →
    exec (.vectorInstruction p k (.reduceRow f row count dst shard index)) s = .next ((s.onCtx p k fun x =>
      x.putSreg dst ((fpReduce f ((List.range count).map fun i =>
        BitVec.ofNat 32 (convert .fp32 (round shard index i) (entryVal (x.accAt row i))).1)).zeroExtend 64)).nextPc p k)) ∧
  (∀ fn dst src, dst < n → src < n → fn < 8 →
    exec (.transcendentalInstruction p k fn dst src) s = .next ((s.onCtx p k fun x => x.putReg dst ((x.reg src).map fun y =>
      transResult fn y (Config.transcendental fn y))).nextPc p k)) ∧
  (∀ fn x v, transExact fn (fpVal x) = some v →
    withinTwoUlp (fpVal (transResult fn x (Config.transcendental fn x))) v = true ∨ transResult fn x (Config.transcendental fn x) = fpRound v)

/-- On a module whose clocks run, for a part that issues: a scalar instruction writes an immediate, a doubleword that a window
read answers, or the result of an arithmetic operation into a scalar register, writes a register through a window, jumps,
branches when its condition register is not zero, or leaves the loop and predicate state of the part a free value (log entry
3). READ_SPECIAL_SCALAR writes one of the fourteen special scalars into a register. DMA_DESCRIPTOR appends a copy, or an
atomic of its own width, to the queue of the engine it names when both operands lie in bounds. But after a jump or a branch
taken the program counter is a free value (log entry 3). HOLD_OR_LOCAL_STORE_REQUEST first takes the ECC errors named, and
starts the next request of an engine that may; a request named that is ready then takes its data from a source inside the
tile, writes the data it holds to its sink there and ends, or performs its atomic there. -/
def Obligations.ScalarAndDmaInstructions : Prop :=
  ∀ (p k : Nat) (s : State), s.halted = false →
  (s.issuing p k = true →
    (∀ dst v, exec (.scalarInstruction p k (.imm dst v)) s = .next ((s.onCtx p k fun c => c.putSreg dst v).nextPc p k)) ∧
    (∀ dst a b, s.reads p k a 8 b →
      exec (.scalarInstruction p k (.load dst a)) s = .next ((s.onCtx p k fun c => c.putSreg dst (w64 (leNat b))).nextPc p k)) ∧
    (∀ src a t, s.writes p k a (wordBytes ((s.slotAt p k).ctx.sreg src)) t →
      exec (.scalarInstruction p k (.store src a)) s = .next (t.nextPc p k)) ∧
    (∀ f dst a b, exec (.scalarInstruction p k (.alu f dst a b)) s =
      .next ((s.onCtx p k fun c => c.putSreg dst (alu f (c.sreg a) (c.sreg b))).nextPc p k)) ∧
    (∀ cond target, exec (.scalarInstruction p k (.branch cond target)) s =
      .next (if (s.slotAt p k).ctx.sreg cond = 0 then s.nextPc p k else s.onCtx p k fun c => { c with pc := target })) ∧
    (∀ target, exec (.scalarInstruction p k (.jump target)) s = .next (s.onCtx p k fun c => { c with pc := target })) ∧
    exec (.scalarInstruction p k .loopState) s =
      .next (((s.onCtx p k fun c => { c with loopPred := s.fresh }).drawn).nextPc p k) ∧
    (∀ n dst, n < 14 →
      exec (.readSpecialScalar p k n dst) s = .next ((s.onCtx p k fun c => c.putSreg dst (s.special p k n)).nextPc p k)) ∧
    (∀ e src dst len a, e < 2 →
      let n := match a with | some a => atomicWidth a | none => len
      n ≠ 0 → s.endFits p k n src = true → s.endFits p k n dst = true →
      exec (.dmaDescriptor p k e src dst len a) s = .next ((s.onDma p k e fun d => { d with
        queue := d.queue ++ [{ id := d.nextDesc, src := src, dst := dst, len := n, atomic := a }], nextDesc := d.nextDesc + 1 }).nextPc p k))) ∧
  (∀ e n errs,
    let s1 := foldState (errs.filter (s.eccHere p)) (fun a x => a.eccError p x) s
    let u := if n = (s1.dma p k e).reqs.length ∧ s1.engineFree p k e ∧ s1.nextNear p k e ∧ e < 2 then s1.startReq p k e else s1
    (∀ r b, u.servable p k e n = some r → r.atomic = none → r.buf = none →
      u.nearRead (u.endTarget p k r.src r.srcAt r.len false) r.len = some b →
      exec (.holdOrLocalStoreRequest p k ⟨e, n, errs⟩) s = .next (u.gotData p k e r.id b)) ∧
    (∀ r b t, u.servable p k e n = some r → r.buf = some b →
      u.nearWrite (u.endTarget p k r.sink.1 r.sink.2 r.len true) b = some t →
      exec (.holdOrLocalStoreRequest p k ⟨e, n, errs⟩) s = .next (t.reqDone p k e r.id)) ∧
    (∀ r a b, u.servable p k e n = some r → r.atomic = some a → r.buf = none →
      let target := u.endTarget p k r.dst r.dstAt r.len true
      u.nearRead target r.len = some b →
      exec (.holdOrLocalStoreRequest p k ⟨e, n, errs⟩) s = .next ((if b.any (·.2) then u
        else (u.nearWrite target [(natBytes r.len (atomicResult a (leNat (beatBytes b))), false)]).getD u).gotData p k e r.id b)))

/-- On a module whose clocks run, for a part that issues and whose tile the checkers hear: KERNEL_FENCE_WAIT through a valid
handle with the wait right, on a live fence and a target in range, records the wait, released at once when the fence is
abandoned or has reached the target, with the error bit of the error floor; a target at distance 2^63 returns at once with
the value of the fence and status 2^63, with the abandoned and error bits where the fence is abandoned. FENCE_REACHED_NOTICE
of a released wait of a running part ends the wait and writes the value and status registers. KERNEL_FENCE_SIGNAL through a
handle with the signal right on an open fence, and DEVICE_DOORBELL on a berth of the context of the launch, are held behind
the descriptors queued before them. The program counter after an instruction is a free value (log entry 3). -/
def Obligations.FencesAndDoorbellsOfAKernel : Prop :=
  ∀ (p k : Nat) (s : State), s.halted = false →
  (∀ hd tg dv ds x f, s.issuing p k = true → s.heard (s.placeSpeaker p) = true → s.fenceEnt (s.launchAt p k).context hd = some x →
    (s.touchFence x.fon).fence x.fon = some f → x.wait = true → (tg - f.value).toNat ≠ 2 ^ 63 →
    exec (.kernelFenceWait p k hd tg dv ds) s = .next ((s.touchFence x.fon).onCtx p k fun c => { c with wait := some {
      fon := x.fon, target := tg, dstValue := dv, dstStatus := ds
      released := releasedBy f tg, err := releasedBy f tg && waitErr f tg } })) ∧
  (∀ hd tg dv ds x f, s.issuing p k = true → s.heard (s.placeSpeaker p) = true → s.fenceEnt (s.launchAt p k).context hd = some x →
    (s.touchFence x.fon).fence x.fon = some f → x.wait = true → (tg - f.value).toNat = 2 ^ 63 →
    exec (.kernelFenceWait p k hd tg dv ds) s = .next (((s.touchFence x.fon).onCtx p k fun c =>
      (c.putSreg dv f.value).putSreg ds (w64 (2 ^ 63 + if f.abandoned then 2 + (if waitErr f tg then 1 else 0) else 0))).nextPc p k)) ∧
  (∀ f tg, releasedBy f tg = (f.abandoned || decide ((f.value - tg).toNat < 2 ^ 63)) ∧
    waitErr f tg = (f.error && !decide ((f.errFloor - tg).toNat < 2 ^ 63))) ∧
  (∀ w, (s.slotAt p k).ctx.wait = some w → (s.slotAt p k).state = .running → w.released = true →
    let f := (s.fence w.fon).getD {}
    exec (.fenceReachedNotice p k) s = .next (((s.onCtx p k fun c => ({ c with wait := none }.putSreg w.dstValue f.value).putSreg
      w.dstStatus (w64 ((if w.err then 1 else 0) + (if f.abandoned then 2 else 0)))).nextPc p k).reapFence w.fon)) ∧
  (∀ hd v x f, s.issuing p k = true → s.fenceEnt (s.launchAt p k).context hd = some x → s.fence x.fon = some f →
    x.signal = true → f.closed = false →
    exec (.kernelFenceSignal p k hd v) s = .next (((s.onCtx p k fun c => { c with
      held := c.held ++ [⟨.inl (x.fon, v), c.dma0.nextDesc, c.dma1.nextDesc⟩] }).releaseHeld p k).nextPc p k)) ∧
  (∀ b v, s.issuing p k = true → b < 8192 → (s.berth b).context = (s.launchAt p k).context →
    exec (.deviceDoorbell p k b v) s = .next (((s.onCtx p k fun c => { c with
      held := c.held ++ [⟨.inr (b, v), c.dma0.nextDesc, c.dma1.nextDesc⟩] }).releaseHeld p k).nextPc p k))

/-- On a module whose clocks run: GANG_REDUCTION and GANG_BROADCAST of an issuing part with fewer than four contributions in
flight, whose tile the checkers hear and whose contribution agrees with those of the other parts, record the contribution
under the next sequence number; with four in flight the part blocks. REDUCTION_RESULT, when every part of the gang is
resident and has contributed under the sequence number, writes the values combined in part order by the canonical tree to the
register of each part and ends their contributions. A gang of one receives its own value. -/
def Obligations.GangReductions : Prop :=
  ∀ s : State, s.halted = false →
  (∀ p k op v dst root, s.issuing p k = true → (s.slotAt p k).ctx.reds.length < 4 → s.heard (s.placeSpeaker p) = true →
    let sent (o : RedOp) := .next ((s.onCtx p k fun c => { c with
      reds := c.reds ++ [⟨c.nextRed, o, v, dst⟩], nextRed := c.nextRed + 1, blockedRed := false }).nextPc p k)
    let agrees (o : RedOp) := s.redBroken (s.slotAt p k).entry (s.slotAt p k).ctx.nextRed o = false
    (agrees op → exec (.gangReduction p k op v dst) s = sent op) ∧
    (agrees (.bcast root) → exec (.gangBroadcast p k root v dst) s = sent (.bcast root))) ∧
  (∀ p k op v dst root, s.issuing p k = true → 4 ≤ (s.slotAt p k).ctx.reds.length →
    exec (.gangReduction p k op v dst) s = .next (s.onCtx p k fun c => { c with blockedRed := true }) ∧
    exec (.gangBroadcast p k root v dst) s = .next (s.onCtx p k fun c => { c with blockedRed := true })) ∧
  (∀ l seq e r x rest, s.launch l = some e → s.residentParts l = x :: rest → (x :: rest).length = e.gang →
    x.2.2.2.ctx.reds.find? (fun r => r.seq == seq) = some r →
    (∀ y ∈ x :: rest, (y.2.2.2.state = .running ∨ y.2.2.2.state = .retiring) ∧
      (y.2.2.2.ctx.reds.find? fun r => r.seq == seq).isSome = true) →
    exec (.reductionResult l seq) s = .next (
      let v := reduceValues r.op ((x :: rest).filterMap fun y => (y.2.2.2.ctx.reds.find? fun r => r.seq == seq).map (·.value))
      foldState (x :: rest) (fun a y => a.onCtx y.2.1 y.2.2.1 fun c => match c.reds.find? fun r => r.seq == seq with
        | none => c
        | some q => { c.putSreg q.dst v with reds := c.reds.filter (fun r => r.seq != seq), blockedRed := false }) s)) ∧
  (∀ op v, (∀ root, op ≠ .bcast root) → reduceValues op [v] = v)

/-- On a module whose clocks run, of a scan resident on a Mill: MILL_LOAD_COMPLETE of restoring slots with a good CRC, and of
loading ones whose query records read well, moves them to SCANNING (SAVING when the channel has moved away). MILL_RECORD of a
scanning Mill compares what its candidate buffers hold, and, where none is full, takes the next records of the descriptor
that the segment list names for its channel. MILL_SCAN_END with no descriptor left compares the buffers, moves the slots to
DRAINING and counts them. MILL_LIST_ACCEPTED of a draining Mill hands its lists to the merge tree, or in host-assisted mode
writes each to the result area and completes the scan with the last channel; its slots go to ZEROING. MILL_SLOT_SAVED writes
the record of each query of a saving Mill into the pool, lists it there, counts the saves and frees the slots.
MILL_ZEROING_DONE frees a slot in ZEROING and waiting scans may be placed. MILL_ABORT_DONE moves the slots of an aborting
Mill to ZEROING, and completes the launch when no other part of it is busy. -/
def Obligations.MillSlotsOfAScan : Prop :=
  ∀ (m l : Nat) (s : State), s.halted = false →
  (∀ z x e, tabFind (s.mill m).scans l = some z → tabFind s.scans l = some x → s.launch l = some e →
    (z.st = .restoring → exec (.millLoadComplete m l true) s = .next (s.millSlots m l (s.scanningOr m))) ∧
    (∀ ok bs qs, z.st = .loading →
      s.scanRead e.harbour x 1 x.qryOff (x.q * queryStride x.mode x.codeWords) = some (bs, false) →
      ((List.range x.q).mapM fun i => parseQuery (bytesWords 8 (bs.drop (i * queryStride x.mode x.codeWords)))
        (((bs.drop (i * queryStride x.mode x.codeWords)).drop 64).take (queryBytes x.mode x.codeWords))) = some qs →
      exec (.millLoadComplete m l ok) s = .next ((s.millSlots m l (s.scanningOr m)).onMill m fun y => { y with
        scans := tabMod {} y.scans l fun z => { z with queries := qs } })) ∧
    (z.st = .scanning →
      let s1 := s.onMill m fun y => { y with
        scans := tabMod {} y.scans l fun z => { z with queries := z.queries.map (Query.absorb x) } }
      let left := s.scanSegments e.harbour x + 1 - z.seg
      (z.full = true → exec (.millRecord m l) s = .next (s1.pressure m)) ∧
      (∀ s2, z.full = false → s1.millSeek m l e.harbour x left = (none, s2) → exec (.millRecord m l) s = .next (s2.pressure m)) ∧
      (∀ s2 g y, z.full = false → s1.millSeek m l e.harbour x left = (some g, s2) → tabFind (s2.mill m).scans l = some y →
        exec (.millRecord m l) s = .next ((s2.millMany m l x g.tagP g.idE g.stride g.addr g.base y.recIx
          (min (g.count - y.recIx) (max 1 (8 / g.stride)))).pressure m)) ∧
      (∀ s2 y, s.millSeek m l e.harbour x (s.scanSegments e.harbour x + 1 - z.seg) = (none, s2) →
        tabFind (s2.mill m).scans l = some y → y.st = .scanning →
        s.scanSegments e.harbour x ≤ y.seg →
        exec (.millScanEnd m l) s = .next (((s2.millLists m l x).millSlots m l .draining).onMill m fun y => { y with
          cScans := y.cScans + BitVec.ofNat 16 z.slots.length }))) ∧
    (z.st = .draining → x.hostMerge = false →
      exec (.millListAccepted m l) s = .next { s.millLeave m l with
        scans := tabPut s.scans l { x with lists := tabPut x.lists z.idx z.queries } }) ∧
    (z.st = .draining → x.hostMerge = true →
      let s1 := foldState z.queries.zipIdx (fun a q => a.writeList e.harbour x (z.idx * x.q + q.2)
        (listWords x.k q.1.tag q.1.itemsRead q.1.itemsPassed q.1.poisonSkipped (x.chFirst + z.idx) q.1.list)) s
      let s2 := { s1.millLeave m l with scans := tabPut s1.scans l { x with written := setIns x.written z.idx } }
      exec (.millListAccepted m l) s = .next (
        if (setIns x.written z.idx).length = (s.scanChannels e.harbour x).length then (s2.complete l).settle else s2)) ∧
    (∀ w h, z.st = .saving → tabFind ((s.millLists m l x).mill m).scans l = some w → s.harbour e.harbour = some h →
      let saved := ((h.poolScans.filter fun y => match tabFind s.scans y.entry with
        | some v => v.chFirst + y.idx == x.chFirst + w.idx
        | none => false).map fun y => y.slots.length).sum
      let s1 := foldState w.queries.zipIdx (fun a q => a.slotRecordPut e.harbour (x.chFirst + w.idx - h.chanBase) (saved + q.2) q.1)
        (s.millLists m l x)
      exec (.millSlotSaved m l) s = .next (((s1.onHarbour e.harbour fun h => { h with
        poolScans := h.poolScans ++ [w] }).millLeave m l).onMill m fun y => { y with
          cSaves := y.cSaves + BitVec.ofNat 16 w.slots.length }).settle)) ∧
  (∀ k, tabGet .free (s.mill m).slots k = .zeroing →
    exec (.millZeroingDone m k) s = .next (s.onMill m fun y => { y with slots := tabDel y.slots k }).settle) ∧
  (∀ z, tabFind (s.mill m).scans l = some z → z.st = .aborting →
    exec (.millAbortDone m l) s = .next (if (s.millLeave m l).stillBusy l then s.millLeave m l
      else (s.millLeave m l).complete l).settle)

/-- On a module whose clocks run: MERGE_COMPLETE of an active scan in hardware mode for which every list of its channels here,
and those of the modules that send theirs here, have come, writes the merged list of each query to the result area, counts a
merge on every half of the tree in use and completes the launch; on a module that is not the root of the scan and reaches it,
the lists of each half go to the root instead. MILL_LIST_RECEIVE of an active scan that this module roots, with lists of
channels that another module holds, records them under their index and counts the joins on the half of the tree that takes
them. -/
def Obligations.MillMergesAndReceivedLists : Prop :=
  ∀ (l : Nat) (s : State) (x : Scan) (e : Launch), s.halted = false → tabFind s.scans l = some x → s.launch l = some e →
    x.hostMerge = false → e.state = .active →
  (let merged (a : State) := (foldState (s.halvesOf e.harbour x) (fun a d => a.onHalf d fun y => { y with merges := y.merges + 1 }) a).complete l
   s.listsHere e.harbour x = true →
    (s.scanRoot e.harbour x = none → exec (.mergeComplete l) s = .next (merged (foldState (List.range x.q) (fun a q =>
      let m := mergeLists x (x.lists.filterMap fun y => y.2[q]?)
      a.writeList e.harbour x q (listWords x.k m.tag m.itemsRead m.itemsPassed m.poisonSkipped 0xFFFFF m.list)) s)).settle) ∧
    (∀ node, s.scanRoot e.harbour x = some node → s.lk.unreachable.contains node = false →
      exec (.mergeComplete l) s = .next (merged (foldState (s.halvesOf e.harbour x) (fun a d => a.sendLists e x node d) s)).settle)) ∧
  (∀ idx ls y, y ∈ s.scanOthers e.harbour x → y.2.1 ≤ idx → idx < y.2.1 + y.2.2 → s.scanRoot e.harbour x = none →
    ∃ qs : List Query, exec (.millListReceive l idx ls) s =
        .next (({ s with scans := tabPut s.scans l { x with lists := tabPut x.lists idx qs } }).onHalf (s.listHalf e.harbour x idx)
          fun y => { y with joins := y.joins + BitVec.ofNat 16 ls.length }) ∧ qs.length = ls.length ∧
      ∀ (i : Nat) (y : MillList) (q : Query), ls[i]? = some y → qs[i]? = some q → q.list = y.entries ∧ q.itemsRead = y.itemsRead ∧
        q.itemsPassed = y.itemsPassed ∧ q.poisonSkipped = y.poisonSkipped ∧
        ∀ z t, x.lists.head? = some z → z.2[i]? = some t → q.tag = t.tag)

/-- On a module whose clocks run, a write of the function (and PASID, where checked) that owns the doorbell page of a berth:
DB_SUBMIT on a berth that takes host doorbells, with a value at most one ring ahead of FETCH and of the producer, becomes the
producer index; DB_CPL_CONSUMED and DB_CAP_CONSUMED with a value that declares no more than was written becomes the consumed
count; DB_FENCE_SIGNAL with a staged handle that may signal an open fence sends the signal to the dependency unit. Nothing
else changes. -/
def Obligations.DoorbellPageWrites : Prop :=
  ∀ (m : Master) (q : Option Nat) (b : Nat) (s : State), s.halted = false → s.ownsPage m q b = true →
  (∀ v, (s.berth b).hostSubmit = true →
    (v - (s.berth b).fetch).toNat ≤ 2 ^ (s.berth b).log2 → (v - (s.berth b).producer).toNat ≤ 2 ^ (s.berth b).log2 →
    exec (.dbSubmit m q b v) s = .next (s.onBerth b fun x => { x with producer := v })) ∧
  (∀ v, (v - (s.berth b).cplConsumed).toNat ≤ ((s.berth b).cplWritten - (s.berth b).cplConsumed).toNat →
    exec (.dbCplConsumed m q b v) s = .next (s.onBerth b fun x => { x with cplConsumed := v })) ∧
  (∀ v, (v - (s.berth b).capConsumed).toNat ≤ ((s.berth b).capWritten - (s.berth b).capConsumed).toNat →
    exec (.dbCapConsumed m q b v) s = .next (s.onBerth b fun x => { x with capConsumed := v })) ∧
  (∀ v e f, s.fenceEnt (s.berth b).context (s.berth b).stagedHandle = some e →
    s.fence e.fon = some f → e.signal = true → f.closed = false →
    exec (.dbFenceSignal m q b v) s = .next (s.onFu fun u => { u with
      inflight := u.inflight ++ [{ fon := e.fon, value := v, err := (s.berth b).stagedError }] }))

/-- On a module whose clocks run: WHEEL_POSITION of a harbour with room in the launch table, with the Harbourmaster active,
instantiates the pending node of the harbour from its record in the live version slot, or else starts the fetch of its next
berth, which becomes the berth last served. MANIFEST_FETCH of a berth whose fetch is in progress reads the manifest and,
where it has one, its extension, advances FETCH and the status area and admits the launch; a launch that passes the checks
enters the table under the next number and waits for its fences with its own budgets. LT_QUOTA_WRITE by a privileged master
with four quotas in range and a sum within 65,536 entries is taken for the next boundary. -/
def Obligations.DispatchWheelAndQuota : Prop :=
  ∀ s : State, s.halted = false →
  (∀ pos h g i e r gr o, s.wheelHarbour pos = some h → s.hmSilent = false → pos < 128 → s.quotaRoom h = true →
    s.pendingNode h = some (g, i) → s.launch g = some e → e.run = some r → tabFind s.graphs r.graph = some gr →
    tabFind s.hif.objs gr.obj = some o →
    let s1 := s.onLaunch g fun x => { x with run := some { r with pending := setDel r.pending i } }
    exec (.wheelPosition pos) s = .next (((s1.readEffectH o.harbour (o.addr + gr.offset + nodeOffset gr.nodes r.slot i)
      1088).admitLaunch (s1.nodeLaunch g e r gr i) true (s1.nodeRecord gr r.slot i).2).settle)) ∧
  (∀ pos h b, s.wheelHarbour pos = some h → s.hmSilent = false → pos < 128 → s.quotaRoom h = true → s.pendingNode h = none →
    s.nextBerth h = some b →
    exec (.wheelPosition pos) s = .next (s.onHm fun m => { m with
      fetching := setIns m.fetching b, lastServed := tabPut m.lastServed h b })) ∧
  (∀ b bs p ok ext p2, b ∈ s.hm.fetching → s.hmSilent = false →
    let x := s.berth b
    let va := x.subVa + x.fetch.toNat % 2 ^ x.log2 * 512
    let n : Launch := { berth := b, index := x.fetch, harbour := x.harbour, context := x.context
                        entry := bytesWords 64 bs, ringVa := va, det := !x.nondet.contains x.fetch.toNat
                        serialOn := if x.serial then x.lastEntry else none }
    s.vaRead x.context va 512 = some (bs, p) → s.readExt n = (ok, ext, p2) →
    let s1 := ((s.onHm fun h => { h with fetching := setDel h.fetching b }).onBerth b fun x => { x with
      fetch := x.fetch + 1, lastEntry := some s.hm.nextEntry, nondet := setDel x.nondet x.fetch.toNat }).readEffectVa x.context va 512
    let s2 := foldState (if ext.isEmpty then [] else n.extRanges)
      (fun a r => a.readEffectVa x.context (bits (wordAt n.entry 3) 0 57 + r.1) r.2) s1
    let s3 := if n.kind = 0 ∧ s.ras.lost.contains x.context = false then s2.readEffectVa x.context (bits (wordAt n.entry 2) 0 57) 8 else s2
    exec (.manifestFetch b) s = .next (((s3.statusArea b).admitLaunch { n with ext := ext } ok (p || p2)).settle)) ∧
  (∀ (n : Launch) (ext p : Bool), s.ras.lost.contains n.context = false → n.kind = 1 ∨ n.kind = 3 ∨ n.kind = 4 →
    let fons := (List.range (min n.waitCount 8)).filterMap fun i =>
      (s.fenceEnt n.context (BitVec.ofNat 32 (bits (wordAt n.ext (32 + 2 * i)) 0 32))).map (·.fon)
    let s0 := foldState fons (fun a f => a.touchFence f) s
    s0.fetchStatus n ext p = none →
    s.admitLaunch n ext p = s0.onHm fun h => { h with
      launches := tabPut h.launches s.hm.nextEntry { n with
        status := none, state := .waiting, waits := s0.waitsOf n
        budgetInit := s0.lowerBudget n.harbour (bits (wordAt n.entry 0) 40 8)
        budgetCont := s0.lowerBudget n.harbour (bits (wordAt n.entry 0) 48 8), run := none }
      nextEntry := s.hm.nextEntry + 1 }) ∧
  (∀ m j v, m.privileged = true → j < 16 → (∀ i < 4, bits v (16 * i) 13 ≤ 4096) →
    let q := (List.range 4).foldl (fun t i => tabPut t (4 * j + i) (bits v (16 * i) 13)) s.hm.quotaNext
    (q.map (·.2)).sum * 16 ≤ 65536 →
    exec (.ltQuotaWrite m j v) s = .next (s.onHm fun h => { h with quotaNext := q }))

/-- On a module whose clocks run, a privileged master: BERTH_ENABLE of a disabled berth with a ring size in range, aligned rings
in pinned objects, a harbour on the wheel, outside a low-power entry and not forbidden by the pool role, enables it with its
configuration and pinned objects; of an enabled berth, it takes the new TIMEOUT for the next boundary, and counts a refusal
where another field differs. BERTH_DISABLE of a disabled berth takes the configuration; of a stopped and idle one it disables
it with the TIMEOUT written, and counts a refusal where another field differs. BERTH_STOP sets STOP. BERTH_ABORT marks every
entry of the berth and aborts those that are no graph node with ABORTED. The status area follows enabling, disabling and
stopping. -/
def Obligations.BerthControl : Prop :=
  ∀ (m : Master) (b : Nat) (s : State), s.halted = false → m.privileged = true → b < 8192 →
  (∀ v, 4 ≤ bits v 24 5 → bits v 24 5 ≤ 16 →
    let x := (s.berth b).withCfg0 v
    let same := { x with timeout := (s.berth b).timeout } = s.berth b
    (∀ os, (s.berth b).enable = false → s.berthObjs x = some os → x.subVa % 4096 = 0 → x.cplVa % 4096 = 0 → x.statusVa % 64 = 0 →
      x.capVa % 4096 = 0 → s.onWheel x.harbour = true → s.pw.transit = false → x.harbour = 0 ∨ (s.lk.pool = false ∧ s.lk.berthWait = false) →
      exec (.berthEnable m b v) s = .next ((s.onBerth b fun _ => { x with enable := true, objs := os }).statusArea b)) ∧
    ((s.berth b).enable = true →
      let s1 := s.onBerth b fun y => { y with timeoutNext := some x.timeout }
      (same → exec (.berthEnable m b v) s = .next s1) ∧ (¬same → exec (.berthEnable m b v) s = .next s1.hmRefused)) ∧
    ((s.berth b).enable = false → exec (.berthDisable m b v) s = .next (s.onBerth b fun y => y.withCfg0 v)) ∧
    ((s.berth b).enable = true → (s.berth b).stop = true → s.berthBusy b = false →
      let s1 := (s.onBerth b fun y => { y with enable := false, objs := [], timeout := x.timeout, timeoutNext := none }).statusArea b
      (same → exec (.berthDisable m b v) s = .next s1) ∧ (¬same → exec (.berthDisable m b v) s = .next s1.hmRefused))) ∧
  exec (.berthStop m b) s = .next ((s.onBerth b fun x => { x with stop := true }).statusArea b) ∧
  (let s1 := s.onHm fun h => { h with
     launches := h.launches.map fun x => if x.2.berth = b then (x.1, { x.2 with abortDue := true }) else x }
   exec (.berthAbort m b) s = .next (foldState (s1.entriesOf fun e => e.berth == b && e.node.isNone)
      (fun a l => a.abortLaunch l .aborted none) s1).settle)

/-- On a module whose clocks run: HEARTBEAT restarts the count of the standby. HEARTBEAT_LOSS (with the count at four),
SELF_CHECK_REPORT and HM_LOST with a standby that is ready, while a standby is present and no takeover runs, begin one:
TAKEOVER reads 1, HM_GEN increments, the tide of the detection and its time in the tide (a free value, log entry 3) are kept,
fetches in progress are forgotten, and the slots of launches that were still loading everywhere are FREE again and the
launches READY. HM_FAILOVER ends the takeover: the records in the tail of the mirror log are written again and their signals
sent again, the other die is active without a standby, the failover is counted and event 0x0300 raised, records of launches
that ended meanwhile are written, the boundary steps that waited are run and the rebind steps that wait go on. HM_LOST
without a standby that is ready, or in a takeover, sets LOST and clears STANDBY, raises event 0x0301 and keeps MODULE_FAIL
for the next start-up. -/
def Obligations.HarbourmasterFailover : Prop :=
  ∀ s : State, s.halted = false →
  exec .heartbeat s = .next (s.onHm fun h => { h with sinceBeat := 0 }) ∧
  (s.hm.standby = true → s.hm.takeover = false →
    let loading := s.hm.launches.filter fun x => x.2.state == .active && x.2.kind == 0 && !x.2.parts.isEmpty &&
      x.2.parts.all fun p => match p with | .slot q k => (s.slotAt q k).state == .loading | _ => false
    let began (a : State) : State := foldState loading (fun a x => a.unplace x.1 x.2) (a.onHm fun h => { h with
      takeover := true, gen := h.gen + 1, takeoverTide := s.tide.num, takeoverNs := s.fresh.toNat % (s.tide.period * 1000), rewritten := 0
      returned := (loading.map fun x => x.2.parts.length).sum, fetching := [] }).drawn
    exec .heartbeatLoss s = .next (began (s.onHm fun h => { h with sinceBeat := 4 })) ∧
    exec .selfCheckReport s = .next (began s) ∧ exec (.hmLost true) s = .next (began s)) ∧
  (s.hm.takeover = true →
    let s1 := foldState s.hm.tail (fun a r => a.rewriteRec r) s
    let s2 := (s1.onHm fun h => { h with takeover := false, standby := false, activeDie := 1 - h.activeDie
                                         cFailovers := h.cFailovers + 1 }).eventAt s1.hm.takeoverTide 0x0300 11 (1 - s1.hm.activeDie)
      [w64 s1.hm.takeoverNs, w64 s1.hm.rewritten, w64 s1.hm.returned]
    exec .hmFailover s = .next s2.flushAll.heldSteps.advanceProcs.settle) ∧
  (∀ r, s.hm.standby = false ∨ r = false ∨ s.hm.takeover = true → s.hm.lost = false →
    exec (.hmLost r) s = .next (((s.onHm fun h => { h with lost := true, takeover := false, standby := false }).event 0x0301 11
      s.hm.activeDie [w64 s.hm.launches.length]).keepEvent 0x0909 0 0 [4]))

/-- On a module whose clocks run, with the Harbourmaster active: FENCE_SIGNAL_APPLY takes the signal that arrived first and looks
its fence up; a value ahead of the fence becomes its value, with its error state, its floor, the mirrors and the waits it
releases; a value behind it, or on an abandoned fence, is a stale signal; what it released is settled and a fence that
nothing holds dropped. HM_FENCE_EVICT by a privileged master removes a cached fence and counts a spill. WAIT_CYCLE_APPLY of a
due result whose members all still wait completes them with WAIT_CYCLE, counts them, raises event 0x0400, settles and takes
the snapshot. HM_CYCLE_ANSWER by a privileged master, of a pending check and for the tide of its snapshot, with every member
found among the candidates, becomes the result, in the order of the candidates. PATCH_APPLY of the first READY patch, whose
base is current and whose ranges may be patched, writes them into the slot of the current version or a copy of it in a slot
that is not live, and, where the image is good, makes it the next version and completes with its number. -/
def Obligations.FenceCycleAndPatchCommands : Prop :=
  ∀ s : State, s.halted = false →
  (∀ x t f, s.fu.inflight = x :: t → s.hmSilent = false →
    let s0 := (s.takeSignal x t).touchFence x.fon
    s0.fence x.fon = some f →
    (f.abandoned = false → x.value ≠ f.value → (x.value - f.value).toNat < 2 ^ 63 →
      exec .fenceSignalApply s = .next (((((s0.putFence x.fon { f with
        errFloor := if x.err && !f.error then f.value else f.errFloor, error := f.error || x.err, value := x.value }).writeMirrors
        x.fon).releaseWaits x.fon).settle).reapFence x.fon)) ∧
    (f.abandoned = true ∨ 2 ^ 63 ≤ (x.value - f.value).toNat →
      exec .fenceSignalApply s = .next ((s0.staleSignal x.fon x.value f.value).settle.reapFence x.fon))) ∧
  (∀ m v, m.privileged = true → bits v 0 24 ∈ s.fu.cache →
    exec (.hmFenceEvict m v) s = .next (s.onFu fun u => { u with
      cache := u.cache.filter (· != bits v 0 24), cSpills := u.cSpills + 1 })) ∧
  (∀ x, s.hmSilent = false → s.fu.resultDue = true → s.fu.result = some x →
    (∀ l ∈ x.members, (s.launch l).map (·.state) = some .waiting) →
    let s1 := foldState x.members (fun a l => (a.onLaunch l fun e => { e with
      status := some (worse e.status .waitCycle), state := .completing }).stamp l)
      (s.onFu fun u => { u with result := none, resultDue := false })
    let s2 := (foldState x.members (fun a l => a.complete l) s1).onFu fun u => { u with
      cFound := u.cFound + 1, cMembers := u.cMembers + BitVec.ofNat 16 x.members.length }
    exec .waitCycleApply s = .next (((s2.eventAt x.tide 0x0400 0 0 [w64 x.members.length,
      w64 ((x.members.filterMap fun l => (s.launch l).map fun e => e.ident.toNat).min?.getD 0)]).settleLate).takeSnapshot)) ∧
  (∀ m v x ids ms, m.privileged = true → bits v 0 14 ≤ 8192 → s.fu.cyclePending = true → s.fu.snap = some x →
    ((List.range (bits v 0 14)).filterMap fun i => (s.word0 (s.fu.bufBase + 0xA0040 + 8 * i)).map (·.1)) = ids →
    ids.length = bits v 0 14 → bits v 16 16 = bits x.tide 0 16 →
    (ids.map fun w => (x.cands.find? fun c => match s.launch c.entry with
        | some e => e.ident == w
        | none => false).map (·.entry)) = List.map some ms →
    exec (.hmCycleAnswer m v) s = .next (s.onFu fun u => { u with
      cyclePending := false, result := some ⟨x.tide, (x.cands.map (·.entry)).filter fun l => ms.contains l⟩ })) ∧
  (∀ l e k g d, s.launch l = some e → e.kind = 4 → e.state = .ready → s.hmSilent = false →
    (∀ x ∈ s.hm.launches, x.2.kind = 4 → x.2.state = .ready → e.readySeq ≤ x.2.readySeq) →
    s.graphOf e.context (bits (wordAt e.entry 6) 0 32) = some (k, g) → g.unregistering = false →
    bits (wordAt e.entry 6) 32 32 = 0 ∨ bits (wordAt e.entry 6) 32 32 = g.curVersion →
    (∀ i < bits (wordAt e.entry 7) 0 5, let w := wordAt e.entry (8 + 2 * i)
      patchable (bits w 16 11) (bits w 32 4) = true ∧ bits w 0 10 < g.nodes) →
    (if s.slotRun k g.curSlot then (List.range 4).find? fun i => !(s.liveSlots k g).contains i else some g.curSlot) = some d →
    let s2 := (if d = g.curSlot then s else s.graphCopy g g.curSlot d).writePatches g d e
    s2.imagePoisoned g d = false → s2.imageOk g d = true →
    let v := if g.curVersion = 0xFFFFFFFF then 1 else g.curVersion + 1
    let old := if d = g.curSlot ∨ s.slotRun k g.curSlot then g.slotVersion else tabPut g.slotVersion g.curSlot 0
    let g2 := { g with curVersion := v, curSlot := d, slotVersion := tabPut old d v }
    let s3 := { s2 with graphs := tabPut s2.graphs k g2 }
    exec (.patchApply l) s = .next ((((s3.graphWrite g2 0 ((s3.graphHeader k g2).flatMap wordBytes)).onLaunch l fun e => { e with
      status := some (worse e.status .ok), capState := 1, state := .completing, exitValue := BitVec.ofNat 32 v }).complete l).settle))

/-- On a module whose clocks run: HB_REQ by a privileged master of a request that can be read without poison and passes
validation writes a procedure of it, at step 0, into the first free journal slot. HB_CANCEL by a privileged master of a
procedure before its BUMP that is not yet due rolls it back with CANCELLED. For a procedure whose step may run: REBIND_DRAIN
that has not started marks the source places as draining, keeps the hold-bound launches resident there for RESTORE, pre-empts
every launch resident there, and the steps that follow start where they may. REBIND_SAVE, of a SAVE that has started, copies
the records that are not hold-bound to the pool and ends SAVE. REBIND_ZERO_DONE, of a ZERO that has started on destinations
whose tiles are not in reset, zeroes those that were not yet zero (each channel of a MOVE, whose correction level it takes
over), ungates their clusters, marks them zeroed in the journal and ends ZERO. -/
def Obligations.HarbourRequestsAndFirstSteps : Prop :=
  ∀ s : State, s.halted = false →
  (∀ m v bs p, m.privileged = true → s.readH 0 (bits v 12 36 * 4096) 4096 = some (bs, p) →
    let ws := (bytesWords 512 bs).take requestWords
    let addr := bits v 12 36 * 4096
    (requestRead ws).any (fun x => (s.readH 0 (addr + x.1) x.2).any (·.2)) = false →
    let s1 := foldState (requestRead ws) (fun a x => a.readEffectH 0 (addr + x.1) x.2) s
    s1.reqReason ws (bytesWords 512 bs) false = 0 →
    exec (.hbReq m v) s = .next (s1.journalPut (((List.range 4).find? fun j => (tabFind s1.hb.journal j).isNone).getD 0) {
      harbour := reqHarbour ws, op := reqOp ws, oldHgen := s1.hgen (reqHarbour ws), newHgen := nextGen (s1.hgen (reqHarbour ws))
      acceptTide := s1.tide.num, stepTide := s1.tide.num, reqAddr := addr, request := ws
      steps := opSteps (reqOp ws) (s1.decreases (reqHarbour ws) (reqEntries ws))
      entries := (reqEntries ws).map fun e => { dstZeroed := addsUnit (reqOp ws) e && s1.unitZeroed e.type e.dst } })) ∧
  (∀ m v x, m.privileged = true → tabFind s.hb.journal (bits v 0 2) = some x → x.step < 5 → s.bumpDue x = false →
    exec (.hbCancel m v) s = .next (s.rollback (bits v 0 2) 1 9).settle) ∧
  (∀ j x, s.procReady j 1 = some x → x.drainOn = false → s.stepHeld x = false →
    exec (.rebindDrain j) s = .next (
      let on := s.hm.launches.filter fun l => x.sources.any fun p => (s.residents p).any fun e => e == l.2
      let s1 := s.onProc j fun y => { y with drainOn := true, moved := (on.filter fun l => l.2.holdBound).map (·.1) }
      let s2 := foldState x.sources (fun a p => a.onPlace p fun q => { q with draining := true }) s1
      (foldState on (fun a l => a.preemptLaunch l.1) s2).advanceProc j)) ∧
  (∀ j x, let s0 := s.advanceProc j
    s0.procReady j 2 = some x → x.saveOn = true → x.saveDone = false →
    exec (.rebindSave j) s = .next (
      let s1 := foldState x.sources (fun a p =>
        foldState ((a.place p).heap.filter fun r => match a.launch r.entry with | some e => !e.holdBound | none => false)
          (fun b r => b.poolRecord x.harbour p r) a) s0
      (s1.onProc j fun y => { y with saveDone := true, mark := y.boundaries }).advanceProc j)) ∧
  (∀ j x, s.procReady j 3 = some x → x.zeroOn = true → x.zeroDone = false →
    (∀ e ∈ x.units0, addsUnit x.op e = true → e.type = 0 → s.inReset e.dst = false) →
    exec (.rebindZeroDone j) s = .next (
      let gated (e : UnitEntry) : Bool := e.type == 0 && (s.cluster (clusterOf e.dst)).gated
      let s1 := foldState (x.units0.filter fun e => addsUnit x.op e) (fun a e =>
        let a1 := if a.unitZeroed e.type e.dst ∧ !(e.type = 1 ∧ x.op = 3) then a else a.zeroUnit e.type e.dst
        let a2 := if gated e then a1.ungateFor e.dst else a1
        if e.type = 1 ∧ x.op = 3 then a2.onChan e.dst fun c => { c with level := (s.chan e.src).level } else a2) s
      ((if x.op = 3 then s1.followRef s else s1).onProc j fun y => { y with
        entries := y.rows.map fun r => if addsUnit x.op r.1 then { r.2 with dstZeroed := true, dstWasUngated := gated r.1 } else r.2
        zeroDone := true, mark := y.boundaries }).advanceProc j))

/-- On a module whose clocks run: REBIND_TRANSFER_DONE of a procedure in TRANSFER whose tiles are not in reset copies each moving
unit with its journalled progress and ends the step. REBIND_BUMP of a procedure that is due ends a running scrub of each
leaving channel, switches the maps, ends BUMP, goes on to RELEASE where its OP has it, and lets what waited go.
REBIND_RESTORE of a bumped procedure with no slot left to save restores the hold-bound launches that are saved and the saved
scans. REBIND_RELEASE_DONE zeroes the units that left and are no longer busy and ends their forwarding. HARBOUR_COMMIT of a
procedure with both done, at a later boundary, writes map and result, clears its journal slot, raises event 0x0500 and, for
the tiles and channels of a GROW or SHRINK, sends the new counts. HOLD_WAIT_EXPIRE of a draining procedure at its hold wait
aborts the launches and scans still on leaving units. STALE_SPEAKER of a speaker that is not fenced and whose harbour and
generation differ from its checker entry raises event 0x0002 and, but for a Harbourmaster instance, fences the speaker and
counts the drop; of a fenced speaker it counts a fenced drop. -/
def Obligations.HarbourLaterStepsAndStaleSpeakers : Prop :=
  ∀ s : State, s.halted = false →
  (∀ j x, s.procReady j 4 = some x → x.step = 4 → x.done = false →
    (∀ e ∈ x.units0, e.type = 0 → s.inReset e.src = false ∧ s.inReset e.dst = false) →
    exec (.rebindTransferDone j) s = .next ((foldState (x.units0.zipIdx.filter fun e => s.moves e.1)
      (fun a e => a.transferEntry j e.2 e.1) s).onProc j fun y => { y.at 4 true s.tide.num with mark := y.boundaries })) ∧
  (∀ j x, tabFind s.hb.journal j = some x → s.bumpDue x = true →
    let leave := s.leavingUnits x
    let s1 := s.onProc j fun y => y.at 5 false s.tide.num
    let s2 := ((foldState (leave.filter fun u => u.1 == 1) (fun a u => a.endScrub u.2 2 0) s1).bumpMap x).onProc j fun y => {
      y.at 5 true s.tide.num with
        leaving := leave, mark := y.boundaries, restoreDone := !x.steps.contains 6, releaseDone := !x.steps.contains 7 }
    let s3 := if x.steps.contains 7 then s2.onProc j fun y => y.at (if x.steps.contains 6 then 6 else 7) false s.tide.num else s2
    exec (.rebindBump j) s = .next s3.sendAll.settle) ∧
  (∀ j x, s.procBumped j = some x → x.restoreDone = false → s.savesLeft x = false →
    exec (.rebindRestore j) s = .next (((foldState x.moved (fun a l => match a.launch l with
        | some e => if e.state = .saved ∧ !e.timeoutDue then a.placeKernel l else a
        | none => a) s).restoreScans x.harbour).onProc j fun y => { y.earn (fun _ r => { r with restored := true }) with
          restoreDone := true }.after s.tide.num).settle) ∧
  (∀ j x, s.procBumped j = some x → x.releaseDone = false →
    (∀ u ∈ x.leaving, (u.1 = 0 → s.inReset u.2 = false) ∧
      (u.1 = 1 → ∀ z ∈ (s.mill u.2).scans, ∀ e, s.launch z.1 = some e → e.harbour ≠ x.harbour)) →
    exec (.rebindReleaseDone j) s = .next (((foldState x.leaving (fun a u =>
        if a.unitCond u.1 u.2 = .retired then a else a.zeroUnit u.1 u.2) s).onHb fun m => { m with
          forward := m.forward.filter fun f => !x.leaving.contains (1, f.1) }).onProc j fun y => {
            y.earn (fun _ r => { r with srcReleased := true }) with releaseDone := true }.after s.tide.num)) ∧
  (∀ j x, s.procBumped j = some x → x.restoreDone = true → x.releaseDone = true → x.mark < x.boundaries →
    let s0 := s.onProc j fun y => y.at 8 false s.tide.num
    let s1 := (((s0.put0 (x.reqAddr + 0x840) (s0.mapWords x.harbour)).put0 (x.reqAddr + 0x28) [s.tide.num]).procResult
      x.reqAddr 0 0 x.newHgen).journalClear j
    let s2 := (if x.op = 4 then s1.onRg fun r => { r with regrant := setDel r.regrant x.harbour } else s1).procEvent 0x0500 x.harbour
      [w64 x.harbour, w64 x.op, wordAt x.request 1, w64 x.newHgen.toNat]
    exec (.harbourCommit j) s = .next (
      if (x.op = 1 ∨ x.op = 2) ∧ x.units0.any (fun e => e.type ≤ 1) then s2.sendCounts x.harbour else s2)) ∧
  (∀ j x, s.procReady j 1 = some x → x.drainOn = true → x.drainDone = false → x.op ≠ 3 → 1 + reqHoldWait x.request ≤ x.boundaries →
    exec (.holdWaitExpire j) s = .next (
      let kernels := s.hm.launches.filter fun l => x.op == 2 && l.2.holdBound && x.sources.any l.2.partOn
      let scans := s.hm.launches.filter fun l => x.units0.any fun e => (e.type == 2 || (e.type == 1 && x.op == 2))
        && (match tabFind (s.mill e.src).scans l.1 with
          | some z => z.slots.any (s.leavingSlots e.src x.harbour).contains
          | none => false)
      (foldState (kernels ++ scans) (fun a l => a.abortLaunch l.1 .aborted none) s).settle.advanceProc j)) ∧
  (∀ u h g, s.speakerFenced u = false → s.checkerEntry u ≠ some (h, g) →
    exec (.staleSpeaker u h g) s = .next ((match u with
        | .harbourmaster _ => s
        | _ => (s.fenceSpeaker u).onHb fun m => { m with cStaleSpeaker := m.cStaleSpeaker + 1 }).event
      0x0002 (speakerUnit u).1 (speakerUnit u).2
      [pair (speakerUnit u).1 (speakerUnit u).2, pair h g,
       pair ((s.checkerEntry u).getD (0, 0)).1 ((s.checkerEntry u).getD (0, 0)).2])) ∧
  (∀ u h g, s.speakerFenced u = true →
    exec (.staleSpeaker u h g) s = .next (s.onHb fun m => { m with cFencedDrop := m.cFencedDrop + 1 }))

/-- On a module whose clocks run; a request first takes the symbol errors named. HBM_READ of a range in the data space of a
present channel (of its successor while it forwards) decodes the codewords it touches and counts a read of stored poison;
HBM_WRITE of a range stores its bytes with their poison state; HBM_ATOMIC stores the result of the operation on the value
read, where that carries no poison. For a request of a DMA engine whose translated end lies in HBM, on channels the checkers
hear, the same takes place on each of its pieces: the engine has the data, or the old value, or its write is done.
CORRECTED_WRITEBACK ends the write-back that waits first and its symbol errors are gone. WRITTEN_BITS_CLEAR_DONE clears
CLEARING, takes the channel from the objects being zeroed, drops the objects whose last channel it was and answers what
waited for them. -/
def Obligations.ChannelRequests : Prop :=
  ∀ s : State, s.halted = false →
  (∀ c b n errs, let t := s.damaged errs
    let d := t.forwarded c
    t.channelPresent c = true → b + n ≤ t.dataBytes c →
    exec (.hbmRead (.range c b n) errs) s = .next (let t1 := t.decodeRange d b n
      if t.storedPoison d b n then t1.onChan d fun x => { x with cPoisonRead := x.cPoisonRead + 1 } else t1)) ∧
  (∀ c b d p errs, let t := s.damaged errs
    t.channelPresent c = true → b + d.length ≤ t.dataBytes c → d.length ≠ 0 →
    exec (.hbmWrite (.range c b d.length) d p errs) s = .next (t.hbmPut (t.forwarded c) b d p)) ∧
  (∀ c b n a errs, let t := s.damaged errs
    let d := t.forwarded c
    t.channelPresent c = true → b + atomicWidth a ≤ t.dataBytes c →
    exec (.hbmAtomic (.range c b n) a errs) s = .next (let t1 := t.readEffect ⟨d, b, atomicWidth a⟩
      if t.hbmPoison d b (atomicWidth a) then t1
      else t1.hbmPut d b (natBytes (atomicWidth a) (atomicResult a (leNat (t.hbmBytes d b (atomicWidth a))))) false)) ∧
  (∀ p k e n errs q, let t := s.damaged errs
    t.servable p k e n = some q →
    (∀ a ps, q.atomic = none → q.buf = none → q.srcAt = some a → t.target p k a q.len false = .hbm ps →
      (∀ x ∈ ps, (t.readEffects ps).channelHeard x.ch = true) →
      exec (.hbmRead (.engine p k e n) errs) s = .next ((t.readEffects ps).gotData p k e q.id
        ((granulesOf ps).map fun g => (t.hbmBytes g.ch g.byte g.len, t.hbmPoison g.ch g.byte g.len)))) ∧
    (∀ bs a ps d w, t.sourceData p k q = some bs → q.sink.2 = some a → t.target p k a q.len true = .hbm ps →
      (∀ x ∈ ps, (t.writeThrough ps bs).channelHeard x.ch = true) →
      exec (.hbmWrite (.engine p k e n) d w errs) s = .next ((t.writeThrough ps bs).reqDone p k e q.id)) ∧
    (∀ op a x ps f, q.atomic = some op → q.buf = none → q.dstAt = some a → t.target p k a q.len true = .hbm (x :: ps) →
      let y := t.serveAtomic x.ch x.byte op
      y.2.channelHeard x.ch = true →
      exec (.hbmAtomic (.engine p k e n) f errs) s = .next (y.2.gotData p k e q.id [y.1]))) ∧
  (∀ c, exec (.correctedWriteback c) s = .next (match (s.chan c).writeback with
    | [] => s
    | w :: rest => (s.onChan c fun x => { x with writeback := rest }).onMem fun m => { m with damage := tabDel m.damage (cwKey c w) })) ∧
  (∀ c, let z := s.hif.zeroing.map fun z => (z.1, setDel z.2 c)
    exec (.writtenBitsClearDone c) s = .next ((foldState (z.filter fun x => x.2.isEmpty) (fun a x => a.dropObj x.1)
      ((s.onChan c fun x => { x with clearing := false }).onHif fun h => { h with
        zeroing := z.filter fun x => !x.2.isEmpty })).pollPages))

/-- On a module whose clocks run, by a privileged master: MC_LEVEL_WRITE of another level on a present, free channel clears the
channel and sets the level; of the level it has, it changes nothing. MC_REMAP_WRITE in host-assisted mode, of an entry that
may go and with a candidate that the table admits, replaces the entry and drops the candidate; with VALID 0 it only removes
the entry. MC_ISET_WRITE of a set that no object uses, in range and on channels the harbour holds, stores the set. MC_RETIRE
of a present channel retires it: its checker entry says retired, the failure is reported and event 0x0906 raised, the scans
on it end with FAULT, the procedures that name it end and a span on it is reset. -/
def Obligations.ChannelRegisterWrites : Prop :=
  ∀ (m : Master) (s : State), s.halted = false → m.privileged = true →
  (∀ c v, s.channelPresent c = true → s.channelFree c = true →
    exec (.mcLevelWrite m c v) s = .next (if (s.chan c).level = bits v 0 2 then s
      else (s.clearChannel c).onChan c fun x => { x with level := bits v 0 2 })) ∧
  (∀ st e v, s.channelPresent (st * 32) = true → e < 32 → s.hostMode 5 = true →
    ((s.remapEntry st e).valid = false ∨ s.channelFree (st * 32 + (s.remapEntry st e).channel) = true) →
    let s1 := s.onMem fun x => { x with remap := tabDel x.remap (st * 32 + e) }
    let c := st * 32 + bits v 0 5
    let r : Remap := { channel := bits v 0 5, bank := bits v 5 5, row := bits v 10 15, word := bits v 25 9,
                       column := bit v 37, byManager := true }
    (bit v 63 = false → exec (.mcRemapWrite m st e v) s = .next s1) ∧
    (bit v 63 = true → s1.remapFull c r = false →
      exec (.mcRemapWrite m st e v) s = .next ((s1.remapPut c e r).onChan c fun x => { x with
        candidates := x.candidates.filter fun q => !sameRemap r q }))) ∧
  (∀ h set v, s.isetUsed h set = false → bits v 8 4 ≤ 8 → bits v 12 2 ≠ 3 →
    (bit v 15 = true → bits v 0 8 + 2 ^ bits v 8 4 ≤ (match s.harbour h with | some e => e.channels.length | none => 0)) →
    let x : ISet := { baseCh := bits v 0 8, log2Ways := bits v 8 4, gran := bits v 12 2, valid := bit v 15 }
    exec (.mcIsetWrite m h set v) s = .next (s.onMem fun q => { q with isets := tabSet {} q.isets (h * 16 + set) x })) ∧
  (∀ c, s.channelPresent c = true → (s.chan c).retired = false →
    exec (.mcRetire m c) s = .next (
      let name := s.channelName c
      let s1 := ((s.onChan c fun x => { x with retired := true, retireCause := 4 }).onHb fun m => { m with
        channels := tabPut m.channels c .retired }).unitFailed 3 c 4 name
      ((foldState (s.scansOn c) (fun a l => (a.endScan l .fault).settle)
        (s1.event 0x0906 3 c [w64 c, pair name.1 name.2])).procUnitFailed 1 c).spanReset 3 c name))

/-- On a module whose clocks run: REMAP_INSTALL in hardware mode takes the first candidate of a channel and puts it into the
lowest entry free where the table admits it; else it reports a full table. A privileged MC_SCRUB with a readable request, a
summary record that can be written, a range in the data space and no scrub running starts the scrub of the request. A
privileged SCRUB_CANCEL of a running scrub on a present channel writes the summary record with STATUS 3, clears the scrub,
counts it and raises event 0x0603. SCRUB_DONE takes the symbol errors named, decodes the codewords of the written pages of
the range (of its first 1,024 pages where the scrub is chunked), sums what it read, skipped, corrected and found
uncorrectable, and ends the scrub with STATUS 0, or 1 with the next page where pages are left. -/
def Obligations.RemapInstallAndScrubs : Prop :=
  ∀ s : State, s.halted = false →
  (∀ c r rest, s.hostMode 5 = false → (s.chan c).candidates = r :: rest →
    let s1 := s.onChan c fun x => { x with candidates := rest }
    (∀ e, s1.freeRemap (c / 32) = some e → s1.remapFull c r = false → exec (.remapInstall c) s = .next (s1.remapPut c e r)) ∧
    (s1.freeRemap (c / 32) = none ∨ s1.remapFull c r = true → exec (.remapInstall c) s = .next (s1.remapFullEvent c r))) ∧
  (∀ m c v bs p, m.privileged = true → s.channelPresent c = true → s.readH 0 (bits v 6 42 * 64) 64 = some (bs, p) →
    let ws := bytesWords 8 bs
    let s1 := s.readEffectH 0 (bits v 6 42 * 64) 64
    (s1.chan c).scrub = none → (s1.readH 0 (bits (wordAt ws 2) 6 42 * 64) 64).isSome = true → bits (wordAt ws 1) 20 21 ≠ 0 →
    bits (wordAt ws 1) 0 20 + bits (wordAt ws 1) 20 21 ≤ dataPages (s1.chan c).level →
    exec (.mcScrub m c v) s = .next (s1.onChan c fun x => { x with scrub := some {
      cls := bits (wordAt ws 0) 0 3, first := bits (wordAt ws 1) 0 20, pages := bits (wordAt ws 1) 20 21
      summary := bits (wordAt ws 2) 6 42 * 64, tag := wordAt ws 3, chunk := s1.hostMode 6, startTide := s1.tide.num } })) ∧
  (∀ m c x, m.privileged = true → s.channelPresent c = true → (s.chan c).scrub = some x →
    exec (.scrubCancel m c) s = .next (((s.put0 x.summary [w64 (3 + c * 256 + 2 ^ 63), pair x.pagesRead x.pagesSkipped,
        pair x.cwCorrected x.symCorrected, pair x.cwUncorrectable x.candidates,
        w64 ((match x.firstUe with | some p => p + 2 ^ 20 | none => 0) + 0 * 2 ^ 32), x.startTide, s.tide.num, x.tag]).onChan c
      fun y => { y with scrub := none, cScrubs := y.cScrubs + 1 }).event 0x0603 3 c
        [w64 c, w64 3, w64 x.cwUncorrectable, x.tag])) ∧
  (∀ c x errs, (s.chan c).scrub = some x →
    let n := if x.chunk then min 1024 x.pages else x.pages
    let s0 := s.damaged errs
    let pages := s0.writtenPages c x.first n
    let cws := if s0.mem.damage.isEmpty then [] else pages.flatMap fun d => [2 * d, 2 * d + 1]
    let s1 := foldState cws (fun a w => a.decodeOne c w false) s0
    let fixed := cws.filter fun w => !s0.beyond c w && !(s0.symbolErrors c w).isEmpty
    let s2 := s1.onChan c fun q => { q with scrub := some { x with
      pagesRead := pages.length, pagesSkipped := n - pages.length, cwCorrected := fixed.length
      symCorrected := (fixed.map fun w => (s0.symbolErrors c w).length).sum, cwUncorrectable := (cws.filter (s0.beyond c)).length
      candidates := (s1.chan c).candidates.length - (s.chan c).candidates.length
      firstUe := ((cws.filter (s0.beyond c)).map fun w => w / 2).min? } }
    exec (.scrubDone c errs) s = .next (if n < x.pages then s2.endScrub c 1 (x.first + n) else s2.endScrub c 0 0))

/-- On a module whose clocks run: TRANSLATE_WALK of an engine that may issue translates again a request that a restore left
without its address, or else both ends of the next piece of its oldest unfinished descriptor; where the translation answers,
the request is outstanding with its addresses (a new one under the next number, its bytes counted as issued, with its data
where that lies in the tile and its sink does not lie in memory here) and moves on; with nothing to issue, nothing changes. A
write of a harbour's fault page by a master that may: XLF_CONS sets CONSUMED and lets held requests walk again; XLF_RESUME of
a pending entry marks it resumed (STATE 1), releases the engines it holds and lets held requests walk again; XLF_ABORT of a
pending entry marks it aborted (STATE 3) and fails each engine it holds with the error code of its kind and FAULT. -/
def Obligations.WalksAndFaultPage : Prop :=
  ∀ s : State, s.halted = false →
  (∀ p k e, s.engineFree p k e = true → e < 2 →
    (∀ r at' s1, (s.dma p k e).reqs.find? (fun r => !r.ready) = some r → s.translateEnd p k e r.sink.1 .write r.len = (some at', s1) →
      exec (.translateWalk p k e) s = .next ((s1.onReq p k e r.id fun q =>
        if q.atomic.isSome then { q with ready := true, srcAt := at' } else { q with ready := true, dstAt := at' }).moveOn p k e r.id)) ∧
    (∀ d srcAt dstAt s1 s2, (s.dma p k e).reqs.find? (fun r => !r.ready) = none →
      (s.dma p k e).queue.find? (fun d => decide (d.issued < d.len)) = some d →
      s.translateEnd p k e (endAt d.issued d.src) (if d.atomic.isSome then .write else .read) d.nextLen = (some srcAt, s1) →
      s1.translateEnd p k e (endAt d.issued d.dst) (if d.atomic.isSome then .atomic else .write) d.nextLen = (some dstAt, s2) →
      let id := (s2.dma p k e).nextReq
      let r0 : DmaReq := { id := id, desc := d.id, pos := d.issued, len := d.nextLen, src := endAt d.issued d.src, dst := endAt d.issued d.dst
                           atomic := d.atomic, srcAt := srcAt, dstAt := dstAt }
      let away := match dstAt.map fun y => s2.target p k y d.nextLen true with
        | some (.remote _ _) | some (.host _) => true
        | _ => false
      let r := if away then { r0 with buf := s2.sourceData p k r0 } else r0
      exec (.translateWalk p k e) s = .next ((s2.onDma p k e fun x => { x with
        reqs := x.reqs ++ [r], nextReq := id + 1
        queue := x.queue.map fun y => if y.id = d.id then { y with
          issued := if d.atomic.isSome then d.len else d.issued + d.nextLen } else y }).moveOn p k e id)) ∧
    ((s.dma p k e).reqs.find? (fun r => !r.ready) = none → (s.dma p k e).queue.find? (fun d => decide (d.issued < d.len)) = none →
      exec (.translateWalk p k e) s = .next s)) ∧
  (∀ m q h v, h < 64 → s.granted m q h = true →
    exec (.xlfConsWrite m q h v) s = .next ((s.onFq h fun x => { x with consumed := v.truncate 32 }).retryHeld h) ∧
    ∀ slot x, s.pendingEntry h v = some (slot, x) →
      let es := s.latched.filter fun y => y.2.2.2.entry == some slot && s.slotHarbour y.1 y.2.1 == h
      exec (.xlfResume m q h v) s = .next ((foldState es (fun a y => a.releaseLatch y.1 y.2.1 y.2.2.1)
        (s.putFault h slot { tabGet {} (s.fq h).entries slot with state := 1, engines := [] })).retryHeld h) ∧
      exec (.xlfAbort m q h v) s = .next ((foldState es (fun a y => (a.releaseLatch y.1 y.2.1 y.2.2.1).failPart y.1 y.2.1 (8 + x.kind)
        (w64 y.2.2.2.va) .fault true) (s.putFault h slot { x with state := 3, engines := [] })).retryHeld h).settle)

/-- On a module whose clocks run: a write of the invalidation register by a master that may use the page, with fewer than sixteen
invalidations outstanding, issues the invalidation: INV_RANGE with a page count not zero for an ASID of the harbour (address
from the page, ASID and count from the value), INV_ASID for an ASID of the harbour, INV_HARBOUR for all.
INVALIDATION_COMPLETE of the first outstanding one, covering no request in progress, counts it done, removes what it covers
from the caches, and answers commands that waited for it. -/
def Obligations.Invalidations : Prop :=
  ∀ s : State, s.halted = false →
  (∀ m q h v, h < 64 → s.granted m q h = true → (s.fq h).invs.length < 16 →
    let issued (i : Inval) : State := s.onFq h fun x => { x with invs := x.invs ++ [i], issued := x.issued + 1 }
    (∀ ws p, s.ctxWords (bits v 0 16) = some (ws, p) → ctxHarbour ws = h →
      (bits v 20 30 ≠ 0 → exec (.invRange m q h v) s = .next (issued {
        scope := 0, asid := bits v 0 16, va := (s.fq h).invAddr, pages := bits v 20 30 })) ∧
      exec (.invAsid m q h v) s = .next (issued { scope := 1, asid := bits v 0 16, va := 0, pages := 0 })) ∧
    exec (.invHarbour m q h v) s = .next (issued { scope := 2, asid := 0, va := 0, pages := 0 })) ∧
  (∀ h i rest, (s.fq h).invs = i :: rest → s.invBusy h i = false →
    exec (.invalidationComplete h) s = .next (((s.onFq h fun q => { q with
      invs := rest, doneCnt := q.doneCnt + 1 }).pilotInval h i).pollPages))

/-- On a module whose clocks run: URGENCY_SAMPLE updates the urgency of a buffer with the fill sampled, and for a lane group its
fill. By a privileged master, a REG_RESERVE_WRITE with every field in range and reserves that fit beside those of the other
harbours stores the fields (harbour 0 takes no part in the sums); HB_SLICE_WRITE stores the harbour set of an invalid slice
without harbour 0, validates a slice that clashes with no other or changes an invalid one, takes VALID from a quiesced slice,
whose harbours then wait to be granted again (counting a refusal where another field changes with it), and writing a valid
slice as it stands changes nothing. -/
def Obligations.RegulationWrites : Prop :=
  ∀ s : State, s.halted = false →
  (∀ u f, let s1 := s.onRg fun r => { r with urgency := tabMod {} r.urgency u fun x => x.sample f }
    exec (.urgencySample u f) s = .next (if u < 64 then s1.onLg u fun g => { g with fill := f } else s1)) ∧
  (∀ m h v, m.privileged = true → h < 64 → bits v 0 9 ≤ 256 → bits v 16 7 ≤ 112 →
    (h = 0 ∨ (bits v 0 9 + s.reserveSum h (·.xlatRes) ≤ 256 ∧ bits v 16 7 + s.reserveSum h (·.cq0Res) ≤ 112)) →
    exec (.regReserveWrite m true h v) s = .next (s.onRg fun r => { r with fields := tabPut r.fields h { s.regFields h with
      xlatRes := bits v 0 9, xlatLend := bit v 9, cq0Res := bits v 16 7, cq0Lend := bit v 23 } })) ∧
  (∀ m h v, m.privileged = true → h < 64 → (∀ c < 8, 1 ≤ bits v (4 * c) 4 ∧ bits v (4 * c) 4 ≤ 8) → bits v 32 7 ≤ 64 → bits v 40 8 ≤ 128 →
    (h = 0 ∨ (bits v 32 7 + s.reserveSum h (·.meshW) ≤ 64 ∧ bits v 40 8 + s.reserveSum h (·.brqRes) ≤ 128)) →
    exec (.regReserveWrite m false h v) s = .next (s.onRg fun r => { r with fields := tabPut r.fields h { s.regFields h with
      cmax := (List.range 8).map fun c => bits v (4 * c) 4
      meshW := bits v 32 7, meshLend := bit v 39, brqRes := bits v 40 8, brqLend := bit v 48 } })) ∧
  (∀ m i v, m.privileged = true → i < 64 →
    let x := tabGet {} s.rg.slices i
    let y : Slice := { x with valid := bit v 0, func := bits v 1 7, pasidLog2 := bits v 8 5, pasidBase := bits v 16 20 }
    (x.valid = false → bit v 0 = false →
      exec (.hbSliceWrite m i 1 v) s = .next (s.onRg fun r => { r with slices := tabPut r.slices i { x with harbours := v } })) ∧
    (x.valid = false → bits v 8 5 ≤ 20 → (bit v 0 = true → s.sliceOk i y = true) →
      exec (.hbSliceWrite m i 0 v) s = .next (s.onRg fun r => { r with slices := tabPut r.slices i y })) ∧
    (x.valid = true → bit v 0 = false → s.quiesced x = true →
      let s1 := s.onRg fun r => { r with
        slices := tabPut r.slices i { x with valid := false }
        regrant := ((List.range 64).filter fun h => bit x.harbours h).foldl setIns r.regrant }
      exec (.hbSliceWrite m i 0 v) s = .next (if { y with valid := true } = x then s1 else s1.regRefused)) ∧
    (x.valid = true → y = x → exec (.hbSliceWrite m i 0 v) s = .next s))

/-- On a module whose clocks run: LINK_UP of a training port whose key names the partner that answered gives its lane groups the
key and the two node identifiers, resets their sequences, brings the port up with the credits given, raises event 0x0701 and
sends what waits. TRAINING_TIMEOUT takes a training port down; RETRAIN_COMPLETE brings a retraining port up again with its
credits, its lane groups with a new key changing phase, or takes it down; LOSS_OF_LIGHT takes a port that is up, retraining
or training down, with what a link that goes down does. DOWN_RETRY sends a port that is down back to training, with its keys
at phase 0. WAKE_PATTERN on a present port asleep of a module that runs is kept during an entry, and starts the resume and
powers on in WATCH or HOLD. WAKE_PATTERN_SEND of a training port sends the pattern. -/
def Obligations.PortStateCommands : Prop :=
  ∀ (p : Nat) (s : State), s.halted = false →
  let up (f : LaneGroup → LaneGroup) (us : Nat) (a : State) : State := ((foldState (portLgs p) (fun a g => a.onLg g fun x => { f x with
      txSeq := 0, rxNext := 0, retry := [], ackOwed := 0, nakRun := 0, owed := [] })
    (a.onPort p fun x => { x with st := .up })).event 0x0701 5 p [w64 p, w64 us]).sendAll
  let down : State := (s.portLeaves p .down).linkDown p
  (∀ partner us cr x, (s.port p).st = .training → (s.checkPortSlot p).sec.partnerId ≠ 0 → (s.checkPortSlot p).portKey p = some x →
    x.partner = partner →
    let s1 := s.checkPortSlot p
    exec (.linkUp p partner us cr) s = .next (up (fun y => { y with credits := cr.zipIdx.map fun c => (c.2, c.1) }) us
      (foldState (portLgs p) (fun a g => a.onLg g fun y => { y with ownId := s1.sec.partnerId, farId := partner }.keyed (g % 4) x) s1))) ∧
  ((s.port p).st = .training → exec (.trainingTimeout p) s = .next down ∧ exec (.wakePatternSend p) s = .next (s.emit (.wake p))) ∧
  (∀ us, (s.port p).st = .retrain →
    exec (.retrainComplete p us true) s = .next (foldState (portLgs p) (fun a g => if (a.lg g).nextKey then a.nextPhase g else a) (up id us s)) ∧
    exec (.retrainComplete p us false) s = .next down) ∧
  ((s.port p).st = .up ∨ (s.port p).st = .retrain ∨ (s.port p).st = .training → exec (.lossOfLight p) s = .next down) ∧
  ((s.port p).st = .down → exec (.downRetry p) s = .next (foldState (portLgs p) (fun a g => a.onLg g fun x => { x with
      keyN := 0, keyPhase := false, keyCount := 0, keyStall := false, nextKey := false }) (s.onPort p fun x => { x with st := .training }))) ∧
  (s.running = true → s.portPresent p = true → (s.port p).st = .sleep →
    (s.pw.transit = true → exec (.wakePattern p) s = .next (s.onPw fun w => { w with waking := true })) ∧
    (s.pw.transit = false → s.pw.st = .watch ∨ s.pw.st = .hold → s.pw.resuming = false →
      exec (.wakePattern p) s = .next ((s.onPw fun w => { w with resuming := true, waking := false }).powerOn)))

/-- On a module whose clocks run: FLIT_RECEIVE on a lane group of a port that is up counts the corrected symbols; an
uncorrectable flit is counted and answered with a NAK, and a flit with a bad tag reported; a good flit returns credits and
takes the acknowledgement it carries; a data or control flit out of sequence is answered with a NAK; in sequence it advances
the receive sequence and owes an acknowledgement, and a data flit also owes a buffer, passes the node check and is received
by its stream; what can then be sent is sent. ACK_CONTROL_FLIT with an acknowledgement or credits owed and room in the retry
buffer sends a control flit. KEY_PHASE_CHANGE on a port that is up gives the lane group the key of its next phase, or stalls
it with event 0x0703 where there is none, and on one retraining arms the change. STREAM_ACK_SEND of a stream with flits
delivered since the last acknowledgement sends an acknowledgement of the last one and begins the count again. -/
def Obligations.LaneGroupCommands : Prop :=
  ∀ s : State, s.halted = false →
  (∀ g f corr, (s.port (g / 4)).st = .up → g < 64 →
    let s0 := s.onPort (g / 4) fun p => { p with corrSym := p.corrSym + BitVec.ofNat 32 corr }
    let s1 := (s0.takeAck g f).onLg g fun x => { x with
      credits := if f.credits = 0 then x.credits else tabPut x.credits f.creditVc (tabGet 0 x.credits f.creditVc + f.credits) }
    (∀ tag, exec (.flitReceive g f ⟨corr, false⟩ tag) s = .next (((s0.onLg g fun x => { x with fecBad := true }).onPort (g / 4) fun p => { p with
      cUncorr := p.cUncorr + 1 }).nak g)) ∧
    exec (.flitReceive g f ⟨corr, true⟩ false) s = .next (s0.tagFailed g) ∧
    (f.type = 0 → exec (.flitReceive g f ⟨corr, true⟩ true) s = .next s1.sendAll) ∧
    (f.type ≠ 0 → f.seq ≠ (s1.lg g).rxNext → exec (.flitReceive g f ⟨corr, true⟩ true) s = .next (s1.nak g)) ∧
    (f.type ≠ 0 → f.type ≠ 1 → f.seq = (s1.lg g).rxNext →
      exec (.flitReceive g f ⟨corr, true⟩ true) s = .next (s1.onLg g fun x => { x with rxNext := x.rxNext + 1, ackOwed := 1 }).sendAll) ∧
    (f.type = 1 → f.seq = (s1.lg g).rxNext →
      let s2 := s1.onLg g fun x => { x with
        rxNext := x.rxNext + 1, ackOwed := 1, owed := tabPut x.owed f.vc (tabGet 0 x.owed f.vc + 1) }
      exec (.flitReceive g f ⟨corr, true⟩ true) s =
        .next (if (s2.nodeCheck f).1 then (s2.nodeCheck f).2.receiveStream f else (s2.nodeCheck f).2).sendAll)) ∧
  (∀ g, (s.port (g / 4)).st = .up → g < 64 → (s.lg g).ackOwed ≠ 0 ∨ (∃ c ∈ (s.lg g).owed, c.2 ≠ 0) → (s.lg g).retry.length < 1024 →
    exec (.ackControlFlit g) s = .next (s.launchFlit g { type := 2, src := s.lk.nodeId, srcEpoch := s.ownEpoch })) ∧
  (∀ g, (s.port (g / 4)).st = .up → g < 64 →
    let s1 := s.checkPortSlot (g / 4)
    (∀ k, s1.nextSlot g = some k → exec (.keyPhaseChange g) s = .next (s1.onLg g fun x => { x with
      keyN := x.keyN + 1, keyPhase := !x.keyPhase, keyCount := 0, keyStall := false, nextKey := false }.keyed (g % 4) k)) ∧
    (s1.nextSlot g = none → exec (.keyPhaseChange g) s = .next ((s1.onLg g fun x => { x with keyStall := true }).event 0x0703 6 g
      [w64 (g / 4), w64 g, w64 (if (s.lg g).keyPhase then 1 else 0)]))) ∧
  (∀ g, (s.port (g / 4)).st = .retrain → g < 64 →
    exec (.keyPhaseChange g) s = .next (s.onLg g fun x => { x with nextKey := true })) ∧
  (∀ n vc, let r := tabGet {} s.lk.rx (n * 4 + vc)
    0 < r.sinceAck → exec (.streamAckSend n vc) s = .next ((s.onLk fun x => { x with
      rx := tabPut x.rx (n * 4 + vc) { r with sinceAck := 0 } }).sendTxn 0 n 0
        (txnHeader 7 0 16 0 0 0 (Config.signalKind 1 % 256) false ++ [w64 (vc + (r.next - 1).toNat * 65536), 0]) []))

/-- On a module whose clocks run, a request of another node first reads the span table entry it names. READ, WRITE and ATOMIC
whose address resolves and whose ownership extension is current are served, in channels or in a hold, local store or the
always-on store, and answered with status 0 and the data; one that resolves nowhere is answered with status 1 and one with a
stale owner with status 2, and both leave memory alone. A MESSAGE to the Harbourmaster's mailbox is the ownership message its
words spell, one to the mailbox of span counts (a free value, log entry 44) brings counts, and any other is put into its
mailbox. A SIGNAL with a fence handle that may signal an open fence is on its way to the dependency unit; an F_ALLOW signal
is recorded for its node. -/
def Obligations.RemoteRequests : Prop :=
  ∀ (n : Nat) (s0 : State), s0.halted = false →
  (∀ t, let s := s0.spanRead t.spanId
    (s.remoteStatus t t.len false true ≠ 0 → exec (.read n t) s0 = .next (s.respond n 3 t (s.remoteStatus t t.len false true) [])) ∧
    (∀ d p, s.remoteStatus t t.len true false ≠ 0 →
      exec (.write n t d p) s0 = .next (s.respond n 4 t (s.remoteStatus t t.len true false) [])) ∧
    (∀ a, s.remoteStatus t (atomicWidth a) true false ≠ 0 →
      exec (.atomic n t a) s0 = .next (s.respond n 5 t (s.remoteStatus t (atomicWidth a) true false) [])) ∧
    (s.remoteStatus t t.len false true = 0 →
      (∀ ps, s.remoteTarget t t.len false = .hbm ps →
        exec (.read n t) s0 = .next ((s.readEffects ps).respond n 3 t 0
          ((granulesOf ps).map fun q => (s.hbmBytes q.ch q.byte q.len, s.hbmPoison q.ch q.byte q.len)))) ∧
      (∀ y b, s.remoteTarget t t.len false = y → (∀ ps, y ≠ .hbm ps) → s.nearRead y t.len = some b →
        exec (.read n t) s0 = .next (s.respond n 3 t 0 b))) ∧
    (∀ d p, s.remoteStatus t t.len true false = 0 →
      let data := beatsOf ((d ++ List.replicate t.len 0).take t.len) p
      (∀ ps, s.remoteTarget t t.len true = .hbm ps → exec (.write n t d p) s0 = .next ((s.writeThrough ps data).respond n 4 t 0 [])) ∧
      (∀ y s1, s.remoteTarget t t.len true = y → (∀ ps, y ≠ .hbm ps) → s.nearWrite y data = some s1 →
        exec (.write n t d p) s0 = .next (s1.respond n 4 t 0 []))) ∧
    (∀ a, s.remoteStatus t (atomicWidth a) true false = 0 →
      (∀ x ps, s.remoteTarget t (atomicWidth a) true = .hbm (x :: ps) →
        exec (.atomic n t a) s0 = .next ((s.serveAtomic x.ch x.byte a).2.respond n 5 t 0 [(s.serveAtomic x.ch x.byte a).1])) ∧
      (∀ y x, s.remoteTarget t (atomicWidth a) true = y → (∀ ps, y ≠ .hbm ps) → s.nearAtomic y (atomicWidth a) a = some x →
        exec (.atomic n t a) s0 = .next (x.2.respond n 5 t 0 x.1)))) ∧
  (∀ b ws, b ≠ 0xFF00 → b ≠ Config.messageBox 0 % 65536 →
    exec (.message n b ws) s0 = .next (s0.onLk fun x => { x with mailbox := x.mailbox ++ [(b, ws)] })) ∧
  (∀ ws, exec (.message n 0xFF00 ws) s0 = .next (s0.rxOwn n (ownOfWords ws))) ∧
  (∀ b ws, b ≠ 0xFF00 → b = Config.messageBox 0 % 65536 → exec (.message n b ws) s0 = .next (s0.takeCounts n ws)) ∧
  (∀ hd c v e x f, s0.fenceEnt c hd = some x → s0.fence x.fon = some f → x.signal = true → f.closed = false →
    exec (.signal n (.fence hd c v e)) s0 = .next (s0.onFu fun q => { q with
      inflight := q.inflight ++ [{ fon := x.fon, value := v, err := e }] })) ∧
  (∀ f, exec (.signal n (.allow f)) s0 = .next (s0.onLk fun x => { x with slaveAllow := tabPut x.slaveAllow n f }))

/-- On a module whose clocks run: READ_RESP, WRITE_ACK and ATOMIC_RESP with status 0 for an outstanding request of their kind
whose part is still there end the request on the links and deliver the data, the acknowledgement or the value to its engine;
with another status the request fails, and where the part is gone the answer is taken alone. STREAM_ACK drops from the stream
every flit up to the acknowledged sequence. REMOTE_RESEND_TIMEOUT of the oldest flit sends it again, on another lane group
that may be used where there is one and none of the port keys stands in the way, up to three times; then a node not yet
declared unreachable is declared so, counted, reported by event 0x0704 and dropped. -/
def Obligations.RemoteAnswers : Prop :=
  ∀ s : State, s.halted = false →
  (∀ tag r, tabFind s.lk.reqs tag = some r →
    let s1 := s.onLk fun x => { x with reqs := tabDel x.reqs tag }
    let ends (c : Instr) (st : Nat) (t : State) : Prop := exec c s = .next (if r.gone then s1 else if st ≠ 0 then s1.reqFails r else t)
    (∀ st d p, r.access = .read → ends (.readResp tag st d p) st (s1.gotData r.place r.slot r.engine r.req
      (beatsOf ((d ++ List.replicate r.len 0).take r.len) p))) ∧
    (∀ st, r.access = .write → ends (.writeAck tag st) st (s1.reqDone r.place r.slot r.engine r.req)) ∧
    (∀ st v p, r.access = .atomic → ends (.atomicResp tag st (v, p)) st (s1.gotData r.place r.slot r.engine r.req
      [((wordBytes v).take (((s.req r.place r.slot r.engine r.req).map (·.len)).getD 8), p)]))) ∧
  (∀ (n vc : Nat) (q : Half),
    let t : TxStream := { tabGet {} s.lk.tx (n * 4 + vc) with
      unacked := (tabGet {} s.lk.tx (n * 4 + vc)).unacked.filter fun u => decide (32768 ≤ (q - u.flit.streamSeq).toNat) }
    exec (.streamAck n vc q) s = .next (s.onLk fun x => { x with tx := tabPut x.tx (n * 4 + vc) t })) ∧
  (∀ n vc u rest, (tabGet {} s.lk.tx (n * 4 + vc)).unacked = u :: rest → u.resends < 3 →
    let gs := s.lgChoices u.harbour ((n * 4 + vc) / 4) ((n * 4 + vc) % 4)
    let sent (lg : Nat) (a : State) : State := a.onLk fun x => { x with
      cResends := x.cResends + 1
      tx := tabMod {} x.tx (n * 4 + vc) fun t => { t with unacked := { u with lg := lg, resends := u.resends + 1 } :: rest } }
    exec (.remoteResendTimeout n vc) s = .next (match (match s.pickLg (gs.filter (· != u.lg)) with
      | some g => some g
      | none => s.pickLg gs) with
      | none => sent 64 s
      | some g => sent g (s.sendOn g u.flit))) ∧
  (∀ n vc u rest, (tabGet {} s.lk.tx (n * 4 + vc)).unacked = u :: rest → 3 ≤ u.resends → n ∉ s.lk.unreachable →
    exec (.remoteResendTimeout n vc) s = .next (((s.onLk fun x => { x with
      unreachable := setIns x.unreachable n, cUnreachable := x.cUnreachable + 1 }).event 0x0704 9 n [w64 n, w64 vc]).dropNode n))

/-- On a module whose clocks run, with a message of at least the epoch of the record: MOVE above the epoch of a holder makes it
GIVING toward the peer and sends GIVE; GIVE to a pool that does not hold the state, and has a record or room for one, makes
it TAKING (its state address is a free value, log entry 3); STATE_COPY_COMPLETE of a taker sends TAKE; TAKE at the epoch of a
giver zeroes its copy, makes it RELEASED and sends ACK; ACK at the epoch of a taker with its copy complete makes it HELD at
that epoch and renews. -/
def Obligations.HandoverMessages : Prop :=
  ∀ s : State, s.halted = false →
  (∀ n m o, s.own m.stateId.toNat = some o → o.token = .held → o.epoch < m.epoch →
    let o1 := { o with token := .giving, epoch := m.epoch, peer := m.peer, wait := 0 }
    exec (.move n m) s = .next ((s.putOwn m.stateId.toNat o1).sendOwn m.peer (o1.msg m.stateId.toNat 1))) ∧
  (∀ n m o, (s.own m.stateId.toNat = some o ∧ (o.token = .none ∨ o.token = .released) ∧ o.epoch < m.epoch) ∨
      (s.own m.stateId.toNat = none ∧ s.ownRoom = true ∧ o = {}) → s.lk.pool = true →
    exec (.give n m) s = .next (s.putOwn m.stateId.toNat { o with
      token := .taking, epoch := m.epoch, acked := m.acked, holder := n, peer := n, wait := 0, copied := false
      restoring := false, stateAddr := s.fresh, len := m.len, phase := m.phase }).drawn) ∧
  (∀ id o, s.own id = some o → o.token = .taking → o.copied = false → o.restoring = false →
    exec (.stateCopyComplete id) s = .next ((s.putOwn id { o with copied := true, wait := 0 }).sendOwn o.peer (o.msg id 2))) ∧
  (∀ n m o, s.own m.stateId.toNat = some o → o.token = .giving → o.epoch = m.epoch →
    let o1 := { o with token := .released, acked := m.epoch, wait := 0 }
    exec (.take n m) s = .next (((s.zeroState o).putOwn m.stateId.toNat o1).sendOwn n (o1.msg m.stateId.toNat 3))) ∧
  (∀ n m o, s.own m.stateId.toNat = some o → o.token = .taking → o.copied = true → o.epoch = m.epoch →
    exec (.ack n m) s = .next ((s.putOwn m.stateId.toNat { o with
      acked := m.epoch, token := .held, heldEpoch := o.epoch, holder := s.lk.nodeId, peer := 0xFFF, wait := 0
      unackedBoundaries := 0, copied := false, restoring := false }).renew m.stateId.toNat))

/-- On a module whose clocks run, with a message of at least the epoch of the record: RENEW at the epoch of an origin from its
holder restarts the lease, takes the higher acknowledged epoch and is answered; where the state was to be replayed, the
replay has ended at the address given, is counted and reported (event 0x0708); from the peer of a move it ends the move: the
peer is the holder, and the page operation that waits is done. RENEW_ACK of a holder clears its count; QUERY is answered with
the token and the acknowledged epoch, or with token 7 where there is no record; ANSWER to a taker or giver resolves it: with
its epoch acknowledged a taker is HELD and a giver RELEASED, else a giver is HELD again and a taker has NONE; it is counted
and reported (event 0x0707). REVOKE above the epoch of a node that is no origin, zeroing a copy it holds, sets it to NONE;
RESTORE above the epoch on a pool, on a record or with room for one, makes it TAKING, restoring from the image (its state
address is a free value, log entry 3). -/
def Obligations.LeaseAndQueryMessages : Prop :=
  ∀ (n : Nat) (m : OwnMsg) (s : State), s.halted = false →
  let id := m.stateId.toNat
  (s.own id = none → exec (.query n m) s = .next (s.sendOwn n { msg := 7, token := 7, stateId := m.stateId, epoch := m.epoch }) ∧
    (s.ownRoom = true → s.lk.pool = true → exec (.restore n m) s = .next (s.putOwn id { ({} : Own) with
      token := .taking, epoch := m.epoch, holder := s.lk.nodeId, peer := 0xFFF, restoring := true
      ckptAddr := m.addr, ckptNode := m.addr.toNat / 2 ^ 52, stateAddr := s.fresh, len := m.len, phase := m.phase }).drawn)) ∧
  (∀ o, s.own id = some o → ¬ m.epoch < o.epoch →
    (o.token = .origin → o.epoch = m.epoch →
      let o1 := { o with leaseLeft := s.lk.leaseTides, renewed := true, acked := if o.acked < m.acked then m.acked else o.acked }
      (n = o.holder → n ≠ o.peer → o.restoring = false → exec (.renew n m) s = .next ((s.putOwn id o1).sendOwn n (o1.msg id 5))) ∧
      (n = o.holder → n ≠ o.peer → o.restoring = true →
        let o2 := { o1 with restoring := false, stateAddr := m.addr }
        exec (.renew n m) s = .next ((((s.putOwn id o2).sendOwn n (o2.msg id 5)).onLk fun x => { x with cReplays := x.cReplays + 1 }).event
          0x0708 9 n [m.stateId, w64 n, o.epoch, w64 o.phase])) ∧
      (n = o.peer → n ≠ o.holder →
        let o2 := { o1 with holder := n, peer := 0xFFF, wait := 0, stateAddr := m.addr, movePending := none }
        exec (.renew n m) s = .next (((s.putOwn id o2).sendOwn n (o2.msg id 5)).pageDoneOpt o.movePending 0 0))) ∧
    ((o.token = .held ∨ o.token = .giving) → exec (.renewAck n m) s = .next (s.putOwn id { o with unackedBoundaries := 0 })) ∧
    exec (.query n m) s = .next (s.sendOwn n { o.msg id 7 with token := o.token.code }) ∧
    (o.restoring = false → m.token ≠ 7 →
      let a := if o.acked < m.acked then m.acked else o.acked
      let r (taken : Nat) (t : State) := .next ((t.onLk fun x => { x with cResolved := x.cResolved + 1 }).event 0x0707 9 n
        [m.stateId, o.epoch, a, w64 taken])
      (o.token = .taking → a = o.epoch → exec (.answer n m) s = r 1 ((s.putOwn id { o with
        acked := a, token := .held, heldEpoch := o.epoch, holder := s.lk.nodeId, peer := 0xFFF, wait := 0, unackedBoundaries := 0
        copied := false, restoring := false }).renew id)) ∧
      (o.token = .giving → a = o.epoch → exec (.answer n m) s = r 4 (s.putOwn id { o with token := .released, wait := 0 })) ∧
      (o.token = .giving → a ≠ o.epoch → exec (.answer n m) s = r 1 (s.putOwn id { o with token := .held, peer := 0xFFF, wait := 0 })) ∧
      (o.token = .taking → a ≠ o.epoch → exec (.answer n m) s = r 0 ((if o.holding then s.zeroState o else s).putOwn id { o with
        token := .none, peer := 0xFFF, wait := 0, copied := false, restoring := false }))) ∧
    (o.token ≠ .origin → o.epoch < m.epoch →
      exec (.revoke n m) s = .next ((if o.holding then s.zeroState o else s).putOwn id { o with
        epoch := m.epoch, token := .none, peer := 0xFFF, wait := 0, copied := false, restoring := false }) ∧
      (s.lk.pool = true → exec (.restore n m) s = .next (s.putOwn id { o with
        token := .taking, epoch := m.epoch, holder := s.lk.nodeId, peer := 0xFFF, wait := 0, copied := false, restoring := true
        ckptAddr := m.addr, ckptNode := m.addr.toNat / 2 ^ 52, stateAddr := s.fresh, len := m.len, phase := m.phase }).drawn)))

/-- On a module whose clocks run: STATE_REPLAY of a restoring taker makes it HELD and renews. CKPT from the holder takes PHASE,
address and length into the entry of the origin and is answered, and a phase end that waits ends; CKPT_ACK does so at the
holder. HANDOVER_QUERY of a hand-over that has waited two boundaries asks the peer. LEASE_EXPIRED of an origin whose lease is
at 0 moves the state to a new holder at the next epoch: it is counted and reported (event 0x0706), the old holder, and a peer
if one is set, are revoked, the new holder is told to restore, and a page operation that waits for a move ends. ORPHANED of a
holder not acknowledged for two leases counts it, zeroes the copy and sets NONE. -/
def Obligations.CheckpointAndLeaseTimers : Prop :=
  ∀ s : State, s.halted = false →
  (∀ id o, s.own id = some o → o.token = .taking → o.restoring = true →
    exec (.stateReplay id) s = .next ((s.putOwn id { o with
      token := .held, heldEpoch := o.epoch, holder := s.lk.nodeId, peer := 0xFFF, wait := 0, unackedBoundaries := 0
      copied := false, restoring := false }).renew id)) ∧
  (∀ n m o, s.own m.stateId.toNat = some o → ¬ m.epoch < o.epoch → o.token = .origin → n = o.holder →
    let o1 := { o with phase := m.phase, ckptAddr := m.addr, len := m.len, ckptPending := none }
    exec (.ckpt n m) s = .next (((s.putOwn m.stateId.toNat o1).sendOwn n { o1.msg m.stateId.toNat 11 with addr := m.addr }).pageDoneOpt
      o.ckptPending 0 0)) ∧
  (∀ n m o, s.own m.stateId.toNat = some o → ¬ m.epoch < o.epoch → o.token = .held →
    exec (.ckptAck n m) s = .next ((s.putOwn m.stateId.toNat { o with
      phase := m.phase, ckptAddr := m.addr, ckptPending := none }).pageDoneOpt o.ckptPending 0 0)) ∧
  (∀ id o, s.own id = some o → (o.token = .giving ∨ o.token = .taking) → o.restoring = false → 2 ≤ o.wait →
    exec (.handoverQuery id) s = .next (s.sendOwn o.peer (o.msg id 6))) ∧
  (∀ id nh o, s.own id = some o → o.token = .origin → o.leaseLeft = 0 → nh ≠ o.holder →
    let o1 := { o with epoch := o.epoch + 1, holder := nh, peer := 0xFFF, wait := 0, restoring := true
                       leaseLeft := s.lk.leaseTides, renewed := false, movePending := none }
    let s1 := (((s.putOwn id o1).onLk fun x => { x with cExpired := x.cExpired + 1 }).event 0x0706 9 o.holder
      [w64 id, w64 o.holder, o1.epoch]).sendOwn o.holder (o1.msg id 8)
    exec (.leaseExpired id nh) s = .next (((if o.peer = 0xFFF then s1 else s1.sendOwn o.peer (o1.msg id 8)).sendOwn nh {
      o1.msg id 9 with addr := o1.ckptAddr }).pageDoneOpt o.movePending 0 0)) ∧
  (∀ id o, s.own id = some o → (o.token = .held ∨ o.token = .giving) → 2 * s.lk.leaseTides ≤ o.unackedBoundaries →
    exec (.orphaned id) s = .next (((s.onLk fun x => { x with cOrphaned := x.cOrphaned + 1 }).zeroState o).putOwn id { o with
      token := .none, peer := 0xFFF, wait := 0, copied := false, restoring := false }))

/-- On a module whose clocks run: a privileged LK_ROLE_REQ for the other role, with no shift running and nothing in its way,
keeps the request; for the role it has with no request kept it changes nothing, and with one kept it takes it back.
ROLE_SHIFT of a shift that runs takes the role, ends the shift, and raises event 0x0705. A privileged LKP_RETRAIN sends a
failed port to training with its keys at phase 0, retrains one that is up and counts it, and leaves any other; LKP_DISABLE
takes a present port off, or lets one that was off train; LK_NODE_WRITE of another epoch for a node that may be written
stores the epoch unfenced, and drops what was under way to a node that had one; of the epoch it has, it changes nothing. -/
def Obligations.RolesPortsAndNodes : Prop :=
  ∀ s : State, s.halted = false →
  (∀ m v, m.privileged = true → s.lk.shifting = false →
    (bit v 8 = true → s.lk.pool = false → s.computeBusy = false → exec (.lkRoleReq m v) s = .next (s.onLk fun x => { x with roleReq := some true })) ∧
    (bit v 8 = false → s.lk.pool = true → s.lk.own.any (fun o => o.2.holding) = false →
      exec (.lkRoleReq m v) s = .next (s.onLk fun x => { x with roleReq := some false })) ∧
    (bit v 8 = s.lk.pool → s.lk.roleReq = none → exec (.lkRoleReq m v) s = .next s) ∧
    (bit v 8 = s.lk.pool → (s.lk.pool = true → s.computeBusy = false) → (s.lk.pool = false → s.lk.own.any (fun o => o.2.holding) = false) →
      s.lk.roleReq ≠ none → exec (.lkRoleReq m v) s = .next (s.onLk fun x => { x with roleReq := none }))) ∧
  (∀ r, s.lk.shifting = true → s.lk.roleReq = some r →
    exec .roleShift s = .next ((s.onLk fun x => { x with pool := r, shifting := false, roleReq := none, berthWait := !r }).event 0x0705
      0 0 [w64 (if s.lk.pool then 1 else 0), w64 (if r then 1 else 0)])) ∧
  (∀ m p, m.privileged = true → s.portPresent p = true →
    let training (a : State) : State := foldState (portLgs p) (fun a g => a.onLg g fun x => { x with
      keyN := 0, keyPhase := false, keyCount := 0, keyStall := false, nextKey := false }) (a.onPort p fun x => { x with st := .training })
    ((s.port p).st = .failed → exec (.lkpRetrain m p) s = .next (training s)) ∧
    ((s.port p).st = .up → exec (.lkpRetrain m p) s = .next ((s.portLeaves p .retrain).onPort p fun x => { x with
      cRetrains := x.cRetrains + 1 })) ∧
    ((s.port p).st ≠ .failed → (s.port p).st ≠ .up → exec (.lkpRetrain m p) s = .next s) ∧
    (∀ v, bit v 1 = true → exec (.lkpDisable m p v) s = .next ((s.onPort p fun x => { x with disable := true }).portLeaves p .off)) ∧
    (∀ v, bit v 1 = false → exec (.lkpDisable m p v) s = .next (
      let s1 := s.onPort p fun x => { x with disable := false }
      if (s.port p).st = .off then training s1 else s1))) ∧
  (∀ m n e, m.privileged = true → n < 4096 → n ≠ s.lk.nodeId ∨ s.linksActive = false →
    let s1 := s.onLk fun x => { x with nodes := tabPut x.nodes n { epoch := e % 256, fenced := false } }
    exec (.lkNodeWrite m n e) s = .next (
      if (s.node n).epoch = e % 256 then s else if (s.node n).epoch = 0 then s1 else s1.dropNode n))

/-- On a running module a privileged IDLE command with nothing in its way makes an ACTIVE module IDLE, ending a BROWN hold, with
event 0x0800; WATCH and HOLD begin the entry of an ACTIVE or IDLE one; any of them with work in its way is refused and
counted; the ACTIVE command, WAKE_N or traffic ask an IDLE module to wake. LOWPOWER_ENTRY_DONE of an entry prepared and not
being woken keeps event 0x0800, takes the rails and what they held (the always-on store stays), and enters the target with
the tide number kept in the shadow; where a wake waited it starts the resume at once. WAKE_N in WATCH or HOLD starts the
resume, and during an entry waits for its end. RESUME_DONE ends a resume with event 0x0800 and decides the job frequency
again. A WATCH_SAMPLE of one sensor is logged in the next of 4,096 places and sets the alert to whether it is outside its
bounds. -/
def Obligations.PowerStateCommands : Prop :=
  (∀ m s, s.running = true → m.privileged = true → s.lowPowerBusy = false → s.pw.st = .active →
    exec (.pwCmdIdle m) s = .next (((s.onPw fun w => { w with
      st := .idle, waking := false, brownHold := false, holdCount := 0 }).setRegions).pstateEvent .active .idle false)) ∧
  (∀ m s, s.running = true → m.privileged = true → s.lowPowerBusy = false → s.deepBusy = false → (s.pw.st = .active ∨ s.pw.st = .idle) →
    exec (.pwCmdWatch m) s = .next (s.onPw fun w => { w with transit := true, entered := false, target := .watch, waking := false }) ∧
    exec (.pwCmdHold m) s = .next (s.onPw fun w => { w with transit := true, entered := false, target := .hold, waking := false })) ∧
  (∀ m s, s.running = true → m.privileged = true → s.lowPowerBusy = true →
    exec (.pwCmdIdle m) s = .next s.pwRefused ∧ exec (.pwCmdWatch m) s = .next s.pwRefused ∧ exec (.pwCmdHold m) s = .next s.pwRefused) ∧
  (∀ m s, s.running = true → m.privileged = true → s.deepBusy = true →
    exec (.pwCmdWatch m) s = .next s.pwRefused ∧ exec (.pwCmdHold m) s = .next s.pwRefused) ∧
  (∀ m s, s.running = true → m.privileged = true → s.pw.st = .idle → s.pw.transit = false →
    exec (.pwCmdActive m) s = .next (s.onPw fun w => { w with waking := true }) ∧
    exec .idleWakeTraffic s = .next (s.onPw fun w => { w with waking := true }) ∧
    exec .wakeN s = .next (s.onPw fun w => { w with waking := true })) ∧
  (∀ s, s.running = true → s.pw.transit = true → s.pw.entered = true →
    let e := ((((s.keepEvent 0x0800 0 0 [pair s.pw.st.code s.pw.target.code, 0]).railsOff.onTide fun t =>
      { t with shadow := t.num, stopped := true }).onPw fun w => { w with
        st := w.target, transit := false, entered := false, light := [], watchAlert := false }).setRegions).powerOff 2
    (s.pw.waking = false → exec .lowpowerEntryDone s = .next e) ∧
    (s.pw.waking = true → exec .lowpowerEntryDone s = .next ((e.onPw fun w => { w with resuming := true, waking := false }).powerOn))) ∧
  (∀ s, s.running = true → s.pw.transit = false → (s.pw.st = .watch ∨ s.pw.st = .hold) → s.pw.resuming = false →
    exec .wakeN s = .next ((s.onPw fun w => { w with resuming := true, waking := false }).powerOn)) ∧
  (∀ s, s.running = true → s.pw.transit = true → s.pw.st = .active → exec .wakeN s = .next (s.onPw fun w => { w with waking := true })) ∧
  (∀ crc s, s.running = true → s.pw.resuming = true → s.railsGood = true →
    let s1 := if crc then s.restoreSaved s.resumeBase else s.resumeBase
    let s2 := foldState ((List.range 32).filter s.clusterPresent) (fun a c => a.onCluster c fun x => { x with
      gated := !s.pw.savedUngated.contains c, request := none }) s1
    let s3 := (s2.onTide fun t => { t with num := t.shadow + 1, stopped := false }).onBoot fun b => { b with life := .running }
    exec (.resumeDone crc) s = .next ((((((s3.raiseKept.raiseAlerts).pstateEvent s.pw.st .active (!crc)).decideJob).setRegions).trainPorts).onCrc
      fun c => { c with adopting := true })) ∧
  (∀ ms x v s, s.running = true → s.pw.st = .watch → s.pw.resuming = false → x < 145 →
    exec (.watchSample ms [(x, v)]) s = .next (((s.logBytes (0x30000 + 16 * s.pw.watchNext)).onPw fun w => { w with
      watchLog := logPut w.watchLog ⟨ms, x, v, s.outside x v⟩, watchNext := (w.watchNext + 1) % 4096, watchAlert := s.outside x v
      light := if 129 ≤ x then tabPut w.light (x - 129) v else w.light }).onPins fun p => { p with alert := s.outside x v }))

/-- On a module whose clocks run, AVS_REQUEST with no request on a rail sends one; with one waiting it sends it, and with one
sent it sends nothing. AVS_STATUS_POLL of a sent request with a good acknowledgement stores the code, and with VDone the
voltage, ending the request; a bad acknowledgement or AVS_TIMEOUT makes the request wait to be sent again up to three times,
counted, and then ends it as a fault of the rail with event 0x0802. A sideband, or a privileged register write, of a budget
from 1200 to 3600 W stores it with its source and decides the job frequency again; another is refused. PW_HSUB stores four
sub-budgets and decides again. BOOST_UPDATE of a boosting ACTIVE module that is not braked decides the next region
frequencies and asks the rail of each die whose voltage is below what they need; DROOP of a clocked region is counted. -/
def Obligations.RailAndBudgetCommands : Prop :=
  ∀ s : State, s.halted = false →
  (∀ r mv, r < 4 → (s.rail r).req = none →
    exec (.avsRequest r mv) s = .next ((s.onRail r fun x => { x with req := some { mv := mv } }).emit (.avs r 0 mv))) ∧
  (∀ r mv q, r < 4 → (s.rail r).req = some q →
    (q.sent = false → exec (.avsRequest r mv) s = .next ((s.onRail r fun x => { x with req := some { q with sent := true } }).emit (.avs r 0 q.mv))) ∧
    (q.sent = true → exec (.avsRequest r mv) s = .next s)) ∧
  (∀ r q, r < 4 → (s.rail r).req = some q → q.sent = true →
    let again (t : State) : State := (t.onRail r fun x => { x with req := some { q with tries := q.tries + 1, sent := false } }).onPw fun w =>
      { w with cAvsRetry := w.cAvsRetry + 1 }
    let ends (a : Nat) (t : State) : State := (t.onRail r fun x => { x with req := none, fault := true }).event 0x0802 13 r
      [w64 r, w64 q.mv, w64 a]
    let acked (a : Nat) := s.onRail r fun x => { x with lastAck := a }
    exec (.avsStatusPoll r 0 true) s = .next ((acked 0).onRail r fun x => { x with mv := q.mv, req := none, fault := false }) ∧
    exec (.avsStatusPoll r 0 false) s = .next (acked 0) ∧
    (∀ a v, a ≠ 0 →
      (q.tries < 3 → exec (.avsStatusPoll r a v) s = .next (again (acked a))) ∧
      (3 ≤ q.tries → exec (.avsStatusPoll r a v) s = .next (ends ((acked a).rail r).lastAck (acked a)))) ∧
    (q.tries < 3 → exec (.avsTimeout r) s = .next (again s)) ∧
    (3 ≤ q.tries → exec (.avsTimeout r) s = .next (ends (s.rail r).lastAck s))) ∧
  (∀ m v, (m = .sideband ∨ m.privileged = true) →
    (1200 ≤ bits v 0 12 → bits v 0 12 ≤ 3600 → exec (.pwBudgetWrite m v) s = .next ((s.onPw fun x => { x with
      capW := bits v 0 12, source := if m = .sideband then 2 else 1 }).decideJob)) ∧
    ((bits v 0 12 < 1200 ∨ 3600 < bits v 0 12) → exec (.pwBudgetWrite m v) s = .next s.pwRefused)) ∧
  (∀ m j v, m.privileged = true → j < 16 →
    exec (.pwHsubWrite m j v) s = .next ((s.onPw fun w => { w with
      hsub := [0, 1, 2, 3].foldl (fun t i => tabSet 0 t (4 * j + i) (bits v (16 * i) 12)) w.hsub }).decideJob)) ∧
  (s.running = true → s.pw.boost = true → s.pw.st = .active → s.pw.brown = false → s.pw.brownHold = false →
    let before := (List.range 16).map fun r => (r, s.baseFreq r)
    let e : BoostEst := { freq := before, module := s.pw.moduleW * 100, harbours := s.pw.harbourW.map fun h => (h.1, h.2 * 100) }
    let t := s.onPw fun w => { w with regionNext := (s.boostRaise before (s.boostLower e)).freq }
    let ask (d : Nat) (a : State) : State := if (t.rail d).mv < t.boostVolt d then a.railAsk d (t.boostVolt d) else a
    exec .boostUpdate s = .next (ask 1 (ask 0 t))) ∧
  (∀ r, s.running = true → r < 16 → s.regionFreq r ≠ 0 →
    exec (.droop r) s = .next (s.onPw fun w => { w with cDroop := w.cDroop + 1 }))

/-- BROWN_WARN on an ACTIVE or IDLE running module that does not brake yet brakes the regions, is counted and reported (event
0x0004 with the highest frequency and a free value, log entry 3); in WATCH or HOLD, and while starting, it is kept as that
event alone. BROWN_RECOVER starts the hold. BROWN_HOLD_END 17 boundaries later ends the hold and restores the frequencies; a
change that waited is applied where it lowers the frequency or its voltages stand, and else is counted late and its voltages
asked for. A reading at the warn threshold of a sensor not yet warm is reported once (0x0803), one below makes it cold. One
at the throttle threshold halves the regions of the die, counted and reported (0x0804); THROTTLE_RELEASE undoes it. One at
the trip threshold of a module that is powered and out of reset asserts THERM_TRIP, stops the tides, trips the module and
keeps event 0x0805. -/
def Obligations.BrownAndThermalCommands : Prop :=
  (∀ s, s.running = true → s.pw.brown = false →
    ((s.pw.st = .active ∨ s.pw.st = .idle) →
      exec .brownWarn s = .next ((((s.onPw fun w => { w with
        brown := true, brownHold := false, holdCount := 0, cBrown := w.cBrown + 1 }).setRegions).event 0x0004 0 0
          [w64 s.topFreq, s.fresh]).drawn)) ∧
    ((s.pw.st = .watch ∨ s.pw.st = .hold) → exec .brownWarn s = .next ((s.keepEvent 0x0004 0 0 [0, s.fresh]).drawn))) ∧
  (∀ s, s.boot.life = .starting → exec .brownWarn s = .next ((s.keepEvent 0x0004 0 0 [0, s.fresh]).drawn)) ∧
  (∀ s, s.halted = false → s.pw.brown = true →
    exec .brownRecover s = .next ((s.onPw fun w => { w with brown := false, brownHold := true, holdCount := 0 }).setRegions)) ∧
  (∀ s, s.halted = false → s.pw.brownHold = true → 17 ≤ s.pw.holdCount →
    let s1 := s.onPw fun w => { w with brownHold := false, holdCount := 0, regionSet := [], regionNext := [] }
    (s.tide.freqAnnounced = none → exec .brownHoldEnd s = .next s1.setRegions) ∧
    (∀ f, s.tide.freqAnnounced = some f →
      ((f ≤ s.tide.jobFreq ∨ s1.voltReady f = true) → exec .brownHoldEnd s = .next (s1.applyFreq f)) ∧
      (s.tide.jobFreq < f → s1.voltReady f = false → exec .brownHoldEnd s = .next
        (((s1.onPw fun w => { w with cAvsLate := w.cAvsLate + 1 }).askVolts s.pw.margin f).setRegions)))) ∧
  (∀ n t s, s.running = true → n < 128 →
    (s.warnAt n ≤ t → s.pw.warm.contains n = false →
      exec (.thermWarn n t) s = .next ((s.onPw fun w => { w with warm := setIns w.warm n }).event 0x0803 12 n [w64 n, w64 t])) ∧
    (t < s.warnAt n → exec (.thermWarn n t) s = .next (s.onPw fun w => { w with warm := setDel w.warm n }))) ∧
  (∀ n t d s, s.running = true → sensorDie n = some d → s.throttleAt n ≤ t → s.pw.throttle.contains d = false →
    let rs := (List.range 8).map (d * 8 + ·)
    let before := (rs.map s.runFreq).foldl max 0
    exec (.thermThrottle n t) s = .next (((s.onPw fun w => { w with
        throttle := setIns w.throttle d, cThrottles := w.cThrottles + 1
        thr := rs.foldl (fun t r => tabPut t r (halfPoint (s.runFreq r))) w.thr }).setRegions).event 0x0804 12 n
      [w64 d, w64 n, pair before (halfPoint before)])) ∧
  (∀ d s, s.halted = false → s.pw.throttle.contains d = true →
    exec (.throttleRelease d) s = .next ((s.onPw fun w => { w with
      throttle := setDel w.throttle d, thr := w.thr.filter fun t => t.1 / 8 != d }).setRegions)) ∧
  (∀ n t u s, tripAt n = some u → u ≤ t → s.boot.life ≠ .unpowered → s.boot.life ≠ .inReset → s.boot.life ≠ .tripped →
    exec (.thermTrip n t) s = .next ((((s.onPins fun p => { p with thermTrip := true }).onBoot fun b => { b with
      life := .tripped }).onTide fun t => { t with stopped := true }).keepEvent 0x0805 12 n [w64 n, w64 t]))

/-- MARGIN_MEASURE 2^20 tides after the last starts a measurement on a running module; MARGIN_REPLAN of one under way keeps the
planned table and the planned fabric voltage for a later boundary and asks for the raises they need; a flash write that ends
well stores the table in the older copy, one that fails is counted and reported (0x0807). A privileged PW_GATE asks each
present cluster whose gate bit it changes to gate or ungate and decides the job frequency again, and is refused on a pool, in
a role shift and during a low-power entry or resume; UNGATE_COMPLETE clocks the cluster. PW_POLICY that answers the request
with its frequency, still allowed, and its tide decides that frequency; another answer, or one to no request, is refused. -/
def Obligations.MarginAndGatingCommands : Prop :=
  (∀ s, s.running = true → s.pw.measuring = false → 2 ^ 20 ≤ s.pw.sincePlan →
    exec .marginMeasure s = .next (s.onPw fun w => { w with measuring := true, sincePlan := 0 })) ∧
  (∀ least fabric s, s.halted = false → s.pw.measuring = true →
    let m := s.pw.margin
    let plan : Margin := { m with
      planTide := s.tide.num
      volt := least.foldl (fun t x => tabPut t x.1 (replanned (m.at (x.1 / 64) (x.1 % 64)) x.2 s.pw.guardMv)) m.volt }
    let fab := replanned (s.rail 2).mv fabric s.pw.guardMv
    let s1 := s.onPw fun w => { w with measuring := false, planNext := some plan, planFabric := fab }
    let need (d : Nat) : Nat := if d = 2 then fab else s1.dieVolt plan d s.tide.jobFreq
    let ask (d : Nat) (a : State) : State := if (a.rail d).mv < need d then a.railAsk d (need d) else a
    exec (.marginReplan least fabric) s = .next (ask 2 (ask 1 (ask 0 s1)))) ∧
  (∀ s, s.halted = false → s.pw.flashWriting = true →
    (olderA s.pw.flashA s.pw.flashB = true →
      exec (.marginFlashWriteDone true) s = .next (s.onPw fun w => { w with flashA := some w.margin, flashWriting := false })) ∧
    (olderA s.pw.flashA s.pw.flashB = false →
      exec (.marginFlashWriteDone true) s = .next (s.onPw fun w => { w with flashB := some w.margin, flashWriting := false })) ∧
    exec (.marginFlashWriteDone false) s = .next (((s.onPw fun w => { w with
      flashWriting := false, cFlashFail := w.cFlashFail + 1 }).event 0x0807 0 0 [s.pw.margin.planTide, s.fresh]).drawn)) ∧
  (∀ m v s, s.halted = false → m.privileged = true →
    (s.lk.pool = false → s.lk.shifting = false → s.pw.transit = false → s.pw.resuming = false →
      let ask (a : State) (c : Nat) : State :=
        if a.gateBit c = bit v c then a
        else a.onCluster c fun x => if bit v c then { x with request := if x.gated && !x.ungating then none else some true }
          else if x.gated then { x with request := some false, wait := 2 } else { x with request := none }
      exec (.pwGateWrite m v) s = .next (foldState ((List.range 32).filter s.clusterPresent) ask s).decideJob) ∧
    ((s.lk.pool = true ∨ s.lk.shifting = true ∨ s.pw.transit = true ∨ s.pw.resuming = true) →
      exec (.pwGateWrite m v) s = .next s.pwRefused)) ∧
  (∀ c s, s.halted = false → c < 32 → (s.cluster c).ungating = true →
    exec (.ungateComplete c) s = .next ((s.onCluster c fun x => { x with
      gated := false, ungating := false, accepts := false }).setRegions)) ∧
  (∀ m v s, s.halted = false → m.privileged = true →
    (∀ f (t : Word), s.pw.policyReq = some (f, t) →
      (bits v 0 12 = s.pw.fAllow → s.pw.fAllow = f → bits v 16 16 = t.toNat % 65536 →
        exec (.pwPolicyWrite m v) s = .next (((s.onPw fun w => { w with policyReq := none }).onTide fun x => { x with
          freqDecided := if f = x.freqAnnounced.getD x.jobFreq then none else some f }).onPw fun w => { w with lastDecision := f })) ∧
      ((bits v 0 12 ≠ s.pw.fAllow ∨ s.pw.fAllow ≠ f ∨ bits v 16 16 ≠ t.toNat % 65536) →
        exec (.pwPolicyWrite m v) s = .next s.pwRefused)) ∧
    (s.pw.policyReq = none → exec (.pwPolicyWrite m v) s = .next s.pwRefused))

/-- UNIT_SELF_CHECK_FAIL (cause 1), a second missed liveness acknowledgement in a row (hang cause 2, event 0x0901 first), a
watchdog at HANG_TIDES (hang cause 3) and the failure commands fail the unit. Failing a tile halts it and keeps event 0x0902;
the place it serves ends its residents and, with its spare free, goes out of service (event 0x0903 in host mode), else
retires. A failed channel retires, faults its scans and events 0x0902 and 0x0906 follow; a failed Mill faults its scans; a
failed hold retires its place. TL_ commands of a privileged master reset a present tile or its cluster, ask for the
substitution of a failed one in host mode, retire and fail it. TILE_RESET_COMPLETE puts the tile, or all of its cluster in
reset, out of reset with its credentials; CLUSTER_RESET_TIMEOUT fails every working tile of a cluster in reset (cause 5) and
retires its places. SPARE_IN gives a waiting place its free spare, with event 0x0904, or retires the place; PLACE_RESUME
takes a place back and plans its launches. -/
def Obligations.HangAndTileRecovery : Prop :=
  (∀ (t c : Nat) (s : State), s.tilePresent t = true → (s.tile t).failed = false →
    let s1 := s.onTile t fun x => { x with failed := true, failCause := c, errorHalt := true }
    (s.placeServed t = none → s.failTile t c =
      (if t < 512 then s1 else s1.onTile t fun x => { x with retired := true }).event 0x0902 1 t [pair 1 t, w64 c, pair 0 0]) ∧
    (∀ p, s.placeServed t = some p → (s.place p).cond ≠ .retired →
      let n := s.placeName p
      let s2 := (s1.event 0x0902 1 t [pair 1 t, w64 c, pair n.1 n.2]).endResident p false
      (t < 512 → s.spareFree p = true →
        (s.hostMode 2 = true → s.failTile t c = ((s2.onPlace p fun x => { x with outOfService := true, subst := 0, resume := 0 }).event
          0x0903 1 t [w64 t, w64 (spareOf p)]).spanReset 1 t n) ∧
        (s.hostMode 2 = false → s.failTile t c = (s2.onPlace p fun x => { x with
          outOfService := true, subst := 1, resume := 0 }).spanReset 1 t n)) ∧
      ((512 ≤ t ∨ s.spareFree p = false) → s.failTile t c = s2.retirePlace p false))) ∧
  (∀ (c cause : Nat) (s : State), s.channelPresent c = true → (s.chan c).retired = false →
    let n := s.channelName c
    s.failChannel c cause = (((foldState (s.scansOn c) (fun a l => (a.endScan l .fault).settle) ((((s.onChan c fun x => { x with
      retired := true, retireCause := cause }).onHb fun m => { m with channels := tabPut m.channels c .retired }).event 0x0902 3 c
        [pair 3 c, w64 cause, pair n.1 n.2]).event 0x0906 3 c [w64 c, pair n.1 n.2])).procUnitFailed 1 c).spanReset 3 c n)) ∧
  (∀ (c cause : Nat) (s : State), s.millPresent c = true → (s.mill c).failed = false →
    let n := s.channelName c
    s.failMill c cause = (foldState (s.scansOn c) (fun a l => ((a.endScan l .fault).millAborted c l).settle) ((s.onMill c fun m =>
      { m with failed := true, failCause := cause }).event 0x0902 4 c [pair 4 c, w64 cause, pair n.1 n.2])).spanReset 4 c n) ∧
  (∀ s : State, s.running = true →
    (∀ t, exec (.unitSelfCheckFail (.tile t)) s = .next (s.failTile t 1)) ∧
    (∀ c, exec (.unitSelfCheckFail (.mill c)) s = .next (s.failMill c 1) ∧
      exec (.unitSelfCheckFail (.channel c)) s = .next (s.failChannel c 1)) ∧
    (∀ c cause, exec (.channelControllerFail c cause) s = .next (s.failChannel c cause) ∧
      exec (.millFail c cause) s = .next (s.failMill c cause)) ∧
    (∀ u, s.missers = [] → s.answers u = true → s.misses u = 0 → exec (.livenessCheck [u]) s = .next (s.setMisses u 1)) ∧
    (∀ u, s.missers = [u] → s.answers u = true → s.misses u = 1 →
      exec (.livenessCheck [u]) s = .next (((s.setMisses u 2).event 0x0901 (hangName u).1 (hangName u).2
        [pair (hangName u).1 (hangName u).2, w64 2]).failUnit u 2)) ∧
    (∀ t p k, s.placeServed t = some p → (s.slotAt p k).state ≠ .free → 0 < (s.slotAt p k).stuck → s.ras.hangTides ≤ (s.slotAt p k).stuck →
      exec (.slotWatchdog (.tile t) k) s = .next ((s.event 0x0901 1 t [pair 1 t, w64 3]).failTile t 3)) ∧
    (∀ c k, 0 < tabGet 0 (s.mill c).stuck k → s.ras.hangTides ≤ tabGet 0 (s.mill c).stuck k →
      exec (.slotWatchdog (.mill c) k) s = .next ((s.event 0x0901 4 c [pair 4 c, w64 3]).failMill c 3)) ∧
    (∀ p, s.placePresent p = true → (s.place p).holdFailed = false →
      exec (.holdFailure p) s = .next ((s.onPlace p fun x => { x with holdFailed := true }).retirePlace p true))) ∧
  (∀ s : State, s.halted = false →
    (∀ m t, m.privileged = true → t < 544 → s.absentUnit (tlCtl t) = false → s.tilePresent t = true →
      let reset (a : State) (t : Nat) : State := (((match a.placeServed t with
        | some p => (a.endResident p true).spanReset 1 t (a.placeName p)
        | none => a).onTile t fun x => { x with inReset := true, errorHalt := false, misses := 0 }).clearTlbs t)
      exec (.tlReset m t) s = .next (reset s t) ∧
      (s.resetCluster t = none → exec (.tlClusterReset m t) s = .next (reset s t)) ∧
      (∀ c, s.resetCluster t = some c → exec (.tlClusterReset m t) s = .next
        (foldState (s.clusterTiles c) reset (s.onCluster c fun x => { x with inReset := true }))) ∧
      (s.hostMode 2 = true → (s.tile t).failed = true → t < 512 → (s.place t).outOfService = true → (s.place t).resume = 0 →
        exec (.tlSubstitute m t) s = .next (s.onPlace t fun x => { x with subst := 1 })) ∧
      (t < 512 → exec (.tlRetire m t) s = .next (s.retirePlace t true)) ∧
      (∀ p, 512 ≤ t → (s.tile t).standsFor = some p → exec (.tlRetire m t) s = .next (s.retirePlace p true)) ∧
      (512 ≤ t → (s.tile t).standsFor = none → exec (.tlRetire m t) s = .next (s.failTile t 4)) ∧
      exec (.tlFail m t) s = .next (s.failTile t 4)) ∧
    (∀ t, let out (a : State) (t : Nat) : State :=
        let cred := match (a.placeServed t).map fun p => (a.place p).cond with | some (.bound h g) => (h, g) | _ => (0, 0)
        a.onTile t fun x => { x with inReset := false, credH := cred.1, credGen := cred.2, fenced := false }
      (∀ c, s.resetCluster t = some c → (s.cluster c).inReset = true → exec (.tileResetComplete t) s = .next
        (foldState (s.clusterTiles c) out (s.onCluster c fun x => { x with inReset := false }))) ∧
      ((∀ c, s.resetCluster t = some c → (s.cluster c).inReset = false) → (s.tile t).inReset = true →
        exec (.tileResetComplete t) s = .next (out s t))) ∧
    (∀ c, (s.cluster c).inReset = true →
      exec (.clusterResetTimeout c) s = .next (foldState ((placesOf c).filter s.placePresent) (fun a p => a.retirePlace p false)
        (foldState (s.clusterTiles c) (fun a t => if (a.tile t).failed then a else
          (a.onTile t fun x => { x with failed := true, failCause := 5, errorHalt := true }).unitFailed 1 t 5
            (match a.placeServed t with | some p => a.placeName p | none => (0, 0))) s))) ∧
    (∀ p, (s.place p).subst = 2 → (s.place p).outOfService = true → s.hm.takeover = false →
      (s.spareFree p = false → exec (.spareIn p) s = .next (s.retirePlace p false)) ∧
      (∀ h g, s.spareFree p = true → (s.place p).cond = .bound h g →
        exec (.spareIn p) s = .next ((((s.onPlace p fun x => { x with spare := some (p % 16), subst := 0, resume := 1 }).onTile (spareOf p)
          fun t => { t with standsFor := some p, inReset := false, fenced := false, credH := h, credGen := g }).onTile p fun t =>
            { t with retired := true }).event 0x0904 1 (spareOf p) [pair (spareOf p) p, pair h g]))) ∧
    (∀ p, (s.place p).resume = 2 →
      let s1 := s.onPlace p fun x => { x with outOfService := false, resume := 0 }
      (s1.hmSilent = true → exec (.placeResume p) s = .next s1) ∧
      (s1.hmSilent = false → exec (.placeResume p) s = .next ((foldState (s1.plan fun _ => true) (fun a l => a.tryPlace l) s1).settle))))

/-- TAMPER erases the root and its secret, the keys derived from it, the banks, the port keys, the streams and the sessions, ORs
its cause and records it, and resets a powered module that is neither frozen nor tripped (start-up cause 5). BATT_LOW below
2,500 mV on a running module is reported once (0x0A04), and ends at 2,500 mV. On a module whose clocks run, a privileged
SC_KEYUPD submits the message at its address, or is refused with BUSY, counted and reported (0x0A02), while one is in
progress. KEY_UPDATE ends the update: with every check passed the operations are applied, the selector flips, stalled lane
groups go on and 0x0A01 is raised; otherwise REASON names the first failed check, counted and reported (0x0A02), and the
banks stay. -/
def Obligations.TamperBatteryAndKeyUpdates : Prop :=
  (∀ cause s,
    let t (powered : Bool) := (s.onSec fun c => { c with
      rootValid := false, rootSecret := 0, keys := none, tamperCause := c.tamperCause ||| 2 ^ (cause % 4), counter := 0
      bankA := [], bankB := [], streams := [], sessions := 0, upd := none, tamperRec := some (cause, s.tide.num, powered)
      tamperTold := false }).onLk fun x => { x with lgs := x.lgs.map fun g => (g.1, { g.2 with txKey := {}, rxKey := {} }) }
    (s.boot.life ≠ .unpowered → s.boot.life ≠ .frozen → s.boot.life ≠ .tripped → exec (.tamper cause) s = .next ((t true).moduleReset 5)) ∧
    ((s.boot.life = .frozen ∨ s.boot.life = .tripped) → exec (.tamper cause) s = .next (t true)) ∧
    (s.boot.life = .unpowered → exec (.tamper cause) s = .next (t false))) ∧
  (∀ mv s, s.running = true →
    (mv < 2500 → s.sec.battLow = false →
      exec (.battLow mv) s = .next ((s.onSec fun c => { c with battLow := true }).event 0x0A04 0 0 [w64 mv])) ∧
    (mv < 2500 → s.sec.battLow = true → exec (.battLow mv) s = .next s) ∧
    (2500 ≤ mv → exec (.battLow mv) s = .next (s.onSec fun c => { c with battLow := false }))) ∧
  (∀ m v s, s.halted = false → m.privileged = true →
    (s.sec.upd = none → exec (.scKeyupd m v) s = .next (s.onSec fun c => { c with upd := some (bits v 6 42 * 64) })) ∧
    (∀ a, s.sec.upd = some a →
      exec (.scKeyupd m v) s = .next (((s.onSec fun c => { c with results := c.results + 1, reason := 1 }).onSec fun c => { c with
        cReject := c.cReject + 1 }).event 0x0A02 0 0 [1, s.keyCounter (bits v 6 42 * 64), s.sec.counter]))) ∧
  (∀ c a s reason counter ops, s.halted = false → s.sec.upd = some a → s.keyReason a c = (reason, counter, ops) →
    (reason = 0 → exec (.keyUpdate c) s = .next (((((s.onSec fun x => { x with upd := none }).applyKeys counter ops c.keys).unstall).onSec
      fun x => { x with results := x.results + 1, reason := 0 }).event 0x0A01 0 0 [counter, w64 ops.length])) ∧
    (reason ≠ 0 → exec (.keyUpdate c) s = .next ((((s.onSec fun x => { x with upd := none }).onSec fun x => { x with
      results := x.results + 1, reason := reason }).onSec fun x => { x with cReject := x.cReject + 1 }).event 0x0A02 0 0
        [w64 reason, counter, s.sec.counter])))

/-- On a powered module every supported SPDM request is answered: a request other than GET_VERSION, GET_CAPABILITIES and
NEGOTIATE_ALGORITHMS needs a valid root, KEY_EXCHANGE one of four sessions left and then opens one, FINISH, HEARTBEAT,
KEY_UPDATE and END_SESSION an open one, which the last ends, and a request that fails its check is answered with ERROR
(response codes: PRESUMED, log entry 47). GET_MEASUREMENTS 0 is answered with their number, 1 to 7 with one and 255 with all.
On a module whose clocks run, in a session and on an up link, KEY_PROG marks the key set programmed, K_SET_GO of a programmed
set makes it active and the stream Secure, K_SET_STOP clears it, and the stream is Insecure if it was active; IDE_INSECURE of
a Secure stream ends that, counted and reported (0x0A05). -/
def Obligations.SpdmAndIdeKeyCommands : Prop :=
  (∀ s, s.boot.life ≠ .unpowered →
    exec .getVersion s = .next (s.emit (.spdm 0x84 false [0x12, 0x13])) ∧
    exec .getCapabilities s = .next (s.emit (.spdm 0xE1 false
      [w64 (2 ^ 1 + 2 ^ 2 + 2 ^ 4 + 2 ^ 6 + 2 ^ 7 + 2 ^ 9 + 2 ^ 13 + 2 ^ 14), 4096])) ∧
    exec (.negotiateAlgorithms true) s = .next (s.emit (.spdm 0xE3 false [1])) ∧
    exec (.negotiateAlgorithms false) s = .next (s.emit (.spdm 0xE3 true []))) ∧
  (∀ s, s.boot.life ≠ .unpowered → s.sec.rootValid = true →
    exec (.getMeasurements 0) s = .next (s.emit (.spdm 0xE0 false [7])) ∧
    (∀ i, 1 ≤ i → i ≤ 7 → exec (.getMeasurements i) s = .next (s.emit (.spdm 0xE0 false (s.measurement i)))) ∧
    exec (.getMeasurements 255) s = .next (s.emit (.spdm 0xE0 false ((List.range 7).flatMap fun i => s.measurement (i + 1)))) ∧
    (∀ i, 7 < i → i ≠ 255 → exec (.getMeasurements i) s = .next (s.emit (.spdm 0xE0 true [])))) ∧
  (∀ s, s.boot.life ≠ .unpowered → s.sec.rootValid = true →
    let ok (r : SpdmReq) (t : State) : State := t.emit (.spdm (spdmCode r) false [Config.digest (spdmCode r) [s.uid]])
    let err (r : SpdmReq) : State := s.emit (.spdm (spdmCode r) true [])
    (∀ r, (r = .getDigests ∨ r = .getCertificate ∨ r = .challenge) → exec (.spdmOtherRequest r) s = .next (ok r s)) ∧
    (s.sec.sessions < 4 → exec (.spdmOtherRequest .keyExchange) s = .next (ok .keyExchange
      (s.onSec fun c => { c with sessions := s.sec.sessions + 1 }))) ∧
    (4 ≤ s.sec.sessions → exec (.spdmOtherRequest .keyExchange) s = .next (err .keyExchange)) ∧
    (0 < s.sec.sessions →
      (∀ r, (r = .finish ∨ r = .heartbeat ∨ r = .keyUpdate) → exec (.spdmOtherRequest r) s = .next (ok r s)) ∧
      exec (.spdmOtherRequest .endSession) s = .next (ok .endSession (s.onSec fun c => { c with sessions := s.sec.sessions - 1 }))) ∧
    (∀ r, s.sec.sessions = 0 → (r = .finish ∨ r = .heartbeat ∨ r = .keyUpdate ∨ r = .endSession) →
      exec (.spdmOtherRequest r) s = .next (err r))) ∧
  (∀ s, s.boot.life ≠ .unpowered → s.sec.rootValid = false →
    (∀ i, exec (.getMeasurements i) s = .next (s.emit (.spdm 0xE0 true []))) ∧
    (∀ r, exec (.spdmOtherRequest r) s = .next (s.emit (.spdm (spdmCode r) true [])))) ∧
  (∀ l t s, s.halted = false →
    (∀ k, s.ideKm l t k = true →
      exec (.keyProg l t k) s = .next (s.onStream l t fun x => if k = 0 then { x with prog0 := true } else { x with prog1 := true }) ∧
      ((if k = 0 then (s.stream l t).prog0 else (s.stream l t).prog1) = true →
        exec (.kSetGo l t k) s = .next (s.onStream l t fun x => { x with active := some k, secure := true })) ∧
      ((if k = 0 then (s.stream l t).prog0 else (s.stream l t).prog1) = false → exec (.kSetGo l t k) s = .next s) ∧
      exec (.kSetStop l t k) s = .next (s.onStream l t fun x =>
        let y := if k = 0 then { x with prog0 := false } else { x with prog1 := false }
        if x.active = some k then { y with active := none, secure := false } else y)) ∧
    ((s.stream l t).secure = true →
      exec (.ideInsecure l t) s = .next (((s.onStream l t fun x => { x with active := none, secure := false }).onSec fun c => { c with
        cIde := c.cIde + 1 }).event 0x0A05 0 0 [w64 l, w64 t])))

/-- On a running module, over a link that is up, a BAR2 read of one mapped range returns what its channels hold, counting those
with poison, and one of an unmapped range returns zeros and is counted; a write there is performed, or dropped and counted,
also where it touches a pacing area; a request outside a Secure stream of a link that requires IDE is answered with
Unsupported Request and counted. A successful completion delivers the data to its engine if that still waits; an unsuccessful
one or a time-out counts a host error and ends the part with a fault. MSIX_UNMASK unmasks a vector and sends its message if
it is pending. PERST_N_DEASSERT brings the present links up; HOST_LINK_DOWN of an up link fails its requests, with event
0x0B01; HOST_LINK_RETURN brings a present link back with empty command pages and MSI-X tables. -/
def Obligations.HostTrafficAndLinks : Prop :=
  (∀ f s, f < 128 → s.running = true → (s.link (f / 32)).up = true →
    (∀ o n b, o + n ≤ s.bar2Size f → s.ideBars (f / 32) b = false →
      (∀ ps, s.bar2Parts f (n / 2097152 + 2) o n = [(n, some ps)] →
        let r := s.readThrough ps
        let bad := (ps.filter fun p => s.hbmPoison p.ch p.byte p.len).foldl (fun t p => setIns t p.ch) []
        let s1 := foldState bad (fun a c => a.onChan c fun x => { x with cHostEp := x.cHostEp + 1 }) r.2
        exec (.bar2Read f o n b) s = .next ((s1.onLink (f / 32) fun l => { l with
          hostEp := if r.1.any (·.2) then l.hostEp + 1 else l.hostEp }).emit (.readData f (beatBytes r.1) (r.1.any (·.2))))) ∧
      (s.bar2Parts f (n / 2097152 + 2) o n = [(n, none)] →
        exec (.bar2Read f o n b) s = .next ((s.onLink (f / 32) fun l => { l with miss := l.miss + 1 }).emit
          (.readData f (List.replicate n 0) false)))) ∧
    (∀ o d p b, o + d.length ≤ s.bar2Size f → s.ideBars (f / 32) b = false →
      (∀ ps, s.bar2Parts f (d.length / 2097152 + 2) o d.length = [(d.length, some ps)] →
        (ps.any s.touchesPacing = false →
          exec (.bar2Write f o d p b) s = .next ((s.writeThrough ps [(d, p)]).onLink (f / 32) fun l => l)) ∧
        (ps.any s.touchesPacing = true →
          exec (.bar2Write f o d p b) s = .next (s.onLink (f / 32) fun l => { l with miss := l.miss + 1 }))) ∧
      (s.bar2Parts f (d.length / 2097152 + 2) o d.length = [(d.length, none)] →
        exec (.bar2Write f o d p b) s = .next (s.onLink (f / 32) fun l => { l with miss := l.miss + 1 }))) ∧
    (∀ b, s.ideBars (f / 32) b = true →
      let ur := (s.onSec fun c => { c with cUrNoIde := c.cUrNoIde + 1 }).emit (.unsupportedRequest (f / 32))
      (∀ o n, o + n ≤ s.bar2Size f → exec (.bar2Read f o n b) s = .next ur) ∧
      (∀ o d p, o + d.length ≤ s.bar2Size f → exec (.bar2Write f o d p b) s = .next ur))) ∧
  (∀ s : State, s.halted = false →
    (∀ q r, tabFind s.hif.reqs q = some r →
      let s1 := s.onHif fun x => { x with reqs := tabDel x.reqs q }
      let err := s1.onLink r.link fun x => { x with hostErr := x.hostErr + 1 }
      let fails := if r.gone then err else (err.dropReq r.place r.slot r.engine r.req).faultEnds r.place r.slot r.va 4
      (∀ d p, r.gone = false → exec (.pcieCompletion q 0 d p) s = .next (s1.gotData r.place r.slot r.engine r.req
        ((cutAt 64 0 r.len).map fun x => (((d ++ List.replicate r.len 0).drop x.1).take x.2, p)))) ∧
      (∀ d p, r.gone = true → exec (.pcieCompletion q 0 d p) s = .next s1) ∧
      (∀ st d p, st ≠ 0 → exec (.pcieCompletion q st d p) s = .next fails) ∧
      exec (.pcieCompletionTimeout q) s = .next fails) ∧
    (∀ f v, f < 128 → v < 2048 →
      let m := tabGet {} s.hif.msix f
      let s1 := s.onHif fun h => { h with msix := tabPut h.msix f { unmasked := setIns m.unmasked v, pba := setDel m.pba v } }
      exec (.msixUnmask f v) s = .next (if m.pba.contains v then s1.emit (.msix f v) else s1)) ∧
    (∀ l, l < 4 → (s.link l).up = true → (s.link l).l23 = false →
      let s1 := (s.onLink l fun l => { l with up := false, grace := true }).event 0x0B01 0 0 [w64 l]
      exec (.hostLinkDown l) s = .next (foldState (s1.hif.reqs.filter fun r => r.2.link == l) (fun a r =>
        let e := (a.onHif fun q => { q with reqs := tabDel q.reqs r.1 }).onLink r.2.link fun x => { x with hostErr := x.hostErr + 1 }
        if r.2.gone then e else (e.dropReq r.2.place r.2.slot r.2.engine r.2.req).faultEnds r.2.place r.2.slot r.2.va 4) s1)) ∧
    (∀ l w g, (s.link l).up = false → (s.link l).pres = true → s.pins.perst = false →
      exec (.hostLinkReturn l w g) s = .next ((s.onLink l fun l => { l with
        up := true, grace := false, l23 := false, numVfs := 0, width := w, speed := g }).onHif fun q => { q with
          pages := q.pages.filter fun p => p.1 / 32 != l
          msix := q.msix.filter fun m => m.1 / 32 != l }))) ∧
  (∀ w s, s.pins.pcieRdy = true → s.pins.perst = true →
    exec (.perstNDeassert w) s = .next ((s.onPins fun p => { p with perst := false }).onHif fun h => { h with
      links := h.links.map fun l => if l.2.pres then
        (l.1, { l.2 with up := true, l23 := false, grace := false, width := (w.getD l.1 (0, 0)).1, speed := (w.getD l.1 (0, 0)).2 })
        else l }))

/-- On a module whose clocks run, TEARDOWN_QUIESCED of a context at step 4 with nothing of it busy unmaps everything of the ASID
and its apertures, invalidates, disables its berths, drops its handles, events and graphs, destroys its state records and
goes to step 7. CTX_TEARDOWN of a context at step 7 destroys its remaining state records; with none left it scrubs its
berths, fence space and fault records, removes it and its table entries, raises event 0x0B02 and answers a waiting command.
FUNCTION_LEVEL_RESET ends the page command of the function and begins the teardown of every context of it (cause 2);
LINK_DOWN_GRACE_EXPIRE those of the functions of a link that did not return (cause 3). CF_FUNC_MODE of a privileged master
stores the mode, of which bits 1 and 6 are in force at once. -/
def Obligations.TeardownAndFunctionMode : Prop :=
  ∀ s : State, s.halted = false →
  (∀ a x, s.ctx a = some x → x.teardown = 4 → s.asidBusy a = false →
    let s1 := (s.unmapRange a 0 (2 ^ 57) fun _ => true).putApertures (s.hif.apertures.filter fun p => p.2.1 != a)
    let s2 := s1.pilotInval x.harbour { scope := 1, asid := a, va := 0, pages := 0 }
    let s3 := foldState ((s2.berths.filter fun b => b.2.enable && b.2.context == a).map (·.1)) (fun b i => b.disableBerth i 0) s2
    let s4 := s3.onAsid a fun y => { y with handles := y.handles.map fun h => (h.1, { h.2 with obj := none }), events := [] }
    let s5 := foldState (x.handles.filterMap fun h => h.2.obj) (fun b o => b.dropRef o) s4
    let s6 := (foldState ((s5.graphs.filter fun g => g.2.valid && g.2.context == a).map (·.1)) (fun b k => b.dropGraph k) s5).destroyStates a
    exec (.teardownQuiesced a) s = .next ((s6.onAsid a fun y => { y with teardown := 7 }).pollPages)) ∧
  (∀ a x, (s.destroyStates a).ctx a = some x → x.teardown = 7 →
    let s0 := s.destroyStates a
    ((s0.lk.own.any fun o => o.2.token == .origin && o.2.context == a) = true → exec (.ctxTeardown a) s = .next s0) ∧
    ((s0.lk.own.any fun o => o.2.token == .origin && o.2.context == a) = false →
      let s1 := foldState ((s0.berths.filter fun b => b.2.context == a && !b.2.enable).map (·.1)) (fun b i => b.scrubBerth i) s0
      let es := s1.fu.space.filter fun e => e.1 / 2 ^ 24 == a
      let s2 := foldState (es.filter fun e => e.2.valid) (fun b e => b.dropFenceEnt e.1 e.2) s1
      let s3 := s2.onFu fun u => { u with space := u.space.filter fun e => e.1 / 2 ^ 24 != a }
      let s4 := (s3.scrubFaults a).onHif fun q => { q with
        ctxs := tabDel q.ctxs a
        handleGen := x.handles.foldl (fun t h => tabPut t (a * 2 ^ 24 + h.1) h.2.gen) q.handleGen }
      let s5 := ((s4.put0 (s.xl.ctxBase + 32 * a) [0, 0, 0, 0]).put0 (s.hif.hostBind + 8 * a) [0]).onRas fun r => { r with
        lost := setDel r.lost a }
      exec (.ctxTeardown a) s = .next ((s5.event 0x0B02 7 x.harbour [pair a x.harbour, w64 x.cause, w64 x.aborted]).pageDoneOpt
        x.waiter 0 0))) ∧
  (∀ f, f < 128 →
    let none' (o : Option Nat) : Option Nat := if o = some f then none else o
    let s1 := (s.onHif fun q => { q with
      pages := q.pages.map fun p => if p.1 = f then (p.1, { p.2 with busy := false, wait := none }) else p
      ctxs := q.ctxs.map fun x => (x.1, { x.2 with waiter := none' x.2.waiter }) }).onLk fun x => { x with
        own := x.own.map fun o => (o.1, { o.2 with movePending := none' o.2.movePending, ckptPending := none' o.2.ckptPending }) }
    exec (.functionLevelReset f) s = .next (foldState (s1.hif.ctxs.filter fun x => x.2.func == f) (fun a x =>
      a.startTeardown x.1 2 none) s1)) ∧
  (∀ l, (s.link l).up = false → (s.link l).grace = true →
    exec (.linkDownGraceExpire l) s = .next (foldState (s.hif.ctxs.filter fun x => x.2.func / 32 == l) (fun a x =>
      a.startTeardown x.1 3 none) (s.onLink l fun l => { l with grace := false }))) ∧
  (∀ m v, m.privileged = true →
    exec (.cfFuncModeWrite m v) s = .next (s.onHif fun h => { h with
      mode := bits v 0 8, modeInForce := putBits (putBits h.modeInForce 1 1 (bits v 1 1)) 6 1 (bits v 6 1) }))

/-- STARTUP_BEGIN of a module out of reset with no pin holding it, or with VSTBY (which first loses what a powered module held; a
freeze is then reported and is cause 6), starts the steps, the rails and the derived keys. IMAGE_ACCEPT at step 3 with the
rails good chooses the margin table and sets the rails, then takes the slot tried first if it passes, or the other with a
fallback (the pilot version is a free value, log entry 3), and stops with code 2 when both fail. START_DONE at step 8 applies
the image's records, replays the journal, loads the map and ends start-up with the held events and START_DONE; a record
refused stops with code 3, a refused field with 4, a map that does not load or leaves harbour 0 no tile place or channel with
6, a structure that does not resolve with 4, both Harbourmaster instances failed with 5, no bridge with 7. STARTUP_STOP stops
with its code. SVN_FUSE_BLOW raises the fused floor to the version asked for, never lowering it. -/
def Obligations.StartUpCommands : Prop :=
  (∀ s : State,
    let up (c : Nat) (t : State) : State := ((t.onBoot fun b => { b with life := .starting, step := 3, cause := c }).onSec fun x => { x with
      keys := x.derive }).powerOn
    let mated (t : State) : State := t.onPins fun p => { p with mate0 := true, mate1 := true, modRst := false }
    let held (c : Nat) (t : State) : State := t.onBoot fun b => { b with life := .inReset, nextCause := c }
    (s.boot.life = .inReset → s.pins.modRst = false → s.pins.freeze = false → s.pins.thermTrip = false → s.pins.seq ≠ 3 →
      exec (.startupBegin false) s = .next (up s.boot.nextCause s)) ∧
    (s.pins.freeze = false →
      (s.boot.life = .unpowered → exec (.startupBegin true) s = .next (up 0 (mated s))) ∧
      (s.boot.life ≠ .unpowered → s.boot.life ≠ .frozen → exec (.startupBegin true) s = .next (up 0 (mated s.powerLost))) ∧
      (s.boot.life = .frozen → exec (.startupBegin true) s = .next (up 6 (mated (s.powerLost.onRas fun r => { r with
        kept := [s.freezeReset] }))))) ∧
    (s.pins.freeze = true →
      (s.boot.life = .unpowered → exec (.startupBegin true) s = .next (held 0 (mated s))) ∧
      (s.boot.life ≠ .unpowered → s.boot.life ≠ .frozen → exec (.startupBegin true) s = .next (held 0 (mated s.powerLost))) ∧
      (s.boot.life = .frozen → exec (.startupBegin true) s = .next (held 6 (mated (s.powerLost.onRas fun r => { r with
        kept := [s.freezeReset] })))))) ∧
  (∀ s : State, s.boot.life = .starting → s.railsGood = true → s.boot.step = 3 →
    let a := s.slotFail s.boot.imageA
    let b := s.slotFail s.boot.imageB
    let first := if s.firstB then b else a
    let second := if s.firstB then a else b
    let seen (n : Nat) (isFirst : Bool) : Nat := if isFirst = true ∨ first ≠ 0 ∨ n = 1 ∨ n = 2 then n else 0
    let s1 := s.startRails.onBoot fun x => { x with failA := seen a (!s.firstB), failB := seen b s.firstB }
    let takes (useB fallback : Bool) : State :=
      let img := if useB then s.boot.imageB else s.boot.imageA
      ((s1.onBoot fun x => { x with
        step := 8, slotB := useB, fallback := fallback, version := img.version, svn := img.svn, members := img.members }).onHm
          fun h => { h with pilotVersion := bits s.fresh 0 16 }).drawn
    (first = 0 → exec .imageAccept s = .next (takes s.firstB false)) ∧
    (first ≠ 0 → second = 0 → exec .imageAccept s = .next (takes (!s.firstB) true)) ∧
    (first ≠ 0 → second ≠ 0 → exec .imageAccept s = .next (s1.stopStart 2 0))) ∧
  (∀ t s, s.boot.life = .starting → s.boot.step = 8 → s.railsGood = true →
    let r := applyRecords 0 s.image.records ((s.selfTests t).onBoot fun b => { b with step := 9 })
    let role := r.2.roleOf s.image t.cascadeMst
    let s3 := (r.2.inForce.onTide fun c => { c with
      role := role.1, groupId := s.image.groupId, masterNode := s.image.masterNode }).onHif fun h => { h with links := linksOf s.image }
    let s4 := ((s3.onPins fun p => { p with pcieRdy := true }).onBoot fun b => { b with step := 11, mapStored := b.mapCopy.isSome }).replay
    (t.failedHm.contains 0 = true → t.failedHm.contains 1 = true → exec (.startDone t) s = .next (s.stopStart 5 0)) ∧
    ((t.failedHm.contains 0 && t.failedHm.contains 1) = false →
      (t.bridge = 0 → exec (.startDone t) s = .next (s.stopStart 7 0)) ∧
      (t.bridge ≠ 0 →
        (∀ i, r.1 = some i → exec (.startDone t) s = .next (r.2.stopStart 3 i)) ∧
        (r.1 = none → s3.fieldsOk = false → exec (.startDone t) s = .next (s3.stopStart 4 0)) ∧
        (r.1 = none → s3.fieldsOk = true → s4.loadMap = none → exec (.startDone t) s = .next (s4.stopStart 6 0)) ∧
        (∀ s5, r.1 = none → s3.fieldsOk = true → s4.loadMap = some s5 →
          let tiles := ((s5.harbour 0).getD {}).tiles.any fun n => s5.unitOf 0 0 n
          let channels := ((s5.harbour 0).getD {}).channels.any fun n => s5.unitOf 0 1 n
          ((tiles && channels) = false → exec (.startDone t) s = .next (s5.stopStart 6 0)) ∧
          (tiles = true → channels = true → (s5.structures.any fun b => (s5.resolve 0 b.1 b.2).isNone) = true →
            exec (.startDone t) s = .next (s5.stopStart 4 0)) ∧
          (tiles = true → channels = true → (s5.structures.any fun b => (s5.resolve 0 b.1 b.2).isNone) = false →
            let e1 := (foldState (List.range 64) (fun a k => a.checkSlot k) s5.raiseKept.tellTamper).onBoot fun b => { b with
              life := .running, step := 12, done := true, timeUs := t.timeUs, nextCause := 0
              svnRaise := if s.image.raiseSvn ∧ b.floor < s.image.svn then some s.image.svn else none }
            let e2 := (e1.onTide fun t => { t with num := 0, stopped := false, isolated := t.role == .slave }).computeAllow
            let e3 := (((e2.onTide fun t => { t with jobFreq := e2.pw.fAllow }).onPw fun w => { w with
              counted := e2.countKey, lastDecision := e2.pw.fAllow }).setRails e2.pw.fAllow).setRegions
            let e4 := ((if e3.tide.role = .slave then e3.startEcho else e3).trainPorts).onCrc fun c => { c with adopting := true }
            let e5 := if s5.boot.fallback then e4.event 0x0C01 0 0 [if s5.boot.slotB then 0 else 1,
              w64 (if s5.boot.slotB then s5.boot.failA else s5.boot.failB)] else e4
            let e6 := if role.2 then e5.event 0x0C02 0 0 [pair s5.lk.nodeId s.image.masterNode, w64 s.image.groupId] else e5
            exec (.startDone t) s = .next (e6.event 0x0C00 0 0 [pair (if s5.boot.slotB then 1 else 0) s.image.version.toNat,
              pair s5.boot.cause (if s5.boot.mapStored then 1 else 0), w64 t.timeUs])))))) ∧
  (∀ c r s, s.boot.life = .starting → 1 ≤ c → c ≤ 7 →
    let s1 := s.onBoot fun b => { b with life := .stopped, stop := c, failRecord := r }
    let s2 := foldState ((List.range 32).filter s.clusterPresent) (fun a k => a.onCluster k fun x => { x with gated := true }) s1
    exec (.startupStop c r) s = .next (((s2.onPins fun p => { p with pcieRdy := true }).onLk fun x => { x with
      ports := x.ports.map fun p => (p.1, { p.2 with st := .off }) }).onHif fun h => { h with links := [(0, { pres := true })] })) ∧
  (∀ n s, s.boot.svnRaise = some n →
    exec .svnFuseBlow s = .next (s.onBoot fun b => { b with floor := max b.floor n, svnRaise := none }))

/-- An assertion of MOD_RST_N resets a powered module with start-up cause 1, or a frozen one with cause 6 after FREEZE_RESET is
kept; its release does the same of a frozen one, resets a tripped one with cause 3 and lets a rail sequence begin again.
FREEZE_N freezes a powered module that is neither frozen nor tripped: its clocks and tides stop, HBM is lost and the links go
down. A fabric failure (MODULE_FAIL cause 1), a supply below its reset level (cause 2) and the loss of the last bridge module
(cause 3, after event 0x0907) reset a module that is live; the loss of another bridge module is reported only. A rise of
power-good advances the rail sequence; a fall, or a late one, while its rail is enabled is a fault: RAIL_FAULT is kept (its
voltage and acknowledgement are free values, log entry 3), of a running module MODULE_FAIL too, the module resets and the
rails go. An opened MATE contact is a loss of power. -/
def Obligations.ResetsFailuresAndRailPins : Prop :=
  (∀ s : State, s.pins.modRst = false →
    let s1 := s.onPins fun p => { p with modRst := true }
    ((s.boot.life = .unpowered ∨ s.boot.life = .tripped) → exec (.modRstN true) s = .next s1) ∧
    (s.boot.life = .frozen → exec (.modRstN true) s = .next ((s1.onRas fun r => { r with kept := r.kept ++ [s.freezeReset] }).moduleReset 6)) ∧
    ((s.boot.life = .inReset ∨ s.live = true) → exec (.modRstN true) s = .next (s1.moduleReset 1)) ∧
    exec (.modRstN false) s = .next s) ∧
  (∀ s : State, s.pins.modRst = true →
    let s1 := s.onPins fun p => { p with modRst := false }
    (s.boot.life = .unpowered → exec (.modRstN false) s = .next s1) ∧
    (s.boot.life = .frozen → exec (.modRstN false) s = .next ((s1.onRas fun r => { r with kept := r.kept ++ [s.freezeReset] }).moduleReset 6)) ∧
    (s.boot.life = .tripped → exec (.modRstN false) s = .next ((s1.moduleReset 3).onPins fun p => { p with thermTrip := false, seq := 0 })) ∧
    ((s.boot.life = .inReset ∨ s.live = true) → exec (.modRstN false) s = .next (s1.onPins fun p => { p with
      seq := if p.seq = 3 then 0 else p.seq, alert := p.alert && p.seq != 3 })) ∧
    exec (.modRstN true) s = .next s) ∧
  (∀ s : State,
    let s1 := s.onPins fun p => { p with freeze := true }
    ((s.boot.life = .inReset ∨ s.live = true) → exec (.freezeN true) s = .next ((((s1.onBoot fun b => { b with
      life := .frozen, freezeSoft := false, freezeTide := s.tide.num, dumpAll := b.dumpEn, frame := 0, tapFrame := 0, nextCause := 6 }).onTide
        fun t => { t with stopped := true }).onMem fun m => { m with bytes := [], written := [], poison := [] }).onHif fun h => { h with
          links := h.links.map fun l => (l.1, { l.2 with up := false }) })) ∧
    ((s.boot.life = .unpowered ∨ s.boot.life = .frozen ∨ s.boot.life = .tripped) → exec (.freezeN true) s = .next s1) ∧
    exec (.freezeN false) s = .next (s.onPins fun p => { p with freeze := false })) ∧
  (∀ s : State, s.live = true →
    exec .fabricDomainFailure s = .next ((s.keepEvent 0x0909 0 0 [1]).moduleReset 4) ∧
    exec .supplyReset s = .next ((s.keepEvent 0x0909 0 0 [2]).moduleReset 2)) ∧
  (∀ n s, s.running = true → n < s.ras.bridge →
    let s1 := (s.onRas fun r => { r with bridge := n }).event 0x0907 0 0 [w64 n, w64 (125 * n)]
    (n ≠ 0 → exec (.bridgeDegrade n) s = .next s1) ∧
    (n = 0 → exec (.bridgeDegrade n) s = .next ((s1.keepEvent 0x0909 0 0 [3]).moduleReset 4))) ∧
  (∀ s : State, s.pins.seq ≠ 3 → s.boot.life ≠ .unpowered →
    let kept (t : State) : State := (t.keepEvent 0x0802 13 7 [7, t.fresh, Config.freeWord (t.freeTick + 1)]).drawn.drawn
    let off (t : State) : State := (((if t.running then (kept t).keepEvent 0x0909 0 0 [2] else kept t).moduleReset 2).powerOff 3).onPins fun p =>
      { p with alert := true }
    ((s.pins.enA = true ∨ s.pins.enB = true ∨ s.pins.enC = true) → exec .pgFault s = .next (off s)) ∧
    (s.pins.seq ≤ 1 →
      (s.pins.enA = true → exec (.powerGoodChange 0 false) s = .next (off (s.onPins fun p => { p with pgA := false }))) ∧
      (s.pins.enB = true → exec (.powerGoodChange 1 false) s = .next (off (s.onPins fun p => { p with pgB := false }))) ∧
      (s.pins.enC = true → exec (.powerGoodChange 2 false) s = .next (off (s.onPins fun p => { p with pgC := false }))))) ∧
  (∀ s, exec (.powerGoodChange 0 true) s = .next (s.onPins fun p => { p with pgA := true }).powerStep ∧
    exec (.powerGoodChange 1 true) s = .next (s.onPins fun p => { p with pgB := true }).powerStep ∧
    exec (.powerGoodChange 2 true) s = .next (s.onPins fun p => { p with pgC := true }).powerStep) ∧
  (∀ s : State, s.boot.life ≠ .unpowered →
    exec (.mateOpen 0) s = .next (s.powerLost.onPins fun p => { p with mate0 := false }) ∧
    exec (.mateOpen 1) s = .next (s.powerLost.onPins fun p => { p with mate1 := false }))

/-- While a module is frozen or tripped its clocks stand still: every command but those that need none (of the pins, the security
and dump controllers, the tamper monitor and the thermal trip) leaves the state as it is. A privileged write of DB_FREEZE to
a running module stores DUMP_EN and DUMP_HOLDS and, with SOFT set, freezes it: the tides stop, HBM is lost and the links go
down. DUMP_FRAME of a frozen module puts out the next frame of the dump, its CRC over the header and the payload (for
segments whose bytes the spec does not give, 4,096 free values, log entry 144), and nothing once all are out; TAP_DUMP does
so for the test port, with its own frame count. TAP_IDCODE, TAP_BYPASS, TAP_SAMPLE_PRELOAD select their instruction on a
powered module; TAP_EXTEST does only while MOD_RST_N is asserted, and is BYPASS otherwise. -/
def Obligations.FreezeDumpAndTestAccess : Prop :=
  (∀ i s, s.halted = true → unclocked i = false → exec i s = .next s) ∧
  (∀ m v s, s.running = true → m.privileged = true →
    let s1 := s.onBoot fun b => { b with dumpEn := bit v 1, dumpHolds := bit v 2 }
    (bit v 0 = false → exec (.dbFreezeSoft m v) s = .next s1) ∧
    (bit v 0 = true → exec (.dbFreezeSoft m v) s = .next ((((s1.onBoot fun b => { b with
      life := .frozen, freezeSoft := true, freezeTide := s.tide.num, dumpAll := bit v 1, frame := 0, tapFrame := 0, nextCause := 6 }).onTide
        fun t => { t with stopped := true }).onMem fun m => { m with bytes := [], written := [], poison := [] }).onHif fun h => { h with
          links := h.links.map fun l => (l.1, { l.2 with up := false }) }))) ∧
  (∀ s : State, s.boot.life = .frozen →
    let sent (tap : Bool) (g u n k : Nat) : State :=
      let bs := s.dumpBytes g u k
      let head := leBytes 8 (g + u * 2 ^ 8 + n % 2 ^ 32 * 2 ^ 32) ++ leBytes 4 k
      { s.emit (.frame tap g u n k (crc32c (head ++ bs)) bs) with freeTick := s.freeTick + 4096 }
    (∀ g u k, s.frameOf s.dumpSegments s.boot.frame = some (g, u, k) →
      exec .dumpFrame s = .next ((sent false g u s.boot.frame k).onBoot fun b => { b with frame := b.frame + 1 })) ∧
    (s.frameOf s.dumpSegments s.boot.frame = none → exec .dumpFrame s = .next s) ∧
    (∀ g u k, s.frameOf s.dumpSegments s.boot.tapFrame = some (g, u, k) →
      exec .tapDump s = .next ((sent true g u s.boot.tapFrame k).onBoot fun b => { b with tap := 4, tapFrame := b.tapFrame + 1 })) ∧
    (s.frameOf s.dumpSegments s.boot.tapFrame = none → exec .tapDump s = .next (s.onBoot fun b => { b with tap := 4 }))) ∧
  (∀ s : State, s.boot.life ≠ .unpowered →
    let run (n : Nat) : State := (s.onBoot fun b => { b with tap := n }).emit (.tdo n)
    exec .tapBypass s = .next (run 0) ∧ exec .tapIdcode s = .next (run 1) ∧ exec .tapSamplePreload s = .next (run 2) ∧
    (s.pins.modRst = true → exec .tapExtest s = .next (run 3)) ∧ (s.pins.modRst = false → exec .tapExtest s = .next (run 0)))

/-- CRC_PASS_END of a running module stores the CRC of the configuration and counts the pass; an adopting pass becomes the
reference, a matching one ends a drift, and the first one that differs is counted and reported (event 0x0001). On a module
whose clocks run, a privileged CRC_REF_WRITE or CRC_ADOPT writes CF_CRC_COMMIT, the latter keeping the reference and adopting
the next pass. A REGISTER_WRITE to a register that is served, of 8 to 512 bytes, aligned to 8, writes its registers one after
another, one of 4 bytes, aligned to 4, to a register that its master reaches the half of it, unless the register takes writes
of the whole alone or a command field crosses the half; that, and a write of another size or alignment, is refused and
counted. Of the 8-byte writes, one of a privileged master takes effect as the write of that register; one that does not reach
its register is ignored and counted, outside the doorbell pages; a reserved or unmapped register is counted, and one of an
absent unit is skipped. -/
def Obligations.CrcAndRegisterWrites : Prop :=
  (∀ s, s.running = true →
    let run := s.configCrc
    let s1 := s.onCrc fun c => { c with run := run, valid := true, passes := c.passes + 1, since := c.since + 1 }
    (s.crc.adopting = true → exec .crcPassEnd s = .next (s1.onCrc fun c => { c with ref := run, adopting := false })) ∧
    (s.crc.adopting = false → run = s.crc.ref → exec .crcPassEnd s = .next (s1.onCrc fun c => { c with drift := false })) ∧
    (s.crc.adopting = false → run ≠ s.crc.ref → s.crc.drift = true → exec .crcPassEnd s = .next s1) ∧
    (s.crc.adopting = false → run ≠ s.crc.ref → s.crc.drift = false →
      exec .crcPassEnd s = .next ((s1.onCrc fun c => { c with drift := true, drifts := c.drifts + 1 }).event 0x0001 0 0
        [pair run.toNat s.crc.ref.toNat, w64 s1.crc.since]))) ∧
  (∀ m s, s.halted = false → m.privileged = true →
    (∀ v, exec (.crcRefWrite m v) s = .next (s.onCrc fun c => { c with ref := v.truncate 32, adopting := bit v 63, since := 0 })) ∧
    exec (.crcAdopt m) s = .next (s.onCrc fun c => { c with ref := s.crc.ref, adopting := true, since := 0 })) ∧
  (∀ m a s, s.halted = false → s.served a.offset = true →
    (a.size ≠ 4 → a.size % 8 = 0 → a.size ≠ 0 → a.size ≤ 512 → a.offset % 8 = 0 →
      exec (.registerWrite m a) s = .next (foldState (List.range (a.size / 8)) (fun t i =>
        t.writeOne m a.pasid (a.offset + 8 * i) (wordAt a.words i)) s)) ∧
    (a.size = 4 → a.offset % 4 = 0 →
      let base := a.offset / 8 * 8
      let lo := a.offset % 8 * 8
      ∀ r, s.regAt base = some r → s.served base = true → s.reaches m a.pasid true base = true →
        ((r.spans = true ∨ (r.wo.any fun f => f.1 < lo ∨ lo + 32 < f.1 + f.2) = true) →
          exec (.registerWrite m a) s = .next (s.onCrc fun c => { c with size := c.size + 1 })) ∧
        (r.spans = false → (r.wo.any fun f => f.1 < lo ∨ lo + 32 < f.1 + f.2) = false →
          exec (.registerWrite m a) s = .next (s.writeOne m a.pasid base (w64 (putBits r.value.toNat lo 32 (wordAt a.words 0).toNat))))) ∧
    (((a.size = 4 ∧ a.offset % 4 ≠ 0) ∨ (a.size ≠ 4 ∧ (a.size % 8 ≠ 0 ∨ a.size = 0 ∨ 512 < a.size ∨ a.offset % 8 ≠ 0))) →
      exec (.registerWrite m a) s = .next (s.onCrc fun c => { c with size := c.size + 1 }))) ∧
  (∀ m o v p s, s.halted = false → s.served o = true → o % 8 = 0 →
    let w := exec (.registerWrite m { offset := o, size := 8, words := [v], pasid := p }) s
    (s.absentUnit o = true → w = .next s) ∧
    (s.absentUnit o = false →
      ((reservedBar0 o = true ∨ 0x4000000 ≤ o) → w = .next (s.onCrc fun c => { c with unmapped := c.unmapped + 1 })) ∧
      (reservedBar0 o = false → o < 0x4000000 →
        (s.reaches m p true o = true → w = .next (s.writeReach m p o v)) ∧
        (s.reaches m p true o = false → doorbellPage o = none → w = .next (s.rwpIgnored m o)) ∧
        (∀ b, s.reaches m p true o = false → doorbellPage o = some b → w = .next (s.dbReject b false)))))

/-- On a running module, by a function whose link is up: MEM_PIN on a page that is BUSY is counted and changes nothing else; a
command on a free page takes it. CTX_CREATE of FUNC 0 with its fields in range takes the lowest free ASID, clears the root
table, writes the context and binding entries and answers the ASID. For the owner of a context that is not being torn down:
CTX_DESTROY starts its teardown, MEM_CREATE of a free range answers a new handle, or NO_RESOURCE (REASON 3) when there is
none, MEM_RELEASE unmaps through the handle and answers once that and the zeroing are done, MEM_EXPORT answers a token and
MEM_IMPORT a handle of its own, or NO_RESOURCE, and MEM_PIN and MEM_UNPIN count the pins of the object. -/
def Obligations.EweasContextsAndMemory : Prop :=
  (∀ c s, c.func < 128 → s.running = true → (s.link (c.func / 32)).up = true → (s.page c.func).busy = true →
    exec (.memPin c) s = .next (s.onPage c.func fun p => { p with rejects := p.rejects + 1 })) ∧
  (∀ c s, c.func = 0 → s.running = true → (s.link 0).up = true → (s.page 0).busy = false →
    let t := s.taken 0x01 c
    let w1 := wordAt c.args 0
    let w2 := wordAt c.args 1
    let a := lowestFree 65536 fun i => (t.ctx i).isSome
    let root := max 4096 (8 * 2 ^ (bits w1 8 6 - 39))
    let x : Ctx := { func := bits w2 0 7, pasid := bits w2 7 20, pasidEn := bit w2 27, harbour := bits w1 0 6, vaBits := bits w1 8 6
                     poolAddr := c.arg 3, poolLen := c.arg 4, poolUsed := root }
    let bind := x.pasid + x.func * 2 ^ 20 + (if x.pasidEn then 2 ^ 27 else 0) + 2 ^ 63
    let s1 := (t.onHif fun q => { q with ctxs := tabPut q.ctxs a x }).onXl fun q => { q with anyValid := true }
    let s2 := ((s1.clear0 (c.arg 3) root).put0 (t.xl.ctxBase + 32 * a) [w64 (1 + bits w1 0 6 * 2 + bits w1 8 6 * 128), w64 (c.arg 3), 0, 0]).put0
      (t.hif.hostBind + 8 * a) [w64 bind]
    ¬ (bits w1 6 2 ≠ 0 ∨ bits w1 14 50 ≠ 0 ∨ bits w2 28 36 ≠ 0 ∨ bits w1 8 6 < 39 ∨ 57 < bits w1 8 6 ∨ c.arg 3 % 2097152 ≠ 0 ∨ c.arg 4 = 0
      ∨ c.arg 4 % 2097152 ≠ 0 ∨ 2 ^ 48 ≤ c.arg 3 ∨ (!t.in0 (c.arg 3) (c.arg 4)) = true ∨ (t.harbour (bits w1 0 6)).isNone = true) →
    a < 65536 → exec (.ctxCreate c) s = .next (s2.pageDone c.func 0 0 [w64 a])) ∧
(∀ c x s, c.func < 128 → s.running = true → (s.link (c.func / 32)).up = true → (s.page c.func).busy = false → s.ctx (c.arg 1) = some x → x.passes c = true →
    x.teardown = 0 →
    exec (.ctxDestroy c) s = .next ((s.taken 0x02 c).startTeardown (c.arg 1) 1 (some c.func)) ∧
    (let t := s.taken 0x03 c
     let addr := c.arg 2 % 2 ^ 52
     let pacing := c.arg 3 == 131072 && (match t.harbour x.harbour, t.pacingByte x.harbour with
       | some h, some (_, b) => !h.channels.isEmpty && addr == b
       | _, _ => false)
     let o : MemObj := { harbour := x.harbour, addr := addr, len := c.arg 3, pacing := pacing }
     let n := (t.onHif fun q => { q with objs := tabPut q.objs t.hif.nextObj o, nextObj := t.hif.nextObj + 1 }).newHandle (c.arg 1)
       t.hif.nextObj (if pacing then 1 else 7)
     ¬ (c.arg 2 / 2 ^ 52 ≠ t.lk.nodeId ∨ 1 < addr / 2 ^ 48 ∨ addr % 65536 ≠ 0 ∨ c.arg 3 = 0 ∨ c.arg 3 % 65536 ≠ 0
       ∨ (t.resolve x.harbour addr (c.arg 3)).isNone = true) → t.objMeets o = false →
     (∀ h s1, n = some (h, s1) → exec (.memCreate c) s = .next (s1.pageDone c.func 0 0 [w64 h])) ∧
     (n = none → exec (.memCreate c) s = .next (t.pageDone c.func 4 3 []))) ∧
    (∀ i y o, x.handle (c.arg 2) = some (i, y) → y.obj = some o →
      (let t := s.taken 0x04 c
       let s1 := (t.unmapRange (c.arg 1) 0 (2 ^ 57) fun m => m.handle == some i).onAsid (c.arg 1) fun q => { q with
         handles := tabPut q.handles i { y with obj := none } }
       let s2 := s1.putApertures (s1.hif.apertures.filter fun p => !(p.2.1 == c.arg 1 && p.2.2.1 == i))
       let s3 := s2.dropRef o
       exec (.memRelease c) s = .next (if (x.maps.any fun m => m.handle == some i) = true then
           (s2.pageWait c.func (.release x.harbour { scope := 1, asid := c.arg 1, va := 0, pages := 0 } o)).pollPage c.func
         else if (tabFind s3.hif.zeroing o).isSome = true then (s3.pageWait c.func (.zero o)).pollPage c.func
         else s3.pageDone c.func 0 0 [])) ∧
      (c.arg 3 < 8 → c.arg 3 &&& y.rights = c.arg 3 →
        (∀ k s1, (s.taken 0x05 c).newToken (.mem o (c.arg 3)) = some (k, s1) →
          exec (.memExport c) s = .next (s1.pageDone c.func 0 0 [w64 k])) ∧
        ((s.taken 0x05 c).newToken (.mem o (c.arg 3)) = none → exec (.memExport c) s = .next ((s.taken 0x05 c).pageDone c.func 4 3 []))) ∧
      exec (.memPin c) s = .next (((s.taken 0x07 c).onHif fun q => { q with
        objs := q.objs.map fun e => if e.1 = o then (o, { e.2 with pins := e.2.pins + 1 }) else e }).pageDone c.func 0 0 []) ∧
      (∀ e, tabFind s.hif.objs o = some e → e.pins ≠ 0 →
        exec (.memUnpin c) s = .next (((s.taken 0x08 c).onHif fun q => { q with
          objs := q.objs.map fun e => if e.1 = o then (o, { e.2 with pins := e.2.pins - 1 }) else e }).pageDone c.func 0 0 []))) ∧
    (∀ o r y, s.token (c.arg 2) = some (.mem o r) → tabFind s.hif.objs o = some y → y.harbour = x.harbour →
      (tabFind s.hif.zeroing o).isSome = false →
      let z := ((s.taken 0x06 c).onHif fun q => { q with objs := tabPut q.objs o { y with refs := y.refs + 1 } }).newHandle (c.arg 1) o r
      (∀ h s1, z = some (h, s1) → exec (.memImport c) s = .next (s1.pageDone c.func 0 0 [w64 h])) ∧
      (z = none → exec (.memImport c) s = .next ((s.taken 0x06 c).pageDone c.func 4 3 []))))

/-- For the owner of a context that is not being torn down, on a free page of a running module, over a link that is up: MAP of
bytes inside a handle's object with no more than its rights, and MAP_HOST of host addresses, map an aligned range that meets
no other, when the tables have room; UNMAP of whole pages clears the leaves and answers when its invalidation ends; BAR_MAP
maps aligned apertures or unmaps those of the handle. FENCE_CREATE with valid operands stores the fence at the lowest free
number and answers a handle that may wait and signal; FENCE_EXPORT answers a token of rights the handle has; FENCE_IMPORT a
handle of the token's rights; these three answer NO_RESOURCE (REASON 3) when there is no handle or token left; FENCE_DESTROY
drops the entry and FENCE_MIRROR sets its mirror. -/
def Obligations.EweasMappingsAndFences : Prop :=
  (∀ c x s, c.func < 128 → s.running = true → (s.link (c.func / 32)).up = true → (s.page c.func).busy = false → s.ctx (c.arg 1) = some x → x.passes c = true →
    x.teardown = 0 →
    (∀ i y o r page z s1, x.handle (c.arg 3) = some (i, y) → y.obj = some o → mapFlags (c.arg 6) = some (r, page) →
      tabFind s.hif.objs o = some z → r &&& y.rights = r → c.arg 4 + c.arg 5 ≤ z.len →
      let m : Mapping := { va := c.arg 2, len := c.arg 5, handle := some i, obj := some o, off := c.arg 4, page := page, rights := r }
      let out := s.lk.nodeId * 2 ^ 52 + z.addr + c.arg 4
      ¬ (m.len = 0 ∨ m.va % pageBytes page ≠ 0 ∨ m.len % pageBytes page ≠ 0 ∨ out % pageBytes page ≠ 0 ∨ 2 ^ x.vaBits < m.va + m.len) →
      (x.maps.any fun y => decide (y.va < m.va + m.len ∧ m.va < y.va + y.len)) = false →
      (s.taken 0x09 c).mapRange (c.arg 1) m out = some s1 → exec (.map c) s = .next (s1.pageDone c.func 0 0 [])) ∧
    (∀ r page s1, mapFlags (c.arg 5) = some (r, page) → c.arg 3 + c.arg 4 ≤ 2 ^ 48 →
      let m : Mapping := { va := c.arg 2, len := c.arg 4, handle := none, obj := none, off := 0, page := page, rights := r }
      let out := s.lk.nodeId * 2 ^ 52 + 7 * 2 ^ 48 + c.arg 3
      ¬ (m.len = 0 ∨ m.va % pageBytes page ≠ 0 ∨ m.len % pageBytes page ≠ 0 ∨ out % pageBytes page ≠ 0 ∨ 2 ^ x.vaBits < m.va + m.len) →
      (x.maps.any fun y => decide (y.va < m.va + m.len ∧ m.va < y.va + y.len)) = false →
      (s.taken 0x0A c).mapRange (c.arg 1) m out = some s1 → exec (.mapHost c) s = .next (s1.pageDone c.func 0 0 [])) ∧
    (¬ (c.arg 2 % 4096 ≠ 0 ∨ c.arg 3 % 4096 ≠ 0 ∨ c.arg 3 = 0 ∨ 2 ^ x.vaBits < c.arg 2 + c.arg 3 ∨ x.cuts (c.arg 2) (c.arg 3) = true) →
      exec (.unmap c) s = .next ((((s.taken 0x0B c).unmapRange (c.arg 1) (c.arg 2) (c.arg 3) fun _ => true).pageWait c.func
        (.inval x.harbour { scope := 0, asid := c.arg 1, va := c.arg 2, pages := c.arg 3 / 4096 })).pollPage c.func)) ∧
    (∀ i y o, x.handle (c.arg 2) = some (i, y) → y.obj = some o → c.arg 3 % 2097152 = 0 →
      (c.arg 5 = 0 → exec (.barMap c) s = .next (((s.taken 0x0C c).putApertures (s.hif.apertures.filter fun p =>
        !(p.1 / 2 ^ 17 == x.func && p.2.1 == c.arg 1 && p.2.2.1 == i))).pageDone c.func 0 0 [])) ∧
      (c.arg 5 ≠ 0 → (c.arg 4 + c.arg 5) * 2097152 ≤ s.bar2Size x.func →
        exec (.barMap c) s = .next (((s.taken 0x0C c).putApertures ((List.range (c.arg 5)).foldl (fun t j =>
          tabPut t (x.func * 2 ^ 17 + c.arg 4 + j) (c.arg 1, i, o, c.arg 3 + j * 2097152)) s.hif.apertures)).pageDone c.func 0 0 []))) ∧
    (let t := s.taken 0x10 c
     let closed := c.arg 2 % 2 == 1
     let sbs : Tab Nat := ((List.range 4).filter fun j => bitsN (c.arg 2) (4 + j) 1 == 1).map fun j => (j, bitsN (c.arg 3) (13 * j) 13)
     let mine (b : Nat) : Bool := (t.berth b).enable && (t.berth b).context == c.arg 1 && (t.berth b).serial
     let fon := lowestFree (2 ^ t.fu.storeLog2) fun f => (t.fence f).isSome
     let f : Fence := { value := wordAt c.args 3, closed := closed, harbour := x.harbour, owner := c.arg 1, refs := 1
                        signallers := if closed then sbs else [] }
     let r := (t.putFence fon f).newFenceEnt (c.arg 1) { fon := fon, wait := true, signal := true, mirrorVa := c.arg 5 }
     ¬ (256 ≤ c.arg 2 ∨ bitsN (c.arg 2) 1 3 ≠ 0 ∨ 2 ^ 52 ≤ c.arg 3 ∨ (closed = true ∧ sbs.isEmpty = true) ∨ (!t.mirrorOk (c.arg 1) (c.arg 5)) = true) →
     (closed = true → (sbs.all fun b => mine b.2) = true) → fon < 2 ^ t.fu.storeLog2 →
     (∀ h s1, r = some (h, s1) → exec (.fenceCreate c) s = .next (s1.pageDone c.func 0 0 [w64 h])) ∧
     (r = none → exec (.fenceCreate c) s = .next (t.pageDone c.func 4 3 []))) ∧
    (∀ k e, s.fenceKey (c.arg 1) (c.arg 2) = some (k, e) →
      (let w := c.arg 3 % 2 == 1
       let g := c.arg 3 / 2 % 2 == 1
       let z := (s.taken 0x11 c).newToken (.fence e.fon w g)
       c.arg 3 < 4 → (w = true → e.wait = true) → (g = true → e.signal = true) →
       (∀ h s1, z = some (h, s1) → exec (.fenceExport c) s = .next (s1.pageDone c.func 0 0 [w64 h])) ∧
       (z = none → exec (.fenceExport c) s = .next ((s.taken 0x11 c).pageDone c.func 4 3 []))) ∧
      exec (.fenceDestroy c) s = .next (((s.taken 0x13 c).dropFenceEnt k e).pageDone c.func 0 0 []) ∧
      (s.mirrorOk (c.arg 1) (c.arg 3) = true → exec (.fenceMirror c) s = .next (((s.taken 0x14 c).onFu fun u => { u with
        space := tabPut u.space k { e with mirrorVa := c.arg 3 } }).pageDone c.func 0 0 []))) ∧
    (∀ fon w g f, s.token (c.arg 2) = some (.fence fon w g) → s.fence fon = some f →
      let z := ((s.taken 0x12 c).putFence fon { f with refs := f.refs + 1 }).newFenceEnt (c.arg 1) { fon := fon, wait := w, signal := g }
      (∀ h s1, z = some (h, s1) → exec (.fenceImport c) s = .next (s1.pageDone c.func 0 0 [w64 h])) ∧
      (z = none → exec (.fenceImport c) s = .next ((s.taken 0x12 c).pageDone c.func 4 3 []))))

/-- On a free page of a running module, by a function whose link is up: BERTH_CREATE of FUNC 0 with its words in range and its
function, PASID and vector the context's enables the lowest free berth and answers it; BERTH_DESTROY of an enabled berth
stops and aborts it and answers once it is idle. For the owner of a context that is not being torn down: EVENT_BIND and
EVENT_UNBIND add and remove a vector; GRAPH_REGISTER of a valid graph image in a pinned object stores the graph and answers
its handle, GRAPH_UNREGISTER marks it and answers once no launch runs it; STATE_CREATE makes a record of an origin at epoch
1, STATE_MOVE raises its epoch and sends MOVE, PHASE_END of a record whose holder is this node stores the phase, of another
waits for the checkpoint, and of one that this node holds for another originator, by FUNC 0, sends it CKPT, and STATE_DESTROY
ends a record once no hand-over runs. -/
def Obligations.EweasBerthsGraphsAndRecords : Prop :=
  (∀ c x s, c.func = 0 → s.running = true → (s.link 0).up = true → (s.page 0).busy = false → s.ctx (c.arg 1) = some x → x.teardown = 0 →
    let t := s.taken 0x18 c
    let img (r : Nat) : Word := wordAt c.args (r + 1)
    let y : Berth := { ([1, 2, 3, 4, 5].foldl (fun b r => b.withCfg r (img r)) (({} : Berth).withCfg0 (img 0))) with
      harbour := x.harbour, context := c.arg 1 }
    let b := lowestFree 8192 fun i => (t.berth i).enable || t.berthBusy i
    let v : Word := w64 (putBits (putBits (img 0).toNat 1 6 x.harbour) 8 16 (c.arg 1))
    let s1 := (t.onBerth b fun _ => y).enableBerth b v
    y.func = x.func → (x.pasidEn = true → y.pasidCheck = true ∧ y.pasid = x.pasid) →
    ¬ (y.log2 < 4 ∨ 16 < y.log2 ∨ (!([1, 2, 3, 4, 5].all fun r => cfgInRange r (img r))) = true) →
    (y.irqMode ≠ 0 → x.events.contains (y.func * 2048 + y.msiVector) = true) → b < 8192 → (s1.berth b).enable = true →
    exec (.berthCreate c) s = .next (s1.pageDone c.func 0 0 [w64 b])) ∧
  (∀ c x s, c.func < 128 → s.running = true → (s.link (c.func / 32)).up = true → (s.page c.func).busy = false → c.arg 1 < 8192 → (s.berth (c.arg 1)).enable = true →
    s.ctx (s.berth (c.arg 1)).context = some x → x.passes c = true → x.teardown = 0 →
    exec (.berthDestroy c) s = .next (((((s.taken 0x19 c).stopBerth (c.arg 1) true).abortBerth (c.arg 1)).pageWait c.func
      (.berth (c.arg 1))).pollPage c.func)) ∧
  (∀ c x s, c.func < 128 → s.running = true → (s.link (c.func / 32)).up = true → (s.page c.func).busy = false → s.ctx (c.arg 1) = some x → x.passes c = true →
    x.teardown = 0 →
    (c.arg 2 < 2048 → exec (.eventBind c) s = .next (((s.taken 0x1A c).onAsid (c.arg 1) fun q => { q with
      events := setIns q.events (c.func * 2048 + c.arg 2) }).pageDone c.func 0 0 [])) ∧
    (c.arg 2 < 2048 → x.events.contains (c.func * 2048 + c.arg 2) = true →
      exec (.eventUnbind c) s = .next (((s.taken 0x1B c).onAsid (c.arg 1) fun q => { q with
        events := setDel q.events (c.func * 2048 + c.arg 2) }).pageDone c.func 0 0 [])) ∧
    (∀ i h o y bs, x.handle (c.arg 2) = some (i, h) → h.obj = some o → tabFind s.hif.objs o = some y → c.arg 3 + 256 ≤ y.len →
      (s.taken 0x20 c).readH y.harbour (y.addr + c.arg 3) 8 = some (bs, false) →
      let t := s.taken 0x20 c
      let w := BitVec.ofNat 64 (leNat bs)
      let n := bits w 0 11
      let j := lowestFree 4096 fun j => match tabFind t.graphs (c.arg 1 * 4096 + j) with | some g => g.valid | none => false
      let k := c.arg 1 * 4096 + j
      let gen := match tabFind t.graphs k with | some g => g.gen + 1 | none => 0
      let g : Graph := { context := c.arg 1, gen := gen, valid := true, obj := o, offset := c.arg 3, nodes := n, exitNode := bits w 16 10
                         curVersion := 1, curSlot := 0, slotVersion := [(0, 1)] }
      let s1 := { t with graphs := tabPut t.graphs k g }
      ¬ (n = 0 ∨ 1024 < n ∨ n ≤ bits w 16 10 ∨ bits w 11 5 ≠ 0 ∨ bits w 26 6 ≠ 0 ∨ bits w 32 32 ≠ 1
        ∨ y.len < c.arg 3 + 256 + 4 * n * 0x440 ∨ (!t.objPinned o) = true ∨ (!t.imageOk g 0) = true) → j < 4096 →
      exec (.graphRegister c) s = .next ((s1.graphWrite g 0 ((s1.graphHeader k g).flatMap wordBytes)).pageDone c.func 0 0
        [w64 (gen.toNat * 2 ^ 24 + j)])) ∧
    (∀ k g, c.arg 2 < 2 ^ 32 → s.graphOf (c.arg 1) (c.arg 2) = some (k, g) → g.unregistering = false →
      exec (.graphUnregister c) s = .next ((State.pageWait c.func (.graph k) { (s.taken 0x21 c) with
        graphs := tabPut s.graphs k { g with unregistering := true } }).pollPage c.func)) ∧
    (let t := s.taken 0x28 c
     let w := wordAt c.args 2
     let id := t.lk.nodeId * 2 ^ 52 + c.arg 2 % 2 ^ 52
     ¬ (2 ^ 52 ≤ c.arg 2 ∨ bits w 12 4 ≠ 0 ∨ bits w 28 36 ≠ 0 ∨ bits w 0 12 = bits w 16 12 ∨ 2 ^ 40 ≤ c.arg 6) → t.own id = none →
     t.ownRoom = true → exec (.stateCreate c) s = .next ((t.putOwn id {
       epoch := 1, token := .origin, holder := bits w 0 12, ckptNode := bits w 16 12, leaseLeft := t.lk.leaseTides
       stateAddr := wordAt c.args 3, ckptAddr := wordAt c.args 4, len := c.arg 6, context := c.arg 1 }).pageDone c.func 0 0 [])) ∧
    (∀ o, s.own (c.arg 2) = some o → o.token = .held → c.func = 0 → c.arg 3 < 2 ^ 24 →
      exec (.phaseEnd c) s = .next (((s.taken 0x2A c).putOwn (c.arg 2) { o with ckptPending := some 0 }).sendOwn (originatorOf (c.arg 2))
        { o.msg (c.arg 2) 10 with epoch := o.heldEpoch, phase := c.arg 3, addr := wordAt c.args 3 })) ∧
    (∀ o, s.own (c.arg 2) = some o → o.token = .origin → o.context = c.arg 1 →
      (let o1 := { o with epoch := o.epoch + 1, peer := c.arg 3, wait := 0, movePending := some c.func }
       c.arg 3 < 4095 → c.arg 3 ≠ o.holder → o.peer = 0xFFF →
       exec (.stateMove c) s = .next (((s.taken 0x29 c).putOwn (c.arg 2) o1).sendOwn o.holder (o1.msg (c.arg 2) 0))) ∧
      (c.arg 3 < 2 ^ 24 → o.holder = s.lk.nodeId →
        exec (.phaseEnd c) s = .next (((s.taken 0x2A c).putOwn (c.arg 2) { o with
          phase := c.arg 3, ckptAddr := wordAt c.args 3 }).pageDone c.func 0 0 [])) ∧
      (c.arg 3 < 2 ^ 24 → o.holder ≠ s.lk.nodeId →
        exec (.phaseEnd c) s = .next ((s.taken 0x2A c).putOwn (c.arg 2) { o with ckptPending := some c.func })) ∧
      exec (.stateDestroy c) s = .next (((s.taken 0x2B c).pageWait c.func (.state (c.arg 2))).pollPage c.func)))
end

