-- ==== Sys2Proof/Laws/Memory.lean ====
section
/-! SUPPORT. Every operation on stored bytes keeps the canonical form of memory. -/
namespace Sys2Proof.Laws
open Sys2Proof Sys2Proof.Machine

theorem mem_tabDel {α : Type} {t : Tab α} {k : Nat} {x : Nat × α} (h : x ∈ tabDel t k) : x ∈ t := by
  induction t with
  | nil => exact h
  | cons y t ih =>
    obtain ⟨j, w⟩ := y
    simp only [tabDel] at h
    split at h
    · exact List.mem_cons_of_mem _ h
    · rcases List.mem_cons.1 h with h | h
      · exact h ▸ List.mem_cons_self
      · exact List.mem_cons_of_mem _ (ih h)

theorem mem_tabPut {α : Type} {t : Tab α} {k : Nat} {v : α} {x : Nat × α} (h : x ∈ tabPut t k v) : x = (k, v) ∨ x ∈ t := by
  induction t with
  | nil => exact .inl (by simpa [tabPut] using h)
  | cons y t ih =>
    obtain ⟨j, w⟩ := y
    simp only [tabPut] at h
    split at h
    · simpa using h
    · split at h
      · rcases List.mem_cons.1 h with h | h
        · exact .inl h
        · exact .inr (List.mem_cons_of_mem _ h)
      · rcases List.mem_cons.1 h with h | h
        · exact .inr (h ▸ List.mem_cons_self)
        · exact (ih h).imp_right (List.mem_cons_of_mem _)

theorem tabDel_rising {α : Type} {t : Tab α} (k : Nat) (h : t.Pairwise fun x y => x.1 < y.1) :
    (tabDel t k).Pairwise fun x y => x.1 < y.1 := by
  induction t with
  | nil => exact h
  | cons y t ih =>
    obtain ⟨j, w⟩ := y
    simp only [tabDel]
    rw [List.pairwise_cons] at h
    split
    · exact h.2
    · exact List.pairwise_cons.2 ⟨fun x hx => h.1 x (mem_tabDel hx), ih h.2⟩

theorem tabPut_rising {α : Type} {t : Tab α} (k : Nat) (v : α) (h : t.Pairwise fun x y => x.1 < y.1) :
    (tabPut t k v).Pairwise fun x y => x.1 < y.1 := by
  induction t with
  | nil => simp [tabPut]
  | cons y t ih =>
    obtain ⟨j, w⟩ := y
    simp only [tabPut]
    have h0 := List.pairwise_cons.1 h
    split
    · rename_i hk
      exact List.pairwise_cons.2 ⟨fun x hx => by
        rcases List.mem_cons.1 hx with hx | hx
        · exact hx ▸ hk
        · exact Nat.lt_trans hk (h0.1 x hx), h⟩
    · split
      · rename_i hk
        exact List.pairwise_cons.2 ⟨fun x hx => hk ▸ h0.1 x hx, h0.2⟩
      · rename_i hk hj
        refine List.pairwise_cons.2 ⟨fun x hx => ?_, ih h0.2⟩
        rcases mem_tabPut hx with hx | hx
        · subst hx; show j < k; omega
        · exact h0.1 x hx

theorem cellsWf_tabPut {t : List Host.Cell} (k : Nat) {v : Byte} (h : cellsWf t) (hv : v ≠ 0) : cellsWf (tabPut t k v) :=
  ⟨tabPut_rising k v h.1, fun x hx => (mem_tabPut hx).elim (fun e => e ▸ hv) (h.2 x)⟩

/-- Writing one byte keeps the canonical form. -/
theorem cellsWf_tabSet {t : List Host.Cell} (k : Nat) (v : Byte) (h : cellsWf t) : cellsWf (tabSet 0 t k v) := by
  unfold tabSet
  split
  · exact ⟨tabDel_rising k h.1, fun x hx => h.2 x (mem_tabDel hx)⟩
  · exact cellsWf_tabPut k h ‹_›

/-- Writing bytes keeps the canonical form: of a channel, a hold or a local store. -/
theorem cellsWf_putBytes (ds : List Byte) {t : List Host.Cell} (k : Nat) (h : cellsWf t) : cellsWf (putBytes t k ds) := by
  induction ds generalizing t k with
  | nil => exact h
  | cons d ds ih => exact ih (k + 1) (cellsWf_tabSet k d h)

theorem cellsWf_filter {t : List Host.Cell} (p : Host.Cell → Bool) (h : cellsWf t) : cellsWf (t.filter p) :=
  ⟨h.1.filter p, fun x hx => h.2 x ((List.mem_filter.1 hx).1)⟩

theorem mem_setIns {t : NSet} {k x : Nat} : x ∈ setIns t k ↔ x = k ∨ x ∈ t := by
  induction t with
  | nil => simp [setIns]
  | cons j t ih =>
    simp only [setIns]
    split
    · simp
    · split
      · rename_i h; subst h; simp
      · simp only [List.mem_cons, ih]; exact or_left_comm

theorem setIns_rising {t : NSet} (k : Nat) (h : setWf t) : setWf (setIns t k) := by
  induction t with
  | nil => simp [setIns]
  | cons j t ih =>
    simp only [setIns]
    have h0 := List.pairwise_cons.1 h
    split
    · rename_i hk
      refine List.pairwise_cons.2 ⟨fun x hx => ?_, h⟩
      rcases List.mem_cons.1 hx with hx | hx
      · exact hx ▸ hk
      · exact Nat.lt_trans hk (h0.1 x hx)
    · split
      · exact h
      · refine List.pairwise_cons.2 ⟨fun x hx => ?_, ih h0.2⟩
        rcases mem_setIns.1 hx with hx | hx
        · omega
        · exact h0.1 x hx

theorem mem_setInsRange {t : NSet} {k n x : Nat} : x ∈ setInsRange t k n ↔ (k ≤ x ∧ x < k + n) ∨ x ∈ t := by
  induction n generalizing t with
  | zero => simp only [setInsRange]; constructor
            · exact .inr
            · rintro (h | h)
              · omega
              · exact h
  | succ n ih =>
    rw [setInsRange, ih, mem_setIns]
    by_cases h : x = k + n
    · subst h; simp
    · simp only [h, false_or]
      constructor
      · rintro (h1 | h1)
        · exact .inl ⟨h1.1, by omega⟩
        · exact .inr h1
      · rintro (h1 | h1)
        · exact .inl ⟨h1.1, by omega⟩
        · exact .inr h1

theorem mem_setInsRange_right {t : NSet} {k n x : Nat} (h : x ∈ t) : x ∈ setInsRange t k n := mem_setInsRange.2 (.inr h)

theorem mem_setInsRange_mono {t u : NSet} {k n x : Nat} (h : x ∈ t → x ∈ u) (hx : x ∈ setInsRange t k n) :
    x ∈ setInsRange u k n := mem_setInsRange.2 ((mem_setInsRange.1 hx).imp_right h)

theorem setInsRange_rising {t : NSet} (k n : Nat) (h : setWf t) : setWf (setInsRange t k n) := by
  induction n generalizing t with
  | zero => exact h
  | succ n ih => exact ih (setIns_rising _ h)

theorem mem_setDel {t : NSet} {k x : Nat} (h : x ∈ setDel t k) : x ∈ t := by
  induction t with
  | nil => exact h
  | cons j t ih =>
    simp only [setDel] at h
    split at h
    · exact List.mem_cons_of_mem _ h
    · rcases List.mem_cons.1 h with h | h
      · exact h ▸ List.mem_cons_self
      · exact List.mem_cons_of_mem _ (ih h)

theorem setDel_rising {t : NSet} (k : Nat) (h : setWf t) : setWf (setDel t k) := by
  induction t with
  | nil => exact h
  | cons j t ih =>
    simp only [setDel]
    have h0 := List.pairwise_cons.1 h
    split
    · exact h0.2
    · exact List.pairwise_cons.2 ⟨fun x hx => h0.1 x (mem_setDel hx), ih h0.2⟩

theorem mem_setDelRange {t : NSet} {k n x : Nat} : x ∈ setDelRange t k n ↔ x ∈ t ∧ (x < k ∨ k + n ≤ x) := by
  simp [setDelRange, List.mem_filter]

theorem setDelRange_rising {t : NSet} (k n : Nat) (h : setWf t) : setWf (setDelRange t k n) := h.filter _

theorem mem_putBytes (ds : List Byte) {t : List Host.Cell} {k : Nat} {x : Host.Cell} (h : x ∈ putBytes t k ds) :
    x ∈ t ∨ (k ≤ x.1 ∧ x.1 < k + ds.length) := by
  induction ds generalizing t k with
  | nil => exact .inl h
  | cons d ds ih =>
    rcases ih h with h | h
    · unfold tabSet at h
      split at h
      · exact .inl (mem_tabDel h)
      · rcases mem_tabPut h with h | h
        · subst h; exact .inr ⟨Nat.le_refl _, by simp⟩
        · exact .inl h
    · exact .inr ⟨by omega, by simp only [List.length_cons]; omega⟩

/-- A granule that a write's poison marks is one the write touches, or was poisoned before. -/
theorem poisonAfter_mem {t : NSet} {k n : Nat} {p : Bool} {g : Nat} (h : g ∈ poisonAfter t k n p) :
    g ∈ t ∨ (k / 64 ≤ g ∧ g < (k + n + 63) / 64) := by
  have key : ∀ (gs : List Nat) (t : NSet), g ∈ gs.foldl (fun t g =>
      if p then setIns t g
      else if k ≤ g * 64 ∧ g * 64 + 64 ≤ k + n then setDel t g else t) t → g ∈ t ∨ g ∈ gs := by
    intro gs
    induction gs with
    | nil => intro t h; exact .inl h
    | cons y gs ih =>
      intro t h
      rcases ih _ h with h | h
      · dsimp only at h
        split at h
        · rcases mem_setIns.1 h with h | h
          · exact .inr (h ▸ List.mem_cons_self)
          · exact .inl h
        · by_cases hb : k ≤ y * 64 ∧ y * 64 + 64 ≤ k + n
          · exact .inl (mem_setDel (by simpa [hb] using h))
          · exact .inl (by simpa [hb] using h)
      · exact .inr (List.mem_cons_of_mem _ h)
  rcases key _ _ h with h | h
  · exact .inl h
  · right
    simp only [List.mem_map, List.mem_range] at h
    omega

theorem poisonAfter_rising {t : NSet} (k n : Nat) (p : Bool) (h : setWf t) : setWf (poisonAfter t k n p) := by
  have key : ∀ (gs : List Nat) (t : NSet), setWf t → setWf (gs.foldl (fun t g =>
      if p then setIns t g
      else if k ≤ g * 64 ∧ g * 64 + 64 ≤ k + n then setDel t g else t) t) := by
    intro gs
    induction gs with
    | nil => intro t h; exact h
    | cons y gs ih =>
      intro t h
      apply ih
      dsimp only
      cases p
      · by_cases hb : k ≤ y * 64 ∧ y * 64 + 64 ≤ k + n
        · simpa [hb] using setDel_rising y h
        · simpa [hb] using h
      · simpa using setIns_rising y h
  exact key _ _ h

theorem natBytes_length (n v : Nat) : (natBytes n v).length = n := by
  unfold natBytes
  simp

/-- The form speaks of the bytes, the written granules and the poison only. -/
theorem wf_congr {m n : Memory} (h : m.wf) (hb : n.bytes = m.bytes) (hw : n.written = m.written) (hp : n.poison = m.poison) : n.wf := by
  unfold Memory.wf at h ⊢
  rw [hb, hw, hp]
  exact h

/-- Bytes put inside granules that become written keep the form, with poison that stays inside what is written. -/
theorem wf_put {m n : Memory} (k g c : Nat) (data : List Byte) (h : m.wf) (hb : n.bytes = putBytes m.bytes k data)
    (hw : n.written = setInsRange m.written g c) (hk : ∀ i, k ≤ i → i < k + data.length → g ≤ i / 64 ∧ i / 64 < g + c)
    (hr : setWf n.poison) (hp : ∀ x ∈ n.poison, x ∈ m.poison ∨ (g ≤ x ∧ x < g + c)) : n.wf := by
  obtain ⟨h1, h2, h3, h4, h5⟩ := h
  unfold Memory.wf
  rw [hb, hw]
  refine ⟨cellsWf_putBytes _ _ h1, setInsRange_rising _ _ h2, hr, fun x hx => ?_, fun x hx => ?_⟩
  · exact mem_setInsRange.2 ((mem_putBytes _ hx).elim (fun h => .inr (h4 x h)) fun h => .inl (hk x.1 h.1 h.2))
  · exact mem_setInsRange.2 ((hp x hx).elim (fun h => .inr (h5 x h)) .inl)

/-- A write to a channel keeps the form of memory. -/
theorem hbmStore_wf (c b : Nat) (data : List Byte) (p : Bool) (s : State) (h : s.mem.wf) : (s.hbmStore c b data p).mem.wf := by
  have key : ∀ d, Memory.wf { s.mem with
      bytes := putBytes s.mem.bytes (byteKey c b) data
      written := setInsRange s.mem.written (byteKey c b / 64) ((byteKey c b + data.length + 63) / 64 - byteKey c b / 64)
      poison := poisonAfter s.mem.poison (byteKey c b) data.length p
      damage := d } := fun d =>
    wf_put (byteKey c b) _ _ data h rfl rfl (fun i h1 h2 => by omega) (poisonAfter_rising _ _ _ h.2.2.1) fun x hx =>
      (poisonAfter_mem hx).imp_right fun h => by omega
  unfold State.hbmStore
  split
  · exact h
  · dsimp only
    split
    · exact key _
    · exact wf_congr (key []) rfl rfl rfl

/-- Clearing written-bits keeps the form of memory. -/
theorem hbmClear_wf (c b n : Nat) (s : State) (h : s.mem.wf) : (s.hbmClear c b n).mem.wf := by
  have key : ∀ m : Memory, m.bytes = s.mem.bytes.filter (fun x => decide (x.1 < byteKey c b / 64 * 64 ∨ (byteKey c b + n + 63) / 64 * 64 ≤ x.1)) →
      m.written = setDelRange s.mem.written (byteKey c b / 64) ((byteKey c b + n + 63) / 64 - byteKey c b / 64) →
      m.poison = setDelRange s.mem.poison (byteKey c b / 64) ((byteKey c b + n + 63) / 64 - byteKey c b / 64) → m.wf := by
    intro m hb hw hp
    obtain ⟨h1, h2, h3, h4, h5⟩ := h
    unfold Memory.wf
    rw [hb, hw, hp]
    refine ⟨cellsWf_filter _ h1, setDelRange_rising _ _ h2, setDelRange_rising _ _ h3, fun x hx => ?_, fun g hg => ?_⟩
    · have hx' := List.mem_filter.1 hx
      have h0 := of_decide_eq_true hx'.2
      exact mem_setDelRange.2 ⟨h4 x hx'.1, by omega⟩
    · obtain ⟨ha, hb⟩ := mem_setDelRange.1 hg
      exact mem_setDelRange.2 ⟨h5 g ha, hb⟩
  unfold State.hbmClear
  dsimp only
  split
  · exact key _ rfl rfl rfl
  · exact key _ rfl rfl rfl

/-- Marking a codeword uncorrectable keeps the form of memory (R377). -/
theorem markCodeword_wf (c cw : Nat) (s : State) (h : s.mem.wf) : (s.markCodeword c cw).mem.wf := by
  have hl : (s.arrayBytes c cw).length = 1024 := natBytes_length _ _
  unfold State.markCodeword
  generalize s.arrayBytes c cw = ds at hl ⊢
  dsimp only
  simp only [State.onChan_mem, State.onMem_mem]
  refine wf_put (byteKey c (cw * 1024)) (granule c (cw * 1024)) 16 ds h (by dsimp only) (by dsimp only) (fun i h1 h2 => ?_)
    (setInsRange_rising _ _ h.2.2.1) fun x hx => (mem_setInsRange.1 hx).symm
  rw [hl] at h2
  simp only [byteKey, granule] at *
  omega

theorem cellsWf_foldPut (mv : Nat → Nat) (xs : List Host.Cell) {t : List Host.Cell} (h : cellsWf t) (hx : ∀ x ∈ xs, x.2 ≠ 0) :
    cellsWf (xs.foldl (fun t c => tabPut t (mv c.1) c.2) t) := by
  induction xs generalizing t with
  | nil => exact h
  | cons x xs ih =>
    exact ih (cellsWf_tabPut _ h (hx x List.mem_cons_self)) fun y hy => hx y (List.mem_cons_of_mem _ hy)

theorem mem_foldPut (mv : Nat → Nat) (xs : List Host.Cell) {t : List Host.Cell} {y : Host.Cell}
    (h : y ∈ xs.foldl (fun t c => tabPut t (mv c.1) c.2) t) : y ∈ t ∨ ∃ x ∈ xs, y = (mv x.1, x.2) := by
  induction xs generalizing t with
  | nil => exact .inl h
  | cons x xs ih =>
    rcases ih h with h | ⟨z, hz, e⟩
    · rcases mem_tabPut h with h | h
      · exact .inr ⟨x, List.mem_cons_self, h⟩
      · exact .inl h
    · exact .inr ⟨z, List.mem_cons_of_mem _ hz, e⟩

theorem foldIns_rising (mg : Nat → Nat) (xs : NSet) {t : NSet} (h : setWf t) :
    setWf (xs.foldl (fun t g => setIns t (mg g)) t) := by
  induction xs generalizing t with
  | nil => exact h
  | cons x xs ih => exact ih (setIns_rising _ h)

theorem mem_foldIns (mg : Nat → Nat) (xs : NSet) {t : NSet} {y : Nat} :
    y ∈ xs.foldl (fun t g => setIns t (mg g)) t ↔ y ∈ t ∨ ∃ x ∈ xs, y = mg x := by
  induction xs generalizing t with
  | nil => simp
  | cons x xs ih =>
    simp only [List.foldl_cons, ih, mem_setIns, List.mem_cons, exists_eq_or_imp]
    constructor
    · rintro ((h | h) | h)
      · exact .inr (.inl h)
      · exact .inl h
      · exact .inr (.inr h)
    · rintro (h | h | h)
      · exact .inl (.inr h)
      · exact .inl (.inl h)
      · exact .inr h

/-- Copying a channel's bytes, written granules and poison to another channel keeps the form of memory (R348). -/
theorem wf_copied (a b : Nat) (m : Memory) (h : m.wf) : Memory.wf { m with
    bytes := (m.bytes.filter fun c => decide (byteKey a 0 ≤ c.1 ∧ c.1 < byteKey (a + 1) 0)).foldl
      (fun t c => tabPut t (byteKey b 0 + (c.1 - byteKey a 0)) c.2) m.bytes
    written := (m.written.filter fun g => decide (byteKey a 0 / 64 ≤ g ∧ g < byteKey (a + 1) 0 / 64)).foldl
      (fun t g => setIns t (byteKey b 0 / 64 + (g - byteKey a 0 / 64))) m.written
    poison := (m.poison.filter fun g => decide (byteKey a 0 / 64 ≤ g ∧ g < byteKey (a + 1) 0 / 64)).foldl
      (fun t g => setIns t (byteKey b 0 / 64 + (g - byteKey a 0 / 64))) m.poison } := by
  obtain ⟨h1, h2, h3, h4, h5⟩ := h
  refine ⟨cellsWf_foldPut (fun k => byteKey b 0 + (k - byteKey a 0)) _ h1 fun x hx => h1.2 x (List.mem_filter.1 hx).1,
    foldIns_rising (fun g => byteKey b 0 / 64 + (g - byteKey a 0 / 64)) _ h2,
    foldIns_rising (fun g => byteKey b 0 / 64 + (g - byteKey a 0 / 64)) _ h3,
    fun y hy => ?_, fun g hg => ?_⟩
  · rcases mem_foldPut (fun k => byteKey b 0 + (k - byteKey a 0)) _ hy with hy | ⟨x, hx, rfl⟩
    · exact (mem_foldIns (fun g => byteKey b 0 / 64 + (g - byteKey a 0 / 64)) _).2 (.inl (h4 y hy))
    · have hx' := List.mem_filter.1 hx
      have hk := of_decide_eq_true hx'.2
      refine (mem_foldIns (fun g => byteKey b 0 / 64 + (g - byteKey a 0 / 64)) _).2 (.inr ⟨x.1 / 64, List.mem_filter.2 ⟨h4 x hx'.1, decide_eq_true ?_⟩, ?_⟩)
      · simp only [byteKey] at hk ⊢; omega
      · simp only [byteKey] at hk ⊢; omega
  · rcases (mem_foldIns (fun g => byteKey b 0 / 64 + (g - byteKey a 0 / 64)) _).1 hg with hg | ⟨x, hx, rfl⟩
    · exact (mem_foldIns (fun g => byteKey b 0 / 64 + (g - byteKey a 0 / 64)) _).2 (.inl (h5 g hg))
    · have hx' := List.mem_filter.1 hx
      exact (mem_foldIns (fun g => byteKey b 0 / 64 + (g - byteKey a 0 / 64)) _).2 (.inr ⟨x, List.mem_filter.2 ⟨h5 x hx'.1, hx'.2⟩, rfl⟩)

/-! Reading after writing -/

theorem tabFind_tabDel_same {α : Type} (t : Tab α) (k : Nat) (h : t.Pairwise fun x y => x.1 < y.1) : tabFind (tabDel t k) k = none := by
  induction t with
  | nil => rfl
  | cons y t ih =>
    obtain ⟨j, w⟩ := y
    have h0 := List.pairwise_cons.1 h
    simp only [tabDel]
    split
    · rename_i hk
      clear ih
      have : ∀ (t : Tab α), (∀ x ∈ t, k < x.1) → tabFind t k = none := by
        intro t
        induction t with
        | nil => intro _; rfl
        | cons z t ih2 =>
          intro hz
          obtain ⟨a, b⟩ := z
          have := hz (a, b) List.mem_cons_self
          simp only [tabFind]
          rw [if_neg (by simp at this; omega)]
          exact ih2 fun x hx => hz x (List.mem_cons_of_mem _ hx)
      exact this t fun x hx => hk ▸ h0.1 x hx
    · rename_i hk
      simp only [tabFind]
      rw [if_neg (by omega)]
      exact ih h0.2

theorem tabFind_tabDel_other {α : Type} (t : Tab α) (k i : Nat) (h : i ≠ k) : tabFind (tabDel t k) i = tabFind t i := by
  induction t with
  | nil => rfl
  | cons y t ih =>
    obtain ⟨j, w⟩ := y
    simp only [tabDel]
    split
    · rename_i hk
      simp only [tabFind]
      rw [if_neg (by omega)]
    · simp only [tabFind]; split
      · rfl
      · exact ih

theorem tabGet_tabSet_same (t : List Host.Cell) (k : Nat) (v : Byte) (h : cellsWf t) : tabGet 0 (tabSet 0 t k v) k = v := by
  simp only [tabSet]
  split
  · rename_i hv; simp [tabGet, tabFind_tabDel_same t k h.1, hv]
  · simp

theorem tabGet_tabSet_other (t : List Host.Cell) (k i : Nat) (v : Byte) (h : i ≠ k) : tabGet 0 (tabSet 0 t k v) i = tabGet 0 t i := by
  simp only [tabSet]
  split
  · simp only [tabGet, tabFind_tabDel_other t k i h]
  · exact tabGet_tabPut_other _ _ _ _ _ h

theorem putBytes_other (ds : List Byte) : ∀ (t : List Host.Cell) (k i : Nat), (i < k ∨ k + ds.length ≤ i) → tabGet 0 (putBytes t k ds) i = tabGet 0 t i := by
  induction ds with
  | nil => intro t k i _; rfl
  | cons d ds ih =>
    intro t k i h
    simp only [List.length_cons] at h
    simp only [putBytes]
    rw [ih _ _ _ (by omega), tabGet_tabSet_other _ _ _ _ (by omega)]

theorem putBytes_same (ds : List Byte) : ∀ (t : List Host.Cell) (k i : Nat) (hi : i < ds.length), cellsWf t →
    tabGet 0 (putBytes t k ds) (k + i) = ds[i] := by
  induction ds with
  | nil => intro t k i hi; exact absurd hi (by simp)
  | cons d ds ih =>
    intro t k i hi hw
    simp only [putBytes]
    cases i with
    | zero =>
      rw [putBytes_other _ _ _ _ (by omega)]
      exact tabGet_tabSet_same _ _ _ hw
    | succ i =>
      have := ih (tabSet 0 t k d) (k + 1) i (by simpa using hi) (cellsWf_tabSet k d hw)
      rw [show k + (i + 1) = k + 1 + i by omega]
      simpa using this

theorem tabFind_mem {α : Type} (t : Tab α) (k : Nat) (v : α) (h : tabFind t k = some v) : (k, v) ∈ t := by
  induction t with
  | nil => simp [tabFind] at h
  | cons y t ih =>
    obtain ⟨j, w⟩ := y
    simp only [tabFind] at h
    split at h
    · rename_i hk; cases h; subst hk; exact List.mem_cons_self
    · exact List.mem_cons_of_mem _ (ih h)

end Sys2Proof.Laws
end

