-- ==== Sys2Proof/Laws/Keep.lean ====
section
/-! SUPPORT. What no operation of the module undoes: the part and its fused facts, the queue of commands, the canonical
form of memory, the fused floor. -/
namespace Sys2Proof.Laws
open Sys2Proof Sys2Proof.Machine

/-- `b` comes from `a` by operations that keep what the part fixes, the commands that wait and the form of memory, and blow
fuses only. -/
structure Keep (a b : State) : Prop where
  part : b.part = a.part
  disabled : b.disabled = a.disabled
  uid : b.uid = a.uid
  formats : b.formats = a.formats
  frenor : b.frenor = a.frenor
  pending : b.pending = a.pending
  mem : a.mem.wf → b.mem.wf
  floor : a.boot.floor ≤ b.boot.floor

theorem Keep.refl (a : State) : Keep a a := ⟨rfl, rfl, rfl, rfl, rfl, rfl, id, Nat.le_refl _⟩

theorem Keep.trans {a b c : State} (h : Keep a b) (k : Keep b c) : Keep a c :=
  ⟨k.part.trans h.part, k.disabled.trans h.disabled, k.uid.trans h.uid, k.formats.trans h.formats, k.frenor.trans h.frenor,
    k.pending.trans h.pending, fun w => k.mem (h.mem w), Nat.le_trans h.floor k.floor⟩

/-- A record update of the state that leaves these alone. -/
theorem Keep.mk' {a x : State} {tide places tiles clusters hmst berths fu graphs hbm mills scans mergeHalves m xl rg lk pw ras sec
    hif b crc pins out freeTick} (h : Keep a x) (hm : x.mem.wf → m.wf) (hb : x.boot.floor ≤ b.floor) :
    Keep a (State.mk x.part x.disabled x.uid x.formats x.frenor tide places tiles clusters hmst berths fu graphs hbm mills scans
      mergeHalves m xl rg lk pw ras sec hif b crc pins out freeTick x.pending) :=
  h.trans ⟨rfl, rfl, rfl, rfl, rfl, rfl, hm, hb⟩

theorem Keep.onMem {a s : State} {f : Memory → Memory} (h : Keep a s) (hf : s.mem.wf → (f s.mem).wf) : Keep a (s.onMem f) :=
  h.mk' hf (Nat.le_refl _)

theorem Keep.onBoot {a s : State} {f : Boot → Boot} (h : Keep a s) (hf : s.boot.floor ≤ (f s.boot).floor) : Keep a (s.onBoot f) :=
  h.mk' id hf

theorem Keep.foldl {α : Type} {a : State} {f : State → α → State} (hf : ∀ s x, Keep a s → Keep a (f s x)) (xs : List α) {s : State}
    (h : Keep a s) : Keep a (xs.foldl f s) := by
  induction xs generalizing s with
  | nil => exact h
  | cons x xs ih => exact ih (hf s x h)

theorem Keep.foldState {α : Type} {a s : State} {xs : List α} {f : State → α → State} (h : Keep a s)
    (hf : ∀ s x, Keep a s → Keep a (f s x)) : Keep a (foldState xs f s) := Keep.foldl hf xs h

theorem Keep.hbmStore {a s : State} {c b data p} (h : Keep a s) : Keep a (s.hbmStore c b data p) := by
  have w := hbmStore_wf c b data p s
  unfold State.hbmStore at w ⊢
  dsimp only at w ⊢
  split
  · exact h
  · next e =>
    rw [if_neg e] at w
    split
    · next e =>
      rw [if_pos e] at w
      exact h.trans ⟨rfl, rfl, rfl, rfl, rfl, rfl, w, Nat.le_refl _⟩
    · next e =>
      rw [if_neg e] at w
      exact h.trans ⟨rfl, rfl, rfl, rfl, rfl, rfl, w, Nat.le_refl _⟩

theorem Keep.hbmClear {a s : State} {c b n} (h : Keep a s) : Keep a (s.hbmClear c b n) := by
  have w := hbmClear_wf c b n s
  unfold State.hbmClear at w ⊢
  dsimp only at w ⊢
  split
  · next e =>
    rw [if_pos e] at w
    exact h.trans ⟨rfl, rfl, rfl, rfl, rfl, rfl, w, Nat.le_refl _⟩
  · next e =>
    rw [if_neg e] at w
    exact h.trans ⟨rfl, rfl, rfl, rfl, rfl, rfl, w, Nat.le_refl _⟩

theorem Keep.markCodeword {a s : State} {c cw} (h : Keep a s) : Keep a (s.markCodeword c cw) := by
  have w := markCodeword_wf c cw s
  unfold State.markCodeword at w ⊢
  generalize s.arrayBytes c cw = ds at w ⊢
  exact h.trans ⟨rfl, rfl, rfl, rfl, rfl, rfl, w, Nat.le_refl _⟩

theorem Keep.foldlSnd {α β : Type} {a : State} {f : β × State → α → β × State} (hf : ∀ y x, Keep a y.2 → Keep a (f y x).2)
    (xs : List α) {y : β × State} (h : Keep a y.2) : Keep a (xs.foldl f y).2 := by
  induction xs generalizing y with
  | nil => exact h
  | cons x xs ih => exact ih (hf y x h)

theorem Keep.foldlFst {α β : Type} {a : State} {f : State × β → α → State × β} (hf : ∀ y x, Keep a y.1 → Keep a (f y x).1)
    (xs : List α) {y : State × β} (h : Keep a y.1) : Keep a (xs.foldl f y).1 := by
  induction xs generalizing y with
  | nil => exact h
  | cons x xs ih => exact ih (hf y x h)

theorem Keep.snd {α : Type} {a t : State} {p : α × State} {x : α} (e : p = (x, t)) (h : Keep a p.2) : Keep a t := by
  rw [e] at h
  exact h

theorem Keep.getD {a s : State} {o : Option State} (ho : ∀ t, o = some t → Keep a t) (h : Keep a s) : Keep a (o.getD s) := by
  cases o with
  | none => exact h
  | some t => exact ho t rfl

theorem Keep.done {a s : State} (h : Keep a s) : ∀ t, done s = .next t → Keep a t := by
  intro t e
  cases e
  exact h

/-- A command of a unit with a clock keeps what its effect keeps (R611). -/
theorem Keep.clocked {a s u : State} (h : Keep a s) (hu : Keep a u) : ∀ t, s.clocked u = .next t → Keep a t := by
  intro t e
  unfold State.clocked at e
  split at e
  · cases e
    exact h
  · cases e
    exact hu

theorem Keep.ite {a x y : State} {c : Prop} [Decidable c] (hx : Keep a x) (hy : Keep a y) : Keep a (if c then x else y) := by
  split
  · exact hx
  · exact hy

/-- Memory with nothing stored is in its form. -/
theorem wf_empty {m : Memory} (hb : m.bytes = []) (hw : m.written = []) (hp : m.poison = []) : m.wf := by
  unfold Memory.wf
  rw [hb, hw, hp]
  refine ⟨⟨List.Pairwise.nil, ?_⟩, List.Pairwise.nil, List.Pairwise.nil, ?_, ?_⟩ <;> intro _ h <;> cases h

end Sys2Proof.Laws
end

