-- ==== Sys2Proof/Laws/KeepOps.lean ====
section
/-! SUPPORT. What the operations of Machine/Ops.lean keep. -/
namespace Sys2Proof.Laws
open Sys2Proof Sys2Proof.Machine

theorem keep_onTide {a : State} {x1 : Tide → Tide} {s : State} (h : Keep a s) :
    Keep a (State.onTide x1 s) := by
  unfold State.onTide
  try dsimp only
  repeat' (first
    | with_reducible (first
      | assumption)
    | (split) | (refine Keep.mk' ?_ (fun h => h) (Nat.le_refl _)))

theorem keep_onHm {a : State} {x1 : Hm → Hm} {s : State} (h : Keep a s) :
    Keep a (State.onHm x1 s) := by
  unfold State.onHm
  try dsimp only
  repeat' (first
    | with_reducible (first
      | assumption)
    | (split) | (refine Keep.mk' ?_ (fun h => h) (Nat.le_refl _)))

theorem keep_onFu {a : State} {x1 : FenceUnit → FenceUnit} {s : State} (h : Keep a s) :
    Keep a (State.onFu x1 s) := by
  unfold State.onFu
  try dsimp only
  repeat' (first
    | with_reducible (first
      | assumption)
    | (split) | (refine Keep.mk' ?_ (fun h => h) (Nat.le_refl _)))

theorem keep_onHb {a : State} {x1 : HarbourMap → HarbourMap} {s : State} (h : Keep a s) :
    Keep a (State.onHb x1 s) := by
  unfold State.onHb
  try dsimp only
  repeat' (first
    | with_reducible (first
      | assumption)
    | (split) | (refine Keep.mk' ?_ (fun h => h) (Nat.le_refl _)))

theorem keep_onXl {a : State} {x1 : Xlate → Xlate} {s : State} (h : Keep a s) :
    Keep a (State.onXl x1 s) := by
  unfold State.onXl
  try dsimp only
  repeat' (first
    | with_reducible (first
      | assumption)
    | (split) | (refine Keep.mk' ?_ (fun h => h) (Nat.le_refl _)))

theorem keep_onRg {a : State} {x1 : Regul → Regul} {s : State} (h : Keep a s) :
    Keep a (State.onRg x1 s) := by
  unfold State.onRg
  try dsimp only
  repeat' (first
    | with_reducible (first
      | assumption)
    | (split) | (refine Keep.mk' ?_ (fun h => h) (Nat.le_refl _)))

theorem keep_onLk {a : State} {x1 : Links → Links} {s : State} (h : Keep a s) :
    Keep a (State.onLk x1 s) := by
  unfold State.onLk
  try dsimp only
  repeat' (first
    | with_reducible (first
      | assumption)
    | (split) | (refine Keep.mk' ?_ (fun h => h) (Nat.le_refl _)))

theorem keep_onPw {a : State} {x1 : Power → Power} {s : State} (h : Keep a s) :
    Keep a (State.onPw x1 s) := by
  unfold State.onPw
  try dsimp only
  repeat' (first
    | with_reducible (first
      | assumption)
    | (split) | (refine Keep.mk' ?_ (fun h => h) (Nat.le_refl _)))

theorem keep_onRas {a : State} {x1 : Ras → Ras} {s : State} (h : Keep a s) :
    Keep a (State.onRas x1 s) := by
  unfold State.onRas
  try dsimp only
  repeat' (first
    | with_reducible (first
      | assumption)
    | (split) | (refine Keep.mk' ?_ (fun h => h) (Nat.le_refl _)))

theorem keep_onSec {a : State} {x1 : Security → Security} {s : State} (h : Keep a s) :
    Keep a (State.onSec x1 s) := by
  unfold State.onSec
  try dsimp only
  repeat' (first
    | with_reducible (first
      | assumption)
    | (split) | (refine Keep.mk' ?_ (fun h => h) (Nat.le_refl _)))

theorem keep_onHif {a : State} {x1 : HostIf → HostIf} {s : State} (h : Keep a s) :
    Keep a (State.onHif x1 s) := by
  unfold State.onHif
  try dsimp only
  repeat' (first
    | with_reducible (first
      | assumption)
    | (split) | (refine Keep.mk' ?_ (fun h => h) (Nat.le_refl _)))

theorem keep_onCrc {a : State} {x1 : Crc → Crc} {s : State} (h : Keep a s) :
    Keep a (State.onCrc x1 s) := by
  unfold State.onCrc
  try dsimp only
  repeat' (first
    | with_reducible (first
      | assumption)
    | (split) | (refine Keep.mk' ?_ (fun h => h) (Nat.le_refl _)))

theorem keep_onPins {a : State} {x1 : Pins → Pins} {s : State} (h : Keep a s) :
    Keep a (State.onPins x1 s) := by
  unfold State.onPins
  try dsimp only
  repeat' (first
    | with_reducible (first
      | assumption)
    | (split) | (refine Keep.mk' ?_ (fun h => h) (Nat.le_refl _)))

theorem keep_onPlace {a : State} {x1 : Nat} {x2 : Place → Place} {s : State} (h : Keep a s) :
    Keep a (State.onPlace x1 x2 s) := by
  unfold State.onPlace
  try dsimp only
  repeat' (first
    | with_reducible (first
      | assumption)
    | (split) | (refine Keep.mk' ?_ (fun h => h) (Nat.le_refl _)))

theorem keep_onTile {a : State} {x1 : Nat} {x2 : PhysTile → PhysTile} {s : State} (h : Keep a s) :
    Keep a (State.onTile x1 x2 s) := by
  unfold State.onTile
  try dsimp only
  repeat' (first
    | with_reducible (first
      | assumption)
    | (split) | (refine Keep.mk' ?_ (fun h => h) (Nat.le_refl _)))

theorem keep_onCluster {a : State} {x1 : Nat} {x2 : Cluster → Cluster} {s : State} (h : Keep a s) :
    Keep a (State.onCluster x1 x2 s) := by
  unfold State.onCluster
  try dsimp only
  repeat' (first
    | with_reducible (first
      | assumption)
    | (split) | (refine Keep.mk' ?_ (fun h => h) (Nat.le_refl _)))

theorem keep_setSlot {a : State} {x1 : Nat} {x2 : Nat} {x3 : Slot} {s : State} (h : Keep a s) :
    Keep a (State.setSlot x1 x2 x3 s) := by
  unfold State.setSlot
  try dsimp only
  repeat' (first
    | with_reducible (first
      | assumption | refine keep_onPlace ?_))

theorem keep_onSlot {a : State} {x1 : Nat} {x2 : Nat} {x3 : Slot → Slot} {s : State} (h : Keep a s) :
    Keep a (State.onSlot x1 x2 x3 s) := by
  unfold State.onSlot
  try dsimp only
  repeat' (first
    | with_reducible (first
      | assumption | refine keep_setSlot ?_))

theorem keep_onCtx {a : State} {x1 : Nat} {x2 : Nat} {x3 : PartCtx → PartCtx} {s : State} (h : Keep a s) :
    Keep a (State.onCtx x1 x2 x3 s) := by
  unfold State.onCtx
  try dsimp only
  repeat' (first
    | with_reducible (first
      | assumption | refine keep_onSlot ?_))

theorem keep_onBerth {a : State} {x1 : Nat} {x2 : Berth → Berth} {s : State} (h : Keep a s) :
    Keep a (State.onBerth x1 x2 s) := by
  unfold State.onBerth
  try dsimp only
  repeat' (first
    | with_reducible (first
      | assumption)
    | (split) | (refine Keep.mk' ?_ (fun h => h) (Nat.le_refl _)))

theorem keep_onLaunch {a : State} {x1 : Nat} {x2 : Launch → Launch} {s : State} (h : Keep a s) :
    Keep a (State.onLaunch x1 x2 s) := by
  unfold State.onLaunch
  try dsimp only
  repeat' (first
    | with_reducible (first
      | assumption | refine keep_onHm ?_)
    | (split))

theorem keep_onChan {a : State} {x1 : Nat} {x2 : Chan → Chan} {s : State} (h : Keep a s) :
    Keep a (State.onChan x1 x2 s) := by
  unfold State.onChan
  try dsimp only
  repeat' (first
    | with_reducible (first
      | assumption)
    | refine Keep.onMem ?_ id)

theorem keep_onMill {a : State} {x1 : Nat} {x2 : Mill → Mill} {s : State} (h : Keep a s) :
    Keep a (State.onMill x1 x2 s) := by
  unfold State.onMill
  try dsimp only
  repeat' (first
    | with_reducible (first
      | assumption)
    | (split) | (refine Keep.mk' ?_ (fun h => h) (Nat.le_refl _)))

theorem keep_onHarbour {a : State} {x1 : Nat} {x2 : Harbour → Harbour} {s : State} (h : Keep a s) :
    Keep a (State.onHarbour x1 x2 s) := by
  unfold State.onHarbour
  try dsimp only
  repeat' (first
    | with_reducible (first
      | assumption | refine keep_onHb ?_)
    | (split))

theorem keep_onPort {a : State} {x1 : Nat} {x2 : Port → Port} {s : State} (h : Keep a s) :
    Keep a (State.onPort x1 x2 s) := by
  unfold State.onPort
  try dsimp only
  repeat' (first
    | with_reducible (first
      | assumption | refine keep_onLk ?_))

theorem keep_onLg {a : State} {x1 : Nat} {x2 : LaneGroup → LaneGroup} {s : State} (h : Keep a s) :
    Keep a (State.onLg x1 x2 s) := by
  unfold State.onLg
  try dsimp only
  repeat' (first
    | with_reducible (first
      | assumption | refine keep_onLk ?_))

theorem keep_onLink {a : State} {x1 : Nat} {x2 : Link → Link} {s : State} (h : Keep a s) :
    Keep a (State.onLink x1 x2 s) := by
  unfold State.onLink
  try dsimp only
  repeat' (first
    | with_reducible (first
      | assumption | refine keep_onHif ?_))

theorem keep_onAsid {a : State} {x1 : Nat} {x2 : Ctx → Ctx} {s : State} (h : Keep a s) :
    Keep a (State.onAsid x1 x2 s) := by
  unfold State.onAsid
  try dsimp only
  repeat' (first
    | with_reducible (first
      | assumption | refine keep_onHif ?_)
    | (split))

theorem keep_onPage {a : State} {x1 : Nat} {x2 : CmdPage → CmdPage} {s : State} (h : Keep a s) :
    Keep a (State.onPage x1 x2 s) := by
  unfold State.onPage
  try dsimp only
  repeat' (first
    | with_reducible (first
      | assumption | refine keep_onHif ?_))

theorem keep_onFq {a : State} {x1 : Nat} {x2 : FaultQ → FaultQ} {s : State} (h : Keep a s) :
    Keep a (State.onFq x1 x2 s) := by
  unfold State.onFq
  try dsimp only
  repeat' (first
    | with_reducible (first
      | assumption | refine keep_onXl ?_))

theorem keep_onRail {a : State} {x1 : Nat} {x2 : Rail → Rail} {s : State} (h : Keep a s) :
    Keep a (State.onRail x1 x2 s) := by
  unfold State.onRail
  try dsimp only
  repeat' (first
    | with_reducible (first
      | assumption | refine keep_onPw ?_))

theorem keep_drawn {a : State}  {s : State} (h : Keep a s) :
    Keep a (State.drawn s) := by
  unfold State.drawn
  try dsimp only
  repeat' (first
    | with_reducible (first
      | assumption)
    | (split) | (refine Keep.mk' ?_ (fun h => h) (Nat.le_refl _)))

theorem keep_emit {a : State} {x1 : Out} {s : State} (h : Keep a s) :
    Keep a (State.emit x1 s) := by
  unfold State.emit
  try dsimp only
  repeat' (first
    | with_reducible (first
      | assumption)
    | (split) | (refine Keep.mk' ?_ (fun h => h) (Nat.le_refl _)))

theorem keep_msix {a : State} {x1 : Nat} {x2 : Nat} {s : State} (h : Keep a s) :
    Keep a (State.msix x1 x2 s) := by
  unfold State.msix
  try dsimp only
  repeat' (first
    | with_reducible (first
      | assumption | refine keep_emit ?_ | refine keep_onHif ?_)
    | (split))

theorem keep_hbmWipe {a : State} {x1 : Nat} {x2 : Nat} {x3 : Nat} {s : State} (h : Keep a s) :
    Keep a (State.hbmWipe x1 x2 x3 s) := by
  unfold State.hbmWipe
  try dsimp only
  repeat' (first
    | with_reducible (first
      | assumption | refine Keep.hbmClear ?_)
    | (split))

theorem keep_storeThrough {a : State} {x1 : Nat} {x2 : Nat} {x3 : List Byte} {x4 : Bool} {s : State} (h : Keep a s) :
    Keep a (State.storeThrough x1 x2 x3 x4 s) := by
  unfold State.storeThrough
  try dsimp only
  repeat' (first
    | with_reducible (first
      | assumption | refine Keep.hbmStore ?_)
    | (split))

theorem keep_eventStored {a : State} {x1 : Word} {x2 : Nat} {x3 : Nat} {x4 : Nat} {x5 : List Word} {s : State} (h : Keep a s) :
    Keep a (State.eventStored x1 x2 x3 x4 x5 s) := by
  unfold State.eventStored
  try dsimp only
  repeat' (first
    | with_reducible (first
      | assumption | refine keep_onRas ?_ | refine keep_storeThrough ?_ | refine Keep.foldState ?_ ?_
      | refine Keep.markCodeword ?_ | refine keep_msix ?_)
    | (intro _ _ _) | (intro _ _) | (split))

theorem keep_remapCandidate {a : State} {x1 : Nat} {x2 : Remap} {s : State} (h : Keep a s) :
    Keep a (State.remapCandidate x1 x2 s) := by
  unfold State.remapCandidate
  try dsimp only
  repeat' (first
    | with_reducible (first
      | assumption | refine keep_onChan ?_ | refine keep_eventStored ?_)
    | (split))

theorem keep_columnTouch {a : State} {x1 : Nat} {x2 : Nat} {x3 : Nat} {s : State} (h : Keep a s) :
    Keep a (State.columnTouch x1 x2 x3 s) := by
  unfold State.columnTouch
  try dsimp only
  repeat' (first
    | with_reducible (first
      | assumption | refine keep_onChan ?_ | refine keep_remapCandidate ?_)
    | (split))

theorem keep_uncorrectable {a : State} {x1 : Nat} {x2 : Nat} {s : State} (h : Keep a s) :
    Keep a (State.uncorrectable x1 x2 s) := by
  unfold State.uncorrectable
  try dsimp only
  repeat' (first
    | with_reducible (first
      | assumption | refine keep_remapCandidate ?_ | refine keep_eventStored ?_ | refine Keep.markCodeword ?_))

theorem keep_corrected {a : State} {x1 : Nat} {x2 : Nat} {x3 : List (Nat × Nat)} {s : State} (h : Keep a s) :
    Keep a (State.corrected x1 x2 x3 s) := by
  unfold State.corrected
  try dsimp only
  repeat' (first
    | with_reducible (first
      | assumption | refine keep_onChan ?_ | refine keep_remapCandidate ?_ | refine Keep.foldState ?_ ?_
      | refine keep_columnTouch ?_)
    | (intro _ _ _) | (intro _ _) | (split))

theorem keep_decodeOne {a : State} {x1 : Nat} {x2 : Nat} {x3 : Bool} {s : State} (h : Keep a s) :
    Keep a (State.decodeOne x1 x2 x3 s) := by
  unfold State.decodeOne
  try dsimp only
  repeat' (first
    | with_reducible (first
      | assumption | refine keep_uncorrectable ?_ | refine keep_corrected ?_ | refine keep_onChan ?_)
    | refine Keep.onMem ?_ id | (split))

theorem keep_decodeRange {a : State} {x1 : Nat} {x2 : Nat} {x3 : Nat} {s : State} (h : Keep a s) :
    Keep a (State.decodeRange x1 x2 x3 s) := by
  unfold State.decodeRange
  try dsimp only
  repeat' (first
    | with_reducible (first
      | assumption | refine Keep.foldState ?_ ?_ | refine keep_decodeOne ?_)
    | (intro _ _ _) | (intro _ _) | (split))

theorem keep_readEffect {a : State} {x1 : Piece} {s : State} (h : Keep a s) :
    Keep a (State.readEffect x1 s) := by
  unfold State.readEffect
  try dsimp only
  repeat' (first
    | with_reducible (first
      | assumption | refine keep_decodeRange ?_ | refine keep_onChan ?_)
    | (split))

theorem keep_readEffects {a : State} {x1 : List Piece} {s : State} (h : Keep a s) :
    Keep a (State.readEffects x1 s) := by
  unfold State.readEffects
  try dsimp only
  repeat' (first
    | with_reducible (first
      | assumption | refine Keep.foldState ?_ ?_ | refine keep_readEffect ?_)
    | (intro _ _ _))

theorem keep_readEffectH {a : State} {x1 : Nat} {x2 : Nat} {x3 : Nat} {s : State} (h : Keep a s) :
    Keep a (State.readEffectH x1 x2 x3 s) := by
  unfold State.readEffectH
  try dsimp only
  repeat' (first
    | with_reducible (first
      | assumption | refine keep_readEffects ?_)
    | (split))

theorem keep_hbmPut {a : State} {x1 : Nat} {x2 : Nat} {x3 : List Byte} {x4 : Bool} {s : State} (h : Keep a s) :
    Keep a (State.hbmPut x1 x2 x3 x4 s) := by
  unfold State.hbmPut
  try dsimp only
  repeat' (first
    | with_reducible (first
      | assumption | refine Keep.foldState ?_ ?_ | refine keep_decodeOne ?_ | refine keep_storeThrough ?_)
    | (intro _ _ _) | (intro _ _) | (split))

theorem keep_writePieces {a : State} {x1 : List Piece} {x2 : List Byte} {x3 : Bool} {s : State} (h : Keep a s) :
    Keep a (State.writePieces x1 x2 x3 s) := by
  unfold State.writePieces
  try dsimp only
  repeat' (first
    | with_reducible (first
      | assumption | refine Keep.foldState ?_ ?_ | refine keep_hbmPut ?_)
    | (intro _ _ _))

theorem keep_writeH {a : State} {x1 : Nat} {x2 : Nat} {x3 : List Byte} {x4 : Bool} {s : State} (h : Keep a s) :
    Keep a (State.writeH x1 x2 x3 x4 s) := by
  unfold State.writeH
  try dsimp only
  repeat' (first
    | with_reducible (first
      | assumption | refine keep_writePieces ?_)
    | (split))

theorem keep_put0 {a : State} {x1 : Nat} {x2 : List Word} {s : State} (h : Keep a s) :
    Keep a (State.put0 x1 x2 s) := by
  unfold State.put0
  try dsimp only
  repeat' (first
    | with_reducible (first
      | assumption | refine keep_writeH ?_))

theorem keep_eventAt {a : State} {x1 : Word} {x2 : Nat} {x3 : Nat} {x4 : Nat} {x5 : List Word} {s : State} (h : Keep a s) :
    Keep a (State.eventAt x1 x2 x3 x4 x5 s) := by
  unfold State.eventAt
  try dsimp only
  repeat' (first
    | with_reducible (first
      | assumption | refine Keep.foldState ?_ ?_ | refine keep_decodeOne ?_ | refine keep_eventStored ?_)
    | (intro _ _ _) | (intro _ _) | (split))

theorem keep_event {a : State} {x1 : Nat} {x2 : Nat} {x3 : Nat} {x4 : List Word} {s : State} (h : Keep a s) :
    Keep a (State.event x1 x2 x3 x4 s) := by
  unfold State.event
  try dsimp only
  repeat' (first
    | with_reducible (first
      | assumption | refine keep_eventAt ?_))

theorem keep_keepEvent {a : State} {x1 : Nat} {x2 : Nat} {x3 : Nat} {x4 : List Word} {s : State} (h : Keep a s) :
    Keep a (State.keepEvent x1 x2 x3 x4 s) := by
  unfold State.keepEvent
  try dsimp only
  repeat' (first
    | with_reducible (first
      | assumption | refine keep_onRas ?_))

theorem keep_raiseKept {a : State}  {s : State} (h : Keep a s) :
    Keep a (State.raiseKept s) := by
  unfold State.raiseKept
  try dsimp only
  repeat' (first
    | with_reducible (first
      | assumption | refine Keep.foldState ?_ ?_ | refine keep_eventAt ?_ | refine keep_onRas ?_)
    | (intro _ _ _))

theorem keep_rwpIgnored {a : State} {x1 : Master} {x2 : Nat} {s : State} (h : Keep a s) :
    Keep a (State.rwpIgnored x1 x2 s) := by
  unfold State.rwpIgnored
  try dsimp only
  repeat' (first
    | with_reducible (first
      | assumption | refine keep_onCrc ?_))

theorem keep_privWrite {a : State} {x1 : Master} {x2 : Nat} {x3 : State → State} {s : State} (h : Keep a s) (hx3 : ∀ u, Keep a u → Keep a (x3 u)) :
    Keep a (State.privWrite x1 x2 x3 s) := by
  unfold State.privWrite
  try dsimp only
  repeat' (first
    | with_reducible (first
      | assumption | refine keep_rwpIgnored ?_)
    | apply hx3 | (split))

theorem keep_refusedWrite {a : State}  {s : State} (h : Keep a s) :
    Keep a (State.refusedWrite s) := by
  unfold State.refusedWrite
  try dsimp only
  repeat' (first
    | with_reducible (first
      | assumption | refine keep_onCrc ?_))

end Sys2Proof.Laws
end

