-- ==== Sys2Proof/Laws/KeepLaunchOps.lean ====
section
/-! SUPPORT. What the operations of Machine/LaunchOps.lean keep. -/
namespace Sys2Proof.Laws
open Sys2Proof Sys2Proof.Machine

theorem keep_readEffectVa {a : State} {x1 : Nat} {x2 : Nat} {x3 : Nat} {s : State} (h : Keep a s) :
    Keep a (State.readEffectVa x1 x2 x3 s) := by
  unfold State.readEffectVa
  try dsimp only
  repeat' (first
    | with_reducible (first
      | assumption | refine keep_readEffectH ?_)
    | (split))

theorem keep_vaWrite {a : State} {x1 : Nat} {x2 : Nat} {x3 : List Byte} {s : State} (h : Keep a s) :
    Keep a (State.vaWrite x1 x2 x3 s) := by
  unfold State.vaWrite
  try dsimp only
  repeat' (first
    | with_reducible (first
      | assumption | refine keep_writeH ?_)
    | (split))

theorem keep_statusArea {a : State} {x1 : Nat} {s : State} (h : Keep a s) :
    Keep a (State.statusArea x1 s) := by
  unfold State.statusArea
  try dsimp only
  repeat' (first
    | with_reducible (first
      | assumption | refine keep_vaWrite ?_))

theorem keep_putFault {a : State} {x1 : Nat} {x2 : Nat} {x3 : FaultEnt} {s : State} (h : Keep a s) :
    Keep a (State.putFault x1 x2 x3 s) := by
  unfold State.putFault
  try dsimp only
  repeat' (first
    | with_reducible (first
      | assumption | refine keep_onFq ?_ | refine keep_put0 ?_))

theorem keep_dropLatch {a : State} {x1 : Nat} {x2 : Nat} {x3 : Nat} {x4 : Option FaultLatch} {s : State} (h : Keep a s) :
    Keep a (State.dropLatch x1 x2 x3 x4 s) := by
  unfold State.dropLatch
  try dsimp only
  repeat' (first
    | with_reducible (first
      | assumption | refine keep_putFault ?_)
    | (split))

theorem keep_dropLatches {a : State} {x1 : Nat} {x2 : Nat} {s : State} (h : Keep a s) :
    Keep a (State.dropLatches x1 x2 s) := by
  unfold State.dropLatches
  try dsimp only
  repeat' (first
    | with_reducible (first
      | assumption | refine keep_onCtx ?_ | refine keep_dropLatch ?_))

theorem keep_markLost {a : State} {x1 : Nat} {x2 : Nat} {x3 : Word} {x4 : Status} {s : State} (h : Keep a s) :
    Keep a (State.markLost x1 x2 x3 x4 s) := by
  unfold State.markLost
  try dsimp only
  repeat' (first
    | with_reducible (first
      | assumption | refine keep_event ?_ | refine keep_onRas ?_)
    | (split))

theorem keep_writeCapture {a : State} {x1 : Launch} {x2 : Status} {s : State} (h : Keep a s) :
    Keep a (State.writeCapture x1 x2 s).2 := by
  unfold State.writeCapture
  try dsimp only
  repeat' (first
    | with_reducible (first
      | assumption | refine keep_onHm ?_ | refine keep_vaWrite ?_ | refine keep_statusArea ?_ | refine keep_onBerth ?_
      | refine keep_onLaunch ?_)
    | (split))

theorem keep_unrunSignals {a : State} {x1 : Nat} {x2 : Launch} {x3 : GraphRun} {x4 : List Nat} {s : State} (h : Keep a s) :
    Keep a (State.unrunSignals x1 x2 x3 x4 s) := by
  unfold State.unrunSignals
  try dsimp only
  repeat' (first
    | with_reducible (first
      | assumption | refine keep_onFu ?_)
    | (split))

theorem keep_graphWrite {a : State} {x1 : Graph} {x2 : Nat} {x3 : List Byte} {s : State} (h : Keep a s) :
    Keep a (State.graphWrite x1 x2 x3 s) := by
  unfold State.graphWrite
  try dsimp only
  repeat' (first
    | with_reducible (first
      | assumption | refine keep_writeH ?_)
    | (split))

theorem keep_releaseRecord {a : State} {x1 : Nat} {x2 : Nat} {s : State} (h : Keep a s) :
    Keep a (State.releaseRecord x1 x2 s) := by
  unfold State.releaseRecord
  try dsimp only
  repeat' (first
    | with_reducible (first
      | assumption)
    | (split) | (refine Keep.mk' ?_ (fun h => h) (Nat.le_refl _)))

theorem keep_dropPoolRecord {a : State} {x1 : Nat} {x2 : Nat} {x3 : Nat} {s : State} (h : Keep a s) :
    Keep a (State.dropPoolRecord x1 x2 x3 s) := by
  unfold State.dropPoolRecord
  try dsimp only
  repeat' (first
    | with_reducible (first
      | assumption | refine keep_onHarbour ?_))

theorem keep_orphan {a : State} {x1 : Nat} {x2 : Nat} {s : State} (h : Keep a s) :
    Keep a (State.orphan x1 x2 s) := by
  unfold State.orphan
  try dsimp only
  repeat' (first
    | with_reducible (first
      | assumption | refine keep_onLk ?_ | refine keep_onHif ?_))

theorem keep_freeSlot {a : State} {x1 : Nat} {x2 : Nat} {s : State} (h : Keep a s) :
    Keep a (State.freeSlot x1 x2 s) := by
  unfold State.freeSlot
  try dsimp only
  repeat' (first
    | with_reducible (first
      | assumption | refine keep_setSlot ?_ | refine keep_orphan ?_))

theorem keep_releasePart {a : State} {x1 : Nat} {x2 : Launch} {x3 : Nat} {x4 : PartState} {s : State} (h : Keep a s) :
    Keep a (State.releasePart x1 x2 x3 x4 s) := by
  unfold State.releasePart
  try dsimp only
  repeat' (first
    | with_reducible (first
      | assumption | refine keep_freeSlot ?_ | refine keep_releaseRecord ?_ | refine keep_dropPoolRecord ?_)
    | (split))

theorem keep_releaseParts {a : State} {x1 : Nat} {x2 : Launch} {s : State} (h : Keep a s) :
    Keep a (State.releaseParts x1 x2 s) := by
  unfold State.releaseParts
  try dsimp only
  repeat' (first
    | with_reducible (first
      | assumption | refine Keep.foldState ?_ ?_ | refine keep_releasePart ?_)
    | (intro _ _ _))

theorem keep_nodeDone {a : State} {x1 : Nat} {x2 : Nat} {x3 : Launch} {x4 : Status} {s : State} (h : Keep a s) :
    Keep a (State.nodeDone x1 x2 x3 x4 s) := by
  unfold State.nodeDone
  try dsimp only
  repeat' (first
    | with_reducible (first
      | assumption | refine keep_onLaunch ?_))

theorem keep_retireVersion {a : State} {x1 : Nat} {s : State} (h : Keep a s) :
    Keep a (State.retireVersion x1 s) := by
  unfold State.retireVersion
  try dsimp only
  repeat' (first
    | with_reducible (first
      | assumption | refine keep_graphWrite ?_)
    | (split) | (refine Keep.mk' ?_ (fun h => h) (Nat.le_refl _)))

theorem keep_writeEnd {a : State} {x1 : Nat} {s : State} (h : Keep a s) :
    Keep a (State.writeEnd x1 s) := by
  unfold State.writeEnd
  try dsimp only
  repeat' (first
    | with_reducible (first
      | assumption | refine keep_writeCapture ?_ | refine keep_onFu ?_ | refine keep_releaseParts ?_ | refine keep_onHm ?_
      | refine keep_nodeDone ?_ | refine keep_vaWrite ?_ | refine keep_statusArea ?_ | refine keep_onBerth ?_
      | refine keep_retireVersion ?_ | refine keep_msix ?_ | refine Keep.snd (by assumption) (keep_writeCapture ?_))
    | (split) | (refine Keep.mk' ?_ (fun h => h) (Nat.le_refl _)))

theorem keep_stamp {a : State} {x1 : Nat} {s : State} (h : Keep a s) :
    Keep a (State.stamp x1 s) := by
  unfold State.stamp
  try dsimp only
  repeat' (first
    | with_reducible (first
      | assumption | refine keep_onHm ?_ | refine keep_onLaunch ?_)
    | (split))

theorem keep_flushBerth {a : State} {x1 : Nat} {x2 : Nat} {s : State} (h : Keep a s) :
    Keep a (State.flushBerth x1 x2 s) := by
  induction x2 generalizing s with
  | zero => exact h
  | succ n ih =>
    unfold State.flushBerth
    split
    · exact h
    · split
      · exact ih (keep_writeEnd h)
      · exact h

theorem keep_complete {a : State} {x1 : Nat} {s : State} (h : Keep a s) :
    Keep a (State.complete x1 s) := by
  unfold State.complete
  try dsimp only
  repeat' (first
    | with_reducible (first
      | assumption | refine keep_onLaunch ?_ | refine keep_stamp ?_ | refine keep_flushBerth ?_ | refine keep_writeEnd ?_)
    | (split))

theorem keep_flushAll {a : State}  {s : State} (h : Keep a s) :
    Keep a (State.flushAll s) := by
  unfold State.flushAll
  try dsimp only
  repeat' (first
    | with_reducible (first
      | assumption | refine Keep.foldState ?_ ?_ | refine keep_writeEnd ?_ | refine keep_flushBerth ?_)
    | (intro _ _ _))

theorem keep_abortPart {a : State} {x1 : Nat} {x2 : Launch} {x3 : Nat} {x4 : PartState} {s : State} (h : Keep a s) :
    Keep a (State.abortPart x1 x2 x3 x4 s) := by
  unfold State.abortPart
  try dsimp only
  repeat' (first
    | with_reducible (first
      | assumption | refine keep_onSlot ?_ | refine keep_dropLatches ?_ | refine keep_dropPoolRecord ?_
      | refine keep_releaseRecord ?_ | refine keep_onPlace ?_ | refine keep_onLaunch ?_)
    | (split))

theorem keep_abortScanSlots {a : State} {x1 : Nat} {s : State} (h : Keep a s) :
    Keep a (State.abortScanSlots x1 s) := by
  unfold State.abortScanSlots
  try dsimp only
  repeat' (first
    | with_reducible (first
      | assumption)
    | (split) | (refine Keep.mk' ?_ (fun h => h) (Nat.le_refl _)))

theorem keep_onHalf {a : State} {x1 : Nat} {x2 : MergeHalf → MergeHalf} {s : State} (h : Keep a s) :
    Keep a (State.onHalf x1 x2 s) := by
  unfold State.onHalf
  try dsimp only
  repeat' (first
    | with_reducible (first
      | assumption)
    | (split) | (refine Keep.mk' ?_ (fun h => h) (Nat.le_refl _)))

theorem keep_discardLists {a : State} {x1 : Nat} {s : State} (h : Keep a s) :
    Keep a (State.discardLists x1 s) := by
  unfold State.discardLists
  try dsimp only
  repeat' (first
    | with_reducible (first
      | assumption | refine Keep.foldState ?_ ?_ | refine keep_onHalf ?_)
    | (intro _ _ _) | (intro _ _) | (split) | (refine Keep.mk' ?_ (fun h => h) (Nat.le_refl _)))

theorem keep_abortOne {a : State} {x1 : Nat} {x2 : Status} {x3 : Option Nat} {s : State} (h : Keep a s) :
    Keep a (State.abortOne x1 x2 x3 s) := by
  unfold State.abortOne
  try dsimp only
  repeat' (first
    | with_reducible (first
      | assumption | refine keep_stamp ?_ | refine keep_onLaunch ?_ | refine Keep.foldState ?_ ?_ | refine keep_abortPart ?_
      | refine keep_discardLists ?_ | refine keep_abortScanSlots ?_ | refine keep_complete ?_)
    | (intro _ _ _) | (intro _ _) | (split))

theorem keep_finishGraph {a : State} {x1 : Nat} {s : State} (h : Keep a s) :
    Keep a (State.finishGraph x1 s) := by
  unfold State.finishGraph
  try dsimp only
  repeat' (first
    | with_reducible (first
      | assumption | refine keep_complete ?_ | refine keep_onLaunch ?_ | refine Keep.foldlSnd ?_ _ ?_
      | refine Keep.foldlFst ?_ _ ?_ | refine Keep.foldl ?_ _ ?_)
    | (intro _ _ _) | (intro _ _) | (split))

theorem keep_abortLaunch {a : State} {x1 : Nat} {x2 : Status} {x3 : Option Nat} {s : State} (h : Keep a s) :
    Keep a (State.abortLaunch x1 x2 x3 s) := by
  unfold State.abortLaunch
  try dsimp only
  repeat' (first
    | with_reducible (first
      | assumption | refine keep_abortOne ?_ | refine keep_unrunSignals ?_ | refine keep_onLaunch ?_
      | refine keep_finishGraph ?_ | refine Keep.foldState ?_ ?_ | refine Keep.foldlSnd ?_ _ ?_ | refine Keep.foldlFst ?_ _ ?_
      | refine Keep.foldl ?_ _ ?_)
    | (intro _ _ _) | (intro _ _) | (split))

theorem keep_failPart {a : State} {x1 : Nat} {x2 : Nat} {x3 : Nat} {x4 : Word} {x5 : Status} {x6 : Bool} {s : State} (h : Keep a s) :
    Keep a (State.failPart x1 x2 x3 x4 x5 x6 s) := by
  unfold State.failPart
  try dsimp only
  repeat' (first
    | with_reducible (first
      | assumption | refine keep_onCtx ?_ | refine keep_markLost ?_ | refine keep_abortLaunch ?_)
    | (split))

theorem keep_tileErr {a : State} {x1 : Nat} {x2 : Nat} {x3 : Nat} {x4 : Word} {s : State} (h : Keep a s) :
    Keep a (State.tileErr x1 x2 x3 x4 s) := by
  unfold State.tileErr
  try dsimp only
  repeat' (first
    | with_reducible (first
      | assumption | refine keep_failPart ?_))

theorem keep_poisonErr {a : State} {x1 : Nat} {x2 : Nat} {x3 : Word} {s : State} (h : Keep a s) :
    Keep a (State.poisonErr x1 x2 x3 s) := by
  unfold State.poisonErr
  try dsimp only
  repeat' (first
    | with_reducible (first
      | assumption | refine keep_failPart ?_))

end Sys2Proof.Laws
end

