-- ==== Sys2Proof/Laws/KeepMemoryOps.lean ====
section
/-! SUPPORT. What the operations of Machine/MemoryOps.lean keep. -/
namespace Sys2Proof.Laws
open Sys2Proof Sys2Proof.Machine

theorem keep_mcRefused {a : State} {x1 : Nat} {s : State} (h : Keep a s) :
    Keep a (State.mcRefused x1 s) := by
  unfold State.mcRefused
  try dsimp only
  repeat' (first
    | with_reducible (first
      | assumption | refine keep_onChan ?_))

theorem keep_remapPut {a : State} {x1 : Nat} {x2 : Nat} {x3 : Remap} {s : State} (h : Keep a s) :
    Keep a (State.remapPut x1 x2 x3 s) := by
  unfold State.remapPut
  try dsimp only
  repeat' (first
    | with_reducible (first
      | assumption | refine keep_decodeOne ?_ | refine keep_onChan ?_)
    | refine Keep.onMem ?_ id | (split))

theorem keep_damaged {a : State} {x1 : List CwError} {s : State} (h : Keep a s) :
    Keep a (State.damaged x1 s) := by
  unfold State.damaged
  try dsimp only
  repeat' (first
    | with_reducible (first
      | assumption | refine Keep.foldState ?_ ?_ | refine Keep.foldlSnd ?_ _ ?_ | refine Keep.foldlFst ?_ _ ?_
      | refine Keep.foldl ?_ _ ?_)
    | refine Keep.onMem ?_ id | (intro _ _ _) | (intro _ _) | (split))

theorem keep_serveRead {a : State} {x1 : Nat} {x2 : Nat} {x3 : Nat} {s : State} (h : Keep a s) :
    Keep a (State.serveRead x1 x2 x3 s).2 := by
  unfold State.serveRead
  try dsimp only
  repeat' (first
    | with_reducible (first
      | assumption | refine keep_readEffect ?_))

theorem keep_serveWrite {a : State} {x1 : Nat} {x2 : Nat} {x3 : List Byte} {x4 : Bool} {s : State} (h : Keep a s) :
    Keep a (State.serveWrite x1 x2 x3 x4 s) := by
  unfold State.serveWrite
  try dsimp only
  repeat' (first
    | with_reducible (first
      | assumption | refine keep_hbmPut ?_))

theorem keep_serveAtomic {a : State} {x1 : Nat} {x2 : Nat} {x3 : AtomicOp} {s : State} (h : Keep a s) :
    Keep a (State.serveAtomic x1 x2 x3 s).2 := by
  unfold State.serveAtomic
  try dsimp only
  repeat' (first
    | with_reducible (first
      | assumption | refine keep_serveRead ?_ | refine keep_hbmPut ?_ | refine Keep.snd (by assumption) (keep_serveRead ?_))
    | (split))

theorem keep_clearChannel {a : State} {x1 : Nat} {s : State} (h : Keep a s) :
    Keep a (State.clearChannel x1 s) := by
  unfold State.clearChannel
  try dsimp only
  repeat' (first
    | with_reducible (first
      | assumption | refine keep_onChan ?_ | refine Keep.hbmClear ?_))

theorem keep_execMcLevelWrite {a : State} {x1 : Master} {x2 : Nat} {x3 : Word} {s : State} (h : Keep a s) :
    ∀ t, execMcLevelWrite x1 x2 x3 s = .next t → Keep a t := by
  unfold execMcLevelWrite
  refine Keep.clocked h ?_
  try dsimp only
  repeat' (first
    | with_reducible (first
      | assumption | refine keep_mcRefused ?_ | refine keep_onChan ?_ | refine keep_clearChannel ?_
      | refine keep_privWrite ?_ ?_)
    | (intro _ _ _) | (intro _ _) | (split))

theorem keep_execCorrectedWriteback {a : State} {x1 : Nat} {s : State} (h : Keep a s) :
    ∀ t, execCorrectedWriteback x1 s = .next t → Keep a t := by
  unfold execCorrectedWriteback
  refine Keep.clocked h ?_
  try dsimp only
  repeat' (first
    | with_reducible (first
      | assumption | refine keep_onChan ?_)
    | refine Keep.onMem ?_ id | (split))

theorem keep_remapFullEvent {a : State} {x1 : Nat} {x2 : Remap} {s : State} (h : Keep a s) :
    Keep a (State.remapFullEvent x1 x2 s) := by
  unfold State.remapFullEvent
  try dsimp only
  repeat' (first
    | with_reducible (first
      | assumption | refine keep_event ?_))

theorem keep_installCandidate {a : State} {x1 : Nat} {s : State} (h : Keep a s) :
    Keep a (State.installCandidate x1 s) := by
  unfold State.installCandidate
  try dsimp only
  repeat' (first
    | with_reducible (first
      | assumption | refine keep_onChan ?_ | refine keep_remapFullEvent ?_ | refine keep_remapPut ?_)
    | (split))

theorem keep_execRemapInstall {a : State} {x1 : Nat} {s : State} (h : Keep a s) :
    ∀ t, execRemapInstall x1 s = .next t → Keep a t := by
  unfold execRemapInstall
  refine Keep.clocked h ?_
  try dsimp only
  repeat' (first
    | with_reducible (first
      | assumption | refine keep_installCandidate ?_)
    | (split))

theorem keep_execMcRemapWrite {a : State} {x1 : Master} {x2 : Nat} {x3 : Nat} {x4 : Word} {s : State} (h : Keep a s) :
    ∀ t, execMcRemapWrite x1 x2 x3 x4 s = .next t → Keep a t := by
  unfold execMcRemapWrite
  refine Keep.clocked h ?_
  try dsimp only
  repeat' (first
    | with_reducible (first
      | assumption | refine keep_mcRefused ?_ | refine keep_remapFullEvent ?_ | refine keep_onChan ?_ | refine keep_remapPut ?_
      | refine keep_privWrite ?_ ?_)
    | refine Keep.onMem ?_ id | (intro _ _ _) | (intro _ _) | (split))

theorem keep_execMcScrub {a : State} {x1 : Master} {x2 : Nat} {x3 : Word} {s : State} (h : Keep a s) :
    ∀ t, execMcScrub x1 x2 x3 s = .next t → Keep a t := by
  unfold execMcScrub
  refine Keep.clocked h ?_
  try dsimp only
  repeat' (first
    | with_reducible (first
      | assumption | refine keep_mcRefused ?_ | refine keep_readEffectH ?_ | refine keep_onChan ?_
      | refine keep_privWrite ?_ ?_)
    | (intro _ _ _) | (intro _ _) | (split))

theorem keep_endScrub {a : State} {x1 : Nat} {x2 : Nat} {x3 : Nat} {s : State} (h : Keep a s) :
    Keep a (State.endScrub x1 x2 x3 s) := by
  unfold State.endScrub
  try dsimp only
  repeat' (first
    | with_reducible (first
      | assumption | refine keep_put0 ?_ | refine keep_event ?_ | refine keep_onChan ?_)
    | (split))

theorem keep_execScrubDone {a : State} {x1 : Nat} {x2 : List CwError} {s : State} (h : Keep a s) :
    ∀ t, execScrubDone x1 x2 s = .next t → Keep a t := by
  unfold execScrubDone
  refine Keep.clocked h ?_
  try dsimp only
  repeat' (first
    | with_reducible (first
      | assumption | refine keep_damaged ?_ | refine Keep.foldState ?_ ?_ | refine keep_decodeOne ?_ | refine keep_onChan ?_
      | refine keep_endScrub ?_)
    | (intro _ _ _) | (intro _ _) | (split))

theorem keep_execScrubCancel {a : State} {x1 : Master} {x2 : Nat} {s : State} (h : Keep a s) :
    ∀ t, execScrubCancel x1 x2 s = .next t → Keep a t := by
  unfold execScrubCancel
  refine Keep.clocked h ?_
  try dsimp only
  repeat' (first
    | with_reducible (first
      | assumption | refine keep_endScrub ?_ | refine keep_privWrite ?_ ?_)
    | (intro _ _ _) | (intro _ _))

theorem keep_execMcIsetWrite {a : State} {x1 : Master} {x2 : Nat} {x3 : Nat} {x4 : Word} {s : State} (h : Keep a s) :
    ∀ t, execMcIsetWrite x1 x2 x3 x4 s = .next t → Keep a t := by
  unfold execMcIsetWrite
  refine Keep.clocked h ?_
  try dsimp only
  repeat' (first
    | with_reducible (first
      | assumption | refine keep_mcRefused ?_ | refine keep_privWrite ?_ ?_)
    | refine Keep.onMem ?_ id | (intro _ _ _) | (intro _ _) | (split))

end Sys2Proof.Laws
end

