-- ==== Sys2Proof/Laws/KeepMillOps.lean ====
section
/-! SUPPORT. What the operations of Machine/MillOps.lean keep. -/
namespace Sys2Proof.Laws
open Sys2Proof Sys2Proof.Machine

theorem keep_scanPoison {a : State} {x1 : Nat} {x2 : Scan} {x3 : Nat} {x4 : Nat} {x5 : Nat} {s : State} (h : Keep a s) :
    Keep a (State.scanPoison x1 x2 x3 x4 x5 s) := by
  unfold State.scanPoison
  try dsimp only
  repeat' (first
    | with_reducible (first
      | assumption | refine keep_readEffectH ?_)
    | (split))

theorem keep_loadMill {a : State} {x1 : Nat} {x2 : Scan} {x3 : Nat} {x4 : Nat} {x5 : Nat} {s : State} (h : Keep a s) :
    Keep a (State.loadMill x1 x2 x3 x4 x5 s) := by
  unfold State.loadMill
  try dsimp only
  repeat' (first
    | with_reducible (first
      | assumption | refine keep_onMill ?_ ))

theorem keep_placeScan {a : State} {x1 : Nat} {s : State} (h : Keep a s) :
    Keep a (State.placeScan x1 s) := by
  unfold State.placeScan
  try dsimp only
  repeat' (first
    | with_reducible (first
      | assumption | refine keep_complete ?_ | refine keep_onLaunch ?_ | refine Keep.foldState ?_ ?_ | refine keep_loadMill ?_)
    | (intro _ _ _) | (intro _ _) | (split) | (refine Keep.mk' ?_ (fun h => h) (Nat.le_refl _)))

theorem keep_pressure {a : State} {x1 : Nat} {s : State} (h : Keep a s) :
    Keep a (State.pressure x1 s) := by
  unfold State.pressure
  try dsimp only
  repeat' (first
    | with_reducible (first
      | assumption | refine keep_onMill ?_)
    | (split))

theorem keep_endScan {a : State} {x1 : Nat} {x2 : Status} {s : State} (h : Keep a s) :
    Keep a (State.endScan x1 x2 s) := by
  unfold State.endScan
  try dsimp only
  repeat' (first
    | with_reducible (first
      | assumption | refine keep_abortLaunch ?_))

theorem keep_millOne {a : State} {x1 : Nat} {x2 : Nat} {x3 : Scan} {x4 : Bool} {x5 : Bool} {x6 : Nat} {x7 : Nat} {x8 : Nat} {x9 : Nat} {s : State} (h : Keep a s) :
    Keep a (State.millOne x1 x2 x3 x4 x5 x6 x7 x8 x9 s) := by
  unfold State.millOne
  try dsimp only
  repeat' (first
    | with_reducible (first
      | assumption | refine keep_serveRead ?_ | refine keep_onMill ?_))

theorem keep_millMany {a : State} {x1 : Nat} {x2 : Nat} {x3 : Scan} {x4 : Bool} {x5 : Bool} {x6 : Nat} {x7 : Nat} {x8 : Nat} {x9 : Nat} {x10 : Nat} {s : State} (h : Keep a s) :
    Keep a (State.millMany x1 x2 x3 x4 x5 x6 x7 x8 x9 x10 s) := by
  induction x10 generalizing s x9 with
  | zero => exact h
  | succ n ih => exact Keep.ite h (ih (keep_millOne h))

theorem keep_millSeek {a : State} {x1 : Nat} {x2 : Nat} {x3 : Nat} {x4 : Scan} {x5 : Nat} {s : State} (h : Keep a s) :
    Keep a (State.millSeek x1 x2 x3 x4 x5 s).2 := by
  induction x5 generalizing s with
  | zero => exact h
  | succ n ih =>
    unfold State.millSeek
    repeat' (first
      | with_reducible (first
        | assumption | refine keep_endScan ?_ | refine keep_scanPoison ?_ | refine ih (keep_onMill ?_))
      | split | dsimp only)

theorem keep_millStep {a : State} {x1 : Nat} {x2 : Nat} {x3 : Nat} {x4 : Scan} {x5 : MillScan} {s : State} (h : Keep a s) :
    Keep a (State.millStep x1 x2 x3 x4 x5 s) := by
  unfold State.millStep
  try dsimp only
  repeat' (first
    | with_reducible (first
      | assumption | refine keep_onMill ?_ | refine keep_pressure ?_ | refine keep_millSeek ?_ | refine keep_millMany ?_
      | refine Keep.snd (by assumption) (keep_millSeek ?_))
    | (split))

theorem keep_millLists {a : State} {x1 : Nat} {x2 : Nat} {x3 : Scan} {s : State} (h : Keep a s) :
    Keep a (State.millLists x1 x2 x3 s) := by
  unfold State.millLists
  try dsimp only
  repeat' (first
    | with_reducible (first
      | assumption | refine keep_pressure ?_ | refine keep_onMill ?_))

theorem keep_millSlots {a : State} {x1 : Nat} {x2 : Nat} {x3 : MillSt} {s : State} (h : Keep a s) :
    Keep a (State.millSlots x1 x2 x3 s) := by
  unfold State.millSlots
  try dsimp only
  repeat' (first
    | with_reducible (first
      | assumption | refine keep_onMill ?_ ))

theorem keep_millLeave {a : State} {x1 : Nat} {x2 : Nat} {s : State} (h : Keep a s) :
    Keep a (State.millLeave x1 x2 s) := by
  unfold State.millLeave
  try dsimp only
  repeat' (first
    | with_reducible (first
      | assumption | refine keep_pressure ?_ | refine keep_onMill ?_ | refine keep_millSlots ?_))

theorem keep_writeList {a : State} {x1 : Nat} {x2 : Scan} {x3 : Nat} {x4 : List Word} {s : State} (h : Keep a s) :
    Keep a (State.writeList x1 x2 x3 x4 s) := by
  unfold State.writeList
  try dsimp only
  repeat' (first
    | with_reducible (first
      | assumption | refine keep_writeH ?_)
    | (split))

theorem keep_millAborted {a : State} {x1 : Nat} {x2 : Nat} {s : State} (h : Keep a s) :
    Keep a (State.millAborted x1 x2 s) := by
  unfold State.millAborted
  try dsimp only
  repeat' (first
    | with_reducible (first
      | assumption | refine keep_millLeave ?_ | refine keep_complete ?_)
    | (split))

end Sys2Proof.Laws
end

