-- ==== Sys2Proof/Laws/KeepPlaceOps.lean ====
section
/-! SUPPORT. What the operations of Machine/PlaceOps.lean keep. -/
namespace Sys2Proof.Laws
open Sys2Proof Sys2Proof.Machine

theorem keep_makeRoom {a : State} {x1 : Nat} {x2 : Nat} {x3 : Nat} {s : State} (h : Keep a s) :
    Keep a (State.makeRoom x1 x2 x3 s).2 := by
  unfold State.makeRoom
  try dsimp only
  repeat' (first
    | with_reducible (first
      | assumption | refine keep_onHarbour ?_ | refine keep_onPlace ?_)
    | (split))

theorem keep_makeRooms {a : State} {x1 : Nat} {x2 : Nat} {x3 : List Nat} {s : State} (h : Keep a s) :
    Keep a (State.makeRooms x1 x2 x3 s).2 := by
  exact Keep.foldlSnd (fun y x hy => by first | exact keep_makeRoom hy) x3 h

theorem keep_putPart {a : State} {x1 : Nat} {x2 : SlotState} {x3 : Nat} {x4 : Nat} {s : State} (h : Keep a s) :
    Keep a (State.putPart x1 x2 x3 x4 s) := by
  unfold State.putPart
  try dsimp only
  repeat' (first
    | with_reducible (first
      | assumption | refine keep_onLaunch ?_ | refine keep_setSlot ?_))

theorem keep_placeKernel {a : State} {x1 : Nat} {s : State} (h : Keep a s) :
    Keep a (State.placeKernel x1 s) := by
  unfold State.placeKernel
  try dsimp only
  repeat' (first
    | with_reducible (first
      | assumption | refine keep_makeRooms ?_ | refine keep_onLaunch ?_ | refine Keep.foldState ?_ ?_ | refine keep_putPart ?_
      | refine Keep.snd (by assumption) (keep_makeRooms ?_) | refine Keep.foldlSnd ?_ _ ?_ | refine Keep.foldlFst ?_ _ ?_
      | refine Keep.foldl ?_ _ ?_)
    | (intro _ _ _) | (intro _ _) | (split))

theorem keep_tryPlace {a : State} {x1 : Nat} {s : State} (h : Keep a s) :
    Keep a (State.tryPlace x1 s) := by
  unfold State.tryPlace
  try dsimp only
  repeat' (first
    | with_reducible (first
      | assumption | refine keep_placeKernel ?_ | refine keep_placeScan ?_)
    | (split))

theorem keep_clearPoolFull {a : State}  {s : State} (h : Keep a s) :
    Keep a (State.clearPoolFull s) := by
  unfold State.clearPoolFull
  try dsimp only
  repeat' (first
    | with_reducible (first
      | assumption | refine keep_onHb ?_))

theorem keep_placePlanned {a : State}  {s : State} (h : Keep a s) :
    Keep a (State.placePlanned s) := by
  unfold State.placePlanned
  try dsimp only
  repeat' (first
    | with_reducible (first
      | assumption | refine Keep.foldState ?_ ?_ | refine keep_tryPlace ?_ | refine keep_clearPoolFull ?_)
    | (intro _ _ _))

end Sys2Proof.Laws
end

