-- ==== Sys2Proof/Laws/KeepFenceOps.lean ====
section
/-! SUPPORT. What the operations of Machine/FenceOps.lean keep. -/
namespace Sys2Proof.Laws
open Sys2Proof Sys2Proof.Machine

theorem keep_putFence {a : State} {x1 : Nat} {x2 : Fence} {s : State} (h : Keep a s) :
    Keep a (State.putFence x1 x2 s) := by
  unfold State.putFence
  try dsimp only
  repeat' (first
    | with_reducible (first
      | assumption | refine keep_put0 ?_ | refine keep_onFu ?_))

theorem keep_reapFence {a : State} {x1 : Nat} {s : State} (h : Keep a s) :
    Keep a (State.reapFence x1 s) := by
  unfold State.reapFence
  try dsimp only
  repeat' (first
    | with_reducible (first
      | assumption | refine keep_put0 ?_ | refine keep_onHif ?_ | refine keep_onFu ?_)
    | (split))

theorem keep_writeMirrors {a : State} {x1 : Nat} {s : State} (h : Keep a s) :
    Keep a (State.writeMirrors x1 s) := by
  unfold State.writeMirrors
  try dsimp only
  repeat' (first
    | with_reducible (first
      | assumption | refine Keep.foldState ?_ ?_ | refine keep_vaWrite ?_)
    | (intro _ _ _) | (intro _ _) | (split))

theorem keep_mapCtxs {a : State} {x1 : PartCtx → PartCtx} {s : State} (h : Keep a s) :
    Keep a (State.mapCtxs x1 s) := by
  unfold State.mapCtxs
  try dsimp only
  repeat' (first
    | with_reducible (first
      | assumption)
    | (split) | (refine Keep.mk' ?_ (fun h => h) (Nat.le_refl _)))

theorem keep_releaseWaits {a : State} {x1 : Nat} {s : State} (h : Keep a s) :
    Keep a (State.releaseWaits x1 s) := by
  unfold State.releaseWaits
  try dsimp only
  repeat' (first
    | with_reducible (first
      | assumption | refine keep_onHm ?_ | refine keep_mapCtxs ?_)
    | (split))

theorem keep_abandonNow {a : State} {x1 : Nat} {s : State} (h : Keep a s) :
    Keep a (State.abandonNow x1 s) := by
  unfold State.abandonNow
  try dsimp only
  repeat' (first
    | with_reducible (first
      | assumption | refine keep_releaseWaits ?_ | refine keep_writeMirrors ?_ | refine keep_putFence ?_)
    | (split))

theorem keep_touchFence {a : State} {x1 : Nat} {s : State} (h : Keep a s) :
    Keep a (State.touchFence x1 s) := by
  unfold State.touchFence
  try dsimp only
  repeat' (first
    | with_reducible (first
      | assumption | refine keep_onFu ?_ | refine keep_abandonNow ?_ | refine keep_readEffectH ?_ | refine keep_event ?_)
    | (split))

theorem keep_abandonFence {a : State} {x1 : Nat} {s : State} (h : Keep a s) :
    Keep a (State.abandonFence x1 s) := by
  unfold State.abandonFence
  try dsimp only
  repeat' (first
    | with_reducible (first
      | assumption | refine keep_abandonNow ?_ | refine keep_touchFence ?_)
    | (split))

theorem keep_staleSignal {a : State} {x1 : Nat} {x2 : Word} {x3 : Word} {s : State} (h : Keep a s) :
    Keep a (State.staleSignal x1 x2 x3 s) := by
  unfold State.staleSignal
  try dsimp only
  repeat' (first
    | with_reducible (first
      | assumption | refine keep_event ?_ | refine keep_onFu ?_))

theorem keep_applySignal {a : State} {x1 : Nat} {x2 : Word} {x3 : Bool} {s : State} (h : Keep a s) :
    Keep a (State.applySignal x1 x2 x3 s) := by
  unfold State.applySignal
  try dsimp only
  repeat' (first
    | with_reducible (first
      | assumption | refine keep_touchFence ?_ | refine keep_staleSignal ?_ | refine keep_releaseWaits ?_
      | refine keep_writeMirrors ?_ | refine keep_putFence ?_)
    | (split))

theorem keep_advanceNodes {a : State} {x1 : Nat} {x2 : Graph} {x3 : List Nat} {s : State} (h : Keep a s) :
    Keep a (State.advanceNodes x1 x2 x3 s) := by
  induction x3 generalizing s with
  | nil => exact h
  | cons i t ih =>
    unfold State.advanceNodes
    dsimp only
    repeat' (first
      | with_reducible (first
        | assumption | refine ih ?_ | refine keep_unrunSignals ?_ | refine keep_onLaunch ?_)
      | split)

theorem keep_advanceGraph {a : State} {x1 : Nat} {s : State} (h : Keep a s) :
    Keep a (State.advanceGraph x1 s) := by
  unfold State.advanceGraph
  try dsimp only
  repeat' (first
    | with_reducible (first
      | assumption | refine keep_advanceNodes ?_ | refine keep_finishGraph ?_)
    | (split))

theorem keep_tryReady {a : State} {x1 : Nat} {s : State} (h : Keep a s) :
    Keep a (State.tryReady x1 s) := by
  unfold State.tryReady
  try dsimp only
  repeat' (first
    | with_reducible (first
      | assumption | refine keep_complete ?_ | refine keep_onLaunch ?_ | refine keep_onHm ?_ | refine keep_tryPlace ?_
      | refine keep_advanceGraph ?_)
    | (split))

theorem keep_settleOnce {a : State} {x1 : Bool} {s : State} (h : Keep a s) :
    Keep a (State.settleOnce x1 s) := by
  unfold State.settleOnce
  try dsimp only
  repeat' (first
    | with_reducible (first
      | assumption | refine Keep.foldState ?_ ?_ | refine keep_tryReady ?_ | refine keep_advanceGraph ?_
      | refine keep_placePlanned ?_)
    | (intro _ _ _) | (intro _ _) | (split))

theorem keep_settleRounds {a : State} {x1 : Bool} {x2 : Nat} {s : State} (h : Keep a s) :
    Keep a (State.settleRounds x1 x2 s) := by
  induction x2 generalizing s with
  | zero => exact h
  | succ n ih => exact Keep.ite (keep_settleOnce h) (ih (keep_settleOnce h))

theorem keep_reapFences {a : State}  {s : State} (h : Keep a s) :
    Keep a (State.reapFences s) := by
  unfold State.reapFences
  try dsimp only
  repeat' (first
    | with_reducible (first
      | assumption | refine Keep.foldState ?_ ?_ | refine keep_reapFence ?_)
    | (intro _ _ _))

theorem keep_settle {a : State}  {s : State} (h : Keep a s) :
    Keep a (State.settle s) := by
  unfold State.settle
  try dsimp only
  repeat' (first
    | with_reducible (first
      | assumption | refine keep_reapFences ?_ | refine keep_settleRounds ?_))

theorem keep_settleLate {a : State}  {s : State} (h : Keep a s) :
    Keep a (State.settleLate s) := by
  unfold State.settleLate
  try dsimp only
  repeat' (first
    | with_reducible (first
      | assumption | refine keep_reapFences ?_ | refine keep_settleRounds ?_))

theorem keep_takeSnapshot {a : State}  {s : State} (h : Keep a s) :
    Keep a (State.takeSnapshot s) := by
  unfold State.takeSnapshot
  try dsimp only
  repeat' (first
    | with_reducible (first
      | assumption | refine keep_onFu ?_ | refine keep_put0 ?_ | refine keep_event ?_)
    | (split))

theorem keep_applyCycle {a : State} {x1 : CycleResult} {s : State} (h : Keep a s) :
    Keep a (State.applyCycle x1 s) := by
  unfold State.applyCycle
  try dsimp only
  repeat' (first
    | with_reducible (first
      | assumption | refine keep_onFu ?_ | refine Keep.foldState ?_ ?_ | refine keep_stamp ?_ | refine keep_onLaunch ?_
      | refine keep_complete ?_ | refine keep_eventAt ?_)
    | (intro _ _ _) | (intro _ _) | (split))

end Sys2Proof.Laws
end

