-- ==== Sys2Proof/Laws/KeepBerthOps.lean ====
section
/-! SUPPORT. What the operations of Machine/BerthOps.lean keep. -/
namespace Sys2Proof.Laws
open Sys2Proof Sys2Proof.Machine

theorem keep_dbReject {a : State} {x1 : Nat} {x2 : Bool} {s : State} (h : Keep a s) :
    Keep a (State.dbReject x1 x2 s) := by
  unfold State.dbReject
  try dsimp only
  repeat' (first
    | with_reducible (first
      | assumption | refine keep_onHm ?_ | refine keep_onBerth ?_ | refine keep_statusArea ?_)
    | (split))

theorem keep_doorbell {a : State} {x1 : Nat} {x2 : Word32} {s : State} (h : Keep a s) :
    Keep a (State.doorbell x1 x2 s) := by
  unfold State.doorbell
  try dsimp only
  repeat' (first
    | with_reducible (first
      | assumption | refine keep_onBerth ?_ | refine keep_dbReject ?_)
    | (split))

theorem keep_execDbSubmit {a : State} {x1 : Master} {x2 : Option Nat} {x3 : Nat} {x4 : Word32} {s : State} (h : Keep a s) :
    ∀ t, execDbSubmit x1 x2 x3 x4 s = .next t → Keep a t := by
  unfold execDbSubmit
  refine Keep.clocked h ?_
  try dsimp only
  repeat' (first
    | with_reducible (first
      | assumption | refine keep_dbReject ?_ | refine keep_doorbell ?_)
    | (split))

theorem keep_execDbCplConsumed {a : State} {x1 : Master} {x2 : Option Nat} {x3 : Nat} {x4 : Word32} {s : State} (h : Keep a s) :
    ∀ t, execDbCplConsumed x1 x2 x3 x4 s = .next t → Keep a t := by
  unfold execDbCplConsumed
  refine Keep.clocked h ?_
  try dsimp only
  repeat' (first
    | with_reducible (first
      | assumption | refine keep_dbReject ?_ | refine keep_onBerth ?_)
    | (split))

theorem keep_execDbCapConsumed {a : State} {x1 : Master} {x2 : Option Nat} {x3 : Nat} {x4 : Word32} {s : State} (h : Keep a s) :
    ∀ t, execDbCapConsumed x1 x2 x3 x4 s = .next t → Keep a t := by
  unfold execDbCapConsumed
  refine Keep.clocked h ?_
  try dsimp only
  repeat' (first
    | with_reducible (first
      | assumption | refine keep_dbReject ?_ | refine keep_onBerth ?_)
    | (split))

theorem keep_execDbFenceSignal {a : State} {x1 : Master} {x2 : Option Nat} {x3 : Nat} {x4 : Word} {s : State} (h : Keep a s) :
    ∀ t, execDbFenceSignal x1 x2 x3 x4 s = .next t → Keep a t := by
  unfold execDbFenceSignal
  refine Keep.clocked h ?_
  try dsimp only
  repeat' (first
    | with_reducible (first
      | assumption | refine keep_dbReject ?_ | refine keep_onFu ?_)
    | (split))

theorem keep_admitLaunch {a : State} {x1 : Launch} {x2 : Bool} {x3 : Bool} {s : State} (h : Keep a s) :
    Keep a (State.admitLaunch x1 x2 x3 s) := by
  unfold State.admitLaunch
  try dsimp only
  repeat' (first
    | with_reducible (first
      | assumption | refine Keep.foldState ?_ ?_ | refine keep_touchFence ?_ | refine keep_onHm ?_ | refine keep_complete ?_)
    | (intro _ _ _) | (intro _ _) | (split))

theorem keep_instantiate {a : State} {x1 : Nat} {x2 : Nat} {s : State} (h : Keep a s) :
    Keep a (State.instantiate x1 x2 s) := by
  unfold State.instantiate
  try dsimp only
  repeat' (first
    | with_reducible (first
      | assumption | refine keep_onLaunch ?_ | refine keep_readEffectH ?_ | refine keep_settle ?_ | refine keep_admitLaunch ?_)
    | (split))

theorem keep_execWheelPosition {a : State} {x1 : Nat} {s : State} (h : Keep a s) :
    ∀ t, execWheelPosition x1 s = .next t → Keep a t := by
  unfold execWheelPosition
  refine Keep.clocked h ?_
  try dsimp only
  repeat' (first
    | with_reducible (first
      | assumption | refine keep_instantiate ?_ | refine keep_onHm ?_)
    | (split))

theorem keep_fetchManifest {a : State} {x1 : Nat} {s : State} (h : Keep a s) :
    Keep a (State.fetchManifest x1 s) := by
  unfold State.fetchManifest
  try dsimp only
  repeat' (first
    | with_reducible (first
      | assumption | refine keep_onBerth ?_ | refine keep_onHm ?_ | refine Keep.foldState ?_ ?_ | refine keep_readEffectVa ?_
      | refine keep_settle ?_ | refine keep_admitLaunch ?_ | refine keep_statusArea ?_)
    | (intro _ _ _) | (intro _ _) | (split))

theorem keep_execManifestFetch {a : State} {x1 : Nat} {s : State} (h : Keep a s) :
    ∀ t, execManifestFetch x1 s = .next t → Keep a t := by
  unfold execManifestFetch
  refine Keep.clocked h ?_
  try dsimp only
  repeat' (first
    | with_reducible (first
      | assumption | refine keep_fetchManifest ?_)
    | (split))

theorem keep_hmRefused {a : State}  {s : State} (h : Keep a s) :
    Keep a (State.hmRefused s) := by
  unfold State.hmRefused
  try dsimp only
  repeat' (first
    | with_reducible (first
      | assumption | refine keep_onHm ?_))

theorem keep_enableBerth {a : State} {x1 : Nat} {x2 : Word} {s : State} (h : Keep a s) :
    Keep a (State.enableBerth x1 x2 s) := by
  unfold State.enableBerth
  try dsimp only
  repeat' (first
    | with_reducible (first
      | assumption | refine keep_hmRefused ?_ | refine keep_statusArea ?_ | refine keep_onBerth ?_)
    | (split))

theorem keep_cfg0Enabled {a : State} {x1 : Nat} {x2 : Word} {s : State} (h : Keep a s) :
    Keep a (State.cfg0Enabled x1 x2 s) := by
  unfold State.cfg0Enabled
  try dsimp only
  repeat' (first
    | with_reducible (first
      | assumption | refine keep_onBerth ?_ | refine keep_hmRefused ?_)
    | (split))

theorem keep_disableBerth {a : State} {x1 : Nat} {x2 : Word} {s : State} (h : Keep a s) :
    Keep a (State.disableBerth x1 x2 s) := by
  unfold State.disableBerth
  try dsimp only
  repeat' (first
    | with_reducible (first
      | assumption | refine keep_onBerth ?_ | refine keep_hmRefused ?_ | refine keep_statusArea ?_)
    | (split))

theorem keep_execBerthEnable {a : State} {x1 : Master} {x2 : Nat} {x3 : Word} {s : State} (h : Keep a s) :
    ∀ t, execBerthEnable x1 x2 x3 s = .next t → Keep a t := by
  unfold execBerthEnable
  refine Keep.clocked h ?_
  try dsimp only
  repeat' (first
    | with_reducible (first
      | assumption | refine keep_hmRefused ?_ | refine keep_cfg0Enabled ?_ | refine keep_enableBerth ?_
      | refine keep_privWrite ?_ ?_)
    | (intro _ _ _) | (intro _ _) | (split))

theorem keep_execBerthDisable {a : State} {x1 : Master} {x2 : Nat} {x3 : Word} {s : State} (h : Keep a s) :
    ∀ t, execBerthDisable x1 x2 x3 s = .next t → Keep a t := by
  unfold execBerthDisable
  refine Keep.clocked h ?_
  try dsimp only
  repeat' (first
    | with_reducible (first
      | assumption | refine keep_hmRefused ?_ | refine keep_disableBerth ?_ | refine keep_privWrite ?_ ?_)
    | (intro _ _ _) | (intro _ _) | (split))

theorem keep_stopBerth {a : State} {x1 : Nat} {x2 : Bool} {s : State} (h : Keep a s) :
    Keep a (State.stopBerth x1 x2 s) := by
  unfold State.stopBerth
  try dsimp only
  repeat' (first
    | with_reducible (first
      | assumption | refine keep_statusArea ?_ | refine keep_onBerth ?_))

theorem keep_execBerthStop {a : State} {x1 : Master} {x2 : Nat} {s : State} (h : Keep a s) :
    ∀ t, execBerthStop x1 x2 s = .next t → Keep a t := by
  unfold execBerthStop
  refine Keep.clocked h ?_
  try dsimp only
  repeat' (first
    | with_reducible (first
      | assumption | refine keep_stopBerth ?_ | refine keep_privWrite ?_ ?_)
    | (intro _ _ _) | (intro _ _) | (split))

theorem keep_abortBerth {a : State} {x1 : Nat} {s : State} (h : Keep a s) :
    Keep a (State.abortBerth x1 s) := by
  unfold State.abortBerth
  try dsimp only
  repeat' (first
    | with_reducible (first
      | assumption | refine keep_onHm ?_ | refine keep_settle ?_ | refine Keep.foldState ?_ ?_ | refine keep_abortLaunch ?_)
    | (intro _ _ _))

theorem keep_execBerthAbort {a : State} {x1 : Master} {x2 : Nat} {s : State} (h : Keep a s) :
    ∀ t, execBerthAbort x1 x2 s = .next t → Keep a t := by
  unfold execBerthAbort
  refine Keep.clocked h ?_
  try dsimp only
  repeat' (first
    | with_reducible (first
      | assumption | refine keep_abortBerth ?_ | refine keep_privWrite ?_ ?_)
    | (intro _ _ _) | (intro _ _) | (split))

theorem keep_execLtQuotaWrite {a : State} {x1 : Master} {x2 : Nat} {x3 : Word} {s : State} (h : Keep a s) :
    ∀ t, execLtQuotaWrite x1 x2 x3 s = .next t → Keep a t := by
  unfold execLtQuotaWrite
  refine Keep.clocked h ?_
  try dsimp only
  repeat' (first
    | with_reducible (first
      | assumption | refine keep_hmRefused ?_ | refine keep_onHm ?_ | refine keep_privWrite ?_ ?_
      | refine Keep.foldlSnd ?_ _ ?_ | refine Keep.foldlFst ?_ _ ?_ | refine Keep.foldl ?_ _ ?_)
    | (intro _ _ _) | (intro _ _) | (split))

theorem keep_execHeartbeat {a : State}  {s : State} (h : Keep a s) :
    ∀ t, execHeartbeat s = .next t → Keep a t := by
  unfold execHeartbeat
  refine Keep.clocked h ?_
  try dsimp only
  repeat' (first
    | with_reducible (first
      | assumption | refine keep_onHm ?_))

theorem keep_unplace {a : State} {x1 : Nat} {x2 : Launch} {s : State} (h : Keep a s) :
    Keep a (State.unplace x1 x2 s) := by
  unfold State.unplace
  try dsimp only
  repeat' (first
    | with_reducible (first
      | assumption | refine keep_onLaunch ?_ | refine Keep.foldState ?_ ?_ | refine keep_freeSlot ?_)
    | (intro _ _ _) | (intro _ _) | (split))

theorem keep_takeover {a : State}  {s : State} (h : Keep a s) :
    Keep a (State.takeover s) := by
  unfold State.takeover
  try dsimp only
  repeat' (first
    | with_reducible (first
      | assumption | refine keep_onHm ?_ | refine Keep.foldState ?_ ?_ | refine keep_unplace ?_ | refine keep_drawn ?_)
    | (intro _ _ _) | (intro _ _) | (split))

theorem keep_execHeartbeatLoss {a : State}  {s : State} (h : Keep a s) :
    ∀ t, execHeartbeatLoss s = .next t → Keep a t := by
  unfold execHeartbeatLoss
  refine Keep.clocked h ?_
  try dsimp only
  repeat' (first
    | with_reducible (first
      | assumption | refine keep_takeover ?_ | refine keep_onHm ?_))

theorem keep_execSelfCheckReport {a : State}  {s : State} (h : Keep a s) :
    ∀ t, execSelfCheckReport s = .next t → Keep a t := by
  unfold execSelfCheckReport
  refine Keep.clocked h ?_
  try dsimp only
  repeat' (first
    | with_reducible (first
      | assumption | refine keep_takeover ?_))

theorem keep_hmLost {a : State}  {s : State} (h : Keep a s) :
    Keep a (State.hmLost s) := by
  unfold State.hmLost
  try dsimp only
  repeat' (first
    | with_reducible (first
      | assumption | refine keep_keepEvent ?_ | refine keep_event ?_ | refine keep_onHm ?_)
    | (split))

theorem keep_execHmLost {a : State} {x1 : Bool} {s : State} (h : Keep a s) :
    ∀ t, execHmLost x1 s = .next t → Keep a t := by
  unfold execHmLost
  refine Keep.clocked h ?_
  try dsimp only
  repeat' (first
    | with_reducible (first
      | assumption | refine keep_takeover ?_ | refine keep_hmLost ?_)
    | (split))

theorem keep_takeSignal {a : State} {x1 : Signal} {x2 : List Signal} {s : State} (h : Keep a s) :
    Keep a (State.takeSignal x1 x2 s) := by
  unfold State.takeSignal
  try dsimp only
  repeat' (first
    | with_reducible (first
      | assumption | refine keep_onHm ?_ | refine keep_onFu ?_))

theorem keep_execFenceSignalApply {a : State}  {s : State} (h : Keep a s) :
    ∀ t, execFenceSignalApply s = .next t → Keep a t := by
  unfold execFenceSignalApply
  refine Keep.clocked h ?_
  try dsimp only
  repeat' (first
    | with_reducible (first
      | assumption | refine keep_reapFence ?_ | refine keep_settle ?_ | refine keep_applySignal ?_ | refine keep_takeSignal ?_)
    | (split))

theorem keep_execHmFenceEvict {a : State} {x1 : Master} {x2 : Word} {s : State} (h : Keep a s) :
    ∀ t, execHmFenceEvict x1 x2 s = .next t → Keep a t := by
  unfold execHmFenceEvict
  refine Keep.clocked h ?_
  try dsimp only
  repeat' (first
    | with_reducible (first
      | assumption | refine keep_onFu ?_ | refine keep_privWrite ?_ ?_)
    | (intro _ _ _) | (intro _ _) | (split))

theorem keep_execWaitCycleApply {a : State}  {s : State} (h : Keep a s) :
    ∀ t, execWaitCycleApply s = .next t → Keep a t := by
  unfold execWaitCycleApply
  refine Keep.clocked h ?_
  try dsimp only
  repeat' (first
    | with_reducible (first
      | assumption | refine keep_takeSnapshot ?_ | refine keep_settleLate ?_ | refine keep_applyCycle ?_ | refine keep_onFu ?_)
    | (split))

theorem keep_execHmCycleAnswer {a : State} {x1 : Master} {x2 : Word} {s : State} (h : Keep a s) :
    ∀ t, execHmCycleAnswer x1 x2 s = .next t → Keep a t := by
  unfold execHmCycleAnswer
  refine Keep.clocked h ?_
  try dsimp only
  repeat' (first
    | with_reducible (first
      | assumption | refine keep_onFu ?_ | refine keep_hmRefused ?_ | refine keep_privWrite ?_ ?_)
    | (intro _ _ _) | (intro _ _) | (split))

theorem keep_graphCopy {a : State} {x1 : Graph} {x2 : Nat} {x3 : Nat} {s : State} (h : Keep a s) :
    Keep a (State.graphCopy x1 x2 x3 s) := by
  unfold State.graphCopy
  try dsimp only
  repeat' (first
    | with_reducible (first
      | assumption | refine Keep.foldState ?_ ?_ | refine keep_writeH ?_ | refine keep_readEffectH ?_)
    | (intro _ _ _) | (intro _ _) | (split))

theorem keep_writePatches {a : State} {x1 : Graph} {x2 : Nat} {x3 : Launch} {s : State} (h : Keep a s) :
    Keep a (State.writePatches x1 x2 x3 s) := by
  unfold State.writePatches
  try dsimp only
  repeat' (first
    | with_reducible (first
      | assumption | refine Keep.foldState ?_ ?_ | refine keep_graphWrite ?_)
    | (intro _ _ _))

theorem keep_endPatch {a : State} {x1 : Nat} {x2 : Status} {x3 : Word32} {s : State} (h : Keep a s) :
    Keep a (State.endPatch x1 x2 x3 s) := by
  unfold State.endPatch
  try dsimp only
  repeat' (first
    | with_reducible (first
      | assumption | refine keep_settle ?_ | refine keep_complete ?_ | refine keep_onLaunch ?_))

theorem keep_applyPatch {a : State} {x1 : Nat} {x2 : Launch} {s : State} (h : Keep a s) :
    Keep a (State.applyPatch x1 x2 s) := by
  unfold State.applyPatch
  try dsimp only
  repeat' (first
    | with_reducible (first
      | assumption | refine keep_endPatch ?_ | refine keep_graphCopy ?_ | refine keep_writePatches ?_
      | refine keep_graphWrite ?_)
    | (split) | (refine Keep.mk' ?_ (fun h => h) (Nat.le_refl _)))

theorem keep_execPatchApply {a : State} {x1 : Nat} {s : State} (h : Keep a s) :
    ∀ t, execPatchApply x1 s = .next t → Keep a t := by
  unfold execPatchApply
  refine Keep.clocked h ?_
  try dsimp only
  repeat' (first
    | with_reducible (first
      | assumption | refine keep_applyPatch ?_)
    | (split))

end Sys2Proof.Laws
end

