-- ==== Sys2Proof/Laws/KeepCrcOps.lean ====
section
/-! SUPPORT. What the operations of Machine/CrcOps.lean keep. -/
namespace Sys2Proof.Laws
open Sys2Proof Sys2Proof.Machine

theorem keep_followRef {a : State} {x1 : State} {s : State} (h : Keep a s) :
    Keep a (State.followRef x1 s) := by
  unfold State.followRef
  try dsimp only
  repeat' (first
    | with_reducible (first
      | assumption | refine keep_onCrc ?_))

theorem keep_execCrcPassEnd {a : State}  {s : State} (h : Keep a s) :
    ∀ t, execCrcPassEnd s = .next t → Keep a t := by
  unfold execCrcPassEnd
  refine Keep.clocked h ?_
  try dsimp only
  repeat' (first
    | with_reducible (first
      | assumption | refine keep_onCrc ?_ | refine keep_event ?_)
    | (split))

theorem keep_writeCommit {a : State} {x1 : Word} {s : State} (h : Keep a s) :
    Keep a (State.writeCommit x1 s) := by
  unfold State.writeCommit
  try dsimp only
  repeat' (first
    | with_reducible (first
      | assumption | refine keep_onCrc ?_))

theorem keep_execCrcRefWrite {a : State} {x1 : Master} {x2 : Word} {s : State} (h : Keep a s) :
    ∀ t, execCrcRefWrite x1 x2 s = .next t → Keep a t := by
  unfold execCrcRefWrite
  refine Keep.clocked h ?_
  try dsimp only
  repeat' (first
    | with_reducible (first
      | assumption | refine keep_writeCommit ?_ | refine keep_privWrite ?_ ?_)
    | (intro _ _ _) | (intro _ _))

theorem keep_execCrcAdopt {a : State} {x1 : Master} {s : State} (h : Keep a s) :
    ∀ t, execCrcAdopt x1 s = .next t → Keep a t := by
  unfold execCrcAdopt
  refine Keep.clocked h ?_
  try dsimp only
  repeat' (first
    | with_reducible (first
      | assumption | refine keep_writeCommit ?_ | refine keep_privWrite ?_ ?_)
    | (intro _ _ _) | (intro _ _))

end Sys2Proof.Laws
end

