-- ==== Sys2Proof/Laws/KeepRequestOps.lean ====
section
/-! SUPPORT. What the operations of Machine/RequestOps.lean keep. -/
namespace Sys2Proof.Laws
open Sys2Proof Sys2Proof.Machine

theorem keep_journalPut {a : State} {x1 : Nat} {x2 : Proc} {s : State} (h : Keep a s) :
    Keep a (State.journalPut x1 x2 s) := by
  unfold State.journalPut
  try dsimp only
  repeat' (first
    | with_reducible (first
      | assumption | refine keep_onHb ?_))

theorem keep_journalClear {a : State} {x1 : Nat} {s : State} (h : Keep a s) :
    Keep a (State.journalClear x1 s) := by
  unfold State.journalClear
  try dsimp only
  repeat' (first
    | with_reducible (first
      | assumption | refine keep_onHb ?_)
    | (split))

theorem keep_onProc {a : State} {x1 : Nat} {x2 : Proc → Proc} {s : State} (h : Keep a s) :
    Keep a (State.onProc x1 x2 s) := by
  unfold State.onProc
  try dsimp only
  repeat' (first
    | with_reducible (first
      | assumption | refine keep_journalPut ?_)
    | (split))

theorem keep_fenceSpeaker {a : State} {x1 : Speaker} {s : State} (h : Keep a s) :
    Keep a (State.fenceSpeaker x1 s) := by
  unfold State.fenceSpeaker
  try dsimp only
  repeat' (first
    | with_reducible (first
      | assumption | refine keep_onTile ?_ | refine keep_onHb ?_)
    | (split))

theorem keep_dropSpeech {a : State} {x1 : Speaker} {x2 : Nat} {x3 : Nat} {s : State} (h : Keep a s) :
    Keep a (State.dropSpeech x1 x2 x3 s) := by
  unfold State.dropSpeech
  try dsimp only
  repeat' (first
    | with_reducible (first
      | assumption | refine keep_onHb ?_ | refine keep_event ?_ | refine keep_fenceSpeaker ?_)
    | (split))

theorem keep_unheard {a : State} {x1 : Speaker} {s : State} (h : Keep a s) :
    Keep a (State.unheard x1 s) := by
  unfold State.unheard
  try dsimp only
  repeat' (first
    | with_reducible (first
      | assumption | refine keep_dropSpeech ?_))

theorem keep_speak {a : State} {x1 : Speaker} {x2 : State → State} {s : State} (h : Keep a s) (hx2 : ∀ u, Keep a u → Keep a (x2 u)) :
    Keep a (State.speak x1 x2 s) := by
  unfold State.speak
  try dsimp only
  repeat' (first
    | with_reducible (first
      | assumption | refine keep_unheard ?_)
    | apply hx2 | (split))

theorem keep_execStaleSpeaker {a : State} {x1 : Speaker} {x2 : Nat} {x3 : Nat} {s : State} (h : Keep a s) :
    ∀ t, execStaleSpeaker x1 x2 x3 s = .next t → Keep a t := by
  unfold execStaleSpeaker
  refine Keep.clocked h ?_
  try dsimp only
  repeat' (first
    | with_reducible (first
      | assumption | refine keep_dropSpeech ?_)
    | (split))

end Sys2Proof.Laws
end

