-- ==== Sys2Proof/Laws/KeepSaveOps.lean ====
section
/-! SUPPORT. What the operations of Machine/SaveOps.lean keep. -/
namespace Sys2Proof.Laws
open Sys2Proof Sys2Proof.Machine

theorem keep_poolWrite {a : State} {x1 : Nat} {x2 : List (Nat × Nat)} {x3 : Beats} {s : State} (h : Keep a s) :
    Keep a (State.poolWrite x1 x2 x3 s) := by
  unfold State.poolWrite
  try dsimp only
  repeat' (first
    | with_reducible (first
      | assumption | refine Keep.foldState ?_ ?_ | refine keep_hbmPut ?_)
    | (intro _ _ _) | (intro _ _) | (split) | (refine Keep.mk' ?_ (fun h => h) (Nat.le_refl _)))

theorem keep_poolPut {a : State} {x1 : Nat} {x2 : Nat} {x3 : Nat} {x4 : SavedRec} {s : State} (h : Keep a s) :
    Keep a (State.poolPut x1 x2 x3 x4 s).2 := by
  unfold State.poolPut
  try dsimp only
  repeat' (first
    | with_reducible (first
      | assumption | refine keep_poolWrite ?_))

theorem keep_reservePut {a : State} {x1 : Nat} {x2 : Nat} {x3 : SavedRec} {s : State} (h : Keep a s) :
    Keep a (State.reservePut x1 x2 x3 s).2 := by
  unfold State.reservePut
  try dsimp only
  repeat' (first
    | with_reducible (first
      | assumption | refine keep_poolPut ?_))

theorem keep_evictPut {a : State} {x1 : Nat} {x2 : SavedRec} {s : State} (h : Keep a s) :
    Keep a (State.evictPut x1 x2 s).2 := by
  unfold State.evictPut
  try dsimp only
  repeat' (first
    | with_reducible (first
      | assumption | refine keep_poolPut ?_ | refine Keep.snd (by assumption) (keep_poolPut ?_))
    | (split))

theorem keep_slotRecordPut {a : State} {x1 : Nat} {x2 : Nat} {x3 : Nat} {x4 : Query} {s : State} (h : Keep a s) :
    Keep a (State.slotRecordPut x1 x2 x3 x4 s) := by
  unfold State.slotRecordPut
  try dsimp only
  repeat' (first
    | with_reducible (first
      | assumption | refine keep_poolWrite ?_)
    | (split))

end Sys2Proof.Laws
end

