-- ==== Sys2Proof/Laws/KeepSlotOps.lean ====
section
/-! SUPPORT. What the operations of Machine/SlotOps.lean keep. -/
namespace Sys2Proof.Laws
open Sys2Proof Sys2Proof.Machine

theorem keep_startDrain {a : State} {x1 : Bool} {x2 : Nat} {x3 : Nat} {s : State} (h : Keep a s) :
    Keep a (State.startDrain x1 x2 x3 s) := by
  unfold State.startDrain
  try dsimp only
  repeat' (first
    | with_reducible (first
      | assumption | refine keep_onPlace ?_ | refine keep_onTile ?_ | refine keep_onSlot ?_)
    | (split))

theorem keep_enterRun {a : State} {x1 : Nat} {x2 : Nat} {s : State} (h : Keep a s) :
    Keep a (State.enterRun x1 x2 s) := by
  unfold State.enterRun
  try dsimp only
  repeat' (first
    | with_reducible (first
      | assumption | refine keep_startDrain ?_ | refine keep_onSlot ?_)
    | (split))

theorem keep_execLoadComplete {a : State} {x1 : Nat} {x2 : Nat} {s : State} (h : Keep a s) :
    ∀ t, execLoadComplete x1 x2 s = .next t → Keep a t := by
  unfold execLoadComplete
  refine Keep.clocked h ?_
  try dsimp only
  repeat' (first
    | with_reducible (first
      | assumption | refine keep_settle ?_ | refine keep_abortLaunch ?_ | refine keep_onLaunch ?_ | refine keep_enterRun ?_
      | refine keep_onCtx ?_)
    | (split))

theorem keep_execRestoreComplete {a : State} {x1 : Nat} {x2 : Nat} {x3 : Bool} {x4 : Bool} {s : State} (h : Keep a s) :
    ∀ t, execRestoreComplete x1 x2 x3 x4 s = .next t → Keep a t := by
  unfold execRestoreComplete
  refine Keep.clocked h ?_
  try dsimp only
  repeat' (first
    | with_reducible (first
      | assumption | refine keep_dropPoolRecord ?_ | refine keep_releaseRecord ?_ | refine keep_settle ?_
      | refine keep_failPart ?_ | refine keep_poisonErr ?_ | refine keep_enterRun ?_ | refine keep_onTile ?_
      | refine keep_onCtx ?_)
    | (split))

theorem keep_cancelReqs {a : State} {x1 : Nat} {x2 : Nat} {s : State} (h : Keep a s) :
    Keep a (State.cancelReqs x1 x2 s) := by
  unfold State.cancelReqs
  try dsimp only
  repeat' (first
    | with_reducible (first
      | assumption | refine keep_onHif ?_ | refine keep_onLk ?_))

theorem keep_preemptPart {a : State} {x1 : Nat} {x2 : Nat} {s : State} (h : Keep a s) :
    Keep a (State.preemptPart x1 x2 s) := by
  unfold State.preemptPart
  try dsimp only
  repeat' (first
    | with_reducible (first
      | assumption | refine keep_onCtx ?_ | refine keep_cancelReqs ?_ | refine keep_dropLatches ?_ | refine keep_startDrain ?_
      | refine keep_onSlot ?_)
    | (split))

theorem keep_preemptLaunch {a : State} {x1 : Nat} {s : State} (h : Keep a s) :
    Keep a (State.preemptLaunch x1 s) := by
  unfold State.preemptLaunch
  try dsimp only
  repeat' (first
    | with_reducible (first
      | assumption | refine Keep.foldState ?_ ?_ | refine keep_preemptPart ?_ | refine keep_onLaunch ?_)
    | (intro _ _ _) | (intro _ _) | (split))

theorem keep_execBudgetPreempt {a : State} {x1 : Nat} {s : State} (h : Keep a s) :
    ∀ t, execBudgetPreempt x1 s = .next t → Keep a t := by
  unfold execBudgetPreempt
  refine Keep.clocked h ?_
  try dsimp only
  repeat' (first
    | with_reducible (first
      | assumption | refine keep_preemptLaunch ?_)
    | (split))

theorem keep_execDrainComplete {a : State} {x1 : Nat} {x2 : Nat} {s : State} (h : Keep a s) :
    ∀ t, execDrainComplete x1 x2 s = .next t → Keep a t := by
  unfold execDrainComplete
  refine Keep.clocked h ?_
  try dsimp only
  repeat' (first
    | with_reducible (first
      | assumption | refine keep_onSlot ?_ | refine keep_cancelReqs ?_)
    | (split))

theorem keep_saveSlot {a : State} {x1 : Nat} {x2 : Nat} {x3 : Slot} {x4 : Launch} {s : State} (h : Keep a s) :
    Keep a (State.saveSlot x1 x2 x3 x4 s) := by
  unfold State.saveSlot
  try dsimp only
  repeat' (first
    | with_reducible (first
      | assumption | refine keep_onLaunch ?_ | refine keep_freeSlot ?_ | refine keep_onPlace ?_ | refine keep_onHm ?_)
    | (split))

theorem keep_closeSave {a : State} {x1 : Nat} {x2 : Bool} {x3 : Nat} {s : State} (h : Keep a s) :
    Keep a (State.closeSave x1 x2 x3 s) := by
  unfold State.closeSave
  try dsimp only
  repeat' (first
    | with_reducible (first
      | assumption | refine keep_saveSlot ?_ | refine keep_onTide ?_)
    | (split))

theorem keep_execSaveWindowClose {a : State} {x1 : Nat} {x2 : Nat} {x3 : Bool} {s : State} (h : Keep a s) :
    ∀ t, execSaveWindowClose x1 x2 x3 s = .next t → Keep a t := by
  unfold execSaveWindowClose
  refine Keep.clocked h ?_
  try dsimp only
  repeat' (first
    | with_reducible (first
      | assumption | refine keep_settle ?_ | refine Keep.foldState ?_ ?_ | refine keep_closeSave ?_)
    | (intro _ _ _) | (intro _ _) | (split))

theorem keep_redMismatch {a : State} {x1 : Nat} {s : State} (h : Keep a s) :
    Keep a (State.redMismatch x1 s) := by
  unfold State.redMismatch
  try dsimp only
  repeat' (first
    | with_reducible (first
      | assumption | refine keep_onCtx ?_ | refine keep_abortLaunch ?_ | refine keep_markLost ?_ | refine Keep.foldState ?_ ?_)
    | (intro _ _ _) | (intro _ _) | (split))

theorem keep_execPartRetire {a : State} {x1 : Nat} {x2 : Nat} {s : State} (h : Keep a s) :
    ∀ t, execPartRetire x1 x2 s = .next t → Keep a t := by
  unfold execPartRetire
  refine Keep.clocked h ?_
  try dsimp only
  repeat' (first
    | with_reducible (first
      | assumption | refine keep_onLaunch ?_ | refine keep_onSlot ?_ | refine keep_settle ?_ | refine keep_redMismatch ?_)
    | (split))

theorem keep_execLaunchComplete {a : State} {x1 : Nat} {s : State} (h : Keep a s) :
    ∀ t, execLaunchComplete x1 s = .next t → Keep a t := by
  unfold execLaunchComplete
  refine Keep.clocked h ?_
  try dsimp only
  repeat' (first
    | with_reducible (first
      | assumption | refine keep_settle ?_ | refine keep_complete ?_)
    | (split))

theorem keep_abortEnds {a : State} {x1 : Nat} {x2 : Nat} {s : State} (h : Keep a s) :
    Keep a (State.abortEnds x1 x2 s) := by
  unfold State.abortEnds
  try dsimp only
  repeat' (first
    | with_reducible (first
      | assumption | refine keep_onCtx ?_ | refine keep_orphan ?_ | refine keep_onLaunch ?_ | refine keep_settle ?_
      | refine keep_complete ?_)
    | (split))

theorem keep_execAbortComplete {a : State} {x1 : Nat} {x2 : Nat} {s : State} (h : Keep a s) :
    ∀ t, execAbortComplete x1 x2 s = .next t → Keep a t := by
  unfold execAbortComplete
  refine Keep.clocked h ?_
  try dsimp only
  repeat' (first
    | with_reducible (first
      | assumption | refine keep_abortEnds ?_))

theorem keep_evictOne {a : State} {x1 : Nat} {s : State} (h : Keep a s) :
    Keep a (State.evictOne x1 s) := by
  unfold State.evictOne
  try dsimp only
  repeat' (first
    | with_reducible (first
      | assumption | refine keep_evictPut ?_ | refine keep_onLaunch ?_ | refine keep_onHarbour ?_ | refine keep_onPlace ?_
      | refine Keep.snd (by assumption) (keep_evictPut ?_))
    | (split))

theorem keep_execEvictionComplete {a : State} {x1 : Nat} {s : State} (h : Keep a s) :
    ∀ t, execEvictionComplete x1 s = .next t → Keep a t := by
  unfold execEvictionComplete
  refine Keep.clocked h ?_
  try dsimp only
  repeat' (first
    | with_reducible (first
      | assumption | refine keep_settle ?_ | refine keep_evictOne ?_)
    | (split))

theorem keep_execSaveHeapZeroingDone {a : State} {x1 : Nat} {s : State} (h : Keep a s) :
    ∀ t, execSaveHeapZeroingDone x1 s = .next t → Keep a t := by
  unfold execSaveHeapZeroingDone
  refine Keep.clocked h ?_
  try dsimp only
  repeat' (first
    | with_reducible (first
      | assumption | refine keep_settle ?_ | refine keep_onPlace ?_)
    | (split))

theorem keep_execTileError {a : State} {x1 : Nat} {x2 : Nat} {x3 : Nat} {x4 : Word} {s : State} (h : Keep a s) :
    ∀ t, execTileError x1 x2 x3 x4 s = .next t → Keep a t := by
  unfold execTileError
  refine Keep.clocked h ?_
  try dsimp only
  repeat' (first
    | with_reducible (first
      | assumption | refine keep_settle ?_ | refine keep_poisonErr ?_ | refine keep_onTile ?_ | refine keep_tileErr ?_)
    | (split))

end Sys2Proof.Laws
end

