-- ==== Sys2Proof/Laws/KeepStreamOps.lean ====
section
/-! SUPPORT. What the operations of Machine/StreamOps.lean keep. -/
namespace Sys2Proof.Laws
open Sys2Proof Sys2Proof.Machine

theorem keep_checkSlot {a : State} {x1 : Nat} {s : State} (h : Keep a s) :
    Keep a (State.checkSlot x1 s) := by
  unfold State.checkSlot
  try dsimp only
  repeat' (first
    | with_reducible (first
      | assumption | refine keep_event ?_ | refine keep_onSec ?_)
    | (split))

theorem keep_checkPortSlot {a : State} {x1 : Nat} {s : State} (h : Keep a s) :
    Keep a (State.checkPortSlot x1 s) := by
  unfold State.checkPortSlot
  try dsimp only
  repeat' (first
    | with_reducible (first
      | assumption | refine keep_checkSlot ?_)
    | (split))

theorem keep_launchFlit {a : State} {x1 : Nat} {x2 : Flit} {s : State} (h : Keep a s) :
    Keep a (State.launchFlit x1 x2 s) := by
  unfold State.launchFlit
  try dsimp only
  repeat' (first
    | with_reducible (first
      | assumption | refine keep_emit ?_ | refine keep_onLg ?_))

theorem keep_sendOn {a : State} {x1 : Nat} {x2 : Flit} {s : State} (h : Keep a s) :
    Keep a (State.sendOn x1 x2 s) := by
  unfold State.sendOn
  try dsimp only
  repeat' (first
    | with_reducible (first
      | assumption | refine keep_launchFlit ?_ | refine keep_onLg ?_ | refine keep_readEffectH ?_ | refine keep_speak ?_ ?_)
    | (intro _ _ _) | (intro _ _) | (split))

theorem keep_sendWaiting {a : State} {x1 : Nat} {s : State} (h : Keep a s) :
    Keep a (State.sendWaiting x1 s) := by
  unfold State.sendWaiting
  extract_lets t step r
  refine keep_onLk ?_
  have H : ∀ (xs : List Unacked) (y : State × List Unacked × Bool), Keep a y.1 → Keep a (xs.foldl step y).1 := by
    intro xs
    induction xs with
    | nil => exact fun _ h => h
    | cons x xs ih =>
      refine fun y h => ih _ ?_
      simp only [step]
      split
      · exact h
      · split
        · exact h
        · exact keep_sendOn h
  exact H _ _ h

theorem keep_sendAll {a : State}  {s : State} (h : Keep a s) :
    Keep a (State.sendAll s) := by
  unfold State.sendAll
  try dsimp only
  repeat' (first
    | with_reducible (first
      | assumption | refine Keep.foldState ?_ ?_ | refine keep_sendWaiting ?_)
    | (intro _ _ _))

theorem keep_sendTxn {a : State} {x1 : Nat} {x2 : Nat} {x3 : Nat} {x4 : List Word} {x5 : List Bool} {s : State} (h : Keep a s) :
    Keep a (State.sendTxn x1 x2 x3 x4 x5 s) := by
  unfold State.sendTxn
  try dsimp only
  repeat' (first
    | with_reducible (first
      | assumption | refine keep_sendWaiting ?_ | refine keep_emit ?_ | refine keep_onLk ?_))

theorem keep_sendData {a : State} {x1 : Nat} {x2 : Nat} {x3 : Nat} {x4 : List Word} {x5 : Beats} {s : State} (h : Keep a s) :
    Keep a (State.sendData x1 x2 x3 x4 x5 s) := by
  unfold State.sendData
  try dsimp only
  repeat' (first
    | with_reducible (first
      | assumption | refine keep_sendTxn ?_))

theorem keep_ackStream {a : State} {x1 : Nat} {x2 : Nat} {s : State} (h : Keep a s) :
    Keep a (State.ackStream x1 x2 s) := by
  unfold State.ackStream
  try dsimp only
  repeat' (first
    | with_reducible (first
      | assumption | refine keep_sendTxn ?_ | refine keep_onLk ?_))

theorem keep_deliverStream {a : State} {x1 : Nat} {x2 : Nat} {s : State} (h : Keep a s) :
    Keep a (State.deliverStream x1 x2 s) := by
  induction x2 generalizing s with
  | zero => exact h
  | succ n ih =>
    unfold State.deliverStream
    dsimp only
    split
    · exact h
    · exact ih (keep_onLk h)

theorem keep_receiveStream {a : State} {x1 : Flit} {s : State} (h : Keep a s) :
    Keep a (State.receiveStream x1 s) := by
  unfold State.receiveStream
  try dsimp only
  repeat' (first
    | with_reducible (first
      | assumption | refine keep_deliverStream ?_ | refine keep_onLk ?_ | refine keep_ackStream ?_)
    | (split))

theorem keep_linkDown {a : State} {x1 : Nat} {s : State} (h : Keep a s) :
    Keep a (State.linkDown x1 s) := by
  unfold State.linkDown
  try dsimp only
  repeat' (first
    | with_reducible (first
      | assumption | refine keep_drawn ?_ | refine keep_event ?_))

theorem keep_portLeaves {a : State} {x1 : Nat} {x2 : PortSt} {s : State} (h : Keep a s) :
    Keep a (State.portLeaves x1 x2 s) := by
  unfold State.portLeaves
  extract_lets gs lost s1 waits
  exact keep_sendAll (keep_onLk (Keep.foldState (keep_onPort h) fun _ _ hu => keep_onLg hu))

theorem keep_retrain {a : State} {x1 : Nat} {s : State} (h : Keep a s) :
    Keep a (State.retrain x1 s) := by
  unfold State.retrain
  try dsimp only
  repeat' (first
    | with_reducible (first
      | assumption | refine keep_onPort ?_ | refine keep_portLeaves ?_)
    | (split))

theorem keep_portDown {a : State} {x1 : Nat} {s : State} (h : Keep a s) :
    Keep a (State.portDown x1 s) := by
  unfold State.portDown
  try dsimp only
  repeat' (first
    | with_reducible (first
      | assumption | refine keep_linkDown ?_ | refine keep_portLeaves ?_))

theorem keep_takeAck {a : State} {x1 : Nat} {x2 : Flit} {s : State} (h : Keep a s) :
    Keep a (State.takeAck x1 x2 s) := by
  unfold State.takeAck
  try dsimp only
  repeat' (first
    | with_reducible (first
      | assumption | refine keep_onLg ?_ | refine keep_retrain ?_ | refine keep_onPort ?_ | refine Keep.foldState ?_ ?_
      | refine keep_emit ?_)
    | (intro _ _ _) | (intro _ _) | (split))

end Sys2Proof.Laws
end

