-- ==== Sys2Proof/Laws/KeepHarbourOps.lean ====
section
/-! SUPPORT. What the operations of Machine/HarbourOps.lean keep. -/
namespace Sys2Proof.Laws
open Sys2Proof Sys2Proof.Machine

theorem keep_bindUnit {a : State} {x1 : Nat} {x2 : Nat} {x3 : Nat} {x4 : Nat} {s : State} (h : Keep a s) :
    Keep a (State.bindUnit x1 x2 x3 x4 s) := by
  unfold State.bindUnit
  try dsimp only
  repeat' (first
    | with_reducible (first
      | assumption | refine keep_onTile ?_ | refine keep_onPlace ?_ | refine keep_onHb ?_)
    | (split))

theorem keep_unbindUnit {a : State} {x1 : Nat} {x2 : Nat} {s : State} (h : Keep a s) :
    Keep a (State.unbindUnit x1 x2 s) := by
  unfold State.unbindUnit
  try dsimp only
  repeat' (first
    | with_reducible (first
      | assumption | refine keep_onPlace ?_ | refine keep_onHb ?_)
    | (split))

theorem keep_zeroUnit {a : State} {x1 : Nat} {x2 : Nat} {s : State} (h : Keep a s) :
    Keep a (State.zeroUnit x1 x2 s) := by
  unfold State.zeroUnit
  try dsimp only
  repeat' (first
    | with_reducible (first
      | assumption | refine keep_onPlace ?_ | refine keep_onHb ?_ | refine keep_onChan ?_ | refine Keep.hbmClear ?_)
    | (split))

theorem keep_setMillSlots {a : State} {x1 : Nat} {x2 : Nat} {x3 : Nat} {s : State} (h : Keep a s) :
    Keep a (State.setMillSlots x1 x2 x3 s) := by
  unfold State.setMillSlots
  try dsimp only
  repeat' (first
    | with_reducible (first
      | assumption | refine keep_onMill ?_ ))

theorem keep_procResult {a : State} {x1 : Nat} {x2 : Nat} {x3 : Nat} {x4 : BitVec 8} {s : State} (h : Keep a s) :
    Keep a (State.procResult x1 x2 x3 x4 s) := by
  unfold State.procResult
  try dsimp only
  repeat' (first
    | with_reducible (first
      | assumption | refine keep_put0 ?_))

theorem keep_hbRefused {a : State}  {s : State} (h : Keep a s) :
    Keep a (State.hbRefused s) := by
  unfold State.hbRefused
  try dsimp only
  repeat' (first
    | with_reducible (first
      | assumption | refine keep_onHb ?_))

theorem keep_acceptProc {a : State} {x1 : Nat} {x2 : List Word} {s : State} (h : Keep a s) :
    Keep a (State.acceptProc x1 x2 s) := by
  unfold State.acceptProc
  try dsimp only
  repeat' (first
    | with_reducible (first
      | assumption | refine keep_journalPut ?_))

theorem keep_execHbReq {a : State} {x1 : Master} {x2 : Word} {s : State} (h : Keep a s) :
    ∀ t, execHbReq x1 x2 s = .next t → Keep a t := by
  unfold execHbReq
  refine Keep.clocked h ?_
  try dsimp only
  repeat' (first
    | with_reducible (first
      | assumption | refine keep_event ?_ | refine keep_hbRefused ?_ | refine Keep.foldState ?_ ?_ | refine keep_readEffectH ?_
      | refine keep_acceptProc ?_ | refine keep_procResult ?_ | refine keep_privWrite ?_ ?_)
    | (intro _ _ _) | (intro _ _) | (split))

theorem keep_procEvent {a : State} {x1 : Nat} {x2 : Nat} {x3 : List Word} {s : State} (h : Keep a s) :
    Keep a (State.procEvent x1 x2 x3 s) := by
  unfold State.procEvent
  try dsimp only
  repeat' (first
    | with_reducible (first
      | assumption | refine keep_keepEvent ?_ | refine keep_event ?_)
    | (split))

theorem keep_endTransfer {a : State} {x1 : Nat} {x2 : Nat} {s : State} (h : Keep a s) :
    Keep a (State.endTransfer x1 x2 s) := by
  unfold State.endTransfer
  try dsimp only
  repeat' (first
    | with_reducible (first
      | assumption | refine keep_onChan ?_))

theorem keep_rollback {a : State} {x1 : Nat} {x2 : Nat} {x3 : Nat} {s : State} (h : Keep a s) :
    Keep a (State.rollback x1 x2 x3 s) := by
  unfold State.rollback
  try dsimp only
  repeat' (first
    | with_reducible (first
      | assumption | refine keep_onProc ?_ | refine Keep.foldState ?_ ?_ | refine keep_zeroUnit ?_ | refine keep_onPlace ?_
      | refine keep_endTransfer ?_ | refine keep_onHb ?_ | refine keep_journalClear ?_ | refine keep_procResult ?_
      | refine keep_procEvent ?_)
    | (intro _ _ _) | (intro _ _) | (split))

theorem keep_endDrain {a : State} {x1 : Nat} {s : State} (h : Keep a s) :
    Keep a (State.endDrain x1 s) := by
  unfold State.endDrain
  try dsimp only
  repeat' (first
    | with_reducible (first
      | assumption | refine keep_onProc ?_)
    | (split))

theorem keep_beginSave {a : State} {x1 : Nat} {s : State} (h : Keep a s) :
    Keep a (State.beginSave x1 s) := by
  unfold State.beginSave
  try dsimp only
  repeat' (first
    | with_reducible (first
      | assumption | refine keep_onProc ?_)
    | (split))

theorem keep_beginZero {a : State} {x1 : Nat} {s : State} (h : Keep a s) :
    Keep a (State.beginZero x1 s) := by
  unfold State.beginZero
  try dsimp only
  repeat' (first
    | with_reducible (first
      | assumption | refine keep_onProc ?_)
    | (split))

theorem keep_beginTransfer {a : State} {x1 : Nat} {s : State} (h : Keep a s) :
    Keep a (State.beginTransfer x1 s) := by
  unfold State.beginTransfer
  try dsimp only
  repeat' (first
    | with_reducible (first
      | assumption | refine Keep.foldState ?_ ?_ | refine keep_onChan ?_ | refine keep_onProc ?_)
    | (intro _ _ _) | (intro _ _) | (split))

theorem keep_advanceProc {a : State} {x1 : Nat} {s : State} (h : Keep a s) :
    Keep a (State.advanceProc x1 s) := by
  unfold State.advanceProc
  try dsimp only
  repeat' (first
    | with_reducible (first
      | assumption | refine keep_beginTransfer ?_ | refine keep_beginZero ?_ | refine keep_beginSave ?_
      | refine keep_endDrain ?_))

theorem keep_advanceProcs {a : State}  {s : State} (h : Keep a s) :
    Keep a (State.advanceProcs s) := by
  unfold State.advanceProcs
  try dsimp only
  repeat' (first
    | with_reducible (first
      | assumption | refine Keep.foldState ?_ ?_ | refine keep_advanceProc ?_)
    | (intro _ _ _))

theorem keep_execHbCancel {a : State} {x1 : Master} {x2 : Word} {s : State} (h : Keep a s) :
    ∀ t, execHbCancel x1 x2 s = .next t → Keep a t := by
  unfold execHbCancel
  refine Keep.clocked h ?_
  try dsimp only
  repeat' (first
    | with_reducible (first
      | assumption | refine keep_hbRefused ?_ | refine keep_settle ?_ | refine keep_rollback ?_ | refine keep_privWrite ?_ ?_)
    | (intro _ _ _) | (intro _ _) | (split))

theorem keep_execRebindDrain {a : State} {x1 : Nat} {s : State} (h : Keep a s) :
    ∀ t, execRebindDrain x1 s = .next t → Keep a t := by
  unfold execRebindDrain
  refine Keep.clocked h ?_
  try dsimp only
  repeat' (first
    | with_reducible (first
      | assumption | refine keep_onProc ?_ | refine Keep.foldState ?_ ?_ | refine keep_onPlace ?_ | refine keep_advanceProc ?_
      | refine keep_preemptLaunch ?_)
    | (intro _ _ _) | (intro _ _) | (split))

theorem keep_poolRecord {a : State} {x1 : Nat} {x2 : Nat} {x3 : SavedRec} {s : State} (h : Keep a s) :
    Keep a (State.poolRecord x1 x2 x3 s) := by
  unfold State.poolRecord
  try dsimp only
  repeat' (first
    | with_reducible (first
      | assumption | refine keep_reservePut ?_ | refine keep_onLaunch ?_ | refine keep_onHarbour ?_ | refine keep_onPlace ?_))

theorem keep_execRebindSave {a : State} {x1 : Nat} {s : State} (h : Keep a s) :
    ∀ t, execRebindSave x1 s = .next t → Keep a t := by
  unfold execRebindSave
  refine Keep.clocked h ?_
  try dsimp only
  repeat' (first
    | with_reducible (first
      | assumption | refine keep_advanceProc ?_ | refine Keep.foldState ?_ ?_ | refine keep_poolRecord ?_
      | refine keep_onProc ?_)
    | (intro _ _ _) | (intro _ _) | (split))

theorem keep_ungateFor {a : State} {x1 : Nat} {s : State} (h : Keep a s) :
    Keep a (State.ungateFor x1 s) := by
  unfold State.ungateFor
  try dsimp only
  repeat' (first
    | with_reducible (first
      | assumption | refine keep_onCluster ?_))

theorem keep_execRebindZeroDone {a : State} {x1 : Nat} {s : State} (h : Keep a s) :
    ∀ t, execRebindZeroDone x1 s = .next t → Keep a t := by
  unfold execRebindZeroDone
  refine Keep.clocked h ?_
  try dsimp only
  repeat' (first
    | with_reducible (first
      | assumption | refine Keep.foldState ?_ ?_ | refine keep_zeroUnit ?_ | refine keep_ungateFor ?_ | refine keep_onChan ?_
      | refine keep_advanceProc ?_ | refine keep_onProc ?_ | refine keep_followRef ?_)
    | (intro _ _ _) | (intro _ _) | (split))

theorem keep_copyChannel {a : State} {x1 : Nat} {x2 : Nat} {s : State} (h : Keep a s) :
    Keep a (State.copyChannel x1 x2 s) := by
  unfold State.copyChannel
  exact Keep.onMem (Keep.foldState h fun _ _ hu => keep_decodeOne hu) (wf_copied x1 x2 _)

theorem keep_transferEntry {a : State} {x1 : Nat} {x2 : Nat} {x3 : UnitEntry} {s : State} (h : Keep a s) :
    Keep a (State.transferEntry x1 x2 x3 s) := by
  unfold State.transferEntry
  try dsimp only
  repeat' (first
    | with_reducible (first
      | assumption | refine Keep.foldState ?_ ?_ | refine keep_onProc ?_ | refine keep_onPlace ?_ | refine keep_onChan ?_
      | refine keep_copyChannel ?_)
    | (intro _ _ _) | (intro _ _) | (split))

theorem keep_execRebindTransferDone {a : State} {x1 : Nat} {s : State} (h : Keep a s) :
    ∀ t, execRebindTransferDone x1 s = .next t → Keep a t := by
  unfold execRebindTransferDone
  refine Keep.clocked h ?_
  try dsimp only
  repeat' (first
    | with_reducible (first
      | assumption | refine keep_onProc ?_ | refine Keep.foldState ?_ ?_ | refine keep_transferEntry ?_)
    | (intro _ _ _) | (intro _ _) | (split))

theorem keep_copyHold {a : State} {x1 : Nat} {x2 : Nat} {s : State} (h : Keep a s) :
    Keep a (State.copyHold x1 x2 s) := by
  unfold State.copyHold
  try dsimp only
  repeat' (first
    | with_reducible (first
      | assumption | refine keep_onPlace ?_ | refine keep_onHm ?_))

theorem keep_bumpEntry {a : State} {x1 : Proc} {x2 : UnitEntry} {s : State} (h : Keep a s) :
    Keep a (State.bumpEntry x1 x2 s) := by
  unfold State.bumpEntry
  try dsimp only
  repeat' (first
    | with_reducible (first
      | assumption | refine keep_setMillSlots ?_ | refine keep_copyHold ?_ | refine keep_onHb ?_ | refine keep_endTransfer ?_
      | refine keep_onMill ?_ | refine keep_unbindUnit ?_ | refine keep_bindUnit ?_)
    | (split))

theorem keep_bumpMap {a : State} {x1 : Proc} {s : State} (h : Keep a s) :
    Keep a (State.bumpMap x1 s) := by
  unfold State.bumpMap
  try dsimp only
  repeat' (first
    | with_reducible (first
      | assumption | refine keep_onHb ?_ | refine Keep.foldState ?_ ?_ | refine keep_setMillSlots ?_ | refine keep_onRg ?_
      | refine keep_unbindUnit ?_ | refine keep_bumpEntry ?_)
    | (intro _ _ _) | (intro _ _) | (split))

theorem keep_execRebindBump {a : State} {x1 : Nat} {s : State} (h : Keep a s) :
    ∀ t, execRebindBump x1 s = .next t → Keep a t := by
  unfold execRebindBump
  refine Keep.clocked h ?_
  try dsimp only
  repeat' (first
    | with_reducible (first
      | assumption | refine keep_onProc ?_ | refine Keep.foldState ?_ ?_ | refine keep_endScrub ?_ | refine keep_bumpMap ?_
      | refine keep_settle ?_ | refine keep_sendAll ?_)
    | (intro _ _ _) | (intro _ _) | (split))

theorem keep_restoreScan {a : State} {x1 : Nat} {x2 : MillScan} {s : State} (h : Keep a s) :
    Keep a (State.restoreScan x1 x2 s) := by
  unfold State.restoreScan
  try dsimp only
  repeat' (first
    | with_reducible (first
      | assumption | refine keep_onHarbour ?_ | refine keep_endScan ?_ | refine keep_onMill ?_ | refine Keep.foldlSnd ?_ _ ?_
      | refine Keep.foldlFst ?_ _ ?_ | refine Keep.foldl ?_ _ ?_)
    | (intro _ _ _) | (intro _ _) | (split))

theorem keep_restoreScans {a : State} {x1 : Nat} {s : State} (h : Keep a s) :
    Keep a (State.restoreScans x1 s) := by
  unfold State.restoreScans
  try dsimp only
  repeat' (first
    | with_reducible (first
      | assumption | refine Keep.foldState ?_ ?_ | refine keep_restoreScan ?_)
    | (intro _ _ _))

theorem keep_execRebindRestore {a : State} {x1 : Nat} {s : State} (h : Keep a s) :
    ∀ t, execRebindRestore x1 s = .next t → Keep a t := by
  unfold execRebindRestore
  refine Keep.clocked h ?_
  try dsimp only
  repeat' (first
    | with_reducible (first
      | assumption | refine Keep.foldState ?_ ?_ | refine keep_placeKernel ?_ | refine keep_settle ?_ | refine keep_onProc ?_
      | refine keep_restoreScans ?_)
    | (intro _ _ _) | (intro _ _) | (split))

theorem keep_execRebindReleaseDone {a : State} {x1 : Nat} {s : State} (h : Keep a s) :
    ∀ t, execRebindReleaseDone x1 s = .next t → Keep a t := by
  unfold execRebindReleaseDone
  refine Keep.clocked h ?_
  try dsimp only
  repeat' (first
    | with_reducible (first
      | assumption | refine Keep.foldState ?_ ?_ | refine keep_zeroUnit ?_ | refine keep_onProc ?_ | refine keep_onHb ?_)
    | (intro _ _ _) | (intro _ _) | (split))

theorem keep_sendCounts {a : State} {x1 : Nat} {s : State} (h : Keep a s) :
    Keep a (State.sendCounts x1 s) := by
  unfold State.sendCounts
  try dsimp only
  repeat' (first
    | with_reducible (first
      | assumption | refine keep_onHarbour ?_ | refine Keep.foldState ?_ ?_ | refine keep_sendTxn ?_)
    | (intro _ _ _) | (intro _ _) | (split))

theorem keep_takeCounts {a : State} {x1 : Nat} {x2 : List Word} {s : State} (h : Keep a s) :
    Keep a (State.takeCounts x1 x2 s) := by
  unfold State.takeCounts
  try dsimp only
  repeat' (first
    | with_reducible (first
      | assumption | refine Keep.foldState ?_ ?_ | refine keep_onHarbour ?_)
    | (intro _ _ _))

theorem keep_commitProc {a : State} {x1 : Nat} {x2 : Proc} {s : State} (h : Keep a s) :
    Keep a (State.commitProc x1 x2 s) := by
  unfold State.commitProc
  try dsimp only
  repeat' (first
    | with_reducible (first
      | assumption | refine keep_onProc ?_ | refine keep_put0 ?_ | refine keep_journalClear ?_ | refine keep_procResult ?_
      | refine keep_onRg ?_ | refine keep_procEvent ?_ | refine keep_sendCounts ?_)
    | (split))

theorem keep_execHarbourCommit {a : State} {x1 : Nat} {s : State} (h : Keep a s) :
    ∀ t, execHarbourCommit x1 s = .next t → Keep a t := by
  unfold execHarbourCommit
  refine Keep.clocked h ?_
  try dsimp only
  repeat' (first
    | with_reducible (first
      | assumption | refine keep_commitProc ?_)
    | (split))

theorem keep_execHoldWaitExpire {a : State} {x1 : Nat} {s : State} (h : Keep a s) :
    ∀ t, execHoldWaitExpire x1 s = .next t → Keep a t := by
  unfold execHoldWaitExpire
  refine Keep.clocked h ?_
  try dsimp only
  repeat' (first
    | with_reducible (first
      | assumption | refine keep_advanceProc ?_ | refine keep_settle ?_ | refine Keep.foldState ?_ ?_
      | refine keep_abortLaunch ?_)
    | (intro _ _ _) | (intro _ _) | (split))

theorem keep_procsAtBoundary {a : State}  {s : State} (h : Keep a s) :
    Keep a (State.procsAtBoundary s) := by
  unfold State.procsAtBoundary
  try dsimp only
  repeat' (first
    | with_reducible (first
      | assumption | refine Keep.foldState ?_ ?_ | refine keep_endDrain ?_ | refine keep_advanceProcs ?_ | refine keep_onHb ?_)
    | (intro _ _ _))

theorem keep_procUnitFailed {a : State} {x1 : Nat} {x2 : Nat} {s : State} (h : Keep a s) :
    Keep a (State.procUnitFailed x1 x2 s) := by
  unfold State.procUnitFailed
  try dsimp only
  repeat' (first
    | with_reducible (first
      | assumption | refine Keep.foldState ?_ ?_ | refine keep_rollback ?_)
    | (intro _ _ _))

end Sys2Proof.Laws
end

