-- ==== Sys2Proof/Laws/KeepTileOps.lean ====
section
/-! SUPPORT. What the operations of Machine/TileOps.lean keep. -/
namespace Sys2Proof.Laws
open Sys2Proof Sys2Proof.Machine

theorem keep_lsWrite {a : State} {x1 : Nat} {x2 : Nat} {x3 : Nat} {x4 : List Byte} {x5 : Bool} {s : State} (h : Keep a s) :
    Keep a (State.lsWrite x1 x2 x3 x4 x5 s) := by
  unfold State.lsWrite
  try dsimp only
  repeat' (first
    | with_reducible (first
      | assumption | refine keep_onCtx ?_))

theorem keep_holdWrite {a : State} {x1 : Nat} {x2 : Nat} {x3 : List Byte} {x4 : Bool} {s : State} (h : Keep a s) :
    Keep a (State.holdWrite x1 x2 x3 x4 s) := by
  unfold State.holdWrite
  try dsimp only
  repeat' (first
    | with_reducible (first
      | assumption | refine keep_onPlace ?_))

theorem keep_writeBeats {a : State} {x1 : Nat → List Byte → Bool → State → State} {x2 : Nat} {x3 : Nat} {x4 : Beats} {s : State} (h : Keep a s) (hx1 : ∀ y0 y1 y2 u, Keep a u → Keep a (x1 y0 y1 y2 u)) :
    Keep a (State.writeBeats x1 x2 x3 x4 s) := by
  unfold State.writeBeats
  try dsimp only
  repeat' (first
    | with_reducible (first
      | assumption | refine Keep.foldState ?_ ?_)
    | apply hx1 | (intro _ _ _))

theorem keep_winWrite {a : State} {x1 : Nat} {x2 : Nat} {x3 : Word} {x4 : List Byte} {s : State} (h : Keep a s) :
    ∀ t, State.winWrite x1 x2 x3 x4 s = .inr t → Keep a t := by
  intro t ht
  unfold State.winWrite at ht
  repeat' (first
    | (cases ht; exact keep_lsWrite h)
    | (cases ht; exact keep_holdWrite h)
    | (cases ht; exact keep_writePieces h)
    | (cases ht; done)
    | split at ht
    | dsimp only at ht)

theorem keep_stopPart {a : State} {x1 : Nat} {x2 : Nat} {x3 : Stop} {s : State} (h : Keep a s) :
    Keep a (State.stopPart x1 x2 x3 s) := by
  unfold State.stopPart
  try dsimp only
  repeat' (first
    | with_reducible (first
      | assumption | refine keep_settle ?_ | refine keep_tileErr ?_ | refine keep_onTile ?_ | refine keep_readEffectH ?_
      | refine keep_poisonErr ?_ | refine keep_unheard ?_)
    | (split))

theorem keep_nextPc {a : State} {x1 : Nat} {x2 : Nat} {s : State} (h : Keep a s) :
    Keep a (State.nextPc x1 x2 s) := by
  unfold State.nextPc
  try dsimp only
  repeat' (first
    | with_reducible (first
      | assumption | refine keep_drawn ?_ | refine keep_onCtx ?_))

theorem keep_issue {a : State} {x1 : Nat} {x2 : Nat} {x3 : Stop ⊕ State} {s : State} (h : Keep a s) (hr : ∀ t, x3 = .inr t → Keep a t) :
    Keep a (State.issue x1 x2 x3 s) := by
  unfold State.issue
  split
  · exact keep_stopPart h
  · exact keep_nextPc (hr _ rfl)

theorem keep_unsupported {a : State} {x1 : Nat} {x2 : Nat} {s : State} (h : Keep a s) :
    Keep a (State.unsupported x1 x2 s) := by
  unfold State.unsupported
  try dsimp only
  repeat' (first
    | with_reducible (first
      | assumption | refine keep_settle ?_ | refine keep_abortLaunch ?_))

theorem keep_tensorRows {a : State} {x1 : TensorOp} {x2 : Nat} {x3 : Nat} {x4 : Nat} {x5 : List Byte} {x6 : List Byte} {x7 : List (Nat × List Byte × BitVec 9)} {x8 : List Nat} {s : State} (h : Keep a s) :
    ∀ t, State.tensorRows x1 x2 x3 x4 x5 x6 x7 x8 s = .inr t → Keep a t := by
  induction x8 generalizing s with
  | nil => intro t ht; cases ht; exact h
  | cons i r ih =>
    intro t ht
    unfold State.tensorRows at ht
    dsimp only at ht
    split at ht
    · cases ht
    · exact ih (keep_onCtx h) t ht

theorem keep_tensor {a : State} {x1 : Nat} {x2 : Nat} {x3 : TensorOp} {s : State} (h : Keep a s) :
    Keep a (State.tensor x1 x2 x3 s) := by
  unfold State.tensor
  try dsimp only
  repeat' (first
    | with_reducible (first
      | assumption | refine keep_issue ?_ ?_ | refine keep_unsupported ?_ | refine keep_stopPart ?_
      | refine keep_tensorRows ?_ _ (by assumption))
    | exact keep_tensorRows (by assumption) | (intro _ _ _) | (intro _ _) | (split))

theorem keep_execTensorInstruction {a : State} {x1 : Nat} {x2 : Nat} {x3 : TensorOp} {s : State} (h : Keep a s) :
    ∀ t, execTensorInstruction x1 x2 x3 s = .next t → Keep a t := by
  unfold execTensorInstruction
  refine Keep.clocked h ?_
  try dsimp only
  repeat' (first
    | with_reducible (first
      | assumption | refine keep_tensor ?_)
    | (split))

theorem keep_execExactRowMerge {a : State} {x1 : Nat} {x2 : Nat} {x3 : Nat} {x4 : Word} {x5 : Bool} {s : State} (h : Keep a s) :
    ∀ t, execExactRowMerge x1 x2 x3 x4 x5 s = .next t → Keep a t := by
  unfold execExactRowMerge
  refine Keep.clocked h ?_
  try dsimp only
  repeat' (first
    | with_reducible (first
      | assumption | refine keep_issue ?_ ?_ | refine keep_stopPart ?_ | refine keep_nextPc ?_ | refine keep_onCtx ?_
      | refine keep_winWrite ?_ _ (by assumption))
    | exact keep_winWrite (by assumption) | (intro _ _ _) | (intro _ _) | (split))

theorem keep_writeMany {a : State} {x1 : Nat} {x2 : Nat} {x3 : List (Word × List Byte)} {s : State} (h : Keep a s) :
    ∀ t, writeMany x1 x2 x3 s = .inr t → Keep a t := by
  induction x3 generalizing s with
  | nil => intro t ht; cases ht; exact h
  | cons y r ih =>
    intro t ht
    obtain ⟨w, b⟩ := y
    unfold writeMany at ht
    split at ht
    · exact ih h t ht
    · split at ht
      · cases ht
      · rename_i s1 e
        exact ih (keep_winWrite h _ e) t ht

theorem keep_execRowRound {a : State} {x1 : Nat} {x2 : Nat} {x3 : RoundOp} {s : State} (h : Keep a s) :
    ∀ t, execRowRound x1 x2 x3 s = .next t → Keep a t := by
  unfold execRowRound
  refine Keep.clocked h ?_
  try dsimp only
  repeat' (first
    | with_reducible (first
      | assumption | refine keep_issue ?_ ?_ | refine keep_unsupported ?_ | refine keep_writeMany ?_ _ (by assumption))
    | exact keep_writeMany (by assumption) | (intro _ _ _) | (intro _ _) | (split))

theorem keep_execRowClear {a : State} {x1 : Nat} {x2 : Nat} {x3 : Nat} {s : State} (h : Keep a s) :
    ∀ t, execRowClear x1 x2 x3 s = .next t → Keep a t := by
  unfold execRowClear
  refine Keep.clocked h ?_
  try dsimp only
  repeat' (first
    | with_reducible (first
      | assumption | refine keep_nextPc ?_ | refine keep_onCtx ?_)
    | (split))

theorem keep_vector {a : State} {x1 : Nat} {x2 : Nat} {x3 : VecOp} {s : State} (h : Keep a s) :
    Keep a (State.vector x1 x2 x3 s) := by
  unfold State.vector
  try dsimp only
  repeat' (first
    | with_reducible (first
      | assumption | refine keep_issue ?_ ?_ | refine keep_nextPc ?_ | refine keep_onCtx ?_ | refine keep_stopPart ?_
      | refine keep_unsupported ?_ | refine keep_winWrite ?_ _ (by assumption) | refine keep_writeMany ?_ _ (by assumption))
    | exact keep_winWrite (by assumption) | exact keep_writeMany (by assumption) | (intro _ _ _) | (intro _ _) | (split))

theorem keep_execVectorInstruction {a : State} {x1 : Nat} {x2 : Nat} {x3 : VecOp} {s : State} (h : Keep a s) :
    ∀ t, execVectorInstruction x1 x2 x3 s = .next t → Keep a t := by
  unfold execVectorInstruction
  refine Keep.clocked h ?_
  try dsimp only
  repeat' (first
    | with_reducible (first
      | assumption | refine keep_vector ?_)
    | (split))

theorem keep_execTranscendentalInstruction {a : State} {x1 : Nat} {x2 : Nat} {x3 : Nat} {x4 : Nat} {x5 : Nat} {s : State} (h : Keep a s) :
    ∀ t, execTranscendentalInstruction x1 x2 x3 x4 x5 s = .next t → Keep a t := by
  unfold execTranscendentalInstruction
  refine Keep.clocked h ?_
  try dsimp only
  repeat' (first
    | with_reducible (first
      | assumption | refine keep_nextPc ?_ | refine keep_onCtx ?_)
    | (split))

theorem keep_scalar {a : State} {x1 : Nat} {x2 : Nat} {x3 : ScalarOp} {s : State} (h : Keep a s) :
    Keep a (State.scalar x1 x2 x3 s) := by
  unfold State.scalar
  try dsimp only
  repeat' (first
    | with_reducible (first
      | assumption | refine keep_issue ?_ ?_ | refine keep_nextPc ?_ | refine keep_onCtx ?_ | refine keep_stopPart ?_
      | refine keep_drawn ?_ | refine keep_winWrite ?_ _ (by assumption))
    | exact keep_winWrite (by assumption) | (intro _ _ _) | (intro _ _) | (split))

theorem keep_execScalarInstruction {a : State} {x1 : Nat} {x2 : Nat} {x3 : ScalarOp} {s : State} (h : Keep a s) :
    ∀ t, execScalarInstruction x1 x2 x3 s = .next t → Keep a t := by
  unfold execScalarInstruction
  refine Keep.clocked h ?_
  try dsimp only
  repeat' (first
    | with_reducible (first
      | assumption | refine keep_scalar ?_)
    | (split))

theorem keep_onDma {a : State} {x1 : Nat} {x2 : Nat} {x3 : Nat} {x4 : DmaCtx → DmaCtx} {s : State} (h : Keep a s) :
    Keep a (State.onDma x1 x2 x3 x4 s) := by
  unfold State.onDma
  try dsimp only
  repeat' (first
    | with_reducible (first
      | assumption | refine keep_onCtx ?_))

theorem keep_execDmaDescriptor {a : State} {x1 : Nat} {x2 : Nat} {x3 : Nat} {x4 : DmaEnd} {x5 : DmaEnd} {x6 : Nat} {x7 : Option AtomicOp} {s : State} (h : Keep a s) :
    ∀ t, execDmaDescriptor x1 x2 x3 x4 x5 x6 x7 s = .next t → Keep a t := by
  unfold execDmaDescriptor
  refine Keep.clocked h ?_
  try dsimp only
  repeat' (first
    | with_reducible (first
      | assumption | refine keep_stopPart ?_ | refine keep_nextPc ?_ | refine keep_onDma ?_)
    | (split))

theorem keep_ringDevice {a : State} {x1 : Nat} {x2 : Word32} {x3 : Bool} {s : State} (h : Keep a s) :
    Keep a (State.ringDevice x1 x2 x3 s) := by
  unfold State.ringDevice
  try dsimp only
  repeat' (first
    | with_reducible (first
      | assumption | refine keep_dbReject ?_ | refine keep_doorbell ?_ | refine keep_onBerth ?_)
    | (split))

theorem keep_release {a : State} {x1 : Bool} {x2 : Held} {s : State} (h : Keep a s) :
    Keep a (State.release x1 x2 s) := by
  unfold State.release
  try dsimp only
  repeat' (first
    | with_reducible (first
      | assumption | refine keep_onFu ?_ | refine keep_ringDevice ?_)
    | (split))

theorem keep_releaseHeld {a : State} {x1 : Nat} {x2 : Nat} {s : State} (h : Keep a s) :
    Keep a (State.releaseHeld x1 x2 s) := by
  unfold State.releaseHeld
  try dsimp only
  repeat' (first
    | with_reducible (first
      | assumption | refine Keep.foldState ?_ ?_ | refine keep_release ?_ | refine keep_onCtx ?_ | refine keep_speak ?_ ?_)
    | (intro _ _ _) | (intro _ _))

theorem keep_hold {a : State} {x1 : Nat} {x2 : Nat} {x3 : Nat × Word ⊕ Nat × Word32} {s : State} (h : Keep a s) :
    Keep a (State.hold x1 x2 x3 s) := by
  unfold State.hold
  try dsimp only
  repeat' (first
    | with_reducible (first
      | assumption | refine keep_releaseHeld ?_ | refine keep_onCtx ?_))

theorem keep_execKernelFenceWait {a : State} {x1 : Nat} {x2 : Nat} {x3 : Word32} {x4 : Word} {x5 : Nat} {x6 : Nat} {s : State} (h : Keep a s) :
    ∀ t, execKernelFenceWait x1 x2 x3 x4 x5 x6 s = .next t → Keep a t := by
  unfold execKernelFenceWait
  refine Keep.clocked h ?_
  try dsimp only
  repeat' (first
    | with_reducible (first
      | assumption | refine keep_unheard ?_ | refine keep_settle ?_ | refine keep_tileErr ?_ | refine keep_touchFence ?_
      | refine keep_nextPc ?_ | refine keep_onCtx ?_)
    | (split))

theorem keep_execFenceReachedNotice {a : State} {x1 : Nat} {x2 : Nat} {s : State} (h : Keep a s) :
    ∀ t, execFenceReachedNotice x1 x2 s = .next t → Keep a t := by
  unfold execFenceReachedNotice
  refine Keep.clocked h ?_
  try dsimp only
  repeat' (first
    | with_reducible (first
      | assumption | refine keep_reapFence ?_ | refine keep_nextPc ?_ | refine keep_onCtx ?_)
    | (split))

theorem keep_execKernelFenceSignal {a : State} {x1 : Nat} {x2 : Nat} {x3 : Word32} {x4 : Word} {s : State} (h : Keep a s) :
    ∀ t, execKernelFenceSignal x1 x2 x3 x4 s = .next t → Keep a t := by
  unfold execKernelFenceSignal
  refine Keep.clocked h ?_
  try dsimp only
  repeat' (first
    | with_reducible (first
      | assumption | refine keep_settle ?_ | refine keep_tileErr ?_ | refine keep_nextPc ?_ | refine keep_hold ?_)
    | (split))

theorem keep_execDeviceDoorbell {a : State} {x1 : Nat} {x2 : Nat} {x3 : Nat} {x4 : Word32} {s : State} (h : Keep a s) :
    ∀ t, execDeviceDoorbell x1 x2 x3 x4 s = .next t → Keep a t := by
  unfold execDeviceDoorbell
  refine Keep.clocked h ?_
  try dsimp only
  repeat' (first
    | with_reducible (first
      | assumption | refine keep_settle ?_ | refine keep_tileErr ?_ | refine keep_nextPc ?_ | refine keep_hold ?_)
    | (split))

theorem keep_contribute {a : State} {x1 : Nat} {x2 : Nat} {x3 : RedOp} {x4 : Word} {x5 : Nat} {s : State} (h : Keep a s) :
    Keep a (State.contribute x1 x2 x3 x4 x5 s) := by
  unfold State.contribute
  try dsimp only
  repeat' (first
    | with_reducible (first
      | assumption | refine keep_onCtx ?_ | refine keep_unheard ?_ | refine keep_nextPc ?_ | refine keep_settle ?_
      | refine keep_redMismatch ?_)
    | (split))

theorem keep_execGangReduction {a : State} {x1 : Nat} {x2 : Nat} {x3 : RedOp} {x4 : Word} {x5 : Nat} {s : State} (h : Keep a s) :
    ∀ t, execGangReduction x1 x2 x3 x4 x5 s = .next t → Keep a t := by
  unfold execGangReduction
  refine Keep.clocked h ?_
  try dsimp only
  repeat' (first
    | with_reducible (first
      | assumption | refine keep_contribute ?_)
    | (split))

theorem keep_execGangBroadcast {a : State} {x1 : Nat} {x2 : Nat} {x3 : Nat} {x4 : Word} {x5 : Nat} {s : State} (h : Keep a s) :
    ∀ t, execGangBroadcast x1 x2 x3 x4 x5 s = .next t → Keep a t := by
  unfold execGangBroadcast
  refine Keep.clocked h ?_
  try dsimp only
  repeat' (first
    | with_reducible (first
      | assumption | refine keep_contribute ?_)
    | (split))

theorem keep_execReductionResult {a : State} {x1 : Nat} {x2 : Nat} {s : State} (h : Keep a s) :
    ∀ t, execReductionResult x1 x2 s = .next t → Keep a t := by
  unfold execReductionResult
  refine Keep.clocked h ?_
  try dsimp only
  repeat' (first
    | with_reducible (first
      | assumption | refine Keep.foldState ?_ ?_ | refine keep_onCtx ?_)
    | (intro _ _ _) | (intro _ _) | (split))

theorem keep_execSetTag {a : State} {x1 : Nat} {x2 : Nat} {x3 : Nat} {x4 : Nat} {x5 : Nat} {s : State} (h : Keep a s) :
    ∀ t, execSetTag x1 x2 x3 x4 x5 s = .next t → Keep a t := by
  unfold execSetTag
  refine Keep.clocked h ?_
  try dsimp only
  repeat' (first
    | with_reducible (first
      | assumption | refine keep_nextPc ?_ | refine keep_onPlace ?_)
    | (split))

theorem keep_execClearTag {a : State} {x1 : Nat} {x2 : Nat} {x3 : Nat} {s : State} (h : Keep a s) :
    ∀ t, execClearTag x1 x2 x3 s = .next t → Keep a t := by
  unfold execClearTag
  refine Keep.clocked h ?_
  try dsimp only
  repeat' (first
    | with_reducible (first
      | assumption | refine keep_nextPc ?_ | refine keep_onPlace ?_)
    | (split))

theorem keep_execReadSpecialScalar {a : State} {x1 : Nat} {x2 : Nat} {x3 : Nat} {x4 : Nat} {s : State} (h : Keep a s) :
    ∀ t, execReadSpecialScalar x1 x2 x3 x4 s = .next t → Keep a t := by
  unfold execReadSpecialScalar
  refine Keep.clocked h ?_
  try dsimp only
  repeat' (first
    | with_reducible (first
      | assumption | refine keep_nextPc ?_ | refine keep_onCtx ?_)
    | (split))

theorem keep_execKernelExit {a : State} {x1 : Nat} {x2 : Nat} {x3 : Word32} {s : State} (h : Keep a s) :
    ∀ t, execKernelExit x1 x2 x3 s = .next t → Keep a t := by
  unfold execKernelExit
  refine Keep.clocked h ?_
  try dsimp only
  repeat' (first
    | with_reducible (first
      | assumption | refine keep_onCtx ?_)
    | (split))

theorem keep_execKernelTrap {a : State} {x1 : Nat} {x2 : Nat} {x3 : Nat} {s : State} (h : Keep a s) :
    ∀ t, execKernelTrap x1 x2 x3 s = .next t → Keep a t := by
  unfold execKernelTrap
  refine Keep.clocked h ?_
  try dsimp only
  repeat' (first
    | with_reducible (first
      | assumption | refine keep_settle ?_ | refine keep_tileErr ?_ | refine keep_onCtx ?_)
    | (split))

end Sys2Proof.Laws
end

