-- ==== Sys2Proof/Laws/KeepXlateOps.lean ====
section
/-! SUPPORT. What the operations of Machine/XlateOps.lean keep. -/
namespace Sys2Proof.Laws
open Sys2Proof Sys2Proof.Machine

theorem keep_startWalk {a : State} {x1 : List (Nat × Nat)} {s : State} (h : Keep a s) :
    Keep a (State.startWalk x1 s) := by
  unfold State.startWalk
  try dsimp only
  repeat' (first
    | with_reducible (first
      | assumption | refine Keep.foldState ?_ ?_ | refine keep_readEffectH ?_ | refine keep_onXl ?_)
    | (intro _ _ _))

theorem keep_translate {a : State} {x1 : Nat} {x2 : Nat} {x3 : Nat} {x4 : Nat} {x5 : Access} {x6 : Nat} {s : State} (h : Keep a s) :
    Keep a (State.translate x1 x2 x3 x4 x5 x6 s).2 := by
  unfold State.translate
  try dsimp only
  repeat' (first
    | with_reducible (first
      | assumption | refine keep_onXl ?_ | refine keep_startWalk ?_ | refine Keep.foldlSnd ?_ _ ?_
      | refine Keep.foldlFst ?_ _ ?_ | refine Keep.foldl ?_ _ ?_)
    | (intro _ _ _) | (intro _ _) | (split))

theorem keep_faultEnds {a : State} {x1 : Nat} {x2 : Nat} {x3 : Nat} {x4 : Nat} {s : State} (h : Keep a s) :
    Keep a (State.faultEnds x1 x2 x3 x4 s) := by
  unfold State.faultEnds
  try dsimp only
  repeat' (first
    | with_reducible (first
      | assumption | refine keep_onXl ?_ | refine keep_settle ?_ | refine keep_failPart ?_)
    | (split))

theorem keep_queueFault {a : State} {x1 : Nat} {x2 : Nat} {x3 : Nat} {x4 : Nat} {x5 : Nat} {x6 : Nat} {x7 : Nat} {x8 : Access} {s : State} (h : Keep a s) :
    Keep a (State.queueFault x1 x2 x3 x4 x5 x6 x7 x8 s).2 := by
  unfold State.queueFault
  try dsimp only
  repeat' (first
    | with_reducible (first
      | assumption | refine keep_onDma ?_ | refine keep_onFq ?_ | refine keep_putFault ?_ | refine keep_msix ?_)
    | (split))

theorem keep_takeFault {a : State} {x1 : Nat} {x2 : Nat} {x3 : Nat} {x4 : Nat} {x5 : Access} {x6 : WalkFault} {s : State} (h : Keep a s) :
    Keep a (State.takeFault x1 x2 x3 x4 x5 x6 s) := by
  unfold State.takeFault
  try dsimp only
  repeat' (first
    | with_reducible (first
      | assumption | refine keep_faultEnds ?_ | refine keep_onFq ?_ | refine keep_onXl ?_ | refine keep_onDma ?_
      | refine keep_queueFault ?_ | refine keep_event ?_ | refine Keep.snd (by assumption) (keep_queueFault ?_))
    | (split))

theorem keep_releaseLatch {a : State} {x1 : Nat} {x2 : Nat} {x3 : Nat} {s : State} (h : Keep a s) :
    Keep a (State.releaseLatch x1 x2 x3 s) := by
  unfold State.releaseLatch
  try dsimp only
  repeat' (first
    | with_reducible (first
      | assumption | refine keep_onDma ?_))

theorem keep_retryHeld {a : State} {x1 : Nat} {s : State} (h : Keep a s) :
    Keep a (State.retryHeld x1 s) := by
  unfold State.retryHeld
  try dsimp only
  repeat' (first
    | with_reducible (first
      | assumption | refine Keep.foldState ?_ ?_ | refine keep_translate ?_ | refine keep_releaseLatch ?_
      | refine keep_queueFault ?_ | refine keep_faultEnds ?_ | refine Keep.snd (by assumption) (keep_translate ?_)
      | refine Keep.snd (by assumption) (keep_queueFault ?_) | refine Keep.foldlSnd ?_ _ ?_ | refine Keep.foldlFst ?_ _ ?_
      | refine Keep.foldl ?_ _ ?_)
    | (intro _ _ _) | (intro _ _) | (split))

theorem keep_resumeEntry {a : State} {x1 : Nat} {x2 : Nat} {x3 : Nat} {s : State} (h : Keep a s) :
    Keep a (State.resumeEntry x1 x2 x3 s) := by
  unfold State.resumeEntry
  try dsimp only
  repeat' (first
    | with_reducible (first
      | assumption | refine keep_retryHeld ?_ | refine Keep.foldState ?_ ?_ | refine keep_releaseLatch ?_
      | refine keep_putFault ?_)
    | (intro _ _ _))

theorem keep_rewalk {a : State} {x1 : Nat} {x2 : FaultEnt → Bool} {s : State} (h : Keep a s) :
    Keep a (State.rewalk x1 x2 s) := by
  unfold State.rewalk
  try dsimp only
  repeat' (first
    | with_reducible (first
      | assumption | refine Keep.foldState ?_ ?_ | refine keep_startWalk ?_ | refine keep_onFq ?_ | refine keep_resumeEntry ?_)
    | (intro _ _ _) | (intro _ _) | (split))

theorem keep_onReq {a : State} {x1 : Nat} {x2 : Nat} {x3 : Nat} {x4 : Nat} {x5 : DmaReq → DmaReq} {s : State} (h : Keep a s) :
    Keep a (State.onReq x1 x2 x3 x4 x5 s) := by
  unfold State.onReq
  try dsimp only
  repeat' (first
    | with_reducible (first
      | assumption | refine keep_onDma ?_))

theorem keep_endWrite {a : State} {x1 : Nat} {x2 : Nat} {x3 : Beats} {x4 : DmaEnd} {s : State} (h : Keep a s) :
    Keep a (State.endWrite x1 x2 x3 x4 s) := by
  unfold State.endWrite
  try dsimp only
  repeat' (first
    | with_reducible (first
      | assumption | refine keep_lsWrite ?_ | refine keep_holdWrite ?_ | refine keep_writeBeats ?_ ?_)
    | (intro _ _ _) | (intro _ _) | (split))

theorem keep_reqDone {a : State} {x1 : Nat} {x2 : Nat} {x3 : Nat} {x4 : Nat} {s : State} (h : Keep a s) :
    Keep a (State.reqDone x1 x2 x3 x4 s) := by
  unfold State.reqDone
  try dsimp only
  repeat' (first
    | with_reducible (first
      | assumption | refine keep_onDma ?_ | refine keep_settle ?_ | refine keep_releaseHeld ?_)
    | (split))

theorem keep_sendRemote {a : State} {x1 : Nat} {x2 : Nat} {x3 : Nat} {x4 : Nat} {x5 : Nat} {x6 : Nat} {x7 : Nat} {x8 : Nat} {x9 : Nat} {x10 : Access} {x11 : Nat} {x12 : Beats} {s : State} (h : Keep a s) :
    Keep a (State.sendRemote x1 x2 x3 x4 x5 x6 x7 x8 x9 x10 x11 x12 s) := by
  unfold State.sendRemote
  try dsimp only
  repeat' (first
    | with_reducible (first
      | assumption | refine keep_sendData ?_ | refine keep_onReq ?_ | refine keep_onLk ?_))

theorem keep_hostPoison {a : State} {x1 : Nat} {x2 : Nat} {x3 : Nat} {x4 : Option Nat} {x5 : Nat} {s : State} (h : Keep a s) :
    Keep a (State.hostPoison x1 x2 x3 x4 x5 s) := by
  unfold State.hostPoison
  try dsimp only
  repeat' (first
    | with_reducible (first
      | assumption | refine keep_onLink ?_ | refine keep_onChan ?_ | refine keep_settle ?_ | refine keep_failPart ?_)
    | (split))

theorem keep_deliver {a : State} {x1 : Nat} {x2 : Nat} {x3 : Nat} {x4 : DmaReq} {x5 : Beats} {s : State} (h : Keep a s) :
    Keep a (State.deliver x1 x2 x3 x4 x5 s) := by
  unfold State.deliver
  try dsimp only
  repeat' (first
    | with_reducible (first
      | assumption | refine keep_reqDone ?_ | refine keep_endWrite ?_ | refine keep_sendRemote ?_ | refine keep_faultEnds ?_
      | refine keep_emit ?_ | refine keep_hostPoison ?_)
    | (split))

theorem keep_ask {a : State} {x1 : Nat} {x2 : Nat} {x3 : Nat} {x4 : DmaReq} {s : State} (h : Keep a s) :
    Keep a (State.ask x1 x2 x3 x4 s) := by
  unfold State.ask
  try dsimp only
  repeat' (first
    | with_reducible (first
      | assumption | refine keep_sendRemote ?_ | refine keep_faultEnds ?_ | refine keep_emit ?_ | refine keep_onReq ?_
      | refine keep_onHif ?_)
    | (split))

theorem keep_moveOn {a : State} {x1 : Nat} {x2 : Nat} {x3 : Nat} {x4 : Nat} {s : State} (h : Keep a s) :
    Keep a (State.moveOn x1 x2 x3 x4 s) := by
  unfold State.moveOn
  try dsimp only
  repeat' (first
    | with_reducible (first
      | assumption | refine keep_onReq ?_ | refine keep_unheard ?_ | refine keep_deliver ?_ | refine keep_ask ?_)
    | (split))

theorem keep_translateEnd {a : State} {x1 : Nat} {x2 : Nat} {x3 : Nat} {x4 : DmaEnd} {x5 : Access} {x6 : Nat} {s : State} (h : Keep a s) :
    Keep a (State.translateEnd x1 x2 x3 x4 x5 x6 s).2 := by
  unfold State.translateEnd
  try dsimp only
  repeat' (first
    | with_reducible (first
      | assumption | refine keep_translate ?_ | refine keep_takeFault ?_ | refine keep_faultEnds ?_
      | refine Keep.snd (by assumption) (keep_translate ?_))
    | (split))

theorem keep_reissue {a : State} {x1 : Nat} {x2 : Nat} {x3 : Nat} {x4 : DmaReq} {s : State} (h : Keep a s) :
    Keep a (State.reissue x1 x2 x3 x4 s) := by
  unfold State.reissue
  try dsimp only
  repeat' (first
    | with_reducible (first
      | assumption | refine keep_translateEnd ?_ | refine keep_moveOn ?_ | refine keep_onReq ?_
      | refine Keep.snd (by assumption) (keep_translateEnd ?_))
    | (split))

theorem keep_issueReq {a : State} {x1 : Nat} {x2 : Nat} {x3 : Nat} {x4 : DmaDesc} {s : State} (h : Keep a s) :
    Keep a (State.issueReq x1 x2 x3 x4 s) := by
  unfold State.issueReq
  try dsimp only
  repeat' (first
    | with_reducible (first
      | assumption | refine keep_translateEnd ?_ | refine keep_moveOn ?_ | refine keep_onDma ?_
      | refine Keep.snd (by assumption) (keep_translateEnd ?_))
    | (split))

theorem keep_startReq {a : State} {x1 : Nat} {x2 : Nat} {x3 : Nat} {s : State} (h : Keep a s) :
    Keep a (State.startReq x1 x2 x3 s) := by
  unfold State.startReq
  try dsimp only
  repeat' (first
    | with_reducible (first
      | assumption | refine keep_reissue ?_ | refine keep_issueReq ?_)
    | (split))

theorem keep_execTranslateWalk {a : State} {x1 : Nat} {x2 : Nat} {x3 : Nat} {s : State} (h : Keep a s) :
    ∀ t, execTranslateWalk x1 x2 x3 s = .next t → Keep a t := by
  unfold execTranslateWalk
  refine Keep.clocked h ?_
  try dsimp only
  repeat' (first
    | with_reducible (first
      | assumption | refine keep_startReq ?_)
    | (split))

theorem keep_gotData {a : State} {x1 : Nat} {x2 : Nat} {x3 : Nat} {x4 : Nat} {x5 : Beats} {s : State} (h : Keep a s) :
    Keep a (State.gotData x1 x2 x3 x4 x5 s) := by
  unfold State.gotData
  try dsimp only
  repeat' (first
    | with_reducible (first
      | assumption | refine keep_moveOn ?_ | refine keep_onReq ?_))

theorem keep_readThrough {a : State} {x1 : List Piece} {s : State} (h : Keep a s) :
    Keep a (State.readThrough x1 s).2 := by
  unfold State.readThrough
  try dsimp only
  repeat' (first
    | with_reducible (first
      | assumption | refine keep_readEffects ?_))

theorem keep_writeThrough {a : State} {x1 : List Piece} {x2 : Beats} {s : State} (h : Keep a s) :
    Keep a (State.writeThrough x1 x2 s) := by
  unfold State.writeThrough
  try dsimp only
  repeat' (first
    | with_reducible (first
      | assumption | refine Keep.foldState ?_ ?_ | refine keep_serveWrite ?_)
    | (intro _ _ _))

theorem keep_answer {a : State} {x1 : Nat} {x2 : Nat} {x3 : Nat} {x4 : Nat} {x5 : List Piece} {x6 : State → State} {s : State} (h : Keep a s) (hx6 : ∀ u, Keep a u → Keep a (x6 u)) :
    Keep a (State.answer x1 x2 x3 x4 x5 x6 s) := by
  unfold State.answer
  try dsimp only
  repeat' (first
    | with_reducible (first
      | assumption | refine keep_onReq ?_ | refine keep_unheard ?_)
    | apply hx6 | (split))

theorem keep_execHbmRead {a : State} {x1 : HbmReq} {x2 : List CwError} {s : State} (h : Keep a s) :
    ∀ t, execHbmRead x1 x2 s = .next t → Keep a t := by
  unfold execHbmRead
  refine Keep.clocked h ?_
  try dsimp only
  repeat' (first
    | with_reducible (first
      | assumption | refine keep_damaged ?_ | refine keep_serveRead ?_ | refine keep_readThrough ?_ | refine keep_gotData ?_
      | refine keep_answer ?_ ?_ | refine Keep.snd (by assumption) (keep_serveRead ?_)
      | refine Keep.snd (by assumption) (keep_readThrough ?_))
    | (intro _ _ _) | (intro _ _) | (split))

theorem keep_execHbmWrite {a : State} {x1 : HbmReq} {x2 : List Byte} {x3 : Bool} {x4 : List CwError} {s : State} (h : Keep a s) :
    ∀ t, execHbmWrite x1 x2 x3 x4 s = .next t → Keep a t := by
  unfold execHbmWrite
  refine Keep.clocked h ?_
  try dsimp only
  repeat' (first
    | with_reducible (first
      | assumption | refine keep_damaged ?_ | refine keep_serveWrite ?_ | refine keep_reqDone ?_ | refine keep_writeThrough ?_
      | refine keep_answer ?_ ?_)
    | (intro _ _ _) | (intro _ _) | (split))

theorem keep_execHbmAtomic {a : State} {x1 : HbmReq} {x2 : AtomicOp} {x3 : List CwError} {s : State} (h : Keep a s) :
    ∀ t, execHbmAtomic x1 x2 x3 s = .next t → Keep a t := by
  unfold execHbmAtomic
  refine Keep.clocked h ?_
  try dsimp only
  repeat' (first
    | with_reducible (first
      | assumption | refine keep_damaged ?_ | refine keep_serveAtomic ?_ | refine keep_gotData ?_ | refine keep_answer ?_ ?_
      | refine Keep.snd (by assumption) (keep_serveAtomic ?_))
    | (intro _ _ _) | (intro _ _) | (split))

theorem keep_aonWrite {a : State} {x1 : Nat} {x2 : List Byte} {s : State} (h : Keep a s) :
    Keep a (State.aonWrite x1 x2 s) := by
  unfold State.aonWrite
  try dsimp only
  repeat' (first
    | with_reducible (first
      | assumption | refine Keep.foldlSnd ?_ _ ?_ | refine Keep.foldlFst ?_ _ ?_ | refine Keep.foldl ?_ _ ?_)
    | refine Keep.onMem ?_ id)

theorem keep_nearWrite {a : State} {x1 : Target} {x2 : Beats} {s : State} (h : Keep a s) :
    ∀ t, State.nearWrite x1 x2 s = some t → Keep a t := by
  intro t ht
  unfold State.nearWrite at ht
  split at ht
  · exact Option.some.inj ht ▸ keep_writeBeats h fun _ _ _ _ hu => keep_holdWrite hu
  · exact Option.some.inj ht ▸ keep_writeBeats h fun _ _ _ _ hu => keep_lsWrite hu
  · exact Option.some.inj ht ▸ keep_aonWrite h
  · cases ht

theorem keep_nearAtomic {a : State} {x1 : Target} {x2 : Nat} {x3 : AtomicOp} {s : State} (h : Keep a s) :
    ∀ t, State.nearAtomic x1 x2 x3 s = some t → Keep a t.2 := by
  intro t ht
  unfold State.nearAtomic at ht
  obtain ⟨b, -, rfl⟩ := Option.map_eq_some_iff.1 ht
  exact Keep.ite h (Keep.getD (keep_nearWrite h) h)

theorem keep_nearServe {a : State} {x1 : Nat} {x2 : Nat} {x3 : Nat} {x4 : DmaReq} {s : State} (h : Keep a s) :
    Keep a (State.nearServe x1 x2 x3 x4 s) := by
  unfold State.nearServe
  try dsimp only
  repeat' (first
    | with_reducible (first
      | assumption | refine keep_gotData ?_ | refine keep_reqDone ?_ | refine keep_nearAtomic ?_ _ (by assumption)
      | refine keep_nearWrite ?_ _ (by assumption) | refine Keep.getD (keep_nearWrite ?_) ?_)
    | exact keep_nearAtomic (by assumption) | exact keep_nearWrite (by assumption) | (split))

theorem keep_eccError {a : State} {x1 : Nat} {x2 : EccError} {s : State} (h : Keep a s) :
    Keep a (State.eccError x1 x2 s) := by
  unfold State.eccError
  try dsimp only
  repeat' (first
    | with_reducible (first
      | assumption | refine keep_onTile ?_ | refine keep_lsWrite ?_ | refine keep_holdWrite ?_ | refine Keep.foldlSnd ?_ _ ?_
      | refine Keep.foldlFst ?_ _ ?_ | refine Keep.foldl ?_ _ ?_)
    | (intro _ _ _) | (intro _ _) | (split))

theorem keep_execHoldOrLocalStoreRequest {a : State} {x1 : Nat} {x2 : Nat} {x3 : NearReq} {s : State} (h : Keep a s) :
    ∀ t, execHoldOrLocalStoreRequest x1 x2 x3 s = .next t → Keep a t := by
  unfold execHoldOrLocalStoreRequest
  refine Keep.clocked h ?_
  try dsimp only
  repeat' (first
    | with_reducible (first
      | assumption | refine Keep.foldState ?_ ?_ | refine keep_eccError ?_ | refine keep_startReq ?_ | refine keep_nearServe ?_)
    | (intro _ _ _) | (intro _ _) | (split))

theorem keep_takeReq {a : State} {x2 : Nat} {s : State} (h : Keep a s) :
    ∀ t, State.takeReq s x2 = some t → Keep a t.2 := by
  intro t ht
  unfold State.takeReq at ht
  obtain ⟨r, -, rfl⟩ := Option.map_eq_some_iff.1 ht
  dsimp only
  exact keep_onLk h

theorem keep_dropReq {a : State} {x1 : Nat} {x2 : Nat} {x3 : Nat} {x4 : Nat} {s : State} (h : Keep a s) :
    Keep a (State.dropReq x1 x2 x3 x4 s) := by
  unfold State.dropReq
  try dsimp only
  repeat' (first
    | with_reducible (first
      | assumption | refine keep_onDma ?_))

theorem keep_reqFails {a : State} {x1 : RemoteReq} {s : State} (h : Keep a s) :
    Keep a (State.reqFails x1 s) := by
  unfold State.reqFails
  try dsimp only
  repeat' (first
    | with_reducible (first
      | assumption | refine keep_faultEnds ?_ | refine keep_dropReq ?_)
    | (split))

theorem keep_execReadResp {a : State} {x1 : Nat} {x2 : Nat} {x3 : List Byte} {x4 : List Nat} {s : State} (h : Keep a s) :
    ∀ t, execReadResp x1 x2 x3 x4 s = .next t → Keep a t := by
  unfold execReadResp
  refine Keep.clocked h ?_
  try dsimp only
  repeat' (first
    | with_reducible (first
      | assumption | refine keep_reqFails ?_ | refine keep_gotData ?_ | refine keep_takeReq ?_ _ (by assumption))
    | exact keep_takeReq (by assumption) | (split))

theorem keep_execWriteAck {a : State} {x1 : Nat} {x2 : Nat} {s : State} (h : Keep a s) :
    ∀ t, execWriteAck x1 x2 s = .next t → Keep a t := by
  unfold execWriteAck
  refine Keep.clocked h ?_
  try dsimp only
  repeat' (first
    | with_reducible (first
      | assumption | refine keep_reqFails ?_ | refine keep_reqDone ?_ | refine keep_takeReq ?_ _ (by assumption))
    | exact keep_takeReq (by assumption) | (split))

theorem keep_execAtomicResp {a : State} {x1 : Nat} {x2 : Nat} {x3 : Word × Bool} {s : State} (h : Keep a s) :
    ∀ t, execAtomicResp x1 x2 x3 s = .next t → Keep a t := by
  unfold execAtomicResp
  refine Keep.clocked h ?_
  try dsimp only
  repeat' (first
    | with_reducible (first
      | assumption | refine keep_reqFails ?_ | refine keep_gotData ?_ | refine keep_takeReq ?_ _ (by assumption))
    | exact keep_takeReq (by assumption) | (split))

theorem keep_hostFails {a : State} {x1 : HostReq} {s : State} (h : Keep a s) :
    Keep a (State.hostFails x1 s) := by
  unfold State.hostFails
  try dsimp only
  repeat' (first
    | with_reducible (first
      | assumption | refine keep_onLink ?_ | refine keep_faultEnds ?_ | refine keep_dropReq ?_)
    | (split))

theorem keep_execPcieCompletion {a : State} {x1 : Nat} {x2 : Nat} {x3 : List Byte} {x4 : Bool} {s : State} (h : Keep a s) :
    ∀ t, execPcieCompletion x1 x2 x3 x4 s = .next t → Keep a t := by
  unfold execPcieCompletion
  refine Keep.clocked h ?_
  try dsimp only
  repeat' (first
    | with_reducible (first
      | assumption | refine keep_onHif ?_ | refine keep_hostFails ?_ | refine keep_gotData ?_)
    | (split))

theorem keep_execPcieCompletionTimeout {a : State} {x1 : Nat} {s : State} (h : Keep a s) :
    ∀ t, execPcieCompletionTimeout x1 s = .next t → Keep a t := by
  unfold execPcieCompletionTimeout
  refine Keep.clocked h ?_
  try dsimp only
  repeat' (first
    | with_reducible (first
      | assumption | refine keep_hostFails ?_ | refine keep_onHif ?_)
    | (split))

theorem keep_pageWrite {a : State} {x1 : Master} {x2 : Option Nat} {x3 : Nat} {x4 : Nat} {x5 : State → State} {s : State} (h : Keep a s) (hx5 : ∀ u, Keep a u → Keep a (x5 u)) :
    Keep a (State.pageWrite x1 x2 x3 x4 x5 s) := by
  unfold State.pageWrite
  try dsimp only
  repeat' (first
    | with_reducible (first
      | assumption | refine keep_rwpIgnored ?_)
    | apply hx5 | (split))

theorem keep_execXlfConsWrite {a : State} {x1 : Master} {x2 : Option Nat} {x3 : Nat} {x4 : Word} {s : State} (h : Keep a s) :
    ∀ t, execXlfConsWrite x1 x2 x3 x4 s = .next t → Keep a t := by
  unfold execXlfConsWrite
  refine Keep.clocked h ?_
  try dsimp only
  repeat' (first
    | with_reducible (first
      | assumption | refine keep_retryHeld ?_ | refine keep_onFq ?_ | refine keep_pageWrite ?_ ?_)
    | (intro _ _ _) | (intro _ _))

theorem keep_respIgnored {a : State} {x1 : Nat} {s : State} (h : Keep a s) :
    Keep a (State.respIgnored x1 s) := by
  unfold State.respIgnored
  try dsimp only
  repeat' (first
    | with_reducible (first
      | assumption | refine keep_onFq ?_))

theorem keep_execXlfResume {a : State} {x1 : Master} {x2 : Option Nat} {x3 : Nat} {x4 : Word} {s : State} (h : Keep a s) :
    ∀ t, execXlfResume x1 x2 x3 x4 s = .next t → Keep a t := by
  unfold execXlfResume
  refine Keep.clocked h ?_
  try dsimp only
  repeat' (first
    | with_reducible (first
      | assumption | refine keep_respIgnored ?_ | refine keep_resumeEntry ?_ | refine keep_pageWrite ?_ ?_)
    | (intro _ _ _) | (intro _ _) | (split))

theorem keep_execXlfAbort {a : State} {x1 : Master} {x2 : Option Nat} {x3 : Nat} {x4 : Word} {s : State} (h : Keep a s) :
    ∀ t, execXlfAbort x1 x2 x3 x4 s = .next t → Keep a t := by
  unfold execXlfAbort
  refine Keep.clocked h ?_
  try dsimp only
  repeat' (first
    | with_reducible (first
      | assumption | refine keep_respIgnored ?_ | refine keep_putFault ?_ | refine keep_settle ?_ | refine keep_retryHeld ?_
      | refine Keep.foldState ?_ ?_ | refine keep_failPart ?_ | refine keep_releaseLatch ?_ | refine keep_pageWrite ?_ ?_)
    | (intro _ _ _) | (intro _ _) | (split))

theorem keep_invalidate {a : State} {x1 : Nat} {x2 : Inval} {s : State} (h : Keep a s) :
    Keep a (State.invalidate x1 x2 s) := by
  unfold State.invalidate
  try dsimp only
  repeat' (first
    | with_reducible (first
      | assumption | refine keep_onFq ?_)
    | (split))

theorem keep_xlRefused {a : State}  {s : State} (h : Keep a s) :
    Keep a (State.xlRefused s) := by
  unfold State.xlRefused
  try dsimp only
  repeat' (first
    | with_reducible (first
      | assumption | refine keep_onXl ?_))

theorem keep_execInvRange {a : State} {x1 : Master} {x2 : Option Nat} {x3 : Nat} {x4 : Word} {s : State} (h : Keep a s) :
    ∀ t, execInvRange x1 x2 x3 x4 s = .next t → Keep a t := by
  unfold execInvRange
  refine Keep.clocked h ?_
  try dsimp only
  repeat' (first
    | with_reducible (first
      | assumption | refine keep_xlRefused ?_ | refine keep_invalidate ?_ | refine keep_pageWrite ?_ ?_)
    | (intro _ _ _) | (intro _ _) | (split))

theorem keep_execInvAsid {a : State} {x1 : Master} {x2 : Option Nat} {x3 : Nat} {x4 : Word} {s : State} (h : Keep a s) :
    ∀ t, execInvAsid x1 x2 x3 x4 s = .next t → Keep a t := by
  unfold execInvAsid
  refine Keep.clocked h ?_
  try dsimp only
  repeat' (first
    | with_reducible (first
      | assumption | refine keep_invalidate ?_ | refine keep_pageWrite ?_ ?_)
    | (intro _ _ _) | (intro _ _))

theorem keep_execInvHarbour {a : State} {x1 : Master} {x2 : Option Nat} {x3 : Nat} {x4 : Word} {s : State} (h : Keep a s) :
    ∀ t, execInvHarbour x1 x2 x3 x4 s = .next t → Keep a t := by
  unfold execInvHarbour
  refine Keep.clocked h ?_
  try dsimp only
  repeat' (first
    | with_reducible (first
      | assumption | refine keep_invalidate ?_ | refine keep_pageWrite ?_ ?_)
    | (intro _ _ _) | (intro _ _))

theorem keep_purge {a : State} {x1 : Nat} {x2 : Inval} {s : State} (h : Keep a s) :
    Keep a (State.purge x1 x2 s) := by
  unfold State.purge
  try dsimp only
  repeat' (first
    | with_reducible (first
      | assumption | refine keep_onXl ?_))

end Sys2Proof.Laws
end

