-- ==== Sys2Proof/Laws/KeepLinkOps.lean ====
section
/-! SUPPORT. What the operations of Machine/LinkOps.lean keep. -/
namespace Sys2Proof.Laws
open Sys2Proof Sys2Proof.Machine

theorem keep_portUp {a : State} {x1 : Nat} {x2 : Nat} {x3 : LaneGroup → LaneGroup} {s : State} (h : Keep a s) :
    Keep a (State.portUp x1 x2 x3 s) := by
  unfold State.portUp
  try dsimp only
  repeat' (first
    | with_reducible (first
      | assumption | refine keep_sendAll ?_ | refine keep_event ?_ | refine Keep.foldState ?_ ?_ | refine keep_onLg ?_
      | refine keep_onPort ?_)
    | (intro _ _ _))

theorem keep_toTraining {a : State} {x1 : Nat} {s : State} (h : Keep a s) :
    Keep a (State.toTraining x1 s) := by
  unfold State.toTraining
  try dsimp only
  repeat' (first
    | with_reducible (first
      | assumption | refine Keep.foldState ?_ ?_ | refine keep_onLg ?_ | refine keep_onPort ?_)
    | (intro _ _ _))

theorem keep_execLinkUp {a : State} {x1 : Nat} {x2 : Nat} {x3 : Nat} {x4 : List Nat} {s : State} (h : Keep a s) :
    ∀ t, execLinkUp x1 x2 x3 x4 s = .next t → Keep a t := by
  unfold execLinkUp
  refine Keep.clocked h ?_
  try dsimp only
  repeat' (first
    | with_reducible (first
      | assumption | refine keep_checkPortSlot ?_ | refine keep_portDown ?_ | refine Keep.foldState ?_ ?_ | refine keep_onLg ?_
      | refine keep_portUp ?_)
    | (intro _ _ _) | (intro _ _) | (split))

theorem keep_execTrainingTimeout {a : State} {x1 : Nat} {s : State} (h : Keep a s) :
    ∀ t, execTrainingTimeout x1 s = .next t → Keep a t := by
  unfold execTrainingTimeout
  refine Keep.clocked h ?_
  try dsimp only
  repeat' (first
    | with_reducible (first
      | assumption | refine keep_portDown ?_)
    | (split))

theorem keep_nextPhase {a : State} {x1 : Nat} {s : State} (h : Keep a s) :
    Keep a (State.nextPhase x1 s) := by
  unfold State.nextPhase
  try dsimp only
  repeat' (first
    | with_reducible (first
      | assumption | refine keep_checkPortSlot ?_ | refine keep_onLg ?_ | refine keep_event ?_)
    | (split))

theorem keep_execRetrainComplete {a : State} {x1 : Nat} {x2 : Nat} {x3 : Bool} {s : State} (h : Keep a s) :
    ∀ t, execRetrainComplete x1 x2 x3 s = .next t → Keep a t := by
  unfold execRetrainComplete
  refine Keep.clocked h ?_
  try dsimp only
  repeat' (first
    | with_reducible (first
      | assumption | refine Keep.foldState ?_ ?_ | refine keep_nextPhase ?_ | refine keep_portUp ?_ | refine keep_portDown ?_)
    | (intro _ _ _) | (intro _ _) | (split))

theorem keep_execLossOfLight {a : State} {x1 : Nat} {s : State} (h : Keep a s) :
    ∀ t, execLossOfLight x1 s = .next t → Keep a t := by
  unfold execLossOfLight
  refine Keep.clocked h ?_
  try dsimp only
  repeat' (first
    | with_reducible (first
      | assumption | refine keep_portDown ?_)
    | (split))

theorem keep_execDownRetry {a : State} {x1 : Nat} {s : State} (h : Keep a s) :
    ∀ t, execDownRetry x1 s = .next t → Keep a t := by
  unfold execDownRetry
  refine Keep.clocked h ?_
  try dsimp only
  repeat' (first
    | with_reducible (first
      | assumption | refine keep_toTraining ?_)
    | (split))

theorem keep_execWakePatternSend {a : State} {x1 : Nat} {s : State} (h : Keep a s) :
    ∀ t, execWakePatternSend x1 s = .next t → Keep a t := by
  unfold execWakePatternSend
  refine Keep.clocked h ?_
  try dsimp only
  repeat' (first
    | with_reducible (first
      | assumption | refine keep_emit ?_)
    | (split))

theorem keep_execKeyPhaseChange {a : State} {x1 : Nat} {s : State} (h : Keep a s) :
    ∀ t, execKeyPhaseChange x1 s = .next t → Keep a t := by
  unfold execKeyPhaseChange
  refine Keep.clocked h ?_
  try dsimp only
  repeat' (first
    | with_reducible (first
      | assumption | refine keep_nextPhase ?_ | refine keep_onLg ?_)
    | (split))

theorem keep_unstall {a : State}  {s : State} (h : Keep a s) :
    Keep a (State.unstall s) := by
  unfold State.unstall
  try dsimp only
  repeat' (first
    | with_reducible (first
      | assumption | refine keep_sendAll ?_ | refine Keep.foldState ?_ ?_ | refine keep_nextPhase ?_)
    | (intro _ _ _) | (intro _ _) | (split))

theorem keep_nak {a : State} {x1 : Nat} {s : State} (h : Keep a s) :
    Keep a (State.nak x1 s) := by
  unfold State.nak
  try dsimp only
  repeat' (first
    | with_reducible (first
      | assumption | refine keep_onLg ?_))

theorem keep_nodeCheck {a : State} {x1 : Flit} {s : State} (h : Keep a s) :
    Keep a (State.nodeCheck x1 s).2 := by
  unfold State.nodeCheck
  try dsimp only
  repeat' (first
    | with_reducible (first
      | assumption | refine keep_onLk ?_ | refine keep_event ?_)
    | (split))

theorem keep_tagFailed {a : State} {x1 : Nat} {s : State} (h : Keep a s) :
    Keep a (State.tagFailed x1 s) := by
  unfold State.tagFailed
  try dsimp only
  repeat' (first
    | with_reducible (first
      | assumption | refine keep_nak ?_ | refine keep_onPort ?_ | refine keep_onLg ?_ | refine keep_linkDown ?_
      | refine keep_event ?_ | refine keep_portLeaves ?_)
    | (split))

theorem keep_execFlitReceive {a : State} {x1 : Nat} {x2 : Flit} {x3 : FecIn} {x4 : Bool} {s : State} (h : Keep a s) :
    ∀ t, execFlitReceive x1 x2 x3 x4 s = .next t → Keep a t := by
  unfold execFlitReceive
  refine Keep.clocked h ?_
  try dsimp only
  repeat' (first
    | with_reducible (first
      | assumption | refine keep_onPort ?_ | refine keep_nak ?_ | refine keep_onLg ?_ | refine keep_tagFailed ?_
      | refine keep_takeAck ?_ | refine keep_sendAll ?_ | refine keep_nodeCheck ?_ | refine keep_receiveStream ?_
      | refine Keep.snd (by assumption) (keep_nodeCheck ?_))
    | (split))

theorem keep_execAckControlFlit {a : State} {x1 : Nat} {s : State} (h : Keep a s) :
    ∀ t, execAckControlFlit x1 s = .next t → Keep a t := by
  unfold execAckControlFlit
  refine Keep.clocked h ?_
  try dsimp only
  repeat' (first
    | with_reducible (first
      | assumption | refine keep_launchFlit ?_)
    | (split))

theorem keep_execStreamAck {a : State} {x1 : Nat} {x2 : Nat} {x3 : Half} {s : State} (h : Keep a s) :
    ∀ t, execStreamAck x1 x2 x3 s = .next t → Keep a t := by
  unfold execStreamAck
  refine Keep.clocked h ?_
  try dsimp only
  repeat' (first
    | with_reducible (first
      | assumption | refine keep_onLk ?_))

theorem keep_execStreamAckSend {a : State} {x1 : Nat} {x2 : Nat} {s : State} (h : Keep a s) :
    ∀ t, execStreamAckSend x1 x2 s = .next t → Keep a t := by
  unfold execStreamAckSend
  refine Keep.clocked h ?_
  try dsimp only
  repeat' (first
    | with_reducible (first
      | assumption | refine keep_ackStream ?_)
    | (split))

theorem keep_scansWithout {a : State} {x1 : Nat} {s : State} (h : Keep a s) :
    Keep a (State.scansWithout x1 s) := by
  unfold State.scansWithout
  try dsimp only
  repeat' (first
    | with_reducible (first
      | assumption | refine Keep.foldState ?_ ?_ | refine keep_endScan ?_)
    | (intro _ _ _) | (intro _ _) | (split))

theorem keep_dropNode {a : State} {x1 : Nat} {s : State} (h : Keep a s) :
    Keep a (State.dropNode x1 s) := by
  unfold State.dropNode
  try dsimp only
  repeat' (first
    | with_reducible (first
      | assumption | refine Keep.foldState ?_ ?_ | refine keep_reqFails ?_ | refine keep_onLk ?_ | refine keep_settle ?_
      | refine keep_scansWithout ?_)
    | (intro _ _ _))

theorem keep_resend {a : State} {x1 : Nat} {x2 : Unacked} {x3 : List Unacked} {s : State} (h : Keep a s) :
    Keep a (State.resend x1 x2 x3 s) := by
  unfold State.resend
  try dsimp only
  repeat' (first
    | with_reducible (first
      | assumption | refine keep_onLk ?_ | refine keep_sendOn ?_)
    | (split))

theorem keep_execRemoteResendTimeout {a : State} {x1 : Nat} {x2 : Nat} {s : State} (h : Keep a s) :
    ∀ t, execRemoteResendTimeout x1 x2 s = .next t → Keep a t := by
  unfold execRemoteResendTimeout
  refine Keep.clocked h ?_
  try dsimp only
  repeat' (first
    | with_reducible (first
      | assumption | refine keep_resend ?_ | refine keep_dropNode ?_ | refine keep_event ?_ | refine keep_onLk ?_)
    | (split))

theorem keep_portRetrain {a : State} {x1 : Nat} {s : State} (h : Keep a s) :
    Keep a (State.portRetrain x1 s) := by
  unfold State.portRetrain
  try dsimp only
  repeat' (first
    | with_reducible (first
      | assumption | refine keep_toTraining ?_ | refine keep_retrain ?_)
    | (split))

theorem keep_portDisable {a : State} {x1 : Nat} {x2 : Bool} {s : State} (h : Keep a s) :
    Keep a (State.portDisable x1 x2 s) := by
  unfold State.portDisable
  try dsimp only
  repeat' (first
    | with_reducible (first
      | assumption | refine keep_onPort ?_ | refine keep_portLeaves ?_ | refine keep_toTraining ?_)
    | (split))

theorem keep_execLkpRetrain {a : State} {x1 : Master} {x2 : Nat} {s : State} (h : Keep a s) :
    ∀ t, execLkpRetrain x1 x2 s = .next t → Keep a t := by
  unfold execLkpRetrain
  refine Keep.clocked h ?_
  try dsimp only
  repeat' (first
    | with_reducible (first
      | assumption | refine keep_portRetrain ?_ | refine keep_privWrite ?_ ?_)
    | (intro _ _ _) | (intro _ _) | (split))

theorem keep_execLkpDisable {a : State} {x1 : Master} {x2 : Nat} {x3 : Word} {s : State} (h : Keep a s) :
    ∀ t, execLkpDisable x1 x2 x3 s = .next t → Keep a t := by
  unfold execLkpDisable
  refine Keep.clocked h ?_
  try dsimp only
  repeat' (first
    | with_reducible (first
      | assumption | refine keep_portDisable ?_ | refine keep_privWrite ?_ ?_)
    | (intro _ _ _) | (intro _ _) | (split))

end Sys2Proof.Laws
end

