-- ==== Sys2Proof/Laws/KeepPoolOps.lean ====
section
/-! SUPPORT. What the operations of Machine/PoolOps.lean keep. -/
namespace Sys2Proof.Laws
open Sys2Proof Sys2Proof.Machine

theorem keep_pageDone {a : State} {x1 : Nat} {x2 : Nat} {x3 : Nat} {x4 : List Word} {s : State} (h : Keep a s) :
    Keep a (State.pageDone x1 x2 x3 x4 s) := by
  unfold State.pageDone
  try dsimp only
  repeat' (first
    | with_reducible (first
      | assumption | refine keep_onPage ?_ | refine keep_msix ?_)
    | (split))

theorem keep_pageDoneOpt {a : State} {x1 : Option Nat} {x2 : Nat} {x3 : Nat} {s : State} (h : Keep a s) :
    Keep a (State.pageDoneOpt x1 x2 x3 s) := by
  unfold State.pageDoneOpt
  try dsimp only
  repeat' (first
    | with_reducible (first
      | assumption | refine keep_pageDone ?_)
    | (split))

theorem keep_respond {a : State} {x1 : Nat} {x2 : Nat} {x3 : TxnIn} {x4 : Nat} {x5 : Beats} {s : State} (h : Keep a s) :
    Keep a (State.respond x1 x2 x3 x4 x5 s) := by
  unfold State.respond
  try dsimp only
  repeat' (first
    | with_reducible (first
      | assumption | refine keep_sendData ?_))

theorem keep_spanRead {a : State} {x1 : Nat} {s : State} (h : Keep a s) :
    Keep a (State.spanRead x1 s) := by
  unfold State.spanRead
  try dsimp only
  repeat' (first
    | with_reducible (first
      | assumption | refine keep_readEffectH ?_)
    | (split))

theorem keep_execRead {a : State} {x1 : Nat} {x2 : TxnIn} {s : State} (h : Keep a s) :
    ∀ t, execRead x1 x2 s = .next t → Keep a t := by
  unfold execRead
  refine Keep.clocked h ?_
  try dsimp only
  repeat' (first
    | with_reducible (first
      | assumption | refine keep_spanRead ?_ | refine keep_respond ?_ | refine keep_readThrough ?_
      | refine Keep.snd (by assumption) (keep_readThrough ?_))
    | (split))

theorem keep_execWrite {a : State} {x1 : Nat} {x2 : TxnIn} {x3 : List Byte} {x4 : List Nat} {s : State} (h : Keep a s) :
    ∀ t, execWrite x1 x2 x3 x4 s = .next t → Keep a t := by
  unfold execWrite
  refine Keep.clocked h ?_
  try dsimp only
  repeat' (first
    | with_reducible (first
      | assumption | refine keep_spanRead ?_ | refine keep_respond ?_ | refine keep_writeThrough ?_
      | refine keep_nearWrite ?_ _ (by assumption) | refine Keep.getD (keep_nearWrite ?_) ?_)
    | exact keep_nearWrite (by assumption) | (split))

theorem keep_execAtomic {a : State} {x1 : Nat} {x2 : TxnIn} {x3 : AtomicOp} {s : State} (h : Keep a s) :
    ∀ t, execAtomic x1 x2 x3 s = .next t → Keep a t := by
  unfold execAtomic
  refine Keep.clocked h ?_
  try dsimp only
  repeat' (first
    | with_reducible (first
      | assumption | refine keep_spanRead ?_ | refine keep_respond ?_ | refine keep_serveAtomic ?_
      | refine Keep.snd (by assumption) (keep_serveAtomic ?_) | refine keep_nearAtomic ?_ _ (by assumption))
    | exact keep_nearAtomic (by assumption) | (split))

theorem keep_sendOwn {a : State} {x1 : Nat} {x2 : OwnMsg} {s : State} (h : Keep a s) :
    Keep a (State.sendOwn x1 x2 s) := by
  unfold State.sendOwn
  try dsimp only
  repeat' (first
    | with_reducible (first
      | assumption | refine keep_sendTxn ?_ | refine keep_emit ?_))

theorem keep_putOwn {a : State} {x1 : Nat} {x2 : Own} {s : State} (h : Keep a s) :
    Keep a (State.putOwn x1 x2 s) := by
  unfold State.putOwn
  try dsimp only
  repeat' (first
    | with_reducible (first
      | assumption | refine keep_put0 ?_ | refine keep_onLk ?_))

theorem keep_dropOwn {a : State} {x1 : Nat} {s : State} (h : Keep a s) :
    Keep a (State.dropOwn x1 s) := by
  unfold State.dropOwn
  try dsimp only
  repeat' (first
    | with_reducible (first
      | assumption | refine keep_put0 ?_ | refine keep_onLk ?_)
    | (split))

theorem keep_onOwn {a : State} {x1 : Nat} {x2 : Own → Own} {s : State} (h : Keep a s) :
    Keep a (State.onOwn x1 x2 s) := by
  unfold State.onOwn
  try dsimp only
  repeat' (first
    | with_reducible (first
      | assumption | refine keep_putOwn ?_)
    | (split))

theorem keep_renew {a : State} {x1 : Nat} {s : State} (h : Keep a s) :
    Keep a (State.renew x1 s) := by
  unfold State.renew
  try dsimp only
  repeat' (first
    | with_reducible (first
      | assumption | refine keep_sendOwn ?_)
    | (split))

theorem keep_zeroState {a : State} {x1 : Own} {s : State} (h : Keep a s) :
    Keep a (State.zeroState x1 s) := by
  unfold State.zeroState
  try dsimp only
  repeat' (first
    | with_reducible (first
      | assumption | refine Keep.foldState ?_ ?_ | refine keep_hbmWipe ?_)
    | (intro _ _ _) | (intro _ _) | (split))

theorem keep_ownNone {a : State} {x1 : Nat} {x2 : Own → Own} {s : State} (h : Keep a s) :
    Keep a (State.ownNone x1 x2 s) := by
  unfold State.ownNone
  try dsimp only
  repeat' (first
    | with_reducible (first
      | assumption | refine keep_putOwn ?_ | refine keep_zeroState ?_)
    | (split))

theorem keep_ownHeld {a : State} {x1 : Nat} {x2 : Own → Own} {s : State} (h : Keep a s) :
    Keep a (State.ownHeld x1 x2 s) := by
  unfold State.ownHeld
  try dsimp only
  repeat' (first
    | with_reducible (first
      | assumption | refine keep_renew ?_ | refine keep_onOwn ?_))

theorem keep_staleOwn {a : State} {x1 : Nat} {x2 : OwnMsg} {x3 : Own} {s : State} (h : Keep a s) :
    Keep a (State.staleOwn x1 x2 x3 s) := by
  unfold State.staleOwn
  try dsimp only
  repeat' (first
    | with_reducible (first
      | assumption | refine keep_event ?_ | refine keep_onLk ?_))

theorem keep_ownMsg {a : State} {x1 : Nat} {x2 : OwnMsg} {x3 : Own → State → State} {s : State} (h : Keep a s) (hx3 : ∀ y0 u, Keep a u → Keep a (x3 y0 u)) :
    Keep a (State.ownMsg x1 x2 x3 s) := by
  unfold State.ownMsg
  repeat' (first
    | with_reducible assumption
    | with_reducible refine keep_onLk ?_
    | with_reducible refine keep_staleOwn ?_
    | with_reducible refine hx3 _ _ ?_
    | split)

theorem keep_rxMove {a : State} {x1 : Nat} {x2 : OwnMsg} {s : State} (h : Keep a s) :
    Keep a (State.rxMove x1 x2 s) := by
  unfold State.rxMove
  try dsimp only
  repeat' (first
    | with_reducible (first
      | assumption | refine keep_sendOwn ?_ | refine keep_putOwn ?_ | refine keep_ownMsg ?_ ?_)
    | (intro _ _ _) | (intro _ _) | (split))

theorem keep_rxGive {a : State} {x1 : Nat} {x2 : OwnMsg} {s : State} (h : Keep a s) :
    Keep a (State.rxGive x1 x2 s) := by
  unfold State.rxGive
  try dsimp only
  repeat' (first
    | with_reducible (first
      | assumption | refine keep_drawn ?_ | refine keep_putOwn ?_ | refine keep_sendOwn ?_ | refine keep_ownMsg ?_ ?_)
    | (intro _ _ _) | (intro _ _) | (split))

theorem keep_rxTake {a : State} {x1 : Nat} {x2 : OwnMsg} {s : State} (h : Keep a s) :
    Keep a (State.rxTake x1 x2 s) := by
  unfold State.rxTake
  try dsimp only
  repeat' (first
    | with_reducible (first
      | assumption | refine keep_sendOwn ?_ | refine keep_putOwn ?_ | refine keep_zeroState ?_ | refine keep_ownMsg ?_ ?_)
    | (intro _ _ _) | (intro _ _) | (split))

theorem keep_rxAck {a : State} {x1 : Nat} {x2 : OwnMsg} {s : State} (h : Keep a s) :
    Keep a (State.rxAck x1 x2 s) := by
  unfold State.rxAck
  try dsimp only
  repeat' (first
    | with_reducible (first
      | assumption | refine keep_ownHeld ?_ | refine keep_ownMsg ?_ ?_)
    | (intro _ _ _) | (intro _ _) | (split))

theorem keep_rxRenew {a : State} {x1 : Nat} {x2 : OwnMsg} {s : State} (h : Keep a s) :
    Keep a (State.rxRenew x1 x2 s) := by
  unfold State.rxRenew
  try dsimp only
  repeat' (first
    | with_reducible (first
      | assumption | refine keep_sendOwn ?_ | refine keep_putOwn ?_ | refine keep_pageDoneOpt ?_ | refine keep_event ?_
      | refine keep_onLk ?_ | refine keep_ownMsg ?_ ?_)
    | (intro _ _ _) | (intro _ _) | (split))

theorem keep_rxRenewAck {a : State} {x1 : Nat} {x2 : OwnMsg} {s : State} (h : Keep a s) :
    Keep a (State.rxRenewAck x1 x2 s) := by
  unfold State.rxRenewAck
  try dsimp only
  repeat' (first
    | with_reducible (first
      | assumption | refine keep_putOwn ?_ | refine keep_ownMsg ?_ ?_)
    | (intro _ _ _) | (intro _ _) | (split))

theorem keep_rxQuery {a : State} {x1 : Nat} {x2 : OwnMsg} {s : State} (h : Keep a s) :
    Keep a (State.rxQuery x1 x2 s) := by
  unfold State.rxQuery
  try dsimp only
  repeat' (first
    | with_reducible (first
      | assumption | refine keep_sendOwn ?_ | refine keep_ownMsg ?_ ?_)
    | (intro _ _ _) | (intro _ _) | (split))

theorem keep_rxAnswer {a : State} {x1 : Nat} {x2 : OwnMsg} {s : State} (h : Keep a s) :
    Keep a (State.rxAnswer x1 x2 s) := by
  unfold State.rxAnswer
  try dsimp only
  repeat' (first
    | with_reducible (first
      | assumption | refine keep_event ?_ | refine keep_onLk ?_ | refine keep_ownHeld ?_ | refine keep_putOwn ?_
      | refine keep_ownNone ?_ | refine keep_ownMsg ?_ ?_)
    | (intro _ _ _) | (intro _ _) | (split))

theorem keep_rxRevoke {a : State} {x1 : Nat} {x2 : OwnMsg} {s : State} (h : Keep a s) :
    Keep a (State.rxRevoke x1 x2 s) := by
  unfold State.rxRevoke
  try dsimp only
  repeat' (first
    | with_reducible (first
      | assumption | refine keep_ownNone ?_ | refine keep_ownMsg ?_ ?_)
    | (intro _ _ _) | (intro _ _) | (split))

theorem keep_rxRestore {a : State} {x1 : Nat} {x2 : OwnMsg} {s : State} (h : Keep a s) :
    Keep a (State.rxRestore x1 x2 s) := by
  unfold State.rxRestore
  try dsimp only
  repeat' (first
    | with_reducible (first
      | assumption | refine keep_drawn ?_ | refine keep_putOwn ?_ | refine keep_ownMsg ?_ ?_)
    | (intro _ _ _) | (intro _ _) | (split))

theorem keep_rxCkpt {a : State} {x1 : Nat} {x2 : OwnMsg} {s : State} (h : Keep a s) :
    Keep a (State.rxCkpt x1 x2 s) := by
  unfold State.rxCkpt
  try dsimp only
  repeat' (first
    | with_reducible (first
      | assumption | refine keep_pageDoneOpt ?_ | refine keep_sendOwn ?_ | refine keep_putOwn ?_ | refine keep_ownMsg ?_ ?_)
    | (intro _ _ _) | (intro _ _) | (split))

theorem keep_rxCkptAck {a : State} {x1 : Nat} {x2 : OwnMsg} {s : State} (h : Keep a s) :
    Keep a (State.rxCkptAck x1 x2 s) := by
  unfold State.rxCkptAck
  try dsimp only
  repeat' (first
    | with_reducible (first
      | assumption | refine keep_pageDoneOpt ?_ | refine keep_putOwn ?_ | refine keep_ownMsg ?_ ?_)
    | (intro _ _ _) | (intro _ _) | (split))

theorem keep_rxOwn {a : State} {x1 : Nat} {x2 : OwnMsg} {s : State} (h : Keep a s) :
    Keep a (State.rxOwn x1 x2 s) := by
  unfold State.rxOwn
  try dsimp only
  repeat' (first
    | with_reducible (first
      | assumption | refine keep_rxMove ?_ | refine keep_rxGive ?_ | refine keep_rxTake ?_ | refine keep_rxAck ?_
      | refine keep_rxRenew ?_ | refine keep_rxRenewAck ?_ | refine keep_rxQuery ?_ | refine keep_rxAnswer ?_
      | refine keep_rxRevoke ?_ | refine keep_rxRestore ?_ | refine keep_rxCkpt ?_ | refine keep_rxCkptAck ?_)
    | (split))

theorem keep_execMove {a : State} {x1 : Nat} {x2 : OwnMsg} {s : State} (h : Keep a s) :
    ∀ t, execMove x1 x2 s = .next t → Keep a t := by
  unfold execMove
  refine Keep.clocked h ?_
  try dsimp only
  repeat' (first
    | with_reducible (first
      | assumption | refine keep_rxMove ?_))

theorem keep_execGive {a : State} {x1 : Nat} {x2 : OwnMsg} {s : State} (h : Keep a s) :
    ∀ t, execGive x1 x2 s = .next t → Keep a t := by
  unfold execGive
  refine Keep.clocked h ?_
  try dsimp only
  repeat' (first
    | with_reducible (first
      | assumption | refine keep_rxGive ?_))

theorem keep_execTake {a : State} {x1 : Nat} {x2 : OwnMsg} {s : State} (h : Keep a s) :
    ∀ t, execTake x1 x2 s = .next t → Keep a t := by
  unfold execTake
  refine Keep.clocked h ?_
  try dsimp only
  repeat' (first
    | with_reducible (first
      | assumption | refine keep_rxTake ?_))

theorem keep_execAck {a : State} {x1 : Nat} {x2 : OwnMsg} {s : State} (h : Keep a s) :
    ∀ t, execAck x1 x2 s = .next t → Keep a t := by
  unfold execAck
  refine Keep.clocked h ?_
  try dsimp only
  repeat' (first
    | with_reducible (first
      | assumption | refine keep_rxAck ?_))

theorem keep_execRenew {a : State} {x1 : Nat} {x2 : OwnMsg} {s : State} (h : Keep a s) :
    ∀ t, execRenew x1 x2 s = .next t → Keep a t := by
  unfold execRenew
  refine Keep.clocked h ?_
  try dsimp only
  repeat' (first
    | with_reducible (first
      | assumption | refine keep_rxRenew ?_))

theorem keep_execRenewAck {a : State} {x1 : Nat} {x2 : OwnMsg} {s : State} (h : Keep a s) :
    ∀ t, execRenewAck x1 x2 s = .next t → Keep a t := by
  unfold execRenewAck
  refine Keep.clocked h ?_
  try dsimp only
  repeat' (first
    | with_reducible (first
      | assumption | refine keep_rxRenewAck ?_))

theorem keep_execQuery {a : State} {x1 : Nat} {x2 : OwnMsg} {s : State} (h : Keep a s) :
    ∀ t, execQuery x1 x2 s = .next t → Keep a t := by
  unfold execQuery
  refine Keep.clocked h ?_
  try dsimp only
  repeat' (first
    | with_reducible (first
      | assumption | refine keep_rxQuery ?_))

theorem keep_execAnswer {a : State} {x1 : Nat} {x2 : OwnMsg} {s : State} (h : Keep a s) :
    ∀ t, execAnswer x1 x2 s = .next t → Keep a t := by
  unfold execAnswer
  refine Keep.clocked h ?_
  try dsimp only
  repeat' (first
    | with_reducible (first
      | assumption | refine keep_rxAnswer ?_))

theorem keep_execRevoke {a : State} {x1 : Nat} {x2 : OwnMsg} {s : State} (h : Keep a s) :
    ∀ t, execRevoke x1 x2 s = .next t → Keep a t := by
  unfold execRevoke
  refine Keep.clocked h ?_
  try dsimp only
  repeat' (first
    | with_reducible (first
      | assumption | refine keep_rxRevoke ?_))

theorem keep_execRestore {a : State} {x1 : Nat} {x2 : OwnMsg} {s : State} (h : Keep a s) :
    ∀ t, execRestore x1 x2 s = .next t → Keep a t := by
  unfold execRestore
  refine Keep.clocked h ?_
  try dsimp only
  repeat' (first
    | with_reducible (first
      | assumption | refine keep_rxRestore ?_))

theorem keep_execCkpt {a : State} {x1 : Nat} {x2 : OwnMsg} {s : State} (h : Keep a s) :
    ∀ t, execCkpt x1 x2 s = .next t → Keep a t := by
  unfold execCkpt
  refine Keep.clocked h ?_
  try dsimp only
  repeat' (first
    | with_reducible (first
      | assumption | refine keep_rxCkpt ?_))

theorem keep_execCkptAck {a : State} {x1 : Nat} {x2 : OwnMsg} {s : State} (h : Keep a s) :
    ∀ t, execCkptAck x1 x2 s = .next t → Keep a t := by
  unfold execCkptAck
  refine Keep.clocked h ?_
  try dsimp only
  repeat' (first
    | with_reducible (first
      | assumption | refine keep_rxCkptAck ?_))

theorem keep_execStateCopyComplete {a : State} {x1 : Nat} {s : State} (h : Keep a s) :
    ∀ t, execStateCopyComplete x1 s = .next t → Keep a t := by
  unfold execStateCopyComplete
  refine Keep.clocked h ?_
  try dsimp only
  repeat' (first
    | with_reducible (first
      | assumption | refine keep_sendOwn ?_ | refine keep_putOwn ?_)
    | (split))

theorem keep_execStateReplay {a : State} {x1 : Nat} {s : State} (h : Keep a s) :
    ∀ t, execStateReplay x1 s = .next t → Keep a t := by
  unfold execStateReplay
  refine Keep.clocked h ?_
  try dsimp only
  repeat' (first
    | with_reducible (first
      | assumption | refine keep_ownHeld ?_)
    | (split))

theorem keep_execHandoverQuery {a : State} {x1 : Nat} {s : State} (h : Keep a s) :
    ∀ t, execHandoverQuery x1 s = .next t → Keep a t := by
  unfold execHandoverQuery
  refine Keep.clocked h ?_
  try dsimp only
  repeat' (first
    | with_reducible (first
      | assumption | refine keep_sendOwn ?_)
    | (split))

theorem keep_execLeaseExpired {a : State} {x1 : Nat} {x2 : Nat} {s : State} (h : Keep a s) :
    ∀ t, execLeaseExpired x1 x2 s = .next t → Keep a t := by
  unfold execLeaseExpired
  refine Keep.clocked h ?_
  try dsimp only
  repeat' (first
    | with_reducible (first
      | assumption | refine keep_event ?_ | refine keep_onLk ?_ | refine keep_putOwn ?_ | refine keep_sendOwn ?_
      | refine keep_pageDoneOpt ?_)
    | (split))

theorem keep_execOrphaned {a : State} {x1 : Nat} {s : State} (h : Keep a s) :
    ∀ t, execOrphaned x1 s = .next t → Keep a t := by
  unfold execOrphaned
  refine Keep.clocked h ?_
  try dsimp only
  repeat' (first
    | with_reducible (first
      | assumption | refine keep_ownNone ?_ | refine keep_onLk ?_)
    | (split))

theorem keep_ownBoundary {a : State}  {s : State} (h : Keep a s) :
    Keep a (State.ownBoundary s) := by
  unfold State.ownBoundary
  try dsimp only
  repeat' (first
    | with_reducible (first
      | assumption | refine Keep.foldState ?_ ?_ | refine keep_putOwn ?_ | refine keep_sendOwn ?_ | refine keep_renew ?_)
    | (intro _ _ _) | (intro _ _) | (split))

theorem keep_execMessage {a : State} {x1 : Nat} {x2 : Nat} {x3 : List Word} {s : State} (h : Keep a s) :
    ∀ t, execMessage x1 x2 x3 s = .next t → Keep a t := by
  unfold execMessage
  refine Keep.clocked h ?_
  try dsimp only
  repeat' (first
    | with_reducible (first
      | assumption | refine keep_rxOwn ?_ | refine keep_takeCounts ?_ | refine keep_onLk ?_)
    | (split))

theorem keep_execSignal {a : State} {x1 : Nat} {x2 : SignalIn} {s : State} (h : Keep a s) :
    ∀ t, execSignal x1 x2 s = .next t → Keep a t := by
  unfold execSignal
  refine Keep.clocked h ?_
  try dsimp only
  repeat' (first
    | with_reducible (first
      | assumption | refine keep_onFu ?_ | refine keep_onLk ?_)
    | (split))

theorem keep_lkRefused {a : State}  {s : State} (h : Keep a s) :
    Keep a (State.lkRefused s) := by
  unfold State.lkRefused
  try dsimp only
  repeat' (first
    | with_reducible (first
      | assumption | refine keep_onLk ?_))

theorem keep_execLkRoleReq {a : State} {x1 : Master} {x2 : Word} {s : State} (h : Keep a s) :
    ∀ t, execLkRoleReq x1 x2 s = .next t → Keep a t := by
  unfold execLkRoleReq
  refine Keep.clocked h ?_
  try dsimp only
  repeat' (first
    | with_reducible (first
      | assumption | refine keep_lkRefused ?_ | refine keep_onLk ?_ | refine keep_privWrite ?_ ?_)
    | (intro _ _ _) | (intro _ _) | (split))

theorem keep_execRoleShift {a : State}  {s : State} (h : Keep a s) :
    ∀ t, execRoleShift s = .next t → Keep a t := by
  unfold execRoleShift
  refine Keep.clocked h ?_
  try dsimp only
  repeat' (first
    | with_reducible (first
      | assumption | refine keep_event ?_ | refine keep_onLk ?_)
    | (split))

theorem keep_writeNode {a : State} {x1 : Nat} {x2 : Nat} {s : State} (h : Keep a s) :
    Keep a (State.writeNode x1 x2 s) := by
  unfold State.writeNode
  try dsimp only
  repeat' (first
    | with_reducible (first
      | assumption | refine keep_lkRefused ?_ | refine keep_onLk ?_ | refine keep_dropNode ?_)
    | (split))

theorem keep_execLkNodeWrite {a : State} {x1 : Master} {x2 : Nat} {x3 : Nat} {s : State} (h : Keep a s) :
    ∀ t, execLkNodeWrite x1 x2 x3 s = .next t → Keep a t := by
  unfold execLkNodeWrite
  refine Keep.clocked h ?_
  try dsimp only
  repeat' (first
    | with_reducible (first
      | assumption | refine keep_writeNode ?_ | refine keep_privWrite ?_ ?_)
    | (intro _ _ _) | (intro _ _))

end Sys2Proof.Laws
end

