-- ==== Sys2Proof/Laws/KeepHostOps.lean ====
section
/-! SUPPORT. What the operations of Machine/HostOps.lean keep. -/
namespace Sys2Proof.Laws
open Sys2Proof Sys2Proof.Machine

theorem keep_newHandle {a : State} {x1 : Nat} {x2 : Nat} {x3 : Nat} {s : State} (h : Keep a s) :
    ∀ t, State.newHandle x1 x2 x3 s = some t → Keep a t.2 := by
  intro t ht
  unfold State.newHandle at ht
  split at ht
  · cases ht
  · dsimp only at ht
    split at ht
    · cases ht
    · exact Option.some.inj ht ▸ keep_onAsid h

theorem keep_newToken {a : State} {x1 : Export} {s : State} (h : Keep a s) :
    ∀ t, State.newToken x1 s = some t → Keep a t.2 := by
  intro t ht
  unfold State.newToken at ht
  dsimp only at ht
  split at ht
  · cases ht
  · rw [← Option.some.inj ht]
    dsimp only
    exact keep_onHif h

theorem keep_dropObj {a : State} {x1 : Nat} {s : State} (h : Keep a s) :
    Keep a (State.dropObj x1 s) := by
  unfold State.dropObj
  try dsimp only
  repeat' (first
    | with_reducible (first
      | assumption | refine keep_onHif ?_))

theorem keep_zeroObj {a : State} {x1 : Nat} {s : State} (h : Keep a s) :
    Keep a (State.zeroObj x1 s) := by
  unfold State.zeroObj
  try dsimp only
  repeat' (first
    | with_reducible (first
      | assumption | refine Keep.foldState ?_ ?_ | refine keep_hbmWipe ?_ | refine keep_dropObj ?_ | refine keep_onHif ?_
      | refine Keep.foldlSnd ?_ _ ?_ | refine Keep.foldlFst ?_ _ ?_ | refine Keep.foldl ?_ _ ?_)
    | (intro _ _ _) | (intro _ _) | (split))

theorem keep_sweepObjs {a : State}  {s : State} (h : Keep a s) :
    Keep a (State.sweepObjs s) := by
  unfold State.sweepObjs
  try dsimp only
  repeat' (first
    | with_reducible (first
      | assumption | refine Keep.foldState ?_ ?_ | refine keep_zeroObj ?_)
    | (intro _ _ _))

theorem keep_dropRef {a : State} {x1 : Nat} {s : State} (h : Keep a s) :
    Keep a (State.dropRef x1 s) := by
  unfold State.dropRef
  try dsimp only
  repeat' (first
    | with_reducible (first
      | assumption | refine keep_sweepObjs ?_ | refine keep_onHif ?_))

theorem keep_clear0 {a : State} {x1 : Nat} {x2 : Nat} {s : State} (h : Keep a s) :
    Keep a (State.clear0 x1 x2 s) := by
  unfold State.clear0
  try dsimp only
  repeat' (first
    | with_reducible (first
      | assumption | refine Keep.foldState ?_ ?_ | refine keep_hbmWipe ?_)
    | (intro _ _ _) | (intro _ _) | (split))

theorem keep_growTables {a : State} {x1 : Nat} {x2 : Nat} {x3 : Nat} {x4 : Nat} {x5 : Nat} {s : State} (h : Keep a s) :
    ∀ t, State.growTables x1 x2 x3 x4 x5 s = some t → Keep a t := by
  induction x4 generalizing s x5 with
  | zero => intro t ht; cases ht; exact h
  | succ n ih =>
    intro t ht
    unfold State.growTables at ht
    split at ht
    · cases ht; exact h
    · split at ht
      · cases ht
      · dsimp only at ht
        split at ht
        · cases ht
        · split at ht
          · exact ih h t ht
          · split at ht
            · cases ht
            · exact ih (keep_onAsid (keep_put0 (keep_clear0 h))) t ht

theorem keep_mapPage {a : State} {x1 : Nat} {x2 : Nat} {x3 : Nat} {x4 : Nat} {x5 : Nat} {s : State} (h : Keep a s) :
    ∀ t, State.mapPage x1 x2 x3 x4 x5 s = some t → Keep a t := by
  intro t ht
  unfold State.mapPage at ht
  split at ht
  · cases ht
  · split at ht
    · cases ht
    · rename_i s1 e
      split at ht
      · cases ht
      · cases ht
        exact keep_put0 (keep_growTables h _ e)

theorem keep_mapRange {a : State} {x1 : Nat} {x2 : Mapping} {x3 : Nat} {s : State} (h : Keep a s) :
    ∀ t, State.mapRange x1 x2 x3 s = some t → Keep a t := by
  intro t ht
  unfold State.mapRange at ht
  obtain ⟨u, hu, rfl⟩ := Option.map_eq_some_iff.1 ht
  refine keep_onAsid ?_
  have H : ∀ (xs : List Nat) (o : Option State), (∀ t, o = some t → Keep a t) → ∀ t, xs.foldl (fun (o : Option State) i =>
      o.bind fun b => b.mapPage x1 (x2.va + i * pageBytes x2.page) x2.page x2.rights (x3 + i * pageBytes x2.page)) o = some t →
      Keep a t := by
    intro xs
    induction xs with
    | nil => exact fun _ h => h
    | cons x xs ih =>
      intro o ho
      refine ih _ fun t ht => ?_
      obtain ⟨v, hv, ht⟩ := Option.bind_eq_some_iff.1 ht
      exact keep_mapPage (ho v hv) t ht
  exact H _ _ (fun t ht => Option.some.inj ht ▸ h) u hu

theorem keep_clearLeaves {a : State} {x1 : Ctx} {x2 : Mapping} {x3 : Nat} {x4 : Nat} {s : State} (h : Keep a s) :
    Keep a (State.clearLeaves x1 x2 x3 x4 s) := by
  unfold State.clearLeaves
  try dsimp only
  repeat' (first
    | with_reducible (first
      | assumption | refine Keep.foldState ?_ ?_ | refine keep_put0 ?_)
    | (intro _ _ _) | (intro _ _) | (split))

theorem keep_unmapRange {a : State} {x1 : Nat} {x2 : Nat} {x3 : Nat} {x4 : Mapping → Bool} {s : State} (h : Keep a s) :
    Keep a (State.unmapRange x1 x2 x3 x4 s) := by
  unfold State.unmapRange
  try dsimp only
  repeat' (first
    | with_reducible (first
      | assumption | refine keep_onAsid ?_ | refine Keep.foldState ?_ ?_ | refine keep_clearLeaves ?_)
    | (intro _ _ _) | (intro _ _) | (split))

theorem keep_putApertures {a : State} {x1 : Tab (Nat × Nat × Nat × Nat)} {s : State} (h : Keep a s) :
    Keep a (State.putApertures x1 s) := by
  unfold State.putApertures
  try dsimp only
  repeat' (first
    | with_reducible (first
      | assumption | refine Keep.foldState ?_ ?_ | refine keep_drawn ?_ | refine keep_put0 ?_ | refine keep_onHif ?_)
    | (intro _ _ _))

theorem keep_pilotInval {a : State} {x1 : Nat} {x2 : Inval} {s : State} (h : Keep a s) :
    Keep a (State.pilotInval x1 x2 s) := by
  unfold State.pilotInval
  try dsimp only
  repeat' (first
    | with_reducible (first
      | assumption | refine keep_rewalk ?_ | refine keep_purge ?_))

theorem keep_pageWait {a : State} {x1 : Nat} {x2 : PageWait} {s : State} (h : Keep a s) :
    Keep a (State.pageWait x1 x2 s) := by
  unfold State.pageWait
  try dsimp only
  repeat' (first
    | with_reducible (first
      | assumption | refine keep_onPage ?_))

theorem keep_scrubBerth {a : State} {x1 : Nat} {s : State} (h : Keep a s) :
    Keep a (State.scrubBerth x1 s) := by
  unfold State.scrubBerth
  try dsimp only
  repeat' (first
    | with_reducible (first
      | assumption | refine keep_onBerth ?_ | refine keep_disableBerth ?_))

theorem keep_dropGraph {a : State} {x1 : Nat} {s : State} (h : Keep a s) :
    Keep a (State.dropGraph x1 s) := by
  unfold State.dropGraph
  try dsimp only
  repeat' (first
    | with_reducible (first
      | assumption)
    | (split) | (refine Keep.mk' ?_ (fun h => h) (Nat.le_refl _)))

theorem keep_destroyOwn {a : State} {x1 : Nat} {s : State} (h : Keep a s) :
    Keep a (State.destroyOwn x1 s) := by
  unfold State.destroyOwn
  try dsimp only
  repeat' (first
    | with_reducible (first
      | assumption | refine keep_sendOwn ?_ | refine keep_dropOwn ?_)
    | (split))

theorem keep_pollPage {a : State} {x1 : Nat} {s : State} (h : Keep a s) :
    Keep a (State.pollPage x1 s) := by
  unfold State.pollPage
  try dsimp only
  repeat' (first
    | with_reducible (first
      | assumption | refine keep_pageDone ?_ | refine keep_pilotInval ?_ | refine keep_dropRef ?_ | refine keep_pageWait ?_
      | refine keep_scrubBerth ?_ | refine keep_dropGraph ?_ | refine keep_destroyOwn ?_)
    | (split))

theorem keep_pollPages {a : State}  {s : State} (h : Keep a s) :
    Keep a (State.pollPages s) := by
  unfold State.pollPages
  try dsimp only
  repeat' (first
    | with_reducible (first
      | assumption | refine Keep.foldState ?_ ?_ | refine keep_pollPage ?_)
    | (intro _ _ _))

theorem keep_execWrittenBitsClearDone {a : State} {x1 : Nat} {s : State} (h : Keep a s) :
    ∀ t, execWrittenBitsClearDone x1 s = .next t → Keep a t := by
  unfold execWrittenBitsClearDone
  refine Keep.clocked h ?_
  try dsimp only
  repeat' (first
    | with_reducible (first
      | assumption | refine keep_onChan ?_ | refine keep_onHif ?_ | refine keep_pollPages ?_ | refine Keep.foldState ?_ ?_
      | refine keep_dropObj ?_)
    | (intro _ _ _))

theorem keep_execInvalidationComplete {a : State} {x1 : Nat} {s : State} (h : Keep a s) :
    ∀ t, execInvalidationComplete x1 s = .next t → Keep a t := by
  unfold execInvalidationComplete
  refine Keep.clocked h ?_
  try dsimp only
  repeat' (first
    | with_reducible (first
      | assumption | refine keep_pollPages ?_ | refine keep_pilotInval ?_ | refine keep_onFq ?_)
    | (split))

theorem keep_noIde {a : State} {x1 : Nat} {s : State} (h : Keep a s) :
    Keep a (State.noIde x1 s) := by
  unfold State.noIde
  try dsimp only
  repeat' (first
    | with_reducible (first
      | assumption | refine keep_emit ?_ | refine keep_onSec ?_))

theorem keep_execBar2Read {a : State} {x1 : Nat} {x2 : Nat} {x3 : Nat} {x4 : Bool} {s : State} (h : Keep a s) :
    ∀ t, execBar2Read x1 x2 x3 x4 s = .next t → Keep a t := by
  unfold execBar2Read
  refine Keep.clocked h ?_
  try dsimp only
  repeat' (first
    | with_reducible (first
      | assumption | refine keep_noIde ?_ | refine keep_readThrough ?_ | refine Keep.foldState ?_ ?_ | refine keep_onChan ?_
      | refine keep_emit ?_ | refine keep_onLink ?_ | refine Keep.snd (by assumption) (keep_readThrough ?_)
      | refine Keep.foldlSnd ?_ _ ?_ | refine Keep.foldlFst ?_ _ ?_ | refine Keep.foldl ?_ _ ?_)
    | (intro _ _ _) | (intro _ _) | (split))

theorem keep_execBar2Write {a : State} {x1 : Nat} {x2 : Nat} {x3 : List Byte} {x4 : Bool} {x5 : Bool} {s : State} (h : Keep a s) :
    ∀ t, execBar2Write x1 x2 x3 x4 x5 s = .next t → Keep a t := by
  unfold execBar2Write
  refine Keep.clocked h ?_
  try dsimp only
  repeat' (first
    | with_reducible (first
      | assumption | refine keep_noIde ?_ | refine keep_writeThrough ?_ | refine keep_onLink ?_ | refine Keep.foldlSnd ?_ _ ?_
      | refine Keep.foldlFst ?_ _ ?_ | refine Keep.foldl ?_ _ ?_)
    | (intro _ _ _) | (intro _ _) | (split))

theorem keep_execMsixUnmask {a : State} {x1 : Nat} {x2 : Nat} {s : State} (h : Keep a s) :
    ∀ t, execMsixUnmask x1 x2 s = .next t → Keep a t := by
  unfold execMsixUnmask
  refine Keep.clocked h ?_
  try dsimp only
  repeat' (first
    | with_reducible (first
      | assumption | refine keep_onHif ?_ | refine keep_emit ?_)
    | (split))

end Sys2Proof.Laws
end

