-- ==== Sys2Proof/Laws/KeepReply.lean ====
section
/-! SUPPORT. What the answers of the pilot to Eweas commands keep. -/
namespace Sys2Proof.Laws
open Sys2Proof Sys2Proof.Machine

/-- The state an answer carries keeps what `Keep` says. -/
inductive KeepR (a : State) : Reply → Prop where
  | refuse {n : Nat} : KeepR a (.refuse n)
  | ok {r : List Word} {t : State} (h : Keep a t) : KeepR a (.ok r t)
  | wait {w : PageWait} {t : State} (h : Keep a t) : KeepR a (.wait w t)
  | later {t : State} (h : Keep a t) : KeepR a (.later t)

theorem KeepR.ok_inv {a t : State} {r : List Word} (h : KeepR a (.ok r t)) : Keep a t := by
  cases h
  assumption

theorem KeepR.wait_inv {a t : State} {w : PageWait} (h : KeepR a (.wait w t)) : Keep a t := by
  cases h
  assumption

theorem KeepR.later_inv {a t : State} (h : KeepR a (.later t)) : Keep a t := by
  cases h
  assumption

theorem keep_ownerOf {a s : State} {c : EwCmd} {f : Nat → Ctx → Reply} (hf : ∀ n x, KeepR a (f n x)) : KeepR a (s.ownerOf c f) := by
  unfold State.ownerOf
  repeat' (first | exact hf _ _ | exact KeepR.refuse | split)

theorem keep_withHandle {a : State} {x : Ctx} {n : Nat} {f : Nat → Handle → Nat → Reply} (hf : ∀ n x m, KeepR a (f n x m)) :
    KeepR a (withHandle x n f) := by
  unfold withHandle
  repeat' (first | exact hf _ _ _ | exact KeepR.refuse | split)

theorem keep_ownerOfBerth {a s : State} {c : EwCmd} {f : Nat → Reply} (hf : ∀ n, KeepR a (f n)) : KeepR a (s.ownerOfBerth c f) := by
  unfold State.ownerOfBerth
  repeat' (first | exact hf _ | exact KeepR.refuse | split | dsimp only)

theorem keep_withState {a s : State} {c : EwCmd} {n : Nat} {f : Nat → Own → Reply} (hf : ∀ n x, KeepR a (f n x)) :
    KeepR a (withState s c n f) := by
  unfold withState
  repeat' (first | exact hf _ _ | exact KeepR.refuse | split)

end Sys2Proof.Laws
end

