-- ==== Sys2Proof/Laws/KeepEweasOps.lean ====
section
/-! SUPPORT. What the operations of Machine/EweasOps.lean keep. -/
namespace Sys2Proof.Laws
open Sys2Proof Sys2Proof.Machine

theorem keep_taken {a : State} {x1 : Nat} {x2 : EwCmd} {s : State} (h : Keep a s) :
    Keep a (State.taken x1 x2 s) := by
  unfold State.taken
  try dsimp only
  repeat' (first
    | with_reducible (first
      | assumption | refine keep_onPage ?_))

theorem keep_command {a : State} {x1 : Nat} {x2 : EwCmd → State → Reply} {x3 : EwCmd} {s : State} (h : Keep a s) (hr : ∀ u, Keep a u → KeepR a (x2 x3 u)) :
    Keep a (State.command x1 x2 x3 s) := by
  unfold State.command
  split
  · exact h
  · split
    · exact keep_onPage h
    · extract_lets s1
      have h1 : Keep a s1 := keep_onPage h
      have h2 := hr s1 h1
      split
      · exact keep_pageDone h1
      · rename_i e
        rw [e] at h2
        exact keep_pageDone h2.ok_inv
      · rename_i e
        rw [e] at h2
        exact keep_pollPage (keep_pageWait h2.wait_inv)
      · rename_i e
        rw [e] at h2
        exact h2.later_inv

theorem keep_ewCtxCreate {a : State} {x1 : EwCmd} {s : State} (h : Keep a s) :
    KeepR a (ewCtxCreate x1 s) := by
  unfold ewCtxCreate
  try dsimp only
  repeat' (first
    | with_reducible (first
      | assumption | refine keep_onXl ?_ | refine keep_onHif ?_ | refine keep_put0 ?_ | refine keep_clear0 ?_
      | exact KeepR.refuse | refine KeepR.ok ?_ | refine KeepR.wait ?_ | refine KeepR.later ?_ | refine keep_withHandle ?_)
    | (intro _ _) | intro _ | (split))

theorem keep_ewMemCreate {a : State} {x1 : EwCmd} {s : State} (h : Keep a s) :
    KeepR a (ewMemCreate x1 s) := by
  unfold ewMemCreate
  try dsimp only
  repeat' (first
    | with_reducible (first
      | assumption | refine keep_ownerOf ?_ | refine keep_onHif ?_ | exact KeepR.refuse | refine KeepR.ok ?_
      | refine KeepR.wait ?_ | refine KeepR.later ?_ | refine keep_withHandle ?_ | refine keep_newHandle ?_ _ (by assumption))
    | exact keep_newHandle (by assumption) | (intro _ _) | intro _ | (split))

theorem keep_ewMemRelease {a : State} {x1 : EwCmd} {s : State} (h : Keep a s) :
    KeepR a (ewMemRelease x1 s) := by
  unfold ewMemRelease
  try dsimp only
  repeat' (first
    | with_reducible (first
      | assumption | refine keep_ownerOf ?_ | refine keep_onAsid ?_ | refine keep_unmapRange ?_ | refine keep_putApertures ?_
      | refine keep_dropRef ?_ | exact KeepR.refuse | refine KeepR.ok ?_ | refine KeepR.wait ?_ | refine KeepR.later ?_
      | refine keep_withHandle ?_)
    | (intro _ _) | intro _ | (split))

theorem keep_ewMemExport {a : State} {x1 : EwCmd} {s : State} (h : Keep a s) :
    KeepR a (ewMemExport x1 s) := by
  unfold ewMemExport
  try dsimp only
  repeat' (first
    | with_reducible (first
      | assumption | refine keep_ownerOf ?_ | exact KeepR.refuse | refine KeepR.ok ?_ | refine KeepR.wait ?_
      | refine KeepR.later ?_ | refine keep_withHandle ?_ | refine keep_newToken ?_ _ (by assumption))
    | exact keep_newToken (by assumption) | (intro _ _) | intro _ | (split))

theorem keep_ewMemImport {a : State} {x1 : EwCmd} {s : State} (h : Keep a s) :
    KeepR a (ewMemImport x1 s) := by
  unfold ewMemImport
  try dsimp only
  repeat' (first
    | with_reducible (first
      | assumption | refine keep_ownerOf ?_ | refine keep_onHif ?_ | exact KeepR.refuse | refine KeepR.ok ?_
      | refine KeepR.wait ?_ | refine KeepR.later ?_ | refine keep_withHandle ?_ | refine keep_newHandle ?_ _ (by assumption))
    | exact keep_newHandle (by assumption) | (intro _ _) | intro _ | (split))

theorem keep_ewMemPin {a : State} {x1 : EwCmd} {s : State} (h : Keep a s) :
    KeepR a (ewMemPin x1 s) := by
  unfold ewMemPin
  try dsimp only
  repeat' (first
    | with_reducible (first
      | assumption | refine keep_ownerOf ?_ | refine keep_onHif ?_ | exact KeepR.refuse | refine KeepR.ok ?_
      | refine KeepR.wait ?_ | refine KeepR.later ?_ | refine keep_withHandle ?_)
    | (intro _ _) | intro _)

theorem keep_ewMemUnpin {a : State} {x1 : EwCmd} {s : State} (h : Keep a s) :
    KeepR a (ewMemUnpin x1 s) := by
  unfold ewMemUnpin
  try dsimp only
  repeat' (first
    | with_reducible (first
      | assumption | refine keep_ownerOf ?_ | refine keep_onHif ?_ | exact KeepR.refuse | refine KeepR.ok ?_
      | refine KeepR.wait ?_ | refine KeepR.later ?_ | refine keep_withHandle ?_)
    | (intro _ _) | intro _ | (split))

theorem keep_mapOrRefuse {a : State} {x2 : Nat} {x3 : Ctx} {x4 : Mapping} {x5 : Nat} {s : State} (h : Keep a s) :
    KeepR a (State.mapOrRefuse s x2 x3 x4 x5) := by
  unfold State.mapOrRefuse
  try dsimp only
  repeat' (first
    | with_reducible (first
      | assumption | exact KeepR.refuse | refine KeepR.ok ?_ | refine KeepR.wait ?_ | refine KeepR.later ?_
      | refine keep_withHandle ?_ | refine keep_mapRange ?_ _ (by assumption) | refine Keep.getD (keep_mapRange ?_) ?_)
    | exact keep_mapRange (by assumption) | (intro _ _) | intro _ | (split))

theorem keep_ewMap {a : State} {x1 : EwCmd} {s : State} (h : Keep a s) :
    KeepR a (ewMap x1 s) := by
  unfold ewMap
  try dsimp only
  repeat' (first
    | with_reducible (first
      | assumption | refine keep_ownerOf ?_ | refine keep_mapOrRefuse ?_ | exact KeepR.refuse | refine KeepR.ok ?_
      | refine KeepR.wait ?_ | refine KeepR.later ?_ | refine keep_withHandle ?_)
    | (intro _ _) | intro _ | (split))

theorem keep_ewMapHost {a : State} {x1 : EwCmd} {s : State} (h : Keep a s) :
    KeepR a (ewMapHost x1 s) := by
  unfold ewMapHost
  try dsimp only
  repeat' (first
    | with_reducible (first
      | assumption | refine keep_ownerOf ?_ | refine keep_mapOrRefuse ?_ | exact KeepR.refuse | refine KeepR.ok ?_
      | refine KeepR.wait ?_ | refine KeepR.later ?_ | refine keep_withHandle ?_)
    | (intro _ _) | intro _ | (split))

theorem keep_ewUnmap {a : State} {x1 : EwCmd} {s : State} (h : Keep a s) :
    KeepR a (ewUnmap x1 s) := by
  unfold ewUnmap
  try dsimp only
  repeat' (first
    | with_reducible (first
      | assumption | refine keep_ownerOf ?_ | refine keep_unmapRange ?_ | exact KeepR.refuse | refine KeepR.ok ?_
      | refine KeepR.wait ?_ | refine KeepR.later ?_ | refine keep_withHandle ?_)
    | (intro _ _) | intro _ | (split))

theorem keep_ewBarMap {a : State} {x1 : EwCmd} {s : State} (h : Keep a s) :
    KeepR a (ewBarMap x1 s) := by
  unfold ewBarMap
  try dsimp only
  repeat' (first
    | with_reducible (first
      | assumption | refine keep_ownerOf ?_ | refine keep_putApertures ?_ | exact KeepR.refuse | refine KeepR.ok ?_
      | refine KeepR.wait ?_ | refine KeepR.later ?_ | refine keep_withHandle ?_ | refine Keep.foldlSnd ?_ _ ?_
      | refine Keep.foldlFst ?_ _ ?_ | refine Keep.foldl ?_ _ ?_)
    | (intro _ _) | intro _ | (intro _ _ _) | (intro _ _) | (split))

theorem keep_newFenceEnt {a : State} {x1 : Nat} {x2 : FenceEnt} {s : State} (h : Keep a s) :
    ∀ t, State.newFenceEnt x1 x2 s = some t → Keep a t.2 := by
  intro t ht
  unfold State.newFenceEnt at ht
  dsimp only at ht
  split at ht
  · cases ht
  · rw [← Option.some.inj ht]
    dsimp only
    exact keep_onFu h

theorem keep_ewFenceCreate {a : State} {x1 : EwCmd} {s : State} (h : Keep a s) :
    KeepR a (ewFenceCreate x1 s) := by
  unfold ewFenceCreate
  try dsimp only
  repeat' (first
    | with_reducible (first
      | assumption | refine keep_ownerOf ?_ | refine keep_putFence ?_ | exact KeepR.refuse | refine KeepR.ok ?_
      | refine KeepR.wait ?_ | refine KeepR.later ?_ | refine keep_withHandle ?_ | refine keep_newFenceEnt ?_ _ (by assumption))
    | exact keep_newFenceEnt (by assumption) | (intro _ _) | intro _ | (split))

theorem keep_ewFenceExport {a : State} {x1 : EwCmd} {s : State} (h : Keep a s) :
    KeepR a (ewFenceExport x1 s) := by
  unfold ewFenceExport
  try dsimp only
  repeat' (first
    | with_reducible (first
      | assumption | refine keep_ownerOf ?_ | exact KeepR.refuse | refine KeepR.ok ?_ | refine KeepR.wait ?_
      | refine KeepR.later ?_ | refine keep_withHandle ?_ | refine keep_newToken ?_ _ (by assumption))
    | exact keep_newToken (by assumption) | (intro _ _) | intro _ | (split))

theorem keep_ewFenceImport {a : State} {x1 : EwCmd} {s : State} (h : Keep a s) :
    KeepR a (ewFenceImport x1 s) := by
  unfold ewFenceImport
  try dsimp only
  repeat' (first
    | with_reducible (first
      | assumption | refine keep_ownerOf ?_ | refine keep_putFence ?_ | exact KeepR.refuse | refine KeepR.ok ?_
      | refine KeepR.wait ?_ | refine KeepR.later ?_ | refine keep_withHandle ?_ | refine keep_newFenceEnt ?_ _ (by assumption))
    | exact keep_newFenceEnt (by assumption) | (intro _ _) | intro _ | (split))

theorem keep_dropFenceEnt {a : State} {x1 : Nat} {x2 : FenceEnt} {s : State} (h : Keep a s) :
    Keep a (State.dropFenceEnt x1 x2 s) := by
  unfold State.dropFenceEnt
  try dsimp only
  repeat' (first
    | with_reducible (first
      | assumption | refine keep_onFu ?_ | refine keep_putFence ?_ | refine keep_settle ?_ | refine keep_abandonFence ?_
      | refine keep_reapFence ?_)
    | (split))

theorem keep_ewFenceDestroy {a : State} {x1 : EwCmd} {s : State} (h : Keep a s) :
    KeepR a (ewFenceDestroy x1 s) := by
  unfold ewFenceDestroy
  try dsimp only
  repeat' (first
    | with_reducible (first
      | assumption | refine keep_ownerOf ?_ | refine keep_dropFenceEnt ?_ | exact KeepR.refuse | refine KeepR.ok ?_
      | refine KeepR.wait ?_ | refine KeepR.later ?_ | refine keep_withHandle ?_)
    | (intro _ _) | intro _ | (split))

theorem keep_ewFenceMirror {a : State} {x1 : EwCmd} {s : State} (h : Keep a s) :
    KeepR a (ewFenceMirror x1 s) := by
  unfold ewFenceMirror
  try dsimp only
  repeat' (first
    | with_reducible (first
      | assumption | refine keep_ownerOf ?_ | refine keep_onFu ?_ | exact KeepR.refuse | refine KeepR.ok ?_
      | refine KeepR.wait ?_ | refine KeepR.later ?_ | refine keep_withHandle ?_)
    | (intro _ _) | intro _ | (split))

theorem keep_ewBerthCreate {a : State} {x1 : EwCmd} {s : State} (h : Keep a s) :
    KeepR a (ewBerthCreate x1 s) := by
  unfold ewBerthCreate
  try dsimp only
  repeat' (first
    | with_reducible (first
      | assumption | refine keep_ownerOf ?_ | refine keep_enableBerth ?_ | refine keep_onBerth ?_ | exact KeepR.refuse
      | refine KeepR.ok ?_ | refine KeepR.wait ?_ | refine KeepR.later ?_ | refine keep_withHandle ?_
      | refine Keep.foldlSnd ?_ _ ?_ | refine Keep.foldlFst ?_ _ ?_ | refine Keep.foldl ?_ _ ?_)
    | (intro _ _) | intro _ | (intro _ _ _) | (intro _ _) | (split))

theorem keep_ewBerthDestroy {a : State} {x1 : EwCmd} {s : State} (h : Keep a s) :
    KeepR a (ewBerthDestroy x1 s) := by
  unfold ewBerthDestroy
  try dsimp only
  repeat' (first
    | with_reducible (first
      | assumption | refine keep_ownerOfBerth ?_ | refine keep_abortBerth ?_ | refine keep_stopBerth ?_ | exact KeepR.refuse
      | refine KeepR.ok ?_ | refine KeepR.wait ?_ | refine KeepR.later ?_ | refine keep_withHandle ?_)
    | (intro _ _) | intro _)

theorem keep_ewEventBind {a : State} {x1 : EwCmd} {s : State} (h : Keep a s) :
    KeepR a (ewEventBind x1 s) := by
  unfold ewEventBind
  try dsimp only
  repeat' (first
    | with_reducible (first
      | assumption | refine keep_ownerOf ?_ | refine keep_onAsid ?_ | exact KeepR.refuse | refine KeepR.ok ?_
      | refine KeepR.wait ?_ | refine KeepR.later ?_ | refine keep_withHandle ?_)
    | (intro _ _) | intro _ | (split))

theorem keep_ewEventUnbind {a : State} {x1 : EwCmd} {s : State} (h : Keep a s) :
    KeepR a (ewEventUnbind x1 s) := by
  unfold ewEventUnbind
  try dsimp only
  repeat' (first
    | with_reducible (first
      | assumption | refine keep_ownerOf ?_ | refine keep_onAsid ?_ | exact KeepR.refuse | refine KeepR.ok ?_
      | refine KeepR.wait ?_ | refine KeepR.later ?_ | refine keep_withHandle ?_)
    | (intro _ _) | intro _ | (split))

theorem keep_ewGraphRegister {a : State} {x1 : EwCmd} {s : State} (h : Keep a s) :
    KeepR a (ewGraphRegister x1 s) := by
  unfold ewGraphRegister
  try dsimp only
  repeat' (first
    | with_reducible (first
      | assumption | refine keep_ownerOf ?_ | refine keep_graphWrite ?_ | exact KeepR.refuse | refine KeepR.ok ?_
      | refine KeepR.wait ?_ | refine KeepR.later ?_ | refine keep_withHandle ?_)
    | (intro _ _) | intro _ | (split) | (refine Keep.mk' ?_ (fun h => h) (Nat.le_refl _)))

theorem keep_ewGraphUnregister {a : State} {x1 : EwCmd} {s : State} (h : Keep a s) :
    KeepR a (ewGraphUnregister x1 s) := by
  unfold ewGraphUnregister
  try dsimp only
  repeat' (first
    | with_reducible (first
      | assumption | refine keep_ownerOf ?_ | exact KeepR.refuse | refine KeepR.ok ?_ | refine KeepR.wait ?_
      | refine KeepR.later ?_ | refine keep_withHandle ?_)
    | (intro _ _) | intro _ | (split) | (refine Keep.mk' ?_ (fun h => h) (Nat.le_refl _)))

theorem keep_ewStateCreate {a : State} {x1 : EwCmd} {s : State} (h : Keep a s) :
    KeepR a (ewStateCreate x1 s) := by
  unfold ewStateCreate
  try dsimp only
  repeat' (first
    | with_reducible (first
      | assumption | refine keep_ownerOf ?_ | refine keep_putOwn ?_ | exact KeepR.refuse | refine KeepR.ok ?_
      | refine KeepR.wait ?_ | refine KeepR.later ?_ | refine keep_withHandle ?_)
    | (intro _ _) | intro _ | (split))

theorem keep_ewStateMove {a : State} {x1 : EwCmd} {s : State} (h : Keep a s) :
    KeepR a (ewStateMove x1 s) := by
  unfold ewStateMove
  try dsimp only
  repeat' (first
    | with_reducible (first
      | assumption | refine keep_ownerOf ?_ | refine keep_withState ?_ | refine keep_sendOwn ?_ | refine keep_putOwn ?_
      | exact KeepR.refuse | refine KeepR.ok ?_ | refine KeepR.wait ?_ | refine KeepR.later ?_ | refine keep_withHandle ?_)
    | (intro _ _) | intro _ | (split))

theorem keep_ewPhaseEnd {a : State} {x1 : EwCmd} {s : State} (h : Keep a s) :
    KeepR a (ewPhaseEnd x1 s) := by
  unfold ewPhaseEnd
  try dsimp only
  repeat' (first
    | with_reducible (first
      | assumption | refine keep_ownerOf ?_ | refine keep_sendOwn ?_ | refine keep_putOwn ?_ | exact KeepR.refuse
      | refine KeepR.ok ?_ | refine KeepR.wait ?_ | refine KeepR.later ?_ | refine keep_withHandle ?_)
    | (intro _ _) | intro _ | (split))

theorem keep_ewStateDestroy {a : State} {x1 : EwCmd} {s : State} (h : Keep a s) :
    KeepR a (ewStateDestroy x1 s) := by
  unfold ewStateDestroy
  try dsimp only
  repeat' (first
    | with_reducible (first
      | assumption | refine keep_ownerOf ?_ | refine keep_withState ?_ | exact KeepR.refuse | refine KeepR.ok ?_
      | refine KeepR.wait ?_ | refine KeepR.later ?_ | refine keep_withHandle ?_)
    | (intro _ _))

theorem keep_execCtxCreate {a : State} {x1 : EwCmd} {s : State} (h : Keep a s) :
    ∀ t, execCtxCreate x1 s = .next t → Keep a t := by
  unfold execCtxCreate
  refine Keep.clocked h ?_
  try dsimp only
  repeat' (first
    | with_reducible (first
      | assumption | refine keep_command ?_ ?_ | refine keep_ewCtxCreate ?_)
    | (intro _ _ _) | (intro _ _))

theorem keep_execMemCreate {a : State} {x1 : EwCmd} {s : State} (h : Keep a s) :
    ∀ t, execMemCreate x1 s = .next t → Keep a t := by
  unfold execMemCreate
  refine Keep.clocked h ?_
  try dsimp only
  repeat' (first
    | with_reducible (first
      | assumption | refine keep_command ?_ ?_ | refine keep_ewMemCreate ?_)
    | (intro _ _ _) | (intro _ _))

theorem keep_execMemRelease {a : State} {x1 : EwCmd} {s : State} (h : Keep a s) :
    ∀ t, execMemRelease x1 s = .next t → Keep a t := by
  unfold execMemRelease
  refine Keep.clocked h ?_
  try dsimp only
  repeat' (first
    | with_reducible (first
      | assumption | refine keep_command ?_ ?_ | refine keep_ewMemRelease ?_)
    | (intro _ _ _) | (intro _ _))

theorem keep_execMemExport {a : State} {x1 : EwCmd} {s : State} (h : Keep a s) :
    ∀ t, execMemExport x1 s = .next t → Keep a t := by
  unfold execMemExport
  refine Keep.clocked h ?_
  try dsimp only
  repeat' (first
    | with_reducible (first
      | assumption | refine keep_command ?_ ?_ | refine keep_ewMemExport ?_)
    | (intro _ _ _) | (intro _ _))

theorem keep_execMemImport {a : State} {x1 : EwCmd} {s : State} (h : Keep a s) :
    ∀ t, execMemImport x1 s = .next t → Keep a t := by
  unfold execMemImport
  refine Keep.clocked h ?_
  try dsimp only
  repeat' (first
    | with_reducible (first
      | assumption | refine keep_command ?_ ?_ | refine keep_ewMemImport ?_)
    | (intro _ _ _) | (intro _ _))

theorem keep_execMemPin {a : State} {x1 : EwCmd} {s : State} (h : Keep a s) :
    ∀ t, execMemPin x1 s = .next t → Keep a t := by
  unfold execMemPin
  refine Keep.clocked h ?_
  try dsimp only
  repeat' (first
    | with_reducible (first
      | assumption | refine keep_command ?_ ?_ | refine keep_ewMemPin ?_)
    | (intro _ _ _) | (intro _ _))

theorem keep_execMemUnpin {a : State} {x1 : EwCmd} {s : State} (h : Keep a s) :
    ∀ t, execMemUnpin x1 s = .next t → Keep a t := by
  unfold execMemUnpin
  refine Keep.clocked h ?_
  try dsimp only
  repeat' (first
    | with_reducible (first
      | assumption | refine keep_command ?_ ?_ | refine keep_ewMemUnpin ?_)
    | (intro _ _ _) | (intro _ _))

theorem keep_execMap {a : State} {x1 : EwCmd} {s : State} (h : Keep a s) :
    ∀ t, execMap x1 s = .next t → Keep a t := by
  unfold execMap
  refine Keep.clocked h ?_
  try dsimp only
  repeat' (first
    | with_reducible (first
      | assumption | refine keep_command ?_ ?_ | refine keep_ewMap ?_)
    | (intro _ _ _) | (intro _ _))

theorem keep_execMapHost {a : State} {x1 : EwCmd} {s : State} (h : Keep a s) :
    ∀ t, execMapHost x1 s = .next t → Keep a t := by
  unfold execMapHost
  refine Keep.clocked h ?_
  try dsimp only
  repeat' (first
    | with_reducible (first
      | assumption | refine keep_command ?_ ?_ | refine keep_ewMapHost ?_)
    | (intro _ _ _) | (intro _ _))

theorem keep_execUnmap {a : State} {x1 : EwCmd} {s : State} (h : Keep a s) :
    ∀ t, execUnmap x1 s = .next t → Keep a t := by
  unfold execUnmap
  refine Keep.clocked h ?_
  try dsimp only
  repeat' (first
    | with_reducible (first
      | assumption | refine keep_command ?_ ?_ | refine keep_ewUnmap ?_)
    | (intro _ _ _) | (intro _ _))

theorem keep_execBarMap {a : State} {x1 : EwCmd} {s : State} (h : Keep a s) :
    ∀ t, execBarMap x1 s = .next t → Keep a t := by
  unfold execBarMap
  refine Keep.clocked h ?_
  try dsimp only
  repeat' (first
    | with_reducible (first
      | assumption | refine keep_command ?_ ?_ | refine keep_ewBarMap ?_)
    | (intro _ _ _) | (intro _ _))

theorem keep_execFenceCreate {a : State} {x1 : EwCmd} {s : State} (h : Keep a s) :
    ∀ t, execFenceCreate x1 s = .next t → Keep a t := by
  unfold execFenceCreate
  refine Keep.clocked h ?_
  try dsimp only
  repeat' (first
    | with_reducible (first
      | assumption | refine keep_command ?_ ?_ | refine keep_ewFenceCreate ?_)
    | (intro _ _ _) | (intro _ _))

theorem keep_execFenceExport {a : State} {x1 : EwCmd} {s : State} (h : Keep a s) :
    ∀ t, execFenceExport x1 s = .next t → Keep a t := by
  unfold execFenceExport
  refine Keep.clocked h ?_
  try dsimp only
  repeat' (first
    | with_reducible (first
      | assumption | refine keep_command ?_ ?_ | refine keep_ewFenceExport ?_)
    | (intro _ _ _) | (intro _ _))

theorem keep_execFenceImport {a : State} {x1 : EwCmd} {s : State} (h : Keep a s) :
    ∀ t, execFenceImport x1 s = .next t → Keep a t := by
  unfold execFenceImport
  refine Keep.clocked h ?_
  try dsimp only
  repeat' (first
    | with_reducible (first
      | assumption | refine keep_command ?_ ?_ | refine keep_ewFenceImport ?_)
    | (intro _ _ _) | (intro _ _))

theorem keep_execFenceDestroy {a : State} {x1 : EwCmd} {s : State} (h : Keep a s) :
    ∀ t, execFenceDestroy x1 s = .next t → Keep a t := by
  unfold execFenceDestroy
  refine Keep.clocked h ?_
  try dsimp only
  repeat' (first
    | with_reducible (first
      | assumption | refine keep_command ?_ ?_ | refine keep_ewFenceDestroy ?_)
    | (intro _ _ _) | (intro _ _))

theorem keep_execFenceMirror {a : State} {x1 : EwCmd} {s : State} (h : Keep a s) :
    ∀ t, execFenceMirror x1 s = .next t → Keep a t := by
  unfold execFenceMirror
  refine Keep.clocked h ?_
  try dsimp only
  repeat' (first
    | with_reducible (first
      | assumption | refine keep_command ?_ ?_ | refine keep_ewFenceMirror ?_)
    | (intro _ _ _) | (intro _ _))

theorem keep_execBerthCreate {a : State} {x1 : EwCmd} {s : State} (h : Keep a s) :
    ∀ t, execBerthCreate x1 s = .next t → Keep a t := by
  unfold execBerthCreate
  refine Keep.clocked h ?_
  try dsimp only
  repeat' (first
    | with_reducible (first
      | assumption | refine keep_command ?_ ?_ | refine keep_ewBerthCreate ?_)
    | (intro _ _ _) | (intro _ _))

theorem keep_execBerthDestroy {a : State} {x1 : EwCmd} {s : State} (h : Keep a s) :
    ∀ t, execBerthDestroy x1 s = .next t → Keep a t := by
  unfold execBerthDestroy
  refine Keep.clocked h ?_
  try dsimp only
  repeat' (first
    | with_reducible (first
      | assumption | refine keep_command ?_ ?_ | refine keep_ewBerthDestroy ?_)
    | (intro _ _ _) | (intro _ _))

theorem keep_execEventBind {a : State} {x1 : EwCmd} {s : State} (h : Keep a s) :
    ∀ t, execEventBind x1 s = .next t → Keep a t := by
  unfold execEventBind
  refine Keep.clocked h ?_
  try dsimp only
  repeat' (first
    | with_reducible (first
      | assumption | refine keep_command ?_ ?_ | refine keep_ewEventBind ?_)
    | (intro _ _ _) | (intro _ _))

theorem keep_execEventUnbind {a : State} {x1 : EwCmd} {s : State} (h : Keep a s) :
    ∀ t, execEventUnbind x1 s = .next t → Keep a t := by
  unfold execEventUnbind
  refine Keep.clocked h ?_
  try dsimp only
  repeat' (first
    | with_reducible (first
      | assumption | refine keep_command ?_ ?_ | refine keep_ewEventUnbind ?_)
    | (intro _ _ _) | (intro _ _))

theorem keep_execGraphRegister {a : State} {x1 : EwCmd} {s : State} (h : Keep a s) :
    ∀ t, execGraphRegister x1 s = .next t → Keep a t := by
  unfold execGraphRegister
  refine Keep.clocked h ?_
  try dsimp only
  repeat' (first
    | with_reducible (first
      | assumption | refine keep_command ?_ ?_ | refine keep_ewGraphRegister ?_)
    | (intro _ _ _) | (intro _ _))

theorem keep_execGraphUnregister {a : State} {x1 : EwCmd} {s : State} (h : Keep a s) :
    ∀ t, execGraphUnregister x1 s = .next t → Keep a t := by
  unfold execGraphUnregister
  refine Keep.clocked h ?_
  try dsimp only
  repeat' (first
    | with_reducible (first
      | assumption | refine keep_command ?_ ?_ | refine keep_ewGraphUnregister ?_)
    | (intro _ _ _) | (intro _ _))

theorem keep_execStateCreate {a : State} {x1 : EwCmd} {s : State} (h : Keep a s) :
    ∀ t, execStateCreate x1 s = .next t → Keep a t := by
  unfold execStateCreate
  refine Keep.clocked h ?_
  try dsimp only
  repeat' (first
    | with_reducible (first
      | assumption | refine keep_command ?_ ?_ | refine keep_ewStateCreate ?_)
    | (intro _ _ _) | (intro _ _))

theorem keep_execStateMove {a : State} {x1 : EwCmd} {s : State} (h : Keep a s) :
    ∀ t, execStateMove x1 s = .next t → Keep a t := by
  unfold execStateMove
  refine Keep.clocked h ?_
  try dsimp only
  repeat' (first
    | with_reducible (first
      | assumption | refine keep_command ?_ ?_ | refine keep_ewStateMove ?_)
    | (intro _ _ _) | (intro _ _))

theorem keep_execPhaseEnd {a : State} {x1 : EwCmd} {s : State} (h : Keep a s) :
    ∀ t, execPhaseEnd x1 s = .next t → Keep a t := by
  unfold execPhaseEnd
  refine Keep.clocked h ?_
  try dsimp only
  repeat' (first
    | with_reducible (first
      | assumption | refine keep_command ?_ ?_ | refine keep_ewPhaseEnd ?_)
    | (intro _ _ _) | (intro _ _))

theorem keep_execStateDestroy {a : State} {x1 : EwCmd} {s : State} (h : Keep a s) :
    ∀ t, execStateDestroy x1 s = .next t → Keep a t := by
  unfold execStateDestroy
  refine Keep.clocked h ?_
  try dsimp only
  repeat' (first
    | with_reducible (first
      | assumption | refine keep_command ?_ ?_ | refine keep_ewStateDestroy ?_)
    | (intro _ _ _) | (intro _ _))

end Sys2Proof.Laws
end

