-- ==== Sys2Proof/Laws/KeepMillCmds.lean ====
section
/-! SUPPORT. What the operations of Machine/MillCmds.lean keep. -/
namespace Sys2Proof.Laws
open Sys2Proof Sys2Proof.Machine

theorem keep_execMillLoadComplete {a : State} {x1 : Nat} {x2 : Nat} {x3 : Bool} {s : State} (h : Keep a s) :
    ∀ t, execMillLoadComplete x1 x2 x3 s = .next t → Keep a t := by
  unfold execMillLoadComplete
  refine Keep.clocked h ?_
  try dsimp only
  repeat' (first
    | with_reducible (first
      | assumption | refine keep_endScan ?_ | refine keep_scanPoison ?_ | refine keep_onMill ?_ | refine keep_millSlots ?_)
    | (split))

theorem keep_execMillRecord {a : State} {x1 : Nat} {x2 : Nat} {s : State} (h : Keep a s) :
    ∀ t, execMillRecord x1 x2 s = .next t → Keep a t := by
  unfold execMillRecord
  refine Keep.clocked h ?_
  try dsimp only
  repeat' (first
    | with_reducible (first
      | assumption | refine keep_millStep ?_)
    | (split))

theorem keep_execMillScanEnd {a : State} {x1 : Nat} {x2 : Nat} {s : State} (h : Keep a s) :
    ∀ t, execMillScanEnd x1 x2 s = .next t → Keep a t := by
  unfold execMillScanEnd
  refine Keep.clocked h ?_
  try dsimp only
  repeat' (first
    | with_reducible (first
      | assumption | refine keep_millSeek ?_ | refine keep_onMill ?_ | refine keep_millSlots ?_ | refine keep_millLists ?_
      | refine Keep.snd (by assumption) (keep_millSeek ?_))
    | (split))

theorem keep_execMillListAccepted {a : State} {x1 : Nat} {x2 : Nat} {s : State} (h : Keep a s) :
    ∀ t, execMillListAccepted x1 x2 s = .next t → Keep a t := by
  unfold execMillListAccepted
  refine Keep.clocked h ?_
  try dsimp only
  repeat' (first
    | with_reducible (first
      | assumption | refine Keep.foldState ?_ ?_ | refine keep_writeList ?_ | refine keep_millLeave ?_ | refine keep_settle ?_
      | refine keep_complete ?_)
    | (intro _ _ _) | (intro _ _) | (split) | (refine Keep.mk' ?_ (fun h => h) (Nat.le_refl _)))

theorem keep_sendLists {a : State} {x1 : Launch} {x2 : Scan} {x3 : Nat} {x4 : Nat} {s : State} (h : Keep a s) :
    Keep a (State.sendLists x1 x2 x3 x4 s) := by
  unfold State.sendLists
  try dsimp only
  repeat' (first
    | with_reducible (first
      | assumption | refine Keep.foldState ?_ ?_ | refine keep_sendTxn ?_)
    | (intro _ _ _))

theorem keep_execMergeComplete {a : State} {x1 : Nat} {s : State} (h : Keep a s) :
    ∀ t, execMergeComplete x1 s = .next t → Keep a t := by
  unfold execMergeComplete
  refine Keep.clocked h ?_
  try dsimp only
  repeat' (first
    | with_reducible (first
      | assumption | refine keep_settle ?_ | refine keep_endScan ?_ | refine Keep.foldState ?_ ?_ | refine keep_writeList ?_
      | refine keep_sendLists ?_ | refine keep_complete ?_ | refine keep_onHalf ?_)
    | (intro _ _ _) | (intro _ _) | (split))

theorem keep_execMillListReceive {a : State} {x1 : Nat} {x2 : Nat} {x3 : List MillList} {s : State} (h : Keep a s) :
    ∀ t, execMillListReceive x1 x2 x3 s = .next t → Keep a t := by
  unfold execMillListReceive
  refine Keep.clocked h ?_
  try dsimp only
  repeat' (first
    | with_reducible (first
      | assumption | refine keep_onHalf ?_)
    | (split) | (refine Keep.mk' ?_ (fun h => h) (Nat.le_refl _)))

theorem keep_execMillSlotSaved {a : State} {x1 : Nat} {x2 : Nat} {s : State} (h : Keep a s) :
    ∀ t, execMillSlotSaved x1 x2 s = .next t → Keep a t := by
  unfold execMillSlotSaved
  refine Keep.clocked h ?_
  try dsimp only
  repeat' (first
    | with_reducible (first
      | assumption | refine keep_millLists ?_ | refine Keep.foldState ?_ ?_ | refine keep_slotRecordPut ?_
      | refine keep_settle ?_ | refine keep_onMill ?_ | refine keep_millLeave ?_ | refine keep_onHarbour ?_)
    | (intro _ _ _) | (intro _ _) | (split))

theorem keep_execMillAbortDone {a : State} {x1 : Nat} {x2 : Nat} {s : State} (h : Keep a s) :
    ∀ t, execMillAbortDone x1 x2 s = .next t → Keep a t := by
  unfold execMillAbortDone
  refine Keep.clocked h ?_
  try dsimp only
  repeat' (first
    | with_reducible (first
      | assumption | refine keep_settle ?_ | refine keep_millAborted ?_))

theorem keep_execMillZeroingDone {a : State} {x1 : Nat} {x2 : Nat} {s : State} (h : Keep a s) :
    ∀ t, execMillZeroingDone x1 x2 s = .next t → Keep a t := by
  unfold execMillZeroingDone
  refine Keep.clocked h ?_
  try dsimp only
  repeat' (first
    | with_reducible (first
      | assumption | refine keep_settle ?_ | refine keep_onMill ?_)
    | (split))

end Sys2Proof.Laws
end

