-- ==== Sys2Proof/Laws/KeepPowerOps.lean ====
section
/-! SUPPORT. What the operations of Machine/PowerOps.lean keep. -/
namespace Sys2Proof.Laws
open Sys2Proof Sys2Proof.Machine

theorem keep_pwRefused {a : State}  {s : State} (h : Keep a s) :
    Keep a (State.pwRefused s) := by
  unfold State.pwRefused
  try dsimp only
  repeat' (first
    | with_reducible (first
      | assumption | refine keep_onPw ?_))

theorem keep_setRegions {a : State}  {s : State} (h : Keep a s) :
    Keep a (State.setRegions s) := by
  unfold State.setRegions
  try dsimp only
  repeat' (first
    | with_reducible (first
      | assumption | refine keep_onPw ?_))

theorem keep_railAsk {a : State} {x1 : Nat} {x2 : Nat} {s : State} (h : Keep a s) :
    Keep a (State.railAsk x1 x2 s) := by
  unfold State.railAsk
  try dsimp only
  repeat' (first
    | with_reducible (first
      | assumption | refine keep_onRail ?_))

theorem keep_askVolts {a : State} {x1 : Margin} {x2 : Nat} {s : State} (h : Keep a s) :
    Keep a (State.askVolts x1 x2 s) := by
  unfold State.askVolts
  try dsimp only
  repeat' (first
    | with_reducible (first
      | assumption | refine Keep.foldState ?_ ?_ | refine keep_railAsk ?_)
    | (intro _ _ _))

theorem keep_execAvsRequest {a : State} {x1 : Nat} {x2 : Nat} {s : State} (h : Keep a s) :
    ∀ t, execAvsRequest x1 x2 s = .next t → Keep a t := by
  unfold execAvsRequest
  refine Keep.clocked h ?_
  try dsimp only
  repeat' (first
    | with_reducible (first
      | assumption | refine keep_emit ?_ | refine keep_onRail ?_)
    | (split))

theorem keep_avsFails {a : State} {x1 : Nat} {x2 : AvsReq} {s : State} (h : Keep a s) :
    Keep a (State.avsFails x1 x2 s) := by
  unfold State.avsFails
  try dsimp only
  repeat' (first
    | with_reducible (first
      | assumption | refine keep_onPw ?_ | refine keep_onRail ?_ | refine keep_event ?_)
    | (split))

theorem keep_execAvsStatusPoll {a : State} {x1 : Nat} {x2 : Nat} {x3 : Bool} {s : State} (h : Keep a s) :
    ∀ t, execAvsStatusPoll x1 x2 x3 s = .next t → Keep a t := by
  unfold execAvsStatusPoll
  refine Keep.clocked h ?_
  try dsimp only
  repeat' (first
    | with_reducible (first
      | assumption | refine keep_onRail ?_ | refine keep_avsFails ?_)
    | (split))

theorem keep_execAvsTimeout {a : State} {x1 : Nat} {s : State} (h : Keep a s) :
    ∀ t, execAvsTimeout x1 s = .next t → Keep a t := by
  unfold execAvsTimeout
  refine Keep.clocked h ?_
  try dsimp only
  repeat' (first
    | with_reducible (first
      | assumption | refine keep_avsFails ?_)
    | (split))

theorem keep_computeAllow {a : State}  {s : State} (h : Keep a s) :
    Keep a (State.computeAllow s) := by
  unfold State.computeAllow
  try dsimp only
  repeat' (first
    | with_reducible (first
      | assumption | refine keep_onPw ?_ | refine keep_event ?_ | refine Keep.foldlSnd ?_ _ ?_ | refine Keep.foldlFst ?_ _ ?_
      | refine Keep.foldl ?_ _ ?_)
    | (intro _ _ _) | (intro _ _) | (split))

theorem keep_decideFreq {a : State} {x1 : Nat} {s : State} (h : Keep a s) :
    Keep a (State.decideFreq x1 s) := by
  unfold State.decideFreq
  try dsimp only
  repeat' (first
    | with_reducible (first
      | assumption | refine keep_onPw ?_ | refine keep_onTide ?_))

theorem keep_decideFrom {a : State}  {s : State} (h : Keep a s) :
    Keep a (State.decideFrom s) := by
  unfold State.decideFrom
  try dsimp only
  repeat' (first
    | with_reducible (first
      | assumption | refine keep_event ?_ | refine keep_onPw ?_ | refine keep_decideFreq ?_)
    | (split))

theorem keep_decideJob {a : State}  {s : State} (h : Keep a s) :
    Keep a (State.decideJob s) := by
  unfold State.decideJob
  try dsimp only
  repeat' (first
    | with_reducible (first
      | assumption | refine keep_decideFrom ?_ | refine keep_onPw ?_ | refine keep_computeAllow ?_)
    | (split))

theorem keep_decideChanged {a : State}  {s : State} (h : Keep a s) :
    Keep a (State.decideChanged s) := by
  unfold State.decideChanged
  try dsimp only
  repeat' (first
    | with_reducible (first
      | assumption | refine keep_decideJob ?_ | refine keep_decideFrom ?_)
    | (split))

theorem keep_writeBudget {a : State} {x1 : Master} {x2 : Word} {s : State} (h : Keep a s) :
    Keep a (State.writeBudget x1 x2 s) := by
  unfold State.writeBudget
  try dsimp only
  repeat' (first
    | with_reducible (first
      | assumption | refine keep_pwRefused ?_ | refine keep_decideJob ?_ | refine keep_onPw ?_)
    | (split))

theorem keep_execPwBudgetWrite {a : State} {x1 : Master} {x2 : Word} {s : State} (h : Keep a s) :
    ∀ t, execPwBudgetWrite x1 x2 s = .next t → Keep a t := by
  unfold execPwBudgetWrite
  refine Keep.clocked h ?_
  try dsimp only
  repeat' (first
    | with_reducible (first
      | assumption | refine keep_writeBudget ?_ | refine keep_privWrite ?_ ?_)
    | (intro _ _ _) | (intro _ _) | (split))

theorem keep_writeHsub {a : State} {x1 : Nat} {x2 : Word} {s : State} (h : Keep a s) :
    Keep a (State.writeHsub x1 x2 s) := by
  unfold State.writeHsub
  try dsimp only
  repeat' (first
    | with_reducible (first
      | assumption | refine keep_decideJob ?_ | refine keep_onPw ?_ ))

theorem keep_execPwHsubWrite {a : State} {x1 : Master} {x2 : Nat} {x3 : Word} {s : State} (h : Keep a s) :
    ∀ t, execPwHsubWrite x1 x2 x3 s = .next t → Keep a t := by
  unfold execPwHsubWrite
  refine Keep.clocked h ?_
  try dsimp only
  repeat' (first
    | with_reducible (first
      | assumption | refine keep_writeHsub ?_ | refine keep_privWrite ?_ ?_)
    | (intro _ _ _) | (intro _ _) | (split))

theorem keep_writePolicy {a : State} {x1 : Word} {s : State} (h : Keep a s) :
    Keep a (State.writePolicy x1 s) := by
  unfold State.writePolicy
  try dsimp only
  repeat' (first
    | with_reducible (first
      | assumption | refine keep_decideFreq ?_ | refine keep_onPw ?_ | refine keep_pwRefused ?_)
    | (split))

theorem keep_execPwPolicyWrite {a : State} {x1 : Master} {x2 : Word} {s : State} (h : Keep a s) :
    ∀ t, execPwPolicyWrite x1 x2 s = .next t → Keep a t := by
  unfold execPwPolicyWrite
  refine Keep.clocked h ?_
  try dsimp only
  repeat' (first
    | with_reducible (first
      | assumption | refine keep_writePolicy ?_ | refine keep_privWrite ?_ ?_)
    | (intro _ _ _) | (intro _ _))

theorem keep_applyFreq {a : State} {x1 : Nat} {s : State} (h : Keep a s) :
    Keep a (State.applyFreq x1 s) := by
  unfold State.applyFreq
  try dsimp only
  repeat' (first
    | with_reducible (first
      | assumption | refine keep_setRegions ?_ | refine keep_onTide ?_ | refine keep_askVolts ?_)
    | (split))

theorem keep_freqBoundary {a : State}  {s : State} (h : Keep a s) :
    Keep a (State.freqBoundary s) := by
  unfold State.freqBoundary
  try dsimp only
  repeat' (first
    | with_reducible (first
      | assumption | refine keep_applyFreq ?_ | refine keep_onTide ?_ | refine keep_onPw ?_ | refine keep_askVolts ?_)
    | (split))

theorem keep_execBoostUpdate {a : State}  {s : State} (h : Keep a s) :
    ∀ t, execBoostUpdate s = .next t → Keep a t := by
  unfold execBoostUpdate
  refine Keep.clocked h ?_
  try dsimp only
  repeat' (first
    | with_reducible (first
      | assumption | refine keep_onPw ?_ | refine Keep.foldState ?_ ?_ | refine keep_railAsk ?_)
    | (intro _ _ _) | (intro _ _) | (split))

theorem keep_boostBoundary {a : State}  {s : State} (h : Keep a s) :
    Keep a (State.boostBoundary s) := by
  unfold State.boostBoundary
  try dsimp only
  repeat' (first
    | with_reducible (first
      | assumption | refine keep_onPw ?_ | refine Keep.foldState ?_ ?_ | refine keep_railAsk ?_ | refine Keep.foldlSnd ?_ _ ?_
      | refine Keep.foldlFst ?_ _ ?_ | refine Keep.foldl ?_ _ ?_)
    | (intro _ _ _) | (intro _ _) | (split))

theorem keep_execDroop {a : State} {x1 : Nat} {s : State} (h : Keep a s) :
    ∀ t, execDroop x1 s = .next t → Keep a t := by
  unfold execDroop
  refine Keep.clocked h ?_
  try dsimp only
  repeat' (first
    | with_reducible (first
      | assumption | refine keep_onPw ?_)
    | (split))

theorem keep_execBrownWarn {a : State}  {s : State} (h : Keep a s) :
    ∀ t, execBrownWarn s = .next t → Keep a t := by
  unfold execBrownWarn
  refine Keep.clocked h ?_
  try dsimp only
  repeat' (first
    | with_reducible (first
      | assumption | refine keep_drawn ?_ | refine keep_keepEvent ?_ | refine keep_event ?_ | refine keep_setRegions ?_
      | refine keep_onPw ?_)
    | (split))

theorem keep_execBrownRecover {a : State}  {s : State} (h : Keep a s) :
    ∀ t, execBrownRecover s = .next t → Keep a t := by
  unfold execBrownRecover
  refine Keep.clocked h ?_
  try dsimp only
  repeat' (first
    | with_reducible (first
      | assumption | refine keep_setRegions ?_ | refine keep_onPw ?_)
    | (split))

theorem keep_brownBoundary {a : State}  {s : State} (h : Keep a s) :
    Keep a (State.brownBoundary s) := by
  unfold State.brownBoundary
  try dsimp only
  repeat' (first
    | with_reducible (first
      | assumption | refine keep_onPw ?_ | refine keep_askVolts ?_)
    | (split))

theorem keep_execBrownHoldEnd {a : State}  {s : State} (h : Keep a s) :
    ∀ t, execBrownHoldEnd s = .next t → Keep a t := by
  unfold execBrownHoldEnd
  refine Keep.clocked h ?_
  try dsimp only
  repeat' (first
    | with_reducible (first
      | assumption | refine keep_onPw ?_ | refine keep_applyFreq ?_ | refine keep_setRegions ?_ | refine keep_askVolts ?_)
    | (split))

theorem keep_execThermWarn {a : State} {x1 : Nat} {x2 : Nat} {s : State} (h : Keep a s) :
    ∀ t, execThermWarn x1 x2 s = .next t → Keep a t := by
  unfold execThermWarn
  refine Keep.clocked h ?_
  try dsimp only
  repeat' (first
    | with_reducible (first
      | assumption | refine keep_onPw ?_ | refine keep_event ?_)
    | (split))

theorem keep_execThermThrottle {a : State} {x1 : Nat} {x2 : Nat} {s : State} (h : Keep a s) :
    ∀ t, execThermThrottle x1 x2 s = .next t → Keep a t := by
  unfold execThermThrottle
  refine Keep.clocked h ?_
  try dsimp only
  repeat' (first
    | with_reducible (first
      | assumption | refine keep_event ?_ | refine keep_setRegions ?_ | refine keep_onPw ?_ | refine Keep.foldlSnd ?_ _ ?_
      | refine Keep.foldlFst ?_ _ ?_ | refine Keep.foldl ?_ _ ?_)
    | (intro _ _ _) | (intro _ _) | (split))

theorem keep_execThrottleRelease {a : State} {x1 : Nat} {s : State} (h : Keep a s) :
    ∀ t, execThrottleRelease x1 s = .next t → Keep a t := by
  unfold execThrottleRelease
  refine Keep.clocked h ?_
  try dsimp only
  repeat' (first
    | with_reducible (first
      | assumption | refine keep_setRegions ?_ | refine keep_onPw ?_)
    | (split))

theorem keep_execThermTrip {a : State} {x1 : Nat} {x2 : Nat} {s : State} (h : Keep a s) :
    ∀ t, execThermTrip x1 x2 s = .next t → Keep a t := by
  unfold execThermTrip
  refine Keep.done ?_
  try dsimp only
  repeat' (first
    | with_reducible (first
      | assumption | refine keep_keepEvent ?_ | refine keep_onTide ?_ | refine keep_onPins ?_)
    | refine Keep.onBoot ?_ (by with_reducible exact Nat.le_refl _) | (split))

theorem keep_execMarginMeasure {a : State}  {s : State} (h : Keep a s) :
    ∀ t, execMarginMeasure s = .next t → Keep a t := by
  unfold execMarginMeasure
  refine Keep.clocked h ?_
  try dsimp only
  repeat' (first
    | with_reducible (first
      | assumption | refine keep_onPw ?_)
    | (split))

theorem keep_execMarginReplan {a : State} {x1 : List (Nat × Nat)} {x2 : Nat} {s : State} (h : Keep a s) :
    ∀ t, execMarginReplan x1 x2 s = .next t → Keep a t := by
  unfold execMarginReplan
  refine Keep.clocked h ?_
  try dsimp only
  repeat' (first
    | with_reducible (first
      | assumption | refine keep_onPw ?_ | refine Keep.foldState ?_ ?_ | refine keep_railAsk ?_ | refine Keep.foldlSnd ?_ _ ?_
      | refine Keep.foldlFst ?_ _ ?_ | refine Keep.foldl ?_ _ ?_)
    | (intro _ _ _) | (intro _ _) | (split))

theorem keep_planBoundary {a : State}  {s : State} (h : Keep a s) :
    Keep a (State.planBoundary s) := by
  unfold State.planBoundary
  try dsimp only
  repeat' (first
    | with_reducible (first
      | assumption | refine keep_onPw ?_ | refine keep_event ?_ | refine keep_railAsk ?_ | refine keep_askVolts ?_)
    | (split))

theorem keep_execMarginFlashWriteDone {a : State} {x1 : Bool} {s : State} (h : Keep a s) :
    ∀ t, execMarginFlashWriteDone x1 s = .next t → Keep a t := by
  unfold execMarginFlashWriteDone
  refine Keep.clocked h ?_
  try dsimp only
  repeat' (first
    | with_reducible (first
      | assumption | refine keep_onPw ?_ | refine keep_drawn ?_ | refine keep_event ?_)
    | (split))

theorem keep_askGate {a : State} {x1 : Nat} {x2 : Bool} {s : State} (h : Keep a s) :
    Keep a (State.askGate x1 x2 s) := by
  unfold State.askGate
  try dsimp only
  repeat' (first
    | with_reducible (first
      | assumption | refine keep_onCluster ?_)
    | (split))

theorem keep_writeGate {a : State} {x1 : Word} {s : State} (h : Keep a s) :
    Keep a (State.writeGate x1 s) := by
  unfold State.writeGate
  try dsimp only
  repeat' (first
    | with_reducible (first
      | assumption | refine keep_pwRefused ?_ | refine keep_decideJob ?_ | refine Keep.foldState ?_ ?_ | refine keep_askGate ?_)
    | (intro _ _ _) | (intro _ _) | (split))

theorem keep_execPwGateWrite {a : State} {x1 : Master} {x2 : Word} {s : State} (h : Keep a s) :
    ∀ t, execPwGateWrite x1 x2 s = .next t → Keep a t := by
  unfold execPwGateWrite
  refine Keep.clocked h ?_
  try dsimp only
  repeat' (first
    | with_reducible (first
      | assumption | refine keep_writeGate ?_ | refine keep_privWrite ?_ ?_)
    | (intro _ _ _) | (intro _ _))

theorem keep_gateBoundary {a : State}  {s : State} (h : Keep a s) :
    Keep a (State.gateBoundary s) := by
  unfold State.gateBoundary
  try dsimp only
  repeat' (first
    | with_reducible (first
      | assumption | refine keep_onCluster ?_ | refine keep_hbRefused ?_ | refine keep_pwRefused ?_
      | refine Keep.foldState ?_ ?_ | refine keep_setRegions ?_ | refine keep_decideChanged ?_)
    | (intro _ _ _) | (intro _ _) | (split))

theorem keep_execUngateComplete {a : State} {x1 : Nat} {s : State} (h : Keep a s) :
    ∀ t, execUngateComplete x1 s = .next t → Keep a t := by
  unfold execUngateComplete
  refine Keep.clocked h ?_
  try dsimp only
  repeat' (first
    | with_reducible (first
      | assumption | refine keep_setRegions ?_ | refine keep_onCluster ?_)
    | (split))

theorem keep_roleBoundary {a : State}  {s : State} (h : Keep a s) :
    Keep a (State.roleBoundary s) := by
  unfold State.roleBoundary
  try dsimp only
  repeat' (first
    | with_reducible (first
      | assumption | refine keep_onLk ?_ | refine keep_decideJob ?_ | refine keep_setRegions ?_ | refine Keep.foldState ?_ ?_
      | refine keep_onCluster ?_)
    | (intro _ _ _) | (intro _ _) | (split))

end Sys2Proof.Laws
end

