-- ==== Sys2Proof/Laws/KeepResetOps.lean ====
section
/-! SUPPORT. What the operations of Machine/ResetOps.lean keep. -/
namespace Sys2Proof.Laws
open Sys2Proof Sys2Proof.Machine

theorem keep_moduleReset {a : State} {x1 : Nat} {s : State} (h : Keep a s) :
    Keep a (State.moduleReset x1 s) := by
  exact h.trans ⟨rfl, rfl, rfl, rfl, rfl, rfl, fun _ => wf_empty rfl rfl rfl, Nat.le_refl _⟩

theorem keep_powerLost {a : State}  {s : State} (h : Keep a s) :
    Keep a (State.powerLost s) := by
  exact h.trans ⟨rfl, rfl, rfl, rfl, rfl, rfl, fun _ => wf_empty rfl rfl rfl, Nat.le_refl _⟩

theorem keep_moduleFail {a : State} {x1 : Nat} {x2 : Nat} {s : State} (h : Keep a s) :
    Keep a (State.moduleFail x1 x2 s) := by
  unfold State.moduleFail
  try dsimp only
  repeat' (first
    | with_reducible (first
      | assumption | refine keep_moduleReset ?_ | refine keep_keepEvent ?_))

theorem keep_execFabricDomainFailure {a : State}  {s : State} (h : Keep a s) :
    ∀ t, execFabricDomainFailure s = .next t → Keep a t := by
  unfold execFabricDomainFailure
  refine Keep.clocked h ?_
  try dsimp only
  repeat' (first
    | with_reducible (first
      | assumption | refine keep_moduleFail ?_)
    | (split))

theorem keep_execSupplyReset {a : State}  {s : State} (h : Keep a s) :
    ∀ t, execSupplyReset s = .next t → Keep a t := by
  unfold execSupplyReset
  refine Keep.done ?_
  try dsimp only
  repeat' (first
    | with_reducible (first
      | assumption | refine keep_moduleFail ?_)
    | (split))

theorem keep_execBridgeDegrade {a : State} {x1 : Nat} {s : State} (h : Keep a s) :
    ∀ t, execBridgeDegrade x1 s = .next t → Keep a t := by
  unfold execBridgeDegrade
  refine Keep.clocked h ?_
  try dsimp only
  repeat' (first
    | with_reducible (first
      | assumption | refine keep_event ?_ | refine keep_onRas ?_ | refine keep_moduleFail ?_)
    | (split))

theorem keep_powerStep {a : State}  {s : State} (h : Keep a s) :
    Keep a (State.powerStep s) := by
  unfold State.powerStep
  try dsimp only
  repeat' (first
    | with_reducible (first
      | assumption | refine keep_onPins ?_)
    | (split))

theorem keep_powerOn {a : State}  {s : State} (h : Keep a s) :
    Keep a (State.powerOn s) := by
  unfold State.powerOn
  try dsimp only
  repeat' (first
    | with_reducible (first
      | assumption | refine keep_powerStep ?_ | refine keep_onPins ?_))

theorem keep_powerOff {a : State} {x1 : Nat} {s : State} (h : Keep a s) :
    Keep a (State.powerOff x1 s) := by
  unfold State.powerOff
  try dsimp only
  repeat' (first
    | with_reducible (first
      | assumption | refine keep_powerStep ?_ | refine keep_onPins ?_))

theorem keep_pgFault {a : State}  {s : State} (h : Keep a s) :
    Keep a (State.pgFault s) := by
  unfold State.pgFault
  try dsimp only
  repeat' (first
    | with_reducible (first
      | assumption | refine keep_drawn ?_ | refine keep_keepEvent ?_ | refine keep_onPins ?_ | refine keep_powerOff ?_
      | refine keep_moduleReset ?_)
    | (split))

theorem keep_execPgFault {a : State}  {s : State} (h : Keep a s) :
    ∀ t, execPgFault s = .next t → Keep a t := by
  unfold execPgFault
  refine Keep.done ?_
  try dsimp only
  repeat' (first
    | with_reducible (first
      | assumption | refine keep_pgFault ?_)
    | (split))

theorem keep_execPowerGoodChange {a : State} {x1 : Nat} {x2 : Bool} {s : State} (h : Keep a s) :
    ∀ t, execPowerGoodChange x1 x2 s = .next t → Keep a t := by
  unfold execPowerGoodChange
  refine Keep.done ?_
  try dsimp only
  repeat' (first
    | with_reducible (first
      | assumption | refine keep_onPins ?_ | refine keep_pgFault ?_ | refine keep_powerStep ?_)
    | (split))

theorem keep_freezeNow {a : State} {x1 : Bool} {s : State} (h : Keep a s) :
    Keep a (State.freezeNow x1 s) := by
  unfold State.freezeNow
  refine keep_onHif (Keep.onMem (keep_onTide (Keep.onBoot h ?_)) ?_)
  · exact Nat.le_refl _
  · exact fun _ => wf_empty rfl rfl rfl

theorem keep_execFreezeN {a : State} {x1 : Bool} {s : State} (h : Keep a s) :
    ∀ t, execFreezeN x1 s = .next t → Keep a t := by
  unfold execFreezeN
  refine Keep.done ?_
  try dsimp only
  repeat' (first
    | with_reducible (first
      | assumption | refine keep_onPins ?_ | refine keep_freezeNow ?_)
    | (split))

theorem keep_writeFreeze {a : State} {x1 : Word} {s : State} (h : Keep a s) :
    Keep a (State.writeFreeze x1 s) := by
  unfold State.writeFreeze
  try dsimp only
  repeat' (first
    | with_reducible (first
      | assumption | refine keep_freezeNow ?_)
    | refine Keep.onBoot ?_ (by with_reducible exact Nat.le_refl _) | (split))

theorem keep_execDbFreezeSoft {a : State} {x1 : Master} {x2 : Word} {s : State} (h : Keep a s) :
    ∀ t, execDbFreezeSoft x1 x2 s = .next t → Keep a t := by
  unfold execDbFreezeSoft
  refine Keep.clocked h ?_
  try dsimp only
  repeat' (first
    | with_reducible (first
      | assumption | refine keep_writeFreeze ?_ | refine keep_privWrite ?_ ?_)
    | (intro _ _ _) | (intro _ _) | (split))

theorem keep_thaw {a : State}  {s : State} (h : Keep a s) :
    Keep a (State.thaw s) := by
  unfold State.thaw
  try dsimp only
  repeat' (first
    | with_reducible (first
      | assumption | refine keep_moduleReset ?_ | refine keep_onRas ?_))

theorem keep_execModRstN {a : State} {x1 : Bool} {s : State} (h : Keep a s) :
    ∀ t, execModRstN x1 s = .next t → Keep a t := by
  unfold execModRstN
  refine Keep.done ?_
  try dsimp only
  repeat' (first
    | with_reducible (first
      | assumption | refine keep_onPins ?_ | refine keep_thaw ?_ | refine keep_moduleReset ?_)
    | (split))

theorem keep_sendFrame {a : State} {x1 : Bool} {x2 : Nat} {x3 : Nat} {x4 : Nat} {x5 : Nat} {s : State} (h : Keep a s) :
    Keep a (State.sendFrame x1 x2 x3 x4 x5 s) := by
  unfold State.sendFrame
  try dsimp only
  repeat' (first
    | with_reducible (first
      | assumption | refine keep_emit ?_)
    | (split) | (refine Keep.mk' ?_ (fun h => h) (Nat.le_refl _)))

theorem keep_execDumpFrame {a : State}  {s : State} (h : Keep a s) :
    ∀ t, execDumpFrame s = .next t → Keep a t := by
  unfold execDumpFrame
  refine Keep.done ?_
  try dsimp only
  repeat' (first
    | with_reducible (first
      | assumption | refine keep_sendFrame ?_)
    | refine Keep.onBoot ?_ (by with_reducible exact Nat.le_refl _) | (split))

theorem keep_execTapDump {a : State}  {s : State} (h : Keep a s) :
    ∀ t, execTapDump s = .next t → Keep a t := by
  unfold execTapDump
  refine Keep.done ?_
  try dsimp only
  repeat' (first
    | with_reducible (first
      | assumption | refine keep_sendFrame ?_)
    | refine Keep.onBoot ?_ (by with_reducible exact Nat.le_refl _) | (split))

theorem keep_tapRun {a : State} {x1 : Nat} {s : State} (h : Keep a s) :
    Keep a (State.tapRun x1 s) := by
  unfold State.tapRun
  try dsimp only
  repeat' (first
    | with_reducible (first
      | assumption | refine keep_emit ?_)
    | refine Keep.onBoot ?_ (by with_reducible exact Nat.le_refl _) | (split))

theorem keep_execTapExtest {a : State}  {s : State} (h : Keep a s) :
    ∀ t, execTapExtest s = .next t → Keep a t := by
  unfold execTapExtest
  refine Keep.done ?_
  try dsimp only
  repeat' (first
    | with_reducible (first
      | assumption | refine keep_tapRun ?_))

theorem keep_execTapIdcode {a : State}  {s : State} (h : Keep a s) :
    ∀ t, execTapIdcode s = .next t → Keep a t := by
  unfold execTapIdcode
  refine Keep.done ?_
  try dsimp only
  repeat' (first
    | with_reducible (first
      | assumption | refine keep_tapRun ?_))

theorem keep_execTapBypass {a : State}  {s : State} (h : Keep a s) :
    ∀ t, execTapBypass s = .next t → Keep a t := by
  unfold execTapBypass
  refine Keep.done ?_
  try dsimp only
  repeat' (first
    | with_reducible (first
      | assumption | refine keep_tapRun ?_))

theorem keep_execTapSamplePreload {a : State}  {s : State} (h : Keep a s) :
    ∀ t, execTapSamplePreload s = .next t → Keep a t := by
  unfold execTapSamplePreload
  refine Keep.done ?_
  try dsimp only
  repeat' (first
    | with_reducible (first
      | assumption | refine keep_tapRun ?_))

theorem keep_execTamper {a : State} {x1 : Nat} {s : State} (h : Keep a s) :
    ∀ t, execTamper x1 s = .next t → Keep a t := by
  unfold execTamper
  refine Keep.done ?_
  try dsimp only
  repeat' (first
    | with_reducible (first
      | assumption | refine keep_onSec ?_ | refine keep_onLk ?_ | refine keep_moduleReset ?_)
    | (split))

theorem keep_execMateOpen {a : State} {x1 : Nat} {s : State} (h : Keep a s) :
    ∀ t, execMateOpen x1 s = .next t → Keep a t := by
  unfold execMateOpen
  refine Keep.done ?_
  try dsimp only
  repeat' (first
    | with_reducible (first
      | assumption | refine keep_onPins ?_ | refine keep_powerLost ?_)
    | (split))

end Sys2Proof.Laws
end

