-- ==== Sys2Proof/Laws/KeepPstateOps.lean ====
section
/-! SUPPORT. What the operations of Machine/PstateOps.lean keep. -/
namespace Sys2Proof.Laws
open Sys2Proof Sys2Proof.Machine

theorem keep_pstateEvent {a : State} {x1 : PState} {x2 : PState} {x3 : Bool} {s : State} (h : Keep a s) :
    Keep a (State.pstateEvent x1 x2 x3 s) := by
  unfold State.pstateEvent
  try dsimp only
  repeat' (first
    | with_reducible (first
      | assumption | refine keep_event ?_))

theorem keep_cmdIdle {a : State}  {s : State} (h : Keep a s) :
    Keep a (State.cmdIdle s) := by
  unfold State.cmdIdle
  try dsimp only
  repeat' (first
    | with_reducible (first
      | assumption | refine keep_pwRefused ?_ | refine keep_pstateEvent ?_ | refine keep_setRegions ?_ | refine keep_onPw ?_)
    | (split))

theorem keep_cmdDeep {a : State} {x1 : PState} {s : State} (h : Keep a s) :
    Keep a (State.cmdDeep x1 s) := by
  unfold State.cmdDeep
  try dsimp only
  repeat' (first
    | with_reducible (first
      | assumption | refine keep_pwRefused ?_ | refine keep_onPw ?_)
    | (split))

theorem keep_idleWake {a : State}  {s : State} (h : Keep a s) :
    Keep a (State.idleWake s) := by
  unfold State.idleWake
  try dsimp only
  repeat' (first
    | with_reducible (first
      | assumption | refine keep_onPw ?_)
    | (split))

theorem keep_writeCmd {a : State} {x1 : Word} {s : State} (h : Keep a s) :
    Keep a (State.writeCmd x1 s) := by
  unfold State.writeCmd
  try dsimp only
  repeat' (first
    | with_reducible (first
      | assumption | refine keep_idleWake ?_ | refine keep_cmdIdle ?_ | refine keep_cmdDeep ?_)
    | (split))

theorem keep_cmdWrite {a : State} {x1 : Master} {x2 : Nat} {s : State} (h : Keep a s) :
    Keep a (State.cmdWrite x1 x2 s) := by
  unfold State.cmdWrite
  try dsimp only
  repeat' (first
    | with_reducible (first
      | assumption | refine keep_writeCmd ?_ | refine keep_privWrite ?_ ?_)
    | (intro _ _ _) | (intro _ _))

theorem keep_execPwCmdActive {a : State} {x1 : Master} {s : State} (h : Keep a s) :
    ∀ t, execPwCmdActive x1 s = .next t → Keep a t := by
  unfold execPwCmdActive
  refine Keep.clocked h ?_
  try dsimp only
  repeat' (first
    | with_reducible (first
      | assumption | refine keep_cmdWrite ?_)
    | (split))

theorem keep_execPwCmdIdle {a : State} {x1 : Master} {s : State} (h : Keep a s) :
    ∀ t, execPwCmdIdle x1 s = .next t → Keep a t := by
  unfold execPwCmdIdle
  refine Keep.clocked h ?_
  try dsimp only
  repeat' (first
    | with_reducible (first
      | assumption | refine keep_cmdWrite ?_)
    | (split))

theorem keep_execPwCmdWatch {a : State} {x1 : Master} {s : State} (h : Keep a s) :
    ∀ t, execPwCmdWatch x1 s = .next t → Keep a t := by
  unfold execPwCmdWatch
  refine Keep.clocked h ?_
  try dsimp only
  repeat' (first
    | with_reducible (first
      | assumption | refine keep_cmdWrite ?_)
    | (split))

theorem keep_execPwCmdHold {a : State} {x1 : Master} {s : State} (h : Keep a s) :
    ∀ t, execPwCmdHold x1 s = .next t → Keep a t := by
  unfold execPwCmdHold
  refine Keep.clocked h ?_
  try dsimp only
  repeat' (first
    | with_reducible (first
      | assumption | refine keep_cmdWrite ?_)
    | (split))

theorem keep_enterDeep {a : State}  {s : State} (h : Keep a s) :
    Keep a (State.enterDeep s) := by
  unfold State.enterDeep
  try dsimp only
  repeat' (first
    | with_reducible (first
      | assumption | refine Keep.foldState ?_ ?_ | refine keep_onCluster ?_ | refine keep_onPw ?_ | refine keep_onHif ?_
      | refine keep_setRegions ?_ | refine keep_portLeaves ?_)
    | (intro _ _ _) | (intro _ _) | (split))

theorem keep_railsOff {a : State}  {s : State} (h : Keep a s) :
    Keep a (State.railsOff s) := by
  unfold State.railsOff
  exact Keep.mk' (Keep.onMem h fun _ => wf_empty rfl rfl rfl) (fun h => h) (Nat.le_refl _)

theorem keep_startResume {a : State}  {s : State} (h : Keep a s) :
    Keep a (State.startResume s) := by
  unfold State.startResume
  try dsimp only
  repeat' (first
    | with_reducible (first
      | assumption | refine keep_powerOn ?_ | refine keep_onPw ?_))

theorem keep_execLowpowerEntryDone {a : State}  {s : State} (h : Keep a s) :
    ∀ t, execLowpowerEntryDone s = .next t → Keep a t := by
  unfold execLowpowerEntryDone
  refine Keep.clocked h ?_
  try dsimp only
  repeat' (first
    | with_reducible (first
      | assumption | refine keep_railsOff ?_ | refine keep_keepEvent ?_ | refine keep_onPw ?_ | refine keep_onTide ?_
      | refine keep_powerOff ?_ | refine keep_setRegions ?_ | refine keep_startResume ?_)
    | (split))

theorem keep_deepWake {a : State}  {s : State} (h : Keep a s) :
    Keep a (State.deepWake s) := by
  unfold State.deepWake
  try dsimp only
  repeat' (first
    | with_reducible (first
      | assumption | refine keep_onPw ?_ | refine keep_startResume ?_)
    | (split))

theorem keep_execWakeN {a : State}  {s : State} (h : Keep a s) :
    ∀ t, execWakeN s = .next t → Keep a t := by
  unfold execWakeN
  refine Keep.clocked h ?_
  try dsimp only
  repeat' (first
    | with_reducible (first
      | assumption | refine keep_deepWake ?_ | refine keep_idleWake ?_)
    | (split))

theorem keep_execWakePattern {a : State} {x1 : Nat} {s : State} (h : Keep a s) :
    ∀ t, execWakePattern x1 s = .next t → Keep a t := by
  unfold execWakePattern
  refine Keep.clocked h ?_
  try dsimp only
  repeat' (first
    | with_reducible (first
      | assumption | refine keep_deepWake ?_)
    | (split))

theorem keep_execIdleWakeTraffic {a : State}  {s : State} (h : Keep a s) :
    ∀ t, execIdleWakeTraffic s = .next t → Keep a t := by
  unfold execIdleWakeTraffic
  refine Keep.clocked h ?_
  try dsimp only
  repeat' (first
    | with_reducible (first
      | assumption | refine keep_idleWake ?_)
    | (split))

theorem keep_logBytes {a : State} {x1 : Nat} {s : State} (h : Keep a s) :
    Keep a (State.logBytes x1 s) := by
  unfold State.logBytes
  try dsimp only
  repeat' (first
    | with_reducible (first
      | assumption | refine Keep.foldlSnd ?_ _ ?_ | refine Keep.foldlFst ?_ _ ?_ | refine Keep.foldl ?_ _ ?_)
    | refine Keep.onMem ?_ id | (intro _ _ _) | (intro _ _) | (split) | (refine Keep.mk' ?_ (fun h => h) (Nat.le_refl _)))

theorem keep_execWatchSample {a : State} {x1 : Nat} {x2 : List (Nat × Nat)} {s : State} (h : Keep a s) :
    ∀ t, execWatchSample x1 x2 s = .next t → Keep a t := by
  unfold execWatchSample
  refine Keep.clocked h ?_
  try dsimp only
  repeat' (first
    | with_reducible (first
      | assumption | refine keep_onPins ?_ | refine keep_onPw ?_ | refine keep_logBytes ?_ | refine Keep.foldlSnd ?_ _ ?_
      | refine Keep.foldlFst ?_ _ ?_ | refine Keep.foldl ?_ _ ?_)
    | (intro _ _ _) | (intro _ _) | (split))

end Sys2Proof.Laws
end

