-- ==== Sys2Proof/Laws/KeepRecoveryOps.lean ====
section
/-! SUPPORT. What the operations of Machine/RecoveryOps.lean keep. -/
namespace Sys2Proof.Laws
open Sys2Proof Sys2Proof.Machine

theorem keep_spanReset {a : State} {x1 : Nat} {x2 : Nat} {x3 : Nat × Nat} {s : State} (h : Keep a s) :
    Keep a (State.spanReset x1 x2 x3 s) := by
  unfold State.spanReset
  try dsimp only
  repeat' (first
    | with_reducible (first
      | assumption | refine keep_event ?_)
    | (split))

theorem keep_unitFailed {a : State} {x1 : Nat} {x2 : Nat} {x3 : Nat} {x4 : Nat × Nat} {s : State} (h : Keep a s) :
    Keep a (State.unitFailed x1 x2 x3 x4 s) := by
  unfold State.unitFailed
  try dsimp only
  repeat' (first
    | with_reducible (first
      | assumption | refine keep_event ?_))

theorem keep_endSlot {a : State} {x1 : Nat} {x2 : Nat} {x3 : Bool} {s : State} (h : Keep a s) :
    Keep a (State.endSlot x1 x2 x3 s) := by
  unfold State.endSlot
  try dsimp only
  repeat' (first
    | with_reducible (first
      | assumption | refine keep_abortLaunch ?_ | refine keep_onCtx ?_ | refine keep_freeSlot ?_ | refine keep_onLaunch ?_
      | refine keep_complete ?_)
    | (split))

theorem keep_endResident {a : State} {x1 : Nat} {x2 : Bool} {s : State} (h : Keep a s) :
    Keep a (State.endResident x1 x2 s) := by
  unfold State.endResident
  try dsimp only
  repeat' (first
    | with_reducible (first
      | assumption | refine keep_settle ?_ | refine Keep.foldState ?_ ?_ | refine keep_endSlot ?_)
    | (intro _ _ _))

theorem keep_endBoundSaved {a : State} {x1 : Nat} {x2 : Bool} {s : State} (h : Keep a s) :
    Keep a (State.endBoundSaved x1 x2 s) := by
  unfold State.endBoundSaved
  try dsimp only
  repeat' (first
    | with_reducible (first
      | assumption | refine Keep.foldState ?_ ?_ | refine keep_abortLaunch ?_ | refine keep_onLaunch ?_
      | refine keep_markLost ?_)
    | (intro _ _ _) | (intro _ _) | (split))

theorem keep_retirePlace {a : State} {x1 : Nat} {x2 : Bool} {s : State} (h : Keep a s) :
    Keep a (State.retirePlace x1 x2 s) := by
  unfold State.retirePlace
  try dsimp only
  repeat' (first
    | with_reducible (first
      | assumption | refine keep_settle ?_ | refine keep_endBoundSaved ?_ | refine keep_endResident ?_ | refine keep_onTile ?_
      | refine keep_onPlace ?_ | refine keep_spanReset ?_ | refine keep_procUnitFailed ?_ | refine keep_event ?_)
    | (split))

theorem keep_failTile {a : State} {x1 : Nat} {x2 : Nat} {s : State} (h : Keep a s) :
    Keep a (State.failTile x1 x2 s) := by
  unfold State.failTile
  try dsimp only
  repeat' (first
    | with_reducible (first
      | assumption | refine keep_onTile ?_ | refine keep_unitFailed ?_ | refine keep_endResident ?_ | refine keep_onPlace ?_
      | refine keep_event ?_ | refine keep_spanReset ?_ | refine keep_retirePlace ?_)
    | (split))

theorem keep_failChannel {a : State} {x1 : Nat} {x2 : Nat} {s : State} (h : Keep a s) :
    Keep a (State.failChannel x1 x2 s) := by
  unfold State.failChannel
  try dsimp only
  repeat' (first
    | with_reducible (first
      | assumption | refine keep_unitFailed ?_ | refine keep_onHb ?_ | refine keep_onChan ?_ | refine keep_event ?_
      | refine keep_spanReset ?_ | refine keep_procUnitFailed ?_ | refine Keep.foldState ?_ ?_ | refine keep_settle ?_
      | refine keep_endScan ?_)
    | (intro _ _ _) | (intro _ _) | (split))

theorem keep_failMill {a : State} {x1 : Nat} {x2 : Nat} {s : State} (h : Keep a s) :
    Keep a (State.failMill x1 x2 s) := by
  unfold State.failMill
  try dsimp only
  repeat' (first
    | with_reducible (first
      | assumption | refine keep_unitFailed ?_ | refine keep_onMill ?_ | refine keep_spanReset ?_ | refine Keep.foldState ?_ ?_
      | refine keep_settle ?_ | refine keep_millAborted ?_ | refine keep_endScan ?_)
    | (intro _ _ _) | (intro _ _) | (split))

theorem keep_failUnit {a : State} {x1 : HangUnit} {x2 : Nat} {s : State} (h : Keep a s) :
    Keep a (State.failUnit x1 x2 s) := by
  unfold State.failUnit
  try dsimp only
  repeat' (first
    | with_reducible (first
      | assumption | refine keep_failTile ?_ | refine keep_failMill ?_ | refine keep_failChannel ?_)
    | (split))

theorem keep_hung {a : State} {x1 : HangUnit} {x2 : Nat} {s : State} (h : Keep a s) :
    Keep a (State.hung x1 x2 s) := by
  unfold State.hung
  try dsimp only
  repeat' (first
    | with_reducible (first
      | assumption | refine keep_failUnit ?_ | refine keep_event ?_))

theorem keep_setMisses {a : State} {x1 : HangUnit} {x2 : Nat} {s : State} (h : Keep a s) :
    Keep a (State.setMisses x1 x2 s) := by
  unfold State.setMisses
  try dsimp only
  repeat' (first
    | with_reducible (first
      | assumption | refine keep_onTile ?_ | refine keep_onMill ?_ | refine keep_onChan ?_)
    | (split))

theorem keep_execLivenessCheck {a : State} {x1 : List HangUnit} {s : State} (h : Keep a s) :
    ∀ t, execLivenessCheck x1 s = .next t → Keep a t := by
  unfold execLivenessCheck
  refine Keep.clocked h ?_
  try dsimp only
  repeat' (first
    | with_reducible (first
      | assumption | refine Keep.foldState ?_ ?_ | refine keep_setMisses ?_ | refine keep_hung ?_)
    | (intro _ _ _) | (intro _ _) | (split))

theorem keep_execSlotWatchdog {a : State} {x1 : HangUnit} {x2 : Nat} {s : State} (h : Keep a s) :
    ∀ t, execSlotWatchdog x1 x2 s = .next t → Keep a t := by
  unfold execSlotWatchdog
  refine Keep.clocked h ?_
  try dsimp only
  repeat' (first
    | with_reducible (first
      | assumption | refine keep_hung ?_)
    | (split))

theorem keep_stuckBoundary {a : State}  {s : State} (h : Keep a s) :
    Keep a (State.stuckBoundary s) := by
  unfold State.stuckBoundary
  try dsimp only
  repeat' (first
    | with_reducible (first
      | assumption)
    | (split) | (refine Keep.mk' ?_ (fun h => h) (Nat.le_refl _)))

theorem keep_execUnitSelfCheckFail {a : State} {x1 : HangUnit} {s : State} (h : Keep a s) :
    ∀ t, execUnitSelfCheckFail x1 s = .next t → Keep a t := by
  unfold execUnitSelfCheckFail
  refine Keep.clocked h ?_
  try dsimp only
  repeat' (first
    | with_reducible (first
      | assumption | refine keep_failUnit ?_)
    | (split))

theorem keep_execChannelControllerFail {a : State} {x1 : Nat} {x2 : Nat} {s : State} (h : Keep a s) :
    ∀ t, execChannelControllerFail x1 x2 s = .next t → Keep a t := by
  unfold execChannelControllerFail
  refine Keep.clocked h ?_
  try dsimp only
  repeat' (first
    | with_reducible (first
      | assumption | refine keep_failChannel ?_)
    | (split))

theorem keep_execMillFail {a : State} {x1 : Nat} {x2 : Nat} {s : State} (h : Keep a s) :
    ∀ t, execMillFail x1 x2 s = .next t → Keep a t := by
  unfold execMillFail
  refine Keep.clocked h ?_
  try dsimp only
  repeat' (first
    | with_reducible (first
      | assumption | refine keep_failMill ?_)
    | (split))

theorem keep_execMcRetire {a : State} {x1 : Master} {x2 : Nat} {s : State} (h : Keep a s) :
    ∀ t, execMcRetire x1 x2 s = .next t → Keep a t := by
  unfold execMcRetire
  refine Keep.clocked h ?_
  try dsimp only
  repeat' (first
    | with_reducible (first
      | assumption | refine keep_failChannel ?_ | refine keep_privWrite ?_ ?_)
    | (intro _ _ _) | (intro _ _))

theorem keep_execHoldFailure {a : State} {x1 : Nat} {s : State} (h : Keep a s) :
    ∀ t, execHoldFailure x1 s = .next t → Keep a t := by
  unfold execHoldFailure
  refine Keep.clocked h ?_
  try dsimp only
  repeat' (first
    | with_reducible (first
      | assumption | refine keep_retirePlace ?_ | refine keep_onPlace ?_)
    | (split))

theorem keep_clearTlbs {a : State} {x1 : Nat} {s : State} (h : Keep a s) :
    Keep a (State.clearTlbs x1 s) := by
  unfold State.clearTlbs
  try dsimp only
  repeat' (first
    | with_reducible (first
      | assumption | refine keep_onXl ?_))

theorem keep_tileReset {a : State} {x1 : Nat} {s : State} (h : Keep a s) :
    Keep a (State.tileReset x1 s) := by
  unfold State.tileReset
  try dsimp only
  repeat' (first
    | with_reducible (first
      | assumption | refine keep_spanReset ?_ | refine keep_endResident ?_ | refine keep_clearTlbs ?_ | refine keep_onTile ?_)
    | (split))

theorem keep_ctlReset {a : State} {x1 : Nat} {s : State} (h : Keep a s) :
    Keep a (State.ctlReset x1 s) := by
  unfold State.ctlReset
  try dsimp only
  repeat' (first
    | with_reducible (first
      | assumption | refine keep_tileReset ?_)
    | (split))

theorem keep_ctlClusterReset {a : State} {x1 : Nat} {s : State} (h : Keep a s) :
    Keep a (State.ctlClusterReset x1 s) := by
  unfold State.ctlClusterReset
  try dsimp only
  repeat' (first
    | with_reducible (first
      | assumption | refine keep_tileReset ?_ | refine Keep.foldState ?_ ?_ | refine keep_onCluster ?_)
    | (intro _ _ _) | (intro _ _) | (split))

theorem keep_ctlSubstitute {a : State} {x1 : Nat} {s : State} (h : Keep a s) :
    Keep a (State.ctlSubstitute x1 s) := by
  unfold State.ctlSubstitute
  try dsimp only
  repeat' (first
    | with_reducible (first
      | assumption | refine keep_onPlace ?_)
    | (split))

theorem keep_ctlRetire {a : State} {x1 : Nat} {s : State} (h : Keep a s) :
    Keep a (State.ctlRetire x1 s) := by
  unfold State.ctlRetire
  try dsimp only
  repeat' (first
    | with_reducible (first
      | assumption | refine keep_retirePlace ?_ | refine keep_failTile ?_)
    | (split))

theorem keep_writeTlCtl {a : State} {x1 : Nat} {x2 : Word} {s : State} (h : Keep a s) :
    Keep a (State.writeTlCtl x1 x2 s) := by
  unfold State.writeTlCtl
  try dsimp only
  repeat' (first
    | with_reducible (first
      | assumption | refine keep_ctlReset ?_ | refine keep_ctlClusterReset ?_ | refine keep_ctlSubstitute ?_
      | refine keep_ctlRetire ?_ | refine keep_failTile ?_)
    | (split))

theorem keep_execTlReset {a : State} {x1 : Master} {x2 : Nat} {s : State} (h : Keep a s) :
    ∀ t, execTlReset x1 x2 s = .next t → Keep a t := by
  unfold execTlReset
  refine Keep.clocked h ?_
  try dsimp only
  repeat' (first
    | with_reducible (first
      | assumption | refine keep_ctlReset ?_ | refine keep_privWrite ?_ ?_)
    | (intro _ _ _) | (intro _ _))

theorem keep_execTlClusterReset {a : State} {x1 : Master} {x2 : Nat} {s : State} (h : Keep a s) :
    ∀ t, execTlClusterReset x1 x2 s = .next t → Keep a t := by
  unfold execTlClusterReset
  refine Keep.clocked h ?_
  try dsimp only
  repeat' (first
    | with_reducible (first
      | assumption | refine keep_ctlClusterReset ?_ | refine keep_privWrite ?_ ?_)
    | (intro _ _ _) | (intro _ _))

theorem keep_execTlSubstitute {a : State} {x1 : Master} {x2 : Nat} {s : State} (h : Keep a s) :
    ∀ t, execTlSubstitute x1 x2 s = .next t → Keep a t := by
  unfold execTlSubstitute
  refine Keep.clocked h ?_
  try dsimp only
  repeat' (first
    | with_reducible (first
      | assumption | refine keep_ctlSubstitute ?_ | refine keep_privWrite ?_ ?_)
    | (intro _ _ _) | (intro _ _))

theorem keep_execTlRetire {a : State} {x1 : Master} {x2 : Nat} {s : State} (h : Keep a s) :
    ∀ t, execTlRetire x1 x2 s = .next t → Keep a t := by
  unfold execTlRetire
  refine Keep.clocked h ?_
  try dsimp only
  repeat' (first
    | with_reducible (first
      | assumption | refine keep_ctlRetire ?_ | refine keep_privWrite ?_ ?_)
    | (intro _ _ _) | (intro _ _))

theorem keep_execTlFail {a : State} {x1 : Master} {x2 : Nat} {s : State} (h : Keep a s) :
    ∀ t, execTlFail x1 x2 s = .next t → Keep a t := by
  unfold execTlFail
  refine Keep.clocked h ?_
  try dsimp only
  repeat' (first
    | with_reducible (first
      | assumption | refine keep_failTile ?_ | refine keep_privWrite ?_ ?_)
    | (intro _ _ _) | (intro _ _))

theorem keep_tileOut {a : State} {x1 : Nat} {s : State} (h : Keep a s) :
    Keep a (State.tileOut x1 s) := by
  unfold State.tileOut
  try dsimp only
  repeat' (first
    | with_reducible (first
      | assumption | refine keep_onTile ?_))

theorem keep_execTileResetComplete {a : State} {x1 : Nat} {s : State} (h : Keep a s) :
    ∀ t, execTileResetComplete x1 s = .next t → Keep a t := by
  unfold execTileResetComplete
  refine Keep.clocked h ?_
  try dsimp only
  repeat' (first
    | with_reducible (first
      | assumption | refine Keep.foldState ?_ ?_ | refine keep_tileOut ?_ | refine keep_onCluster ?_)
    | (intro _ _ _) | (intro _ _) | (split))

theorem keep_execClusterResetTimeout {a : State} {x1 : Nat} {s : State} (h : Keep a s) :
    ∀ t, execClusterResetTimeout x1 s = .next t → Keep a t := by
  unfold execClusterResetTimeout
  refine Keep.clocked h ?_
  try dsimp only
  repeat' (first
    | with_reducible (first
      | assumption | refine Keep.foldState ?_ ?_ | refine keep_retirePlace ?_ | refine keep_unitFailed ?_
      | refine keep_onTile ?_)
    | (intro _ _ _) | (intro _ _) | (split))

theorem keep_execSpareIn {a : State} {x1 : Nat} {s : State} (h : Keep a s) :
    ∀ t, execSpareIn x1 s = .next t → Keep a t := by
  unfold execSpareIn
  refine Keep.clocked h ?_
  try dsimp only
  repeat' (first
    | with_reducible (first
      | assumption | refine keep_retirePlace ?_ | refine keep_event ?_ | refine keep_onTile ?_ | refine keep_onPlace ?_)
    | (split))

theorem keep_execPlaceResume {a : State} {x1 : Nat} {s : State} (h : Keep a s) :
    ∀ t, execPlaceResume x1 s = .next t → Keep a t := by
  unfold execPlaceResume
  refine Keep.clocked h ?_
  try dsimp only
  repeat' (first
    | with_reducible (first
      | assumption | refine keep_onPlace ?_ | refine keep_settle ?_ | refine Keep.foldState ?_ ?_ | refine keep_tryPlace ?_)
    | (intro _ _ _) | (intro _ _) | (split))

theorem keep_spareBoundary {a : State}  {s : State} (h : Keep a s) :
    Keep a (State.spareBoundary s) := by
  unfold State.spareBoundary
  try dsimp only
  repeat' (first
    | with_reducible (first
      | assumption)
    | (split) | (refine Keep.mk' ?_ (fun h => h) (Nat.le_refl _)))

end Sys2Proof.Laws
end

