-- ==== Sys2Proof/Laws/KeepRegulOps.lean ====
section
/-! SUPPORT. What the operations of Machine/RegulOps.lean keep. -/
namespace Sys2Proof.Laws
open Sys2Proof Sys2Proof.Machine

theorem keep_regRefused {a : State}  {s : State} (h : Keep a s) :
    Keep a (State.regRefused s) := by
  unfold State.regRefused
  try dsimp only
  repeat' (first
    | with_reducible (first
      | assumption | refine keep_onRg ?_))

theorem keep_writeReg {a : State} {x1 : Bool} {x2 : Nat} {x3 : Word} {s : State} (h : Keep a s) :
    Keep a (State.writeReg x1 x2 x3 s) := by
  unfold State.writeReg
  try dsimp only
  repeat' (first
    | with_reducible (first
      | assumption | refine keep_regRefused ?_ | refine keep_onRg ?_)
    | (split))

theorem keep_execRegReserveWrite {a : State} {x1 : Master} {x2 : Bool} {x3 : Nat} {x4 : Word} {s : State} (h : Keep a s) :
    ∀ t, execRegReserveWrite x1 x2 x3 x4 s = .next t → Keep a t := by
  unfold execRegReserveWrite
  refine Keep.clocked h ?_
  try dsimp only
  repeat' (first
    | with_reducible (first
      | assumption | refine keep_writeReg ?_ | refine keep_privWrite ?_ ?_)
    | (intro _ _ _) | (intro _ _))

theorem keep_execUrgencySample {a : State} {x1 : Nat} {x2 : Nat} {s : State} (h : Keep a s) :
    ∀ t, execUrgencySample x1 x2 s = .next t → Keep a t := by
  unfold execUrgencySample
  refine Keep.clocked h ?_
  try dsimp only
  repeat' (first
    | with_reducible (first
      | assumption | refine keep_onRg ?_ | refine keep_onLg ?_)
    | (split))

theorem keep_publishSlow {a : State} {x1 : Word} {x2 : Nat} {x3 : List (Nat × SlowMeas)} {s : State} (h : Keep a s) :
    Keep a (State.publishSlow x1 x2 x3 s) := by
  unfold State.publishSlow
  try dsimp only
  repeat' (first
    | with_reducible (first
      | assumption | refine keep_onRg ?_ ))

theorem keep_writeSlice {a : State} {x1 : Nat} {x2 : Nat} {x3 : Word} {s : State} (h : Keep a s) :
    Keep a (State.writeSlice x1 x2 x3 s) := by
  unfold State.writeSlice
  try dsimp only
  repeat' (first
    | with_reducible (first
      | assumption | refine keep_regRefused ?_ | refine keep_onRg ?_ | refine Keep.foldlSnd ?_ _ ?_
      | refine Keep.foldlFst ?_ _ ?_ | refine Keep.foldl ?_ _ ?_)
    | (intro _ _ _) | (intro _ _) | (split))

theorem keep_execHbSliceWrite {a : State} {x1 : Master} {x2 : Nat} {x3 : Nat} {x4 : Word} {s : State} (h : Keep a s) :
    ∀ t, execHbSliceWrite x1 x2 x3 x4 s = .next t → Keep a t := by
  unfold execHbSliceWrite
  refine Keep.clocked h ?_
  try dsimp only
  repeat' (first
    | with_reducible (first
      | assumption | refine keep_writeSlice ?_ | refine keep_privWrite ?_ ?_)
    | (intro _ _ _) | (intro _ _))

end Sys2Proof.Laws
end

