-- ==== Sys2Proof/Laws/KeepSecurityOps.lean ====
section
/-! SUPPORT. What the operations of Machine/SecurityOps.lean keep. -/
namespace Sys2Proof.Laws
open Sys2Proof Sys2Proof.Machine

theorem keep_execBattLow {a : State} {x1 : Nat} {s : State} (h : Keep a s) :
    ∀ t, execBattLow x1 s = .next t → Keep a t := by
  unfold execBattLow
  refine Keep.done ?_
  try dsimp only
  repeat' (first
    | with_reducible (first
      | assumption | refine keep_onSec ?_ | refine keep_event ?_)
    | (split))

theorem keep_keyResult {a : State} {x1 : Nat} {x2 : Word} {x3 : Word} {s : State} (h : Keep a s) :
    Keep a (State.keyResult x1 x2 x3 s) := by
  unfold State.keyResult
  try dsimp only
  repeat' (first
    | with_reducible (first
      | assumption | refine keep_onSec ?_ | refine keep_event ?_)
    | (split))

theorem keep_submitKeys {a : State} {x1 : Word} {s : State} (h : Keep a s) :
    Keep a (State.submitKeys x1 s) := by
  unfold State.submitKeys
  try dsimp only
  repeat' (first
    | with_reducible (first
      | assumption | refine keep_keyResult ?_ | refine keep_onSec ?_)
    | (split))

theorem keep_execScKeyupd {a : State} {x1 : Master} {x2 : Word} {s : State} (h : Keep a s) :
    ∀ t, execScKeyupd x1 x2 s = .next t → Keep a t := by
  unfold execScKeyupd
  refine Keep.clocked h ?_
  try dsimp only
  repeat' (first
    | with_reducible (first
      | assumption | refine keep_submitKeys ?_ | refine keep_privWrite ?_ ?_)
    | (intro _ _ _) | (intro _ _))

theorem keep_applyKeys {a : State} {x1 : Word} {x2 : List KeyOp} {x3 : List (BitVec 256)} {s : State} (h : Keep a s) :
    Keep a (State.applyKeys x1 x2 x3 s) := by
  unfold State.applyKeys
  try dsimp only
  repeat' (first
    | with_reducible (first
      | assumption | refine keep_onSec ?_ ))

theorem keep_execKeyUpdate {a : State} {x1 : KeyChecks} {s : State} (h : Keep a s) :
    ∀ t, execKeyUpdate x1 s = .next t → Keep a t := by
  unfold execKeyUpdate
  refine Keep.clocked h ?_
  try dsimp only
  repeat' (first
    | with_reducible (first
      | assumption | refine keep_onSec ?_ | refine keep_keyResult ?_ | refine keep_unstall ?_ | refine keep_applyKeys ?_)
    | (split))

theorem keep_spdm {a : State} {x1 : Nat} {x2 : Bool} {x3 : List Word} {s : State} (h : Keep a s) :
    Keep a (State.spdm x1 x2 x3 s) := by
  unfold State.spdm
  try dsimp only
  repeat' (first
    | with_reducible (first
      | assumption | refine keep_emit ?_))

theorem keep_spdmAnswer {a : State} {x1 : Nat} {x2 : Bool} {x3 : List Word} {s : State} (h : Keep a s) :
    Keep a (State.spdmAnswer x1 x2 x3 s) := by
  unfold State.spdmAnswer
  try dsimp only
  repeat' (first
    | with_reducible (first
      | assumption | refine keep_spdm ?_)
    | (split))

theorem keep_execGetVersion {a : State}  {s : State} (h : Keep a s) :
    ∀ t, execGetVersion s = .next t → Keep a t := by
  unfold execGetVersion
  refine Keep.done ?_
  try dsimp only
  repeat' (first
    | with_reducible (first
      | assumption | refine keep_spdmAnswer ?_))

theorem keep_execGetCapabilities {a : State}  {s : State} (h : Keep a s) :
    ∀ t, execGetCapabilities s = .next t → Keep a t := by
  unfold execGetCapabilities
  refine Keep.done ?_
  try dsimp only
  repeat' (first
    | with_reducible (first
      | assumption | refine keep_spdmAnswer ?_))

theorem keep_execNegotiateAlgorithms {a : State} {x1 : Bool} {s : State} (h : Keep a s) :
    ∀ t, execNegotiateAlgorithms x1 s = .next t → Keep a t := by
  unfold execNegotiateAlgorithms
  refine Keep.done ?_
  try dsimp only
  repeat' (first
    | with_reducible (first
      | assumption | refine keep_spdmAnswer ?_))

theorem keep_execGetMeasurements {a : State} {x1 : Nat} {s : State} (h : Keep a s) :
    ∀ t, execGetMeasurements x1 s = .next t → Keep a t := by
  unfold execGetMeasurements
  refine Keep.done ?_
  try dsimp only
  repeat' (first
    | with_reducible (first
      | assumption | refine keep_spdmAnswer ?_))

theorem keep_execSpdmOtherRequest {a : State} {x1 : SpdmReq} {s : State} (h : Keep a s) :
    ∀ t, execSpdmOtherRequest x1 s = .next t → Keep a t := by
  unfold execSpdmOtherRequest
  refine Keep.done ?_
  try dsimp only
  repeat' (first
    | with_reducible (first
      | assumption | refine keep_onSec ?_ | refine keep_spdmAnswer ?_)
    | (split))

theorem keep_onStream {a : State} {x1 : Nat} {x2 : Nat} {x3 : IdeStream → IdeStream} {s : State} (h : Keep a s) :
    Keep a (State.onStream x1 x2 x3 s) := by
  unfold State.onStream
  try dsimp only
  repeat' (first
    | with_reducible (first
      | assumption | refine keep_onSec ?_))

theorem keep_execKeyProg {a : State} {x1 : Nat} {x2 : Nat} {x3 : Nat} {s : State} (h : Keep a s) :
    ∀ t, execKeyProg x1 x2 x3 s = .next t → Keep a t := by
  unfold execKeyProg
  refine Keep.clocked h ?_
  try dsimp only
  repeat' (first
    | with_reducible (first
      | assumption | refine keep_onStream ?_)
    | (split))

theorem keep_execKSetGo {a : State} {x1 : Nat} {x2 : Nat} {x3 : Nat} {s : State} (h : Keep a s) :
    ∀ t, execKSetGo x1 x2 x3 s = .next t → Keep a t := by
  unfold execKSetGo
  refine Keep.clocked h ?_
  try dsimp only
  repeat' (first
    | with_reducible (first
      | assumption | refine keep_onStream ?_)
    | (split))

theorem keep_execKSetStop {a : State} {x1 : Nat} {x2 : Nat} {x3 : Nat} {s : State} (h : Keep a s) :
    ∀ t, execKSetStop x1 x2 x3 s = .next t → Keep a t := by
  unfold execKSetStop
  refine Keep.clocked h ?_
  try dsimp only
  repeat' (first
    | with_reducible (first
      | assumption | refine keep_onStream ?_)
    | (split))

theorem keep_execIdeInsecure {a : State} {x1 : Nat} {x2 : Nat} {s : State} (h : Keep a s) :
    ∀ t, execIdeInsecure x1 x2 s = .next t → Keep a t := by
  unfold execIdeInsecure
  refine Keep.clocked h ?_
  try dsimp only
  repeat' (first
    | with_reducible (first
      | assumption | refine keep_event ?_ | refine keep_onSec ?_ | refine keep_onStream ?_)
    | (split))

theorem keep_writePortKey {a : State} {x1 : Nat} {x2 : Word} {s : State} (h : Keep a s) :
    Keep a (State.writePortKey x1 x2 s) := by
  unfold State.writePortKey
  try dsimp only
  repeat' (first
    | with_reducible (first
      | assumption | refine keep_unstall ?_ | refine keep_onSec ?_ ))

end Sys2Proof.Laws
end

