-- ==== Sys2Proof/Laws/KeepTeardownOps.lean ====
section
/-! SUPPORT. What the operations of Machine/TeardownOps.lean keep. -/
namespace Sys2Proof.Laws
open Sys2Proof Sys2Proof.Machine

theorem keep_abortContext {a : State} {x1 : Nat} {s : State} (h : Keep a s) :
    Keep a (State.abortContext x1 s) := by
  unfold State.abortContext
  try dsimp only
  repeat' (first
    | with_reducible (first
      | assumption | refine keep_onHm ?_ | refine keep_onAsid ?_ | refine keep_settle ?_ | refine Keep.foldState ?_ ?_
      | refine keep_abortLaunch ?_)
    | (intro _ _ _))

theorem keep_startTeardown {a : State} {x1 : Nat} {x2 : Nat} {x3 : Option Nat} {s : State} (h : Keep a s) :
    Keep a (State.startTeardown x1 x2 x3 s) := by
  unfold State.startTeardown
  try dsimp only
  repeat' (first
    | with_reducible (first
      | assumption | refine keep_abortContext ?_ | refine keep_onAsid ?_ | refine Keep.foldState ?_ ?_
      | refine keep_stopBerth ?_)
    | (intro _ _ _) | (intro _ _) | (split))

theorem keep_abortFaults {a : State} {x1 : Nat} {s : State} (h : Keep a s) :
    Keep a (State.abortFaults x1 s) := by
  unfold State.abortFaults
  try dsimp only
  repeat' (first
    | with_reducible (first
      | assumption | refine Keep.foldState ?_ ?_ | refine keep_retryHeld ?_ | refine keep_putFault ?_)
    | (intro _ _ _))

theorem keep_teardownOne {a : State} {x1 : Nat} {s : State} (h : Keep a s) :
    Keep a (State.teardownOne x1 s) := by
  unfold State.teardownOne
  try dsimp only
  repeat' (first
    | with_reducible (first
      | assumption | refine keep_abortContext ?_ | refine keep_onRas ?_ | refine keep_settle ?_ | refine Keep.foldState ?_ ?_
      | refine keep_abandonFence ?_ | refine keep_reapFence ?_ | refine keep_onAsid ?_ | refine keep_abortFaults ?_)
    | (intro _ _ _) | (intro _ _) | (split))

theorem keep_teardownBoundary {a : State}  {s : State} (h : Keep a s) :
    Keep a (State.teardownBoundary s) := by
  unfold State.teardownBoundary
  try dsimp only
  repeat' (first
    | with_reducible (first
      | assumption | refine keep_pollPages ?_ | refine keep_sweepObjs ?_ | refine Keep.foldState ?_ ?_
      | refine keep_teardownOne ?_)
    | (intro _ _ _))

theorem keep_destroyStates {a : State} {x1 : Nat} {s : State} (h : Keep a s) :
    Keep a (State.destroyStates x1 s) := by
  unfold State.destroyStates
  try dsimp only
  repeat' (first
    | with_reducible (first
      | assumption | refine Keep.foldState ?_ ?_ | refine keep_destroyOwn ?_)
    | (intro _ _ _))

theorem keep_execTeardownQuiesced {a : State} {x1 : Nat} {s : State} (h : Keep a s) :
    ∀ t, execTeardownQuiesced x1 s = .next t → Keep a t := by
  unfold execTeardownQuiesced
  refine Keep.clocked h ?_
  try dsimp only
  repeat' (first
    | with_reducible (first
      | assumption | refine keep_putApertures ?_ | refine keep_unmapRange ?_ | refine keep_pilotInval ?_
      | refine Keep.foldState ?_ ?_ | refine keep_disableBerth ?_ | refine keep_onAsid ?_ | refine keep_dropRef ?_
      | refine keep_destroyStates ?_ | refine keep_dropGraph ?_ | refine keep_pollPages ?_)
    | (intro _ _ _) | (intro _ _) | (split))

theorem keep_scrubFaults {a : State} {x1 : Nat} {s : State} (h : Keep a s) :
    Keep a (State.scrubFaults x1 s) := by
  unfold State.scrubFaults
  try dsimp only
  repeat' (first
    | with_reducible (first
      | assumption | refine Keep.foldState ?_ ?_ | refine keep_putFault ?_)
    | (intro _ _ _))

theorem keep_execCtxTeardown {a : State} {x1 : Nat} {s : State} (h : Keep a s) :
    ∀ t, execCtxTeardown x1 s = .next t → Keep a t := by
  unfold execCtxTeardown
  refine Keep.clocked h ?_
  try dsimp only
  repeat' (first
    | with_reducible (first
      | assumption | refine keep_destroyStates ?_ | refine Keep.foldState ?_ ?_ | refine keep_scrubBerth ?_
      | refine keep_dropFenceEnt ?_ | refine keep_onFu ?_ | refine keep_onHif ?_ | refine keep_scrubFaults ?_
      | refine keep_onRas ?_ | refine keep_put0 ?_ | refine keep_pageDoneOpt ?_ | refine keep_event ?_
      | refine Keep.foldlSnd ?_ _ ?_ | refine Keep.foldlFst ?_ _ ?_ | refine Keep.foldl ?_ _ ?_)
    | (intro _ _ _) | (intro _ _) | (split))

theorem keep_ewCtxDestroy {a : State} {x1 : EwCmd} {s : State} (h : Keep a s) :
    KeepR a (ewCtxDestroy x1 s) := by
  unfold ewCtxDestroy
  try dsimp only
  repeat' (first
    | with_reducible (first
      | assumption | refine keep_ownerOf ?_ | refine keep_startTeardown ?_ | exact KeepR.refuse | refine KeepR.ok ?_
      | refine KeepR.wait ?_ | refine KeepR.later ?_ | refine keep_withHandle ?_)
    | (intro _ _))

theorem keep_execCtxDestroy {a : State} {x1 : EwCmd} {s : State} (h : Keep a s) :
    ∀ t, execCtxDestroy x1 s = .next t → Keep a t := by
  unfold execCtxDestroy
  refine Keep.clocked h ?_
  try dsimp only
  repeat' (first
    | with_reducible (first
      | assumption | refine keep_command ?_ ?_ | refine keep_ewCtxDestroy ?_)
    | (intro _ _ _) | (intro _ _))

theorem keep_ewRun {a : State} {x1 : Nat} {x2 : EwCmd} {s : State} (h : Keep a s) :
    KeepR a (ewRun x1 x2 s) := by
  unfold ewRun
  try dsimp only
  repeat' (first
    | with_reducible (first
      | assumption | refine keep_ewCtxCreate ?_ | refine keep_ewCtxDestroy ?_ | refine keep_ewMemCreate ?_
      | refine keep_ewMemRelease ?_ | refine keep_ewMemExport ?_ | refine keep_ewMemImport ?_ | refine keep_ewMemPin ?_
      | refine keep_ewMemUnpin ?_ | refine keep_ewMap ?_ | refine keep_ewMapHost ?_ | refine keep_ewUnmap ?_
      | refine keep_ewBarMap ?_ | refine keep_ewFenceCreate ?_ | refine keep_ewFenceExport ?_ | refine keep_ewFenceImport ?_
      | refine keep_ewFenceDestroy ?_ | refine keep_ewFenceMirror ?_ | refine keep_ewBerthCreate ?_
      | refine keep_ewBerthDestroy ?_ | refine keep_ewEventBind ?_ | refine keep_ewEventUnbind ?_
      | refine keep_ewGraphRegister ?_ | refine keep_ewGraphUnregister ?_ | refine keep_ewStateCreate ?_
      | refine keep_ewStateMove ?_ | refine keep_ewPhaseEnd ?_ | refine keep_ewStateDestroy ?_ | exact KeepR.refuse
      | refine KeepR.ok ?_ | refine KeepR.wait ?_ | refine KeepR.later ?_ | refine keep_withHandle ?_)
    | (intro _ _) | intro _ | (split))

theorem keep_submit {a : State} {x1 : Nat} {x2 : Option Nat} {x3 : Word32} {s : State} (h : Keep a s) :
    Keep a (State.submit x1 x2 x3 s) := by
  unfold State.submit
  try dsimp only
  repeat' (first
    | with_reducible (first
      | assumption | refine keep_command ?_ ?_ | refine keep_ewRun ?_)
    | (intro _ _ _) | (intro _ _))

theorem keep_teardownFuncs {a : State} {x1 : Nat → Bool} {x2 : Nat} {s : State} (h : Keep a s) :
    Keep a (State.teardownFuncs x1 x2 s) := by
  unfold State.teardownFuncs
  try dsimp only
  repeat' (first
    | with_reducible (first
      | assumption | refine Keep.foldState ?_ ?_ | refine keep_startTeardown ?_)
    | (intro _ _ _))

theorem keep_execFunctionLevelReset {a : State} {x1 : Nat} {s : State} (h : Keep a s) :
    ∀ t, execFunctionLevelReset x1 s = .next t → Keep a t := by
  unfold execFunctionLevelReset
  refine Keep.clocked h ?_
  try dsimp only
  repeat' (first
    | with_reducible (first
      | assumption | refine keep_onLk ?_ | refine keep_onHif ?_ | refine keep_teardownFuncs ?_)
    | (split))

theorem keep_execHostLinkDown {a : State} {x1 : Nat} {s : State} (h : Keep a s) :
    ∀ t, execHostLinkDown x1 s = .next t → Keep a t := by
  unfold execHostLinkDown
  refine Keep.clocked h ?_
  try dsimp only
  repeat' (first
    | with_reducible (first
      | assumption | refine keep_event ?_ | refine keep_onLink ?_ | refine Keep.foldState ?_ ?_ | refine keep_hostFails ?_
      | refine keep_onHif ?_)
    | (intro _ _ _) | (intro _ _) | (split))

theorem keep_execLinkDownGraceExpire {a : State} {x1 : Nat} {s : State} (h : Keep a s) :
    ∀ t, execLinkDownGraceExpire x1 s = .next t → Keep a t := by
  unfold execLinkDownGraceExpire
  refine Keep.clocked h ?_
  try dsimp only
  repeat' (first
    | with_reducible (first
      | assumption | refine keep_teardownFuncs ?_ | refine keep_onLink ?_)
    | (split))

theorem keep_execHostLinkReturn {a : State} {x1 : Nat} {x2 : Nat} {x3 : Nat} {s : State} (h : Keep a s) :
    ∀ t, execHostLinkReturn x1 x2 x3 s = .next t → Keep a t := by
  unfold execHostLinkReturn
  refine Keep.clocked h ?_
  try dsimp only
  repeat' (first
    | with_reducible (first
      | assumption | refine keep_onHif ?_ | refine keep_onLink ?_)
    | (split))

theorem keep_writeFuncMode {a : State} {x1 : Word} {s : State} (h : Keep a s) :
    Keep a (State.writeFuncMode x1 s) := by
  unfold State.writeFuncMode
  try dsimp only
  repeat' (first
    | with_reducible (first
      | assumption | refine keep_onHif ?_))

theorem keep_execCfFuncModeWrite {a : State} {x1 : Master} {x2 : Word} {s : State} (h : Keep a s) :
    ∀ t, execCfFuncModeWrite x1 x2 s = .next t → Keep a t := by
  unfold execCfFuncModeWrite
  refine Keep.clocked h ?_
  try dsimp only
  repeat' (first
    | with_reducible (first
      | assumption | refine keep_writeFuncMode ?_ | refine keep_privWrite ?_ ?_)
    | (intro _ _ _) | (intro _ _))

theorem keep_installAll {a : State} {x1 : Nat} {x2 : Nat} {s : State} (h : Keep a s) :
    Keep a (State.installAll x1 x2 s) := by
  induction x2 generalizing s with
  | zero => exact h
  | succ n ih => exact ih (keep_installCandidate h)

theorem keep_modeBoundary {a : State}  {s : State} (h : Keep a s) :
    Keep a (State.modeBoundary s) := by
  unfold State.modeBoundary
  try dsimp only
  repeat' (first
    | with_reducible (first
      | assumption | refine keep_onHif ?_ | refine keep_onFu ?_ | refine Keep.foldState ?_ ?_ | refine keep_installAll ?_)
    | (intro _ _ _) | (intro _ _) | (split))

end Sys2Proof.Laws
end

