-- ==== Sys2Proof/Laws/KeepRegWrite.lean ====
section
/-! SUPPORT. What the operations of Machine/RegWrite.lean keep. -/
namespace Sys2Proof.Laws
open Sys2Proof Sys2Proof.Machine

theorem keep_run {a : State} {x1 : State → Host.Outcome State Fault Refusal} {s : State} (h : Keep a s) (hx : ∀ t, x1 s = .next t → Keep a t) :
    Keep a (State.run x1 s) := by
  unfold State.run
  split
  · exact hx _ (by assumption)
  · exact h

theorem keep_writeTideCfg {a : State} {x1 : Word} {s : State} (h : Keep a s) :
    Keep a (State.writeTideCfg x1 s) := by
  unfold State.writeTideCfg
  try dsimp only
  repeat' (first
    | with_reducible (first
      | assumption | refine keep_refusedWrite ?_ | refine keep_onTide ?_ | refine Keep.ite ?_ ?_))

theorem keep_execTideApply {a : State} {x1 : Master} {x2 : Word} {s : State} (h : Keep a s) :
    ∀ t, execTideApply x1 x2 s = .next t → Keep a t := by
  unfold execTideApply
  refine Keep.clocked h ?_
  try dsimp only
  repeat' (first
    | with_reducible (first
      | assumption | refine keep_writeTideCfg ?_ | refine keep_privWrite ?_ ?_ | refine Keep.ite ?_ ?_)
    | (intro _ _ _) | (intro _ _))

theorem keep_rasRefused {a : State}  {s : State} (h : Keep a s) :
    Keep a (State.rasRefused s) := by
  unfold State.rasRefused
  try dsimp only
  repeat' (first
    | with_reducible (first
      | assumption | refine keep_onRas ?_))

theorem keep_writeEvtBase {a : State} {x1 : Word} {s : State} (h : Keep a s) :
    Keep a (State.writeEvtBase x1 s) := by
  unfold State.writeEvtBase
  try dsimp only
  repeat' (first
    | with_reducible (first
      | assumption | refine keep_rasRefused ?_ | refine keep_onRas ?_ | refine Keep.ite ?_ ?_))

theorem keep_writeCfBase {a : State} {x1 : Nat} {x2 : Nat} {x3 : HostIf → HostIf} {s : State} (h : Keep a s) :
    Keep a (State.writeCfBase x1 x2 x3 s) := by
  unfold State.writeCfBase
  try dsimp only
  repeat' (first
    | with_reducible (first
      | assumption | refine keep_onHif ?_ | refine keep_refusedWrite ?_ | refine Keep.ite ?_ ?_))

theorem keep_writeCf {a : State} {x1 : Nat} {x2 : Word} {s : State} (h : Keep a s) :
    Keep a (State.writeCf x1 x2 s) := by
  unfold State.writeCf
  try dsimp only
  repeat' (first
    | with_reducible (first
      | assumption | refine keep_writeCommit ?_ | refine keep_writeTideCfg ?_ | refine keep_writeEvtBase ?_
      | refine keep_rasRefused ?_ | refine keep_onRas ?_ | refine keep_writeCfBase ?_ | refine keep_writeFuncMode ?_
      | refine Keep.ite ?_ ?_))

theorem keep_writePwMode {a : State} {x1 : Word} {s : State} (h : Keep a s) :
    Keep a (State.writePwMode x1 s) := by
  unfold State.writePwMode
  try dsimp only
  repeat' (first
    | with_reducible (first
      | assumption | refine keep_pwRefused ?_ | refine keep_decideJob ?_ | refine keep_setRegions ?_ | refine keep_onPw ?_
      | refine Keep.ite ?_ ?_))

theorem keep_writePwTherm {a : State} {x1 : Word} {s : State} (h : Keep a s) :
    Keep a (State.writePwTherm x1 s) := by
  unfold State.writePwTherm
  try dsimp only
  repeat' (first
    | with_reducible (first
      | assumption | refine keep_pwRefused ?_ | refine keep_onPw ?_ | refine Keep.ite ?_ ?_))

theorem keep_writePw {a : State} {x1 : Master} {x2 : Nat} {x3 : Word} {s : State} (h : Keep a s) :
    Keep a (State.writePw x1 x2 x3 s) := by
  unfold State.writePw
  try dsimp only
  repeat' (first
    | with_reducible (first
      | assumption | refine keep_writeCmd ?_ | refine keep_writeBudget ?_ | refine keep_writePwMode ?_
      | refine keep_writePwTherm ?_ | refine keep_pwRefused ?_ | refine keep_onPw ?_ | refine keep_writePolicy ?_
      | refine keep_writeGate ?_ | refine keep_writeHsub ?_ | refine Keep.ite ?_ ?_))

theorem keep_writeSc {a : State} {x1 : Nat} {x2 : Word} {s : State} (h : Keep a s) :
    Keep a (State.writeSc x1 x2 s) := by
  unfold State.writeSc
  try dsimp only
  repeat' (first
    | with_reducible (first
      | assumption | refine keep_submitKeys ?_ | refine keep_writePortKey ?_ | refine keep_onSec ?_ | refine Keep.ite ?_ ?_))

theorem keep_writeHb {a : State} {x1 : Master} {x2 : Nat} {x3 : Word} {s : State} (h : Keep a s) :
    Keep a (State.writeHb x1 x2 x3 s) := by
  unfold State.writeHb
  try dsimp only
  repeat' (first
    | with_reducible (first
      | assumption | refine keep_run ?_ ?_ | refine keep_writeReg ?_ | refine keep_writeSlice ?_ | refine keep_onHb ?_
      | refine keep_execHbReq ?_ _ (by assumption) | refine keep_execHbCancel ?_ _ (by assumption)
      | refine Keep.foldlSnd ?_ _ ?_ | refine Keep.foldlFst ?_ _ ?_ | refine Keep.foldl ?_ _ ?_ | refine Keep.ite ?_ ?_)
    | (intro _ _ _) | (intro _ _))

theorem keep_writeFqCfg {a : State} {x1 : Nat} {x2 : Word} {s : State} (h : Keep a s) :
    Keep a (State.writeFqCfg x1 x2 s) := by
  unfold State.writeFqCfg
  try dsimp only
  repeat' (first
    | with_reducible (first
      | assumption | refine keep_xlRefused ?_ | refine keep_onFq ?_ | refine keep_retryHeld ?_ | refine Keep.ite ?_ ?_))

theorem keep_writeXlf {a : State} {x1 : Master} {x2 : Option Nat} {x3 : Nat} {x4 : Nat} {x5 : Word} {s : State} (h : Keep a s) :
    Keep a (State.writeXlf x1 x2 x3 x4 x5 s) := by
  unfold State.writeXlf
  try dsimp only
  repeat' (first
    | with_reducible (first
      | assumption | refine keep_run ?_ ?_ | refine keep_respIgnored ?_ | refine keep_onFq ?_ | refine keep_xlRefused ?_
      | refine keep_execXlfConsWrite ?_ _ (by assumption) | refine keep_execXlfResume ?_ _ (by assumption)
      | refine keep_execXlfAbort ?_ _ (by assumption) | refine keep_execInvRange ?_ _ (by assumption)
      | refine keep_execInvAsid ?_ _ (by assumption) | refine keep_execInvHarbour ?_ _ (by assumption) | refine Keep.ite ?_ ?_)
    | (intro _ _ _) | (intro _ _) | (split))

theorem keep_writeXl {a : State} {x1 : Master} {x2 : Option Nat} {x3 : Nat} {x4 : Word} {s : State} (h : Keep a s) :
    Keep a (State.writeXl x1 x2 x3 x4 s) := by
  unfold State.writeXl
  try dsimp only
  repeat' (first
    | with_reducible (first
      | assumption | refine keep_xlRefused ?_ | refine keep_onXl ?_ | refine keep_writeFqCfg ?_ | refine keep_writeXlf ?_
      | refine Keep.ite ?_ ?_))

theorem keep_writeLkCfg {a : State} {x1 : Word} {s : State} (h : Keep a s) :
    Keep a (State.writeLkCfg x1 s) := by
  unfold State.writeLkCfg
  try dsimp only
  repeat' (first
    | with_reducible (first
      | assumption | refine keep_lkRefused ?_ | refine keep_onLk ?_ | refine Keep.ite ?_ ?_))

theorem keep_writeNodes {a : State} {x1 : Nat} {x2 : Word} {s : State} (h : Keep a s) :
    Keep a (State.writeNodes x1 x2 s) := by
  unfold State.writeNodes
  try dsimp only
  repeat' (first
    | with_reducible (first
      | assumption | refine Keep.foldState ?_ ?_ | refine keep_writeNode ?_ | refine Keep.ite ?_ ?_)
    | (intro _ _ _))

theorem keep_writePortCtl {a : State} {x1 : Nat} {x2 : Word} {s : State} (h : Keep a s) :
    Keep a (State.writePortCtl x1 x2 s) := by
  unfold State.writePortCtl
  try dsimp only
  repeat' (first
    | with_reducible (first
      | assumption | refine keep_portDisable ?_ | refine keep_portRetrain ?_ | refine Keep.ite ?_ ?_))

theorem keep_writeLk {a : State} {x1 : Master} {x2 : Nat} {x3 : Word} {s : State} (h : Keep a s) :
    Keep a (State.writeLk x1 x2 x3 s) := by
  unfold State.writeLk
  try dsimp only
  repeat' (first
    | with_reducible (first
      | assumption | refine keep_run ?_ ?_ | refine keep_writeLkCfg ?_ | refine keep_onLk ?_ | refine keep_lkRefused ?_
      | refine keep_writeNodes ?_ | refine keep_writePortCtl ?_ | refine keep_execLkRoleReq ?_ _ (by assumption)
      | refine Keep.ite ?_ ?_)
    | (intro _ _ _) | (intro _ _))

theorem keep_writeMc {a : State} {x1 : Master} {x2 : Nat} {x3 : Word} {s : State} (h : Keep a s) :
    Keep a (State.writeMc x1 x2 x3 s) := by
  unfold State.writeMc
  try dsimp only
  repeat' (first
    | with_reducible (first
      | assumption | refine keep_run ?_ ?_ | refine keep_execMcIsetWrite ?_ _ (by assumption)
      | refine keep_execMcRemapWrite ?_ _ (by assumption) | refine keep_execMcLevelWrite ?_ _ (by assumption)
      | refine keep_execScrubCancel ?_ _ (by assumption) | refine keep_execMcScrub ?_ _ (by assumption)
      | refine keep_execMcRetire ?_ _ (by assumption) | refine Keep.ite ?_ ?_)
    | (intro _ _ _) | (intro _ _))

theorem keep_writeWheel {a : State} {x1 : Nat} {x2 : Word} {s : State} (h : Keep a s) :
    Keep a (State.writeWheel x1 x2 s) := by
  unfold State.writeWheel
  try dsimp only
  repeat' (first
    | with_reducible (first
      | assumption | refine keep_onHm ?_ ))

theorem keep_writeFenceCfg {a : State} {x1 : Word} {s : State} (h : Keep a s) :
    Keep a (State.writeFenceCfg x1 s) := by
  unfold State.writeFenceCfg
  try dsimp only
  repeat' (first
    | with_reducible (first
      | assumption | refine keep_hmRefused ?_ | refine keep_onFu ?_ | refine Keep.ite ?_ ?_))

theorem keep_writeBerthCfg {a : State} {x1 : Nat} {x2 : Nat} {x3 : Word} {s : State} (h : Keep a s) :
    Keep a (State.writeBerthCfg x1 x2 x3 s) := by
  unfold State.writeBerthCfg
  try dsimp only
  repeat' (first
    | with_reducible (first
      | assumption | refine keep_hmRefused ?_ | refine keep_onBerth ?_ | refine Keep.ite ?_ ?_))

theorem keep_writeBerth {a : State} {x1 : Master} {x2 : Nat} {x3 : Nat} {x4 : Word} {s : State} (h : Keep a s) :
    Keep a (State.writeBerth x1 x2 x3 x4 s) := by
  unfold State.writeBerth
  try dsimp only
  repeat' (first
    | with_reducible (first
      | assumption | refine keep_run ?_ ?_ | refine keep_stopBerth ?_ | refine keep_abortBerth ?_
      | refine keep_writeBerthCfg ?_ | refine keep_execBerthEnable ?_ _ (by assumption)
      | refine keep_execBerthDisable ?_ _ (by assumption) | refine Keep.ite ?_ ?_)
    | (intro _ _ _) | (intro _ _))

theorem keep_writeDoorbell {a : State} {x1 : Master} {x2 : Option Nat} {x3 : Nat} {x4 : Nat} {x5 : Word} {s : State} (h : Keep a s) :
    Keep a (State.writeDoorbell x1 x2 x3 x4 x5 s) := by
  unfold State.writeDoorbell
  try dsimp only
  repeat' (first
    | with_reducible (first
      | assumption | refine keep_run ?_ ?_ | refine keep_onBerth ?_ | refine keep_execDbSubmit ?_ _ (by assumption)
      | refine keep_execDbCplConsumed ?_ _ (by assumption) | refine keep_execDbCapConsumed ?_ _ (by assumption)
      | refine keep_execDbFenceSignal ?_ _ (by assumption) | refine Keep.ite ?_ ?_)
    | (intro _ _ _) | (intro _ _) | (split))

theorem keep_writePage {a : State} {x1 : Nat} {x2 : Option Nat} {x3 : Nat} {x4 : Word} {s : State} (h : Keep a s) :
    Keep a (State.writePage x1 x2 x3 x4 s) := by
  unfold State.writePage
  try dsimp only
  repeat' (first
    | with_reducible (first
      | assumption | refine keep_onPage ?_ | refine keep_submit ?_ | refine Keep.ite ?_ ?_))

theorem keep_writeHm {a : State} {x1 : Master} {x2 : Option Nat} {x3 : Nat} {x4 : Word} {s : State} (h : Keep a s) :
    Keep a (State.writeHm x1 x2 x3 x4 s) := by
  unfold State.writeHm
  try dsimp only
  repeat' (first
    | with_reducible (first
      | assumption | refine keep_run ?_ ?_ | refine keep_writeWheel ?_ | refine keep_writeFenceCfg ?_ | refine keep_onFu ?_
      | refine keep_hmRefused ?_ | refine keep_writeBerth ?_ | refine keep_writePage ?_ | refine keep_writeDoorbell ?_
      | refine keep_execLtQuotaWrite ?_ _ (by assumption) | refine keep_execHmCycleAnswer ?_ _ (by assumption)
      | refine keep_execHmFenceEvict ?_ _ (by assumption) | refine Keep.ite ?_ ?_)
    | (intro _ _ _) | (intro _ _))

theorem keep_writeReach {a : State} {x1 : Master} {x2 : Option Nat} {x3 : Nat} {x4 : Word} {s : State} (h : Keep a s) :
    Keep a (State.writeReach x1 x2 x3 x4 s) := by
  unfold State.writeReach
  try dsimp only
  repeat' (first
    | with_reducible (first
      | assumption | refine keep_writeCf ?_ | refine keep_writePw ?_ | refine keep_writeSc ?_ | refine keep_writeHb ?_
      | refine keep_writeXl ?_ | refine keep_writeLk ?_ | refine keep_writeTlCtl ?_ | refine keep_writeMc ?_
      | refine keep_writeFreeze ?_ | refine keep_writeHm ?_ | refine Keep.ite ?_ ?_))

theorem keep_sizeRefused {a : State}  {s : State} (h : Keep a s) :
    Keep a (State.sizeRefused s) := by
  unfold State.sizeRefused
  try dsimp only
  repeat' (first
    | with_reducible (first
      | assumption | refine keep_onCrc ?_))

theorem keep_writeOne {a : State} {x1 : Master} {x2 : Option Nat} {x3 : Nat} {x4 : Word} {s : State} (h : Keep a s) :
    Keep a (State.writeOne x1 x2 x3 x4 s) := by
  unfold State.writeOne
  try dsimp only
  repeat' (first
    | with_reducible (first
      | assumption | refine keep_onCrc ?_ | refine keep_writeReach ?_ | refine keep_dbReject ?_ | refine keep_rwpIgnored ?_
      | refine Keep.ite ?_ ?_)
    | (split))

theorem keep_writeHalf {a : State} {x1 : Master} {x2 : Option Nat} {x3 : Nat} {x4 : Word} {s : State} (h : Keep a s) :
    Keep a (State.writeHalf x1 x2 x3 x4 s) := by
  unfold State.writeHalf
  try dsimp only
  repeat' (first
    | with_reducible (first
      | assumption | refine keep_writeOne ?_ | refine keep_sizeRefused ?_ | refine Keep.ite ?_ ?_)
    | (split))

theorem keep_execRegisterWrite {a : State} {x1 : Master} {x2 : BarWrite} {s : State} (h : Keep a s) :
    ∀ t, execRegisterWrite x1 x2 s = .next t → Keep a t := by
  unfold execRegisterWrite
  refine Keep.clocked h ?_
  try dsimp only
  repeat' (first
    | with_reducible (first
      | assumption | refine keep_writeHalf ?_ | refine keep_sizeRefused ?_ | refine Keep.foldState ?_ ?_
      | refine keep_writeOne ?_ | refine Keep.ite ?_ ?_)
    | (intro _ _ _))

end Sys2Proof.Laws
end

