-- ==== Sys2Proof/Laws/KeepStartupOps.lean ====
section
/-! SUPPORT. What the operations of Machine/StartupOps.lean keep. -/
namespace Sys2Proof.Laws
open Sys2Proof Sys2Proof.Machine

theorem keep_startUp {a : State} {x1 : Nat} {s : State} (h : Keep a s) :
    Keep a (State.startUp x1 s) := by
  unfold State.startUp
  try dsimp only
  repeat' (first
    | with_reducible (first
      | assumption | refine keep_powerOn ?_ | refine keep_onSec ?_)
    | refine Keep.onBoot ?_ (by with_reducible exact Nat.le_refl _))

theorem keep_execStartupBegin {a : State} {x1 : Bool} {s : State} (h : Keep a s) :
    ∀ t, execStartupBegin x1 s = .next t → Keep a t := by
  unfold execStartupBegin
  refine Keep.done ?_
  try dsimp only
  repeat' (first
    | with_reducible (first
      | assumption | refine keep_powerLost ?_ | refine keep_onRas ?_ | refine keep_onPins ?_ | refine keep_startUp ?_)
    | refine Keep.onBoot ?_ (by with_reducible exact Nat.le_refl _) | (split))

theorem keep_stopStart {a : State} {x1 : Nat} {x2 : Nat} {s : State} (h : Keep a s) :
    Keep a (State.stopStart x1 x2 s) := by
  unfold State.stopStart
  try dsimp only
  repeat' (first
    | with_reducible (first
      | assumption | refine Keep.foldState ?_ ?_ | refine keep_onCluster ?_ | refine keep_onHif ?_ | refine keep_onLk ?_
      | refine keep_onPins ?_)
    | refine Keep.onBoot ?_ (by with_reducible exact Nat.le_refl _) | (intro _ _ _) )

theorem keep_setRails {a : State} {x1 : Nat} {s : State} (h : Keep a s) :
    Keep a (State.setRails x1 s) := by
  unfold State.setRails
  try dsimp only
  repeat' (first
    | with_reducible (first
      | assumption | refine keep_onPw ?_))

theorem keep_startRails {a : State}  {s : State} (h : Keep a s) :
    Keep a (State.startRails s) := by
  unfold State.startRails
  try dsimp only
  repeat' (first
    | with_reducible (first
      | assumption | refine keep_setRails ?_ | refine keep_onPw ?_)
    | refine Keep.onBoot ?_ (by with_reducible exact Nat.le_refl _))

theorem keep_execImageAccept {a : State}  {s : State} (h : Keep a s) :
    ∀ t, execImageAccept s = .next t → Keep a t := by
  unfold execImageAccept
  refine Keep.done ?_
  try dsimp only
  repeat' (first
    | with_reducible (first
      | assumption | refine keep_startRails ?_ | refine keep_stopStart ?_ | refine keep_drawn ?_ | refine keep_onHm ?_)
    | refine Keep.onBoot ?_ (by with_reducible exact Nat.le_refl _) | (split))

theorem keep_applyRecords {a : State} {x1 : Nat} {x2 : List (Nat × Word)} {s : State} (h : Keep a s) :
    Keep a (applyRecords x1 x2 s).2 := by
  induction x2 generalizing s x1 with
  | nil => exact h
  | cons y r ih =>
    obtain ⟨o, v⟩ := y
    unfold applyRecords
    dsimp only
    split
    · exact h
    · split
      · exact ih (keep_writeReach h)
      · exact h

theorem keep_inForce {a : State}  {s : State} (h : Keep a s) :
    Keep a (State.inForce s) := by
  unfold State.inForce
  try dsimp only
  repeat' (first
    | with_reducible (first
      | assumption | refine Keep.foldState ?_ ?_ | refine keep_onCluster ?_ | refine keep_onTide ?_ | refine keep_onPw ?_
      | refine keep_onHm ?_ | refine keep_onRg ?_ | refine keep_onHif ?_ | refine keep_onLk ?_)
    | refine Keep.onMem ?_ id | (intro _ _ _))

theorem keep_startTileFail {a : State} {x1 : List Nat} {x2 : Nat} {s : State} (h : Keep a s) :
    Keep a (State.startTileFail x1 x2 s) := by
  unfold State.startTileFail
  try dsimp only
  repeat' (first
    | with_reducible (first
      | assumption | refine keep_keepEvent ?_ | refine keep_onTile ?_ | refine keep_onPlace ?_)
    | (split))

theorem keep_startHoldFail {a : State} {x1 : Nat} {s : State} (h : Keep a s) :
    Keep a (State.startHoldFail x1 s) := by
  unfold State.startHoldFail
  try dsimp only
  repeat' (first
    | with_reducible (first
      | assumption | refine keep_keepEvent ?_ | refine keep_onTile ?_ | refine keep_onPlace ?_)
    | (split))

theorem keep_startStackFail {a : State} {x1 : Nat} {s : State} (h : Keep a s) :
    Keep a (State.startStackFail x1 s) := by
  unfold State.startStackFail
  try dsimp only
  repeat' (first
    | with_reducible (first
      | assumption | refine Keep.foldState ?_ ?_ | refine keep_keepEvent ?_ | refine keep_onHb ?_ | refine keep_onChan ?_)
    | (intro _ _ _))

theorem keep_selfTests {a : State} {x1 : StartIn} {s : State} (h : Keep a s) :
    Keep a (State.selfTests x1 s) := by
  unfold State.selfTests
  try dsimp only
  repeat' (first
    | with_reducible (first
      | assumption | refine Keep.foldState ?_ ?_ | refine keep_startHoldFail ?_ | refine keep_startTileFail ?_
      | refine keep_startStackFail ?_ | refine keep_onHm ?_ | refine keep_keepEvent ?_ | refine keep_onRas ?_)
    | (intro _ _ _) | (intro _ _) | (split))

theorem keep_loadDefault {a : State} {x1 : List (List Word)} {x2 : Bool} {x3 : List Nat} {s : State} (h : Keep a s) :
    ∀ t, loadDefault x1 x2 x3 s = some t → Keep a t := by
  induction x1 generalizing s x2 x3 with
  | nil => intro t ht; cases ht; exact h
  | cons ws r ih =>
    intro t ht
    unfold loadDefault at ht
    dsimp only at ht
    repeat' (first
      | (cases ht; done)
      | exact ih h t ht
      | exact ih (keep_bumpMap h) t ht
      | split at ht)

theorem keep_loadStored {a : State} {x1 : Tab Harbour} {s : State} (h : Keep a s) :
    Keep a (State.loadStored x1 s) := by
  unfold State.loadStored
  try dsimp only
  repeat' (first
    | with_reducible (first
      | assumption | refine keep_bindUnit ?_ | refine Keep.foldState ?_ ?_ | refine keep_setMillSlots ?_ | refine keep_onHb ?_
      | refine Keep.foldlSnd ?_ _ ?_ | refine Keep.foldlFst ?_ _ ?_ | refine Keep.foldl ?_ _ ?_)
    | (intro _ _ _) | (intro _ _) | (split))

theorem keep_replay {a : State}  {s : State} (h : Keep a s) :
    Keep a (State.replay s) := by
  unfold State.replay
  try dsimp only
  repeat' (first
    | with_reducible (first
      | assumption | refine Keep.foldState ?_ ?_ | refine keep_onHb ?_ | refine keep_rollback ?_ | refine keep_commitProc ?_)
    | refine Keep.onBoot ?_ (by with_reducible exact Nat.le_refl _) | (intro _ _ _) | (intro _ _) | (split))

theorem keep_trainPorts {a : State}  {s : State} (h : Keep a s) :
    Keep a (State.trainPorts s) := by
  unfold State.trainPorts
  try dsimp only
  repeat' (first
    | with_reducible (first
      | assumption | refine Keep.foldState ?_ ?_ | refine keep_toTraining ?_)
    | (intro _ _ _))

theorem keep_tellTamper {a : State}  {s : State} (h : Keep a s) :
    Keep a (State.tellTamper s) := by
  unfold State.tellTamper
  try dsimp only
  repeat' (first
    | with_reducible (first
      | assumption | refine keep_event ?_ | refine keep_onSec ?_)
    | (split))

theorem keep_startEcho {a : State}  {s : State} (h : Keep a s) :
    Keep a (State.startEcho s) := by
  unfold State.startEcho
  try dsimp only
  repeat' (first
    | with_reducible (first
      | assumption | refine keep_emit ?_ | refine keep_onTide ?_))

theorem keep_finishStart {a : State} {x1 : Image} {x2 : StartIn} {x3 : Bool} {s : State} (h : Keep a s) :
    Keep a (State.finishStart x1 x2 x3 s) := by
  unfold State.finishStart
  try dsimp only
  repeat' (first
    | with_reducible (first
      | assumption | refine Keep.foldState ?_ ?_ | refine keep_checkSlot ?_ | refine keep_tellTamper ?_
      | refine keep_raiseKept ?_ | refine keep_computeAllow ?_ | refine keep_onTide ?_ | refine keep_startEcho ?_
      | refine keep_setRegions ?_ | refine keep_setRails ?_ | refine keep_onPw ?_ | refine keep_onCrc ?_
      | refine keep_trainPorts ?_ | refine keep_event ?_)
    | refine Keep.onBoot ?_ (by with_reducible exact Nat.le_refl _) | (intro _ _ _) | (intro _ _) | (split))

theorem keep_setSpans {a : State} {x1 : List SpanCfg} {s : State} (h : Keep a s) :
    Keep a (State.setSpans x1 s) := by
  unfold State.setSpans
  try dsimp only
  repeat' (first
    | with_reducible (first
      | assumption | refine Keep.foldState ?_ ?_ | refine keep_onHarbour ?_)
    | (intro _ _ _))

theorem keep_loadMap {a : State}  {s : State} (h : Keep a s) :
    ∀ t, State.loadMap s = some t → Keep a t := by
  intro t ht
  unfold State.loadMap at ht
  split at ht
  · exact Option.some.inj ht ▸ keep_loadStored h
  · obtain ⟨u, hu, rfl⟩ := Option.map_eq_some_iff.1 ht
    exact keep_setSpans (keep_loadDefault h u hu)

theorem keep_execStartDone {a : State} {x1 : StartIn} {s : State} (h : Keep a s) :
    ∀ t, execStartDone x1 s = .next t → Keep a t := by
  unfold execStartDone
  refine Keep.done ?_
  try dsimp only
  repeat' (first
    | with_reducible (first
      | assumption | refine keep_stopStart ?_ | refine keep_selfTests ?_ | refine keep_applyRecords ?_ | refine keep_onHif ?_
      | refine keep_onTide ?_ | refine keep_inForce ?_ | refine keep_onPins ?_ | refine keep_replay ?_
      | refine keep_finishStart ?_ | refine Keep.snd (by assumption) (keep_applyRecords ?_)
      | refine keep_loadMap ?_ _ (by assumption) | refine Keep.getD (keep_loadMap ?_) ?_)
    | refine Keep.onBoot ?_ (by with_reducible exact Nat.le_refl _) | exact keep_loadMap (by assumption) | (split))

theorem keep_execStartupStop {a : State} {x1 : Nat} {x2 : Nat} {s : State} (h : Keep a s) :
    ∀ t, execStartupStop x1 x2 s = .next t → Keep a t := by
  unfold execStartupStop
  refine Keep.done ?_
  try dsimp only
  repeat' (first
    | with_reducible (first
      | assumption | refine keep_stopStart ?_)
    | (split))

theorem keep_execSvnFuseBlow {a : State}  {s : State} (h : Keep a s) :
    ∀ t, execSvnFuseBlow s = .next t → Keep a t := by
  unfold execSvnFuseBlow
  refine Keep.done ?_
  split
  · exact h
  · exact Keep.onBoot h (Nat.le_max_left _ _)

theorem keep_execPerstNDeassert {a : State} {x1 : List (Nat × Nat)} {s : State} (h : Keep a s) :
    ∀ t, execPerstNDeassert x1 s = .next t → Keep a t := by
  unfold execPerstNDeassert
  refine Keep.done ?_
  try dsimp only
  repeat' (first
    | with_reducible (first
      | assumption | refine keep_onHif ?_ | refine keep_onPins ?_)
    | (split))

theorem keep_resumeBase {a : State}  {s : State} (h : Keep a s) :
    Keep a (State.resumeBase s) := by
  unfold State.resumeBase
  extract_lets t w p b base x chan chans
  have hb : Keep a base := h.mk' (fun _ => wf_empty rfl rfl rfl) (Nat.le_refl _)
  have hx : Keep a x := keep_inForce (keep_applyRecords hb)
  exact Keep.mk' hx (fun h => h) (Nat.le_refl _)

theorem keep_restoreSaved {a : State} {x1 : State} {s : State} (h : Keep a s) :
    Keep a (State.restoreSaved x1 s) := by
  unfold State.restoreSaved
  try dsimp only
  repeat' (first
    | with_reducible (first
      | assumption)
    | (split) | (refine Keep.mk' ?_ (fun h => h) (Nat.le_refl _)))

theorem keep_raiseAlerts {a : State}  {s : State} (h : Keep a s) :
    Keep a (State.raiseAlerts s) := by
  unfold State.raiseAlerts
  try dsimp only
  repeat' (first
    | with_reducible (first
      | assumption | refine Keep.foldState ?_ ?_ | refine keep_event ?_ | refine keep_onPw ?_)
    | (intro _ _ _))

theorem keep_execResumeDone {a : State} {x1 : Bool} {s : State} (h : Keep a s) :
    ∀ t, execResumeDone x1 s = .next t → Keep a t := by
  unfold execResumeDone
  refine Keep.clocked h ?_
  try dsimp only
  repeat' (first
    | with_reducible (first
      | assumption | refine keep_restoreSaved ?_ | refine keep_resumeBase ?_ | refine Keep.foldState ?_ ?_
      | refine keep_onCluster ?_ | refine keep_onTide ?_ | refine keep_pstateEvent ?_ | refine keep_raiseAlerts ?_
      | refine keep_raiseKept ?_ | refine keep_trainPorts ?_ | refine keep_setRegions ?_ | refine keep_decideJob ?_
      | refine keep_onCrc ?_)
    | refine Keep.onBoot ?_ (by with_reducible exact Nat.le_refl _) | (intro _ _ _) | (intro _ _) | (split))

end Sys2Proof.Laws
end

