-- ==== Sys2Proof/Laws/KeepTideOps.lean ====
section
/-! SUPPORT. What the operations of Machine/TideOps.lean keep. -/
namespace Sys2Proof.Laws
open Sys2Proof Sys2Proof.Machine

theorem keep_fireTimeout {a : State} {x1 : Nat} {s : State} (h : Keep a s) :
    Keep a (State.fireTimeout x1 s) := by
  unfold State.fireTimeout
  try dsimp only
  repeat' (first
    | with_reducible (first
      | assumption | refine keep_onLaunch ?_ | refine keep_abortLaunch ?_)
    | (split))

theorem keep_execBerthTimeout {a : State} {x1 : Nat} {s : State} (h : Keep a s) :
    ∀ t, execBerthTimeout x1 s = .next t → Keep a t := by
  unfold execBerthTimeout
  refine Keep.clocked h ?_
  try dsimp only
  repeat' (first
    | with_reducible (first
      | assumption | refine keep_settle ?_ | refine keep_fireTimeout ?_)
    | (split))

theorem keep_missTick {a : State}  {s : State} (h : Keep a s) :
    Keep a (State.missTick s) := by
  unfold State.missTick
  try dsimp only
  repeat' (first
    | with_reducible (first
      | assumption | refine keep_onTide ?_ | refine keep_event ?_)
    | (split))

theorem keep_acceptTick {a : State} {x1 : TickMsg} {s : State} (h : Keep a s) :
    Keep a (State.acceptTick x1 s) := by
  unfold State.acceptTick
  try dsimp only
  repeat' (first
    | with_reducible (first
      | assumption | refine keep_onTide ?_ | refine keep_askVolts ?_)
    | (split))

theorem keep_alignTick {a : State} {x1 : TickMsg} {x2 : Bool} {x3 : Nat} {s : State} (h : Keep a s) :
    Keep a (State.alignTick x1 x2 x3 s) := by
  unfold State.alignTick
  try dsimp only
  repeat' (first
    | with_reducible (first
      | assumption | refine keep_onTide ?_)
    | (split))

theorem keep_execTickMessage {a : State} {x1 : Nat} {x2 : TickMsg} {x3 : Bool} {x4 : Nat} {s : State} (h : Keep a s) :
    ∀ t, execTickMessage x1 x2 x3 x4 s = .next t → Keep a t := by
  unfold execTickMessage
  refine Keep.clocked h ?_
  try dsimp only
  repeat' (first
    | with_reducible (first
      | assumption | refine keep_missTick ?_ | refine keep_alignTick ?_ | refine keep_acceptTick ?_)
    | (split))

theorem keep_execMissedTick {a : State}  {s : State} (h : Keep a s) :
    ∀ t, execMissedTick s = .next t → Keep a t := by
  unfold execMissedTick
  refine Keep.clocked h ?_
  try dsimp only
  repeat' (first
    | with_reducible (first
      | assumption | refine keep_missTick ?_)
    | (split))

theorem keep_execEchoExchange {a : State} {x1 : Nat} {s : State} (h : Keep a s) :
    ∀ t, execEchoExchange x1 s = .next t → Keep a t := by
  unfold execEchoExchange
  refine Keep.clocked h ?_
  try dsimp only
  repeat' (first
    | with_reducible (first
      | assumption | refine keep_onTide ?_)
    | (split))

theorem keep_sendTicks {a : State}  {s : State} (h : Keep a s) :
    Keep a (State.sendTicks s) := by
  unfold State.sendTicks
  try dsimp only
  repeat' (first
    | with_reducible (first
      | assumption | refine Keep.foldState ?_ ?_ | refine keep_sendTxn ?_ | refine keep_emit ?_)
    | (intro _ _ _) | (intro _ _) | (split))

theorem keep_sendAllow {a : State}  {s : State} (h : Keep a s) :
    Keep a (State.sendAllow s) := by
  unfold State.sendAllow
  try dsimp only
  repeat' (first
    | with_reducible (first
      | assumption | refine keep_sendTxn ?_)
    | (split))

theorem keep_rejoinGroup {a : State} {x1 : Word} {x2 : Nat} {s : State} (h : Keep a s) :
    Keep a (State.rejoinGroup x1 x2 s) := by
  unfold State.rejoinGroup
  try dsimp only
  repeat' (first
    | with_reducible (first
      | assumption | refine keep_onTide ?_ | refine keep_askVolts ?_ | refine keep_event ?_)
    | (split))

theorem keep_tickNumber {a : State}  {s : State} (h : Keep a s) :
    Keep a (State.tickNumber s) := by
  unfold State.tickNumber
  try dsimp only
  repeat' (first
    | with_reducible (first
      | assumption | refine keep_rejoinGroup ?_ | refine keep_onTide ?_)
    | (split))

theorem keep_countEcho {a : State}  {s : State} (h : Keep a s) :
    Keep a (State.countEcho s) := by
  unfold State.countEcho
  try dsimp only
  repeat' (first
    | with_reducible (first
      | assumption | refine keep_startEcho ?_ | refine keep_onTide ?_)
    | (split))

theorem keep_newTide {a : State} {x1 : BoundaryIn} {x2 : Word} {s : State} (h : Keep a s) :
    Keep a (State.newTide x1 x2 s) := by
  unfold State.newTide
  try dsimp only
  repeat' (first
    | with_reducible (first
      | assumption | refine keep_onHm ?_ | refine keep_countEcho ?_ | refine keep_onLk ?_ | refine keep_onFu ?_
      | refine keep_onPw ?_ | refine Keep.foldlSnd ?_ _ ?_ | refine Keep.foldlFst ?_ _ ?_ | refine Keep.foldl ?_ _ ?_)
    | refine Keep.onMem ?_ id)

theorem keep_periodBoundary {a : State}  {s : State} (h : Keep a s) :
    Keep a (State.periodBoundary s) := by
  unfold State.periodBoundary
  try dsimp only
  repeat' (first
    | with_reducible (first
      | assumption | refine keep_onTide ?_)
    | (split))

theorem keep_deferredCap {a : State}  {s : State} (h : Keep a s) :
    Keep a (State.deferredCap s) := by
  unfold State.deferredCap
  try dsimp only
  repeat' (first
    | with_reducible (first
      | assumption | refine keep_onPw ?_ | refine keep_applyFreq ?_)
    | (split))

theorem keep_changeBoundary {a : State} {x1 : Bool} {s : State} (h : Keep a s) :
    Keep a (State.changeBoundary x1 s) := by
  unfold State.changeBoundary
  try dsimp only
  repeat' (first
    | with_reducible (first
      | assumption | refine keep_pstateEvent ?_ | refine keep_setRegions ?_ | refine keep_onPw ?_
      | refine keep_periodBoundary ?_ | refine keep_freqBoundary ?_ | refine keep_deferredCap ?_ | refine keep_gateBoundary ?_
      | refine keep_planBoundary ?_ | refine keep_boostBoundary ?_ | refine keep_brownBoundary ?_ | refine keep_onHm ?_
      | refine keep_modeBoundary ?_ | refine keep_roleBoundary ?_ | refine keep_enterDeep ?_ | refine keep_onHb ?_
      | refine keep_onRg ?_)
    | (split) | (refine Keep.mk' ?_ (fun h => h) (Nat.le_refl _)))

theorem keep_loseLaunch {a : State} {x1 : Nat} {s : State} (h : Keep a s) :
    Keep a (State.loseLaunch x1 s) := by
  unfold State.loseLaunch
  try dsimp only
  repeat' (first
    | with_reducible (first
      | assumption | refine keep_abortOne ?_ | refine keep_advanceGraph ?_ | refine keep_onLaunch ?_
      | refine Keep.foldlSnd ?_ _ ?_ | refine Keep.foldlFst ?_ _ ?_ | refine Keep.foldl ?_ _ ?_)
    | (intro _ _ _) | (intro _ _) | (split))

theorem keep_countTimeouts {a : State}  {s : State} (h : Keep a s) :
    Keep a (State.countTimeouts s) := by
  unfold State.countTimeouts
  try dsimp only
  repeat' (first
    | with_reducible (first
      | assumption | refine keep_onHm ?_))

theorem keep_lostAndTimeouts {a : State}  {s : State} (h : Keep a s) :
    Keep a (State.lostAndTimeouts s) := by
  unfold State.lostAndTimeouts
  try dsimp only
  repeat' (first
    | with_reducible (first
      | assumption | refine keep_countTimeouts ?_ | refine keep_settleLate ?_ | refine Keep.foldState ?_ ?_
      | refine keep_loseLaunch ?_ | refine keep_fireTimeout ?_)
    | (intro _ _ _))

theorem keep_cycleBoundary {a : State} {x1 : Bool} {s : State} (h : Keep a s) :
    Keep a (State.cycleBoundary x1 s) := by
  unfold State.cycleBoundary
  try dsimp only
  repeat' (first
    | with_reducible (first
      | assumption | refine keep_run ?_ ?_ | refine keep_onFu ?_ | refine keep_takeSnapshot ?_
      | refine keep_execWaitCycleApply ?_ _ (by assumption))
    | (intro _ _ _) | (intro _ _) | (split))

theorem keep_checkBudgets {a : State}  {s : State} (h : Keep a s) :
    Keep a (State.checkBudgets s) := by
  unfold State.checkBudgets
  try dsimp only
  repeat' (first
    | with_reducible (first
      | assumption | refine keep_onHm ?_))

theorem keep_budgets {a : State}  {s : State} (h : Keep a s) :
    Keep a (State.budgets s) := by
  unfold State.budgets
  try dsimp only
  repeat' (first
    | with_reducible (first
      | assumption | refine keep_run ?_ ?_ | refine keep_checkBudgets ?_ | refine Keep.foldState ?_ ?_
      | refine keep_execBudgetPreempt ?_ _ (by assumption))
    | (intro _ _ _) | (intro _ _))

theorem keep_clearWrote {a : State}  {s : State} (h : Keep a s) :
    Keep a (State.clearWrote s) := by
  unfold State.clearWrote
  try dsimp only
  repeat' (first
    | with_reducible (first
      | assumption | refine keep_onRas ?_ | refine keep_onXl ?_)
    | (split) | (refine Keep.mk' ?_ (fun h => h) (Nat.le_refl _)))

theorem keep_writePacing {a : State}  {s : State} (h : Keep a s) :
    Keep a (State.writePacing s) := by
  unfold State.writePacing
  try dsimp only
  repeat' (first
    | with_reducible (first
      | assumption | refine Keep.foldState ?_ ?_ | refine keep_onHarbour ?_ | refine keep_hbmPut ?_)
    | (intro _ _ _) | (intro _ _) | (split))

theorem keep_slackWork {a : State} {x1 : List (Nat × Nat)} {s : State} (h : Keep a s) :
    Keep a (State.slackWork x1 s) := by
  unfold State.slackWork
  try dsimp only
  repeat' (first
    | with_reducible (first
      | assumption | refine Keep.foldState ?_ ?_ | refine keep_msix ?_ | refine keep_rewalk ?_ | refine keep_writePacing ?_
      | refine keep_ownBoundary ?_ | refine keep_procsAtBoundary ?_ | refine keep_pollPages ?_
      | refine keep_teardownBoundary ?_ | refine keep_sendAllow ?_ | refine keep_stuckBoundary ?_
      | refine keep_spareBoundary ?_)
    | (intro _ _ _) | (intro _ _) | (split))

theorem keep_countUnplaced {a : State}  {s : State} (h : Keep a s) :
    Keep a (State.countUnplaced s) := by
  unfold State.countUnplaced
  try dsimp only
  repeat' (first
    | with_reducible (first
      | assumption | refine keep_onHm ?_))

theorem keep_readTags {a : State}  {s : State} (h : Keep a s) :
    Keep a (State.readTags s) := by
  unfold State.readTags
  try dsimp only
  repeat' (first
    | with_reducible (first
      | assumption)
    | (split) | (refine Keep.mk' ?_ (fun h => h) (Nat.le_refl _)))

theorem keep_startPlan {a : State} {x1 : Bool} {s : State} (h : Keep a s) :
    Keep a (State.startPlan x1 s) := by
  unfold State.startPlan
  try dsimp only
  repeat' (first
    | with_reducible (first
      | assumption | refine keep_countUnplaced ?_ | refine keep_onTide ?_ | refine keep_settleLate ?_ | refine keep_readTags ?_
      | refine keep_clearPoolFull ?_ | refine keep_settle ?_ | refine Keep.foldState ?_ ?_ | refine keep_tryPlace ?_)
    | (intro _ _ _) | (intro _ _) | (split))

theorem keep_endAborted {a : State} {x1 : Nat} {s : State} (h : Keep a s) :
    Keep a (State.endAborted x1 s) := by
  unfold State.endAborted
  try dsimp only
  repeat' (first
    | with_reducible (first
      | assumption | refine Keep.foldState ?_ ?_ | refine keep_abortEnds ?_ | refine keep_millAborted ?_
      | refine keep_finishGraph ?_ | refine keep_complete ?_)
    | (intro _ _ _) | (intro _ _) | (split))

theorem keep_settleDue {a : State}  {s : State} (h : Keep a s) :
    Keep a (State.settleDue s) := by
  unfold State.settleDue
  try dsimp only
  repeat' (first
    | with_reducible (first
      | assumption | refine keep_run ?_ ?_ | refine Keep.foldState ?_ ?_ | refine keep_endAborted ?_
      | refine keep_fireTimeout ?_ | refine keep_decideChanged ?_ | refine keep_execWaitCycleApply ?_ _ (by assumption)
      | refine keep_execBudgetPreempt ?_ _ (by assumption))
    | (intro _ _ _) | (intro _ _))

theorem keep_heldStep {a : State} {x1 : HeldBoundary} {s : State} (h : Keep a s) :
    Keep a (State.heldStep x1 s) := by
  unfold State.heldStep
  try dsimp only
  repeat' (first
    | with_reducible (first
      | assumption | refine keep_cycleBoundary ?_ | refine keep_publishSlow ?_ | refine keep_lostAndTimeouts ?_))

theorem keep_boundary {a : State} {x1 : BoundaryIn} {s : State} (h : Keep a s) :
    Keep a (State.boundary x1 s) := by
  unfold State.boundary
  try dsimp only
  repeat' (first
    | with_reducible (first
      | assumption | refine keep_settleDue ?_ | refine keep_sendTicks ?_ | refine keep_newTide ?_ | refine keep_tickNumber ?_
      | refine keep_clearWrote ?_ | refine keep_changeBoundary ?_ | refine keep_lostAndTimeouts ?_ | refine keep_budgets ?_
      | refine keep_onRg ?_ | refine keep_cycleBoundary ?_ | refine keep_publishSlow ?_ | refine keep_startPlan ?_
      | refine keep_slackWork ?_)
    | (split))

theorem keep_execTideBoundary {a : State} {x1 : BoundaryIn} {s : State} (h : Keep a s) :
    ∀ t, execTideBoundary x1 s = .next t → Keep a t := by
  unfold execTideBoundary
  refine Keep.clocked h ?_
  try dsimp only
  repeat' (first
    | with_reducible (first
      | assumption | refine keep_boundary ?_)
    | (split))

theorem keep_heldSteps {a : State}  {s : State} (h : Keep a s) :
    Keep a (State.heldSteps s) := by
  unfold State.heldSteps
  try dsimp only
  repeat' (first
    | with_reducible (first
      | assumption | refine Keep.foldState ?_ ?_ | refine keep_heldStep ?_ | refine keep_onRg ?_)
    | (intro _ _ _))

theorem keep_rewriteRec {a : State} {x1 : LogRec} {s : State} (h : Keep a s) :
    Keep a (State.rewriteRec x1 s) := by
  unfold State.rewriteRec
  try dsimp only
  repeat' (first
    | with_reducible (first
      | assumption | refine keep_vaWrite ?_ | refine keep_onHm ?_ | refine keep_onFu ?_)
    | (split))

theorem keep_execHmFailover {a : State}  {s : State} (h : Keep a s) :
    ∀ t, execHmFailover s = .next t → Keep a t := by
  unfold execHmFailover
  refine Keep.clocked h ?_
  try dsimp only
  repeat' (first
    | with_reducible (first
      | assumption | refine Keep.foldState ?_ ?_ | refine keep_rewriteRec ?_ | refine keep_eventAt ?_ | refine keep_onHm ?_
      | refine keep_settle ?_ | refine keep_advanceProcs ?_ | refine keep_heldSteps ?_ | refine keep_flushAll ?_)
    | (intro _ _ _) | (intro _ _) | (split))

end Sys2Proof.Laws
end

