-- ==== Sys2Proof/Laws/Tile.lean ====
section
/-! SUPPORT. What window reads, window writes and the rows of a tensor instruction come to, in the words of Safety.lean. -/
namespace Sys2Proof.Laws
open Sys2Proof Sys2Proof.Machine

theorem winRead_of_reads {s : State} {p k n : Nat} {a : Word} {b : List Byte} (h : s.reads p k a n b) : s.winRead p k a n = .inr b := by
  obtain ⟨w, off, h1, h2⟩ := h
  simp only [State.winRead, h1]
  cases ht : w.target with
  | localStore => rw [ht] at h2; simp only [reduceCtorEq, false_and, if_false]; rw [h2]
  | hold => rw [ht] at h2; simp only [reduceCtorEq, false_and, if_false]; rw [h2]
  | hbm => rw [ht] at h2; simp only [h2.1, Bool.not_true, Bool.false_eq_true, and_false, if_false, h2.2]

theorem winWrite_of_writes {s t : State} {p k : Nat} {a : Word} {data : List Byte} (h : s.writes p k a data t) :
    s.winWrite p k a data = .inr t := by
  obtain ⟨w, off, h1, h2⟩ := h
  simp only [State.winWrite, h1]
  cases ht : w.target with
  | localStore => rw [ht] at h2; simp only [reduceCtorEq, false_and, if_false]; rw [h2]
  | hold => rw [ht] at h2; simp only [reduceCtorEq, false_and, if_false]; rw [h2]
  | hbm =>
    rw [ht] at h2
    obtain ⟨h3, ps, h4, h5, h6⟩ := h2
    simp only [h3, Bool.not_true, Bool.false_eq_true, and_false, if_false, h4, h5, h6]

theorem readMany_nil (s : State) (p k : Nat) : readMany s p k [] = .inr [] := rfl

theorem readMany_cons {s : State} {p k n : Nat} {a : Word} {b : List Byte} {t : List (Word × Nat)} {bs : List (List Byte)}
    (h : s.operand p k a n b) (ht : readMany s p k t = .inr bs) : readMany s p k ((a, n) :: t) = .inr (b :: bs) := by
  unfold State.operand at h
  simp only [readMany]
  by_cases hn : n = 0
  · rw [if_pos hn] at h ⊢
    rw [ht, h]
  · rw [if_neg hn] at h ⊢
    rw [winRead_of_reads h, ht]

theorem writeMany_nil (s : State) (p k : Nat) : writeMany p k [] s = .inr s := rfl

theorem writeMany_cons {s t : State} {p k : Nat} {a : Word} {b : List Byte} {xs : List (Word × List Byte)} {r : Stop ⊕ State}
    (h : s.result p k a b t) (ht : writeMany p k xs t = r) : writeMany p k ((a, b) :: xs) s = r := by
  unfold State.result at h
  simp only [writeMany]
  by_cases hn : b.isEmpty = true
  · rw [if_pos hn] at h ⊢
    rw [← h, ht]
  · rw [if_neg hn] at h ⊢
    rw [winWrite_of_writes h]
    exact ht

/-- A slot after a change that does not leave it a free slot. -/
theorem slotAt_onSlot {s : State} {p k : Nat} (f : Slot → Slot) (h : f (s.slotAt p k) ≠ {}) :
    (s.onSlot p k f).slotAt p k = f (s.slotAt p k) := by
  show tabGet {} (((s.onPlace p fun q => { q with slots := tabSet {} q.slots k (f (s.slotAt p k)) }).place p).slots) k = _
  rw [State.place_onPlace]
  simp only [tabSet]
  rw [if_neg h, tabGet_tabPut_same]

/-- The context of a slot that runs, after a change of it. -/
theorem slotAt_onCtx {s : State} {p k : Nat} (f : PartCtx → PartCtx) (h : (s.slotAt p k).state = .running) :
    (s.onCtx p k f).slotAt p k = { s.slotAt p k with ctx := f (s.slotAt p k).ctx } := by
  refine slotAt_onSlot _ fun e => ?_
  have := congrArg Slot.state e
  simp [h] at this

theorem tabGet_tabSet_rest {α : Type} [DecidableEq α] (d : α) (t : Tab α) (k i : Nat) (v : α) (h : i ≠ k) :
    tabGet d (tabSet d t k v) i = tabGet d t i := by
  have del : ∀ t : Tab α, tabFind (tabDel t k) i = tabFind t i := by
    intro t
    induction t with
    | nil => rfl
    | cons y t ih =>
      obtain ⟨j, w⟩ := y
      simp only [tabDel]
      split
      · rename_i e; simp only [tabFind]; rw [if_neg (by omega)]
      · simp only [tabFind, ih]
  simp only [tabSet]
  split
  · simp only [tabGet, del]
  · exact tabGet_tabPut_other d t k i v h

/-- Writing a row of at most 64 entries leaves every other row. -/
theorem accAt_putRow_other (c : PartCtx) (i j x : Nat) (es : List AccEntry) (hl : es.length ≤ 64) (hx : x < 64) (h : i ≠ j) :
    (c.putRow j es).accAt i x = c.accAt i x := by
  have key : ∀ (es : List (AccEntry × Nat)) (t : Tab AccEntry), (∀ e ∈ es, e.2 < 64) →
      tabGet {} (es.foldl (fun t e => tabSet {} t (j * 64 + e.2) e.1) t) (i * 64 + x) = tabGet {} t (i * 64 + x) := by
    intro es
    induction es with
    | nil => intro t _; rfl
    | cons e es ih =>
      intro t he
      have h1 := he e List.mem_cons_self
      rw [List.foldl_cons, ih _ fun y hy => he y (List.mem_cons_of_mem _ hy), tabGet_tabSet_rest _ _ _ _ _ (by omega)]
  refine key _ _ fun e he => ?_
  have := List.snd_lt_of_mem_zipIdx he
  omega

theorem tensorRow_length {t : TensorOp} {k row : Nat} {sa : List Byte} {cols : List (Nat × List Byte × BitVec 9)}
    {es r : List AccEntry} (h : tensorRow t k row sa cols es = some r) (hc : cols.length ≤ 64) : r.length ≤ 64 := by
  unfold tensorRow at h
  split at h
  · split at h
    · cases h
    · cases h; simp only [List.length_map, List.length_zip]; omega
  · split at h
    · cases h
    · cases h; simp only [List.length_map, List.length_zip]; omega

/-- The rows of a tensor instruction, none in error, are added one by one, each to its own accumulator row. -/
theorem tensorRows_ok (t : TensorOp) (kk p k : Nat) (a sa : List Byte) (cols : List (Nat × List Byte × BitVec 9))
    (hc : cols.length ≤ 64) (es : Nat → List AccEntry) (is : List Nat) (s : State) (hr : (s.slotAt p k).state = .running) (hd : is.Nodup)
    (h : ∀ i ∈ is, tensorRow t kk (leNat (slice a i (kk * t.fmtA.width / 8))) (slice sa i (kk / 32)) cols
      ((List.range 64).map ((s.slotAt p k).ctx.accAt i)) = some (es i)) :
    s.tensorRows t kk p k a sa cols is = .inr (foldState is (fun u i => u.onCtx p k fun c => c.putRow i (es i)) s) := by
  induction is generalizing s with
  | nil => rfl
  | cons i is ih =>
    have hi := h i List.mem_cons_self
    have hl := tensorRow_length hi hc
    simp only [State.tensorRows, hi]
    rw [ih]
    · rfl
    · rw [slotAt_onCtx _ hr]; exact hr
    · exact (List.nodup_cons.1 hd).2
    · intro j hj
      rw [← h j (List.mem_cons_of_mem _ hj), slotAt_onCtx _ hr]
      congr 1
      refine List.map_congr_left fun x hx => ?_
      exact accAt_putRow_other _ _ _ _ _ hl (List.mem_range.1 hx) fun e => (List.nodup_cons.1 hd).1 (e ▸ hj)

end Sys2Proof.Laws
end

