-- ==== Sys2Proof/WellFormed.lean ====
section
/-! DEFINITION. When a command is well formed: every unit it names has a number that the spec gives such a unit. A command
that is not well formed names nothing the module has. -/
namespace Sys2Proof

/-- The numbered things that a command can name. -/
inductive Range where
  /-- usable tile places (R7) -/
  | place
  /-- launch slots of a tile (R105) -/
  | slot
  /-- query slots of a Mill (R231) -/
  | millSlot
  /-- DMA engines of a tile (R120) -/
  | engine
  /-- physical tiles (R7, R8) -/
  | tile
  /-- channels and Mills (R11) -/
  | chan
  /-- optical ports (R1) -/
  | port
  /-- lane groups (R444) -/
  | laneGroup
  /-- berths (R254) -/
  | berth
  /-- harbours (R328) -/
  | harbour
  /-- positions of the dispatch wheel (R261) -/
  | wheelPos
  /-- clock regions (R10) -/
  | region
  /-- clusters (R9) -/
  | cluster
  /-- AVSBus rails (R487) -/
  | rail
  /-- PCIe functions (R565) -/
  | func
  /-- node identifiers (R528) -/
  | node
  /-- virtual channels (R451) -/
  | vc
  /-- HBM stacks (R11) -/
  | stack
  /-- thermal sensors (R503) -/
  | sensor
  /-- C-dies -/
  | die
  /-- rail groups A, B and C (R651) -/
  | railGroup
  /-- address-space identifiers, and mailboxes (R398, R455) -/
  | asid
  /-- modules of the bridge (R57) -/
  | bridge
  /-- registers of four harbours each (R294, R511) -/
  | quotaReg
  /-- remap entries of a stack (R383) -/
  | remapEntry
  /-- interleave sets of a harbour (R365) -/
  | iset
  /-- slices (R435) -/
  | slice
  /-- words of a slice, key sets, contacts -/
  | half
  /-- buffers whose urgency is sampled (R431) -/
  | buffer
  /-- accumulator rows (R111) -/
  | accRow
  /-- residency tags (R202) -/
  | tag
  /-- IDE streams of a link (R544) -/
  | stream
  /-- journal slots (R353) -/
  | journal
  /-- PCIe links (R564) -/
  | link
  /-- scalar registers (R134) -/
  | sreg
  deriving DecidableEq, Repr

/-- How many there are. -/
def Range.size : Range → Nat
  | .place => 512
  | .slot => 32
  | .millSlot => 64
  | .engine => 2
  | .tile => 544
  | .chan => 256
  | .port => 16
  | .laneGroup => 64
  | .berth => 8192
  | .harbour => 64
  | .wheelPos => 128
  | .region => 16
  | .cluster => 32
  | .rail => 4
  | .func => 128
  | .node => 4096
  | .vc => 4
  | .stack => 8
  | .sensor => 128
  | .die => 2
  | .railGroup => 3
  | .asid => 65536
  | .bridge => 128
  | .quotaReg => 16
  | .remapEntry => 32
  | .iset => 16
  | .slice => 64
  | .half => 2
  | .buffer => 68
  | .accRow => 64
  | .tag => 2 ^ 40
  | .stream => 9
  | .journal => 4
  | .link => 4
  | .sreg => 64

/-- A number names one. -/
def Range.has (r : Range) (n : Nat) : Bool := decide (n < r.size)

/-- The master is a function the module has. -/
def Master.wf : Master → Bool
  | .func n => Range.func.has n
  | _ => true

/-- A tensor instruction streams 1 to 64 rows (R108). -/
def TensorOp.wf (t : TensorOp) : Bool := decide (1 ≤ t.rows ∧ t.rows ≤ 64)

/-- A row-round instruction names a row. -/
def RoundOp.wf (r : RoundOp) : Bool := Range.accRow.has r.row

/-- A BAR0 write is of 4 bytes, or of a multiple of 8 (R627). -/
def BarWrite.wf (a : BarWrite) : Bool := (a.size == 4 || (a.size != 0 && a.size % 8 == 0)) && a.words.length == (a.size + 7) / 8

/-- An Eweas command comes from a function the module has. -/
def EwCmd.wf (c : EwCmd) : Bool := Range.func.has c.func

/-- A speaker is a unit the module has. -/
def Speaker.wf : Speaker → Bool
  | .tile n => Range.tile.has n
  | .channel n => Range.chan.has n
  | .laneGroup n => Range.laneGroup.has n
  | .harbourmaster n => decide (n < 2)

/-- A hung unit is a unit the module has. -/
def HangUnit.wf : HangUnit → Bool
  | .tile n => Range.tile.has n
  | .mill n | .channel n => Range.chan.has n

/-- A channel request names a place and an engine, or a channel. -/
def HbmReq.wf : HbmReq → Bool
  | .engine p k e _ => Range.place.has p && Range.slot.has k && Range.engine.has e
  | .range c _ _ => Range.chan.has c

/-- A command is well formed. -/
def Instr.wf : Instr → Bool
  | .tideBoundary _ => true
  | .budgetPreempt _ => true
  | .berthTimeout _ => true
  | .tideApply m _ => m.wf
  | .tickMessage node _ _ _ => Range.node.has node
  | .missedTick => true
  | .echoExchange _ => true
  | .loadComplete place slot => Range.place.has place && Range.slot.has slot
  | .restoreComplete place slot _ _ => Range.place.has place && Range.slot.has slot
  | .drainComplete place slot => Range.place.has place && Range.slot.has slot
  | .saveWindowClose place slot _ => Range.place.has place && Range.slot.has slot
  | .partRetire place slot => Range.place.has place && Range.slot.has slot
  | .launchComplete _ => true
  | .abortComplete place slot => Range.place.has place && Range.slot.has slot
  | .evictionComplete place => Range.place.has place
  | .saveHeapZeroingDone place => Range.place.has place
  | .tileError place slot _ _ => Range.place.has place && Range.slot.has slot
  | .tensorInstruction place slot t => Range.place.has place && Range.slot.has slot && t.wf
  | .exactRowMerge place slot row _ _ => Range.place.has place && Range.slot.has slot && Range.accRow.has row
  | .rowRound place slot r => Range.place.has place && Range.slot.has slot && r.wf
  | .rowClear place slot row => Range.place.has place && Range.slot.has slot && Range.accRow.has row
  | .vectorInstruction place slot _ => Range.place.has place && Range.slot.has slot
  | .transcendentalInstruction place slot _ _ _ => Range.place.has place && Range.slot.has slot
  | .dmaDescriptor place slot engine _ _ _ _ => Range.place.has place && Range.slot.has slot && Range.engine.has engine
  | .kernelFenceWait place slot _ _ dstValue dstStatus => Range.place.has place && Range.slot.has slot && Range.sreg.has dstValue && Range.sreg.has dstStatus
  | .fenceReachedNotice place slot => Range.place.has place && Range.slot.has slot
  | .kernelFenceSignal place slot _ _ => Range.place.has place && Range.slot.has slot
  | .deviceDoorbell place slot berth _ => Range.place.has place && Range.slot.has slot && Range.berth.has berth
  | .gangReduction place slot _ _ dst => Range.place.has place && Range.slot.has slot && Range.sreg.has dst
  | .gangBroadcast place slot _ _ dst => Range.place.has place && Range.slot.has slot && Range.sreg.has dst
  | .reductionResult _ _ => true
  | .setTag place slot tag _ _ => Range.place.has place && Range.slot.has slot && Range.tag.has tag
  | .clearTag place slot tag => Range.place.has place && Range.slot.has slot && Range.tag.has tag
  | .readSpecialScalar place slot _ dst => Range.place.has place && Range.slot.has slot && Range.sreg.has dst
  | .kernelExit place slot _ => Range.place.has place && Range.slot.has slot
  | .kernelTrap place slot _ => Range.place.has place && Range.slot.has slot
  | .millLoadComplete mill _ _ => Range.chan.has mill
  | .millRecord mill _ => Range.chan.has mill
  | .millScanEnd mill _ => Range.chan.has mill
  | .millListAccepted mill _ => Range.chan.has mill
  | .mergeComplete _ => true
  | .millListReceive _ _ _ => true
  | .millSlotSaved mill _ => Range.chan.has mill
  | .millZeroingDone mill slot => Range.chan.has mill && Range.millSlot.has slot
  | .millAbortDone mill _ => Range.chan.has mill
  | .dbSubmit m _ berth _ => m.wf && Range.berth.has berth
  | .dbCplConsumed m _ berth _ => m.wf && Range.berth.has berth
  | .dbCapConsumed m _ berth _ => m.wf && Range.berth.has berth
  | .dbFenceSignal m _ berth _ => m.wf && Range.berth.has berth
  | .wheelPosition pos => Range.wheelPos.has pos
  | .manifestFetch berth => Range.berth.has berth
  | .berthEnable m berth _ => m.wf && Range.berth.has berth
  | .berthDisable m berth _ => m.wf && Range.berth.has berth
  | .berthStop m berth => m.wf && Range.berth.has berth
  | .berthAbort m berth => m.wf && Range.berth.has berth
  | .ltQuotaWrite m j _ => m.wf && Range.quotaReg.has j
  | .heartbeat => true
  | .heartbeatLoss => true
  | .selfCheckReport => true
  | .hmFailover => true
  | .hmLost _ => true
  | .fenceSignalApply => true
  | .hmFenceEvict m _ => m.wf
  | .waitCycleApply => true
  | .hmCycleAnswer m _ => m.wf
  | .patchApply _ => true
  | .hbReq m _ => m.wf
  | .hbCancel m _ => m.wf
  | .rebindDrain j => Range.journal.has j
  | .rebindSave j => Range.journal.has j
  | .rebindZeroDone j => Range.journal.has j
  | .rebindTransferDone j => Range.journal.has j
  | .rebindBump j => Range.journal.has j
  | .rebindRestore j => Range.journal.has j
  | .rebindReleaseDone j => Range.journal.has j
  | .harbourCommit j => Range.journal.has j
  | .holdWaitExpire j => Range.journal.has j
  | .staleSpeaker source h _ => source.wf && Range.harbour.has h
  | .hbmRead r _ => r.wf
  | .hbmWrite r _ _ _ => r.wf
  | .hbmAtomic r _ _ => r.wf
  | .correctedWriteback ch => Range.chan.has ch
  | .writtenBitsClearDone ch => Range.chan.has ch
  | .mcLevelWrite m ch _ => m.wf && Range.chan.has ch
  | .remapInstall ch => Range.chan.has ch
  | .mcRemapWrite m stack entry _ => m.wf && Range.stack.has stack && Range.remapEntry.has entry
  | .mcScrub m ch _ => m.wf && Range.chan.has ch
  | .scrubCancel m ch => m.wf && Range.chan.has ch
  | .scrubDone ch _ => Range.chan.has ch
  | .mcIsetWrite m h set _ => m.wf && Range.harbour.has h && Range.iset.has set
  | .mcRetire m ch => m.wf && Range.chan.has ch
  | .translateWalk place slot engine => Range.place.has place && Range.slot.has slot && Range.engine.has engine
  | .xlfConsWrite m _ h _ => m.wf && Range.harbour.has h
  | .xlfResume m _ h _ => m.wf && Range.harbour.has h
  | .xlfAbort m _ h _ => m.wf && Range.harbour.has h
  | .invRange m _ h _ => m.wf && Range.harbour.has h
  | .invAsid m _ h _ => m.wf && Range.harbour.has h
  | .invHarbour m _ h _ => m.wf && Range.harbour.has h
  | .invalidationComplete h => Range.harbour.has h
  | .urgencySample unit fill => Range.buffer.has unit && decide (fill ≤ 100)
  | .regReserveWrite m _ h _ => m.wf && Range.harbour.has h
  | .hbSliceWrite m slice word _ => m.wf && Range.slice.has slice && Range.half.has word
  | .linkUp port _ _ _ => Range.port.has port
  | .trainingTimeout port => Range.port.has port
  | .retrainComplete port _ _ => Range.port.has port
  | .lossOfLight port => Range.port.has port
  | .downRetry port => Range.port.has port
  | .wakePattern port => Range.port.has port
  | .flitReceive lg _ _ _ => Range.laneGroup.has lg
  | .ackControlFlit lg => Range.laneGroup.has lg
  | .keyPhaseChange lg => Range.laneGroup.has lg
  | .read node _ => Range.node.has node
  | .write node _ _ _ => Range.node.has node
  | .atomic node _ _ => Range.node.has node
  | .readResp _ _ _ _ => true
  | .writeAck _ _ => true
  | .atomicResp _ _ _ => true
  | .message node mailbox _ => Range.node.has node && Range.asid.has mailbox
  | .signal node _ => Range.node.has node
  | .streamAck node vc _ => Range.node.has node && Range.vc.has vc
  | .remoteResendTimeout node vc => Range.node.has node && Range.vc.has vc
  | .move node _ => Range.node.has node
  | .give node _ => Range.node.has node
  | .stateCopyComplete _ => true
  | .take node _ => Range.node.has node
  | .ack node _ => Range.node.has node
  | .renew node _ => Range.node.has node
  | .renewAck node _ => Range.node.has node
  | .query node _ => Range.node.has node
  | .answer node _ => Range.node.has node
  | .revoke node _ => Range.node.has node
  | .restore node _ => Range.node.has node
  | .stateReplay _ => true
  | .ckpt node _ => Range.node.has node
  | .ckptAck node _ => Range.node.has node
  | .handoverQuery _ => true
  | .leaseExpired _ newHolder => Range.node.has newHolder
  | .orphaned _ => true
  | .lkRoleReq m _ => m.wf
  | .roleShift => true
  | .lkpRetrain m port => m.wf && Range.port.has port
  | .lkpDisable m port _ => m.wf && Range.port.has port
  | .lkNodeWrite m node _ => m.wf && Range.node.has node
  | .pwCmdIdle m => m.wf
  | .pwCmdWatch m => m.wf
  | .pwCmdHold m => m.wf
  | .pwCmdActive m => m.wf
  | .lowpowerEntryDone => true
  | .wakeN => true
  | .idleWakeTraffic => true
  | .resumeDone _ => true
  | .watchSample _ _ => true
  | .avsRequest rail _ => Range.rail.has rail
  | .avsStatusPoll rail _ _ => Range.rail.has rail
  | .avsTimeout rail => Range.rail.has rail
  | .pwBudgetWrite m _ => m.wf
  | .pwHsubWrite m j _ => m.wf && Range.quotaReg.has j
  | .boostUpdate => true
  | .droop region => Range.region.has region
  | .brownWarn => true
  | .brownRecover => true
  | .brownHoldEnd => true
  | .thermWarn sensor _ => Range.sensor.has sensor
  | .thermThrottle sensor _ => Range.sensor.has sensor
  | .throttleRelease die => Range.die.has die
  | .thermTrip sensor _ => Range.sensor.has sensor
  | .marginMeasure => true
  | .marginReplan _ _ => true
  | .pwGateWrite m _ => m.wf
  | .ungateComplete cluster => Range.cluster.has cluster
  | .pwPolicyWrite m _ => m.wf
  | .livenessCheck missing => missing.all HangUnit.wf
  | .slotWatchdog unit slot => unit.wf && Range.millSlot.has slot
  | .unitSelfCheckFail unit => unit.wf
  | .tlReset m tile => m.wf && Range.tile.has tile
  | .tlClusterReset m tile => m.wf && Range.tile.has tile
  | .tlSubstitute m tile => m.wf && Range.tile.has tile
  | .tlRetire m tile => m.wf && Range.tile.has tile
  | .tlFail m tile => m.wf && Range.tile.has tile
  | .tileResetComplete tile => Range.tile.has tile
  | .clusterResetTimeout cluster => Range.cluster.has cluster
  | .spareIn place => Range.place.has place
  | .placeResume place => Range.place.has place
  | .channelControllerFail ch _ => Range.chan.has ch
  | .millFail mill _ => Range.chan.has mill
  | .bridgeDegrade working => decide (working ≤ Range.bridge.size)
  | .tamper _ => true
  | .battLow _ => true
  | .scKeyupd m _ => m.wf
  | .keyUpdate _ => true
  | .getVersion => true
  | .getCapabilities => true
  | .negotiateAlgorithms _ => true
  | .getMeasurements _ => true
  | .spdmOtherRequest _ => true
  | .keyProg link stream set => Range.link.has link && Range.stream.has stream && Range.half.has set
  | .kSetGo link stream set => Range.link.has link && Range.stream.has stream && Range.half.has set
  | .kSetStop link stream set => Range.link.has link && Range.stream.has stream && Range.half.has set
  | .ideInsecure link stream => Range.link.has link && Range.stream.has stream
  | .bar2Read func _ _ _ => Range.func.has func
  | .bar2Write func _ _ _ _ => Range.func.has func
  | .pcieCompletion _ _ _ _ => true
  | .pcieCompletionTimeout _ => true
  | .msixUnmask func _ => Range.func.has func
  | .ctxCreate c => c.wf
  | .ctxDestroy c => c.wf
  | .memCreate c => c.wf
  | .memRelease c => c.wf
  | .memExport c => c.wf
  | .memImport c => c.wf
  | .memPin c => c.wf
  | .memUnpin c => c.wf
  | .map c => c.wf
  | .mapHost c => c.wf
  | .unmap c => c.wf
  | .barMap c => c.wf
  | .fenceCreate c => c.wf
  | .fenceExport c => c.wf
  | .fenceImport c => c.wf
  | .fenceDestroy c => c.wf
  | .fenceMirror c => c.wf
  | .berthCreate c => c.wf
  | .berthDestroy c => c.wf
  | .eventBind c => c.wf
  | .eventUnbind c => c.wf
  | .graphRegister c => c.wf
  | .graphUnregister c => c.wf
  | .stateCreate c => c.wf
  | .stateMove c => c.wf
  | .phaseEnd c => c.wf
  | .stateDestroy c => c.wf
  | .teardownQuiesced asid => Range.asid.has asid
  | .ctxTeardown asid => Range.asid.has asid
  | .functionLevelReset func => Range.func.has func
  | .hostLinkDown link => Range.link.has link
  | .linkDownGraceExpire link => Range.link.has link
  | .cfFuncModeWrite m _ => m.wf
  | .startupBegin _ => true
  | .imageAccept => true
  | .startDone _ => true
  | .startupStop _ _ => true
  | .svnFuseBlow => true
  | .perstNDeassert _ => true
  | .modRstN _ => true
  | .freezeN _ => true
  | .dbFreezeSoft m _ => m.wf
  | .dumpFrame => true
  | .tapDump => true
  | .tapExtest => true
  | .tapIdcode => true
  | .tapBypass => true
  | .tapSamplePreload => true
  | .supplyReset => true
  | .pgFault => true
  | .mateOpen contact => Range.half.has contact
  | .crcPassEnd => true
  | .crcRefWrite m _ => m.wf
  | .crcAdopt m => m.wf
  | .registerWrite m a => m.wf && a.wf
  | .hostLinkReturn link _ _ => Range.link.has link
  | .wakePatternSend port => Range.port.has port
  | .streamAckSend node vc => Range.node.has node && Range.vc.has vc
  | .scalarInstruction place slot _ => Range.place.has place && Range.slot.has slot
  | .fabricDomainFailure => true
  | .holdFailure place => Range.place.has place
  | .holdOrLocalStoreRequest place slot r => Range.place.has place && Range.slot.has slot && Range.engine.has r.engine
  | .marginFlashWriteDone _ => true
  | .powerGoodChange group _ => Range.railGroup.has group

end Sys2Proof
end

