-- ==== Sys2Proof/Tests/Slice0.lean ====
section
/-! SUPPORT. Tests of the model: ill-formed terms refused, small steps, and for every statement a state and operands that meet
its hypotheses. -/
namespace Sys2Proof.Tests
open Sys2Proof Sys2Proof.Machine
set_option Elab.async false

/-! Small states -/

/-- A module that runs, with a tide of 100 µs and 10 µs of slack. -/
def on : State := { State.reset with
  boot := { State.reset.boot with life := .running }
  tide := { stopped := false, period := 100, slack := 100, jobFreq := 1000 } }

/-- It is a slave of node 1 in group 0. -/
def slave : State := { on with tide := { on.tide with role := .slave, masterNode := 1 } }

/-- Launch 0 is `e`. -/
def launched (e : Launch) (s : State) : State := { s with hm := { s.hm with launches := [(0, e)] } }

/-- Place 0 is bound to harbour 0, and its slot 0 is `v`. -/
def slotted (v : Slot) (s : State) : State := { s with places := [(0, { slots := [(0, v)], cond := .bound 0 0 })] }

/-- A kernel launch of one part, resident in slot 0 of place 0. -/
def kernel : Launch := { state := .active, parts := [.slot 0 0], entry := [], budgetInit := 4 }

/-- A part with 64 rows and 64 registers, and a window over its local store. -/
def engine : State :=
  launched { kernel with entry := [0, 1 + 8 * 256 + 8 * 4096] } (slotted { state := .running, ctx := {
    windows := [⟨.localStore, 0, 65536, true, true, 0⟩] } } on)

/-- The kernel can wait on and signal fence 0, whose value is 5. -/
def fenced : State :=
  let e : FenceEnt := { fon := 0, wait := true, signal := true, valid := true }
  engine.onFu fun u => { u with fences := [(0, { value := 5 })], space := [(0, e)], cache := [0] }

/-- Berth 0 is enabled for harbour 0, takes host doorbells, and has written two records of each kind. -/
def berthed : State := { fenced with berths := [(0, { enable := true, hostSubmit := true, stop := true, cplWritten := 2, capWritten := 2 })] }

/-- Harbour 0 holds tile place 0 and channel 0; harbour 1 holds nothing, and a request to destroy it stands at byte 4096. -/
def requested : State :=
  (on.onHb fun m => { m with harbours := [(0, { channels := [0], tiles := [0] }), (1, {})] }).hbmPut 0 4096 [20] false

/-- Port 0 stands in a state; its key names node 2. -/
def ported (st : PortSt) : State :=
  ((on.onPort 0 fun p => { p with st := st }).onSec fun c => { c with
    partnerId := 1, portKey := [(0, (0, true))], bankA := [(0, { usage := 1, partner := 2 })] }).onLg 0 fun g => { g with credits := [] }

/-- The power unit is as `f` makes it. -/
def powered (f : Power → Power) : State := on.onPw f

/-- Cluster 0 is clocked. -/
def clocked : State := on.onCluster 0 fun x => { x with gated := false }

/-- State record 5 stands as `o` on a pool. -/
def owning (o : Own) : State := on.onLk fun x => { x with own := [(5, o)], pool := true, mapLog2 := 4 }

/-- Context 1 of function 0 owns handle 0 of a pinned object, berth 0, fence 0, a token of each kind and state record 5. -/
def owned : State :=
  let x : Ctx := { func := 0, pasid := 0, pasidEn := false, harbour := 0, vaBits := 39, poolAddr := 2097152, poolLen := 2097152
                   poolUsed := 4096, handles := [(0, { obj := some 7, rights := 7 })], events := [3]
                   maps := [{ va := 2097152, len := 65536, handle := some 0, obj := some 7, off := 0, page := 0, rights := 7 }] }
  let o : MemObj := { harbour := 0, addr := 65536, len := 65536, refs := 1, pins := 1 }
  let e : FenceEnt := { fon := 0, wait := true, signal := true, valid := true }
  let b : Berth := { enable := true, context := 1 }
  let s1 := (on.onHb fun m => { m with harbours := [(0, { channels := [0], tiles := [0] })] }).onHif fun h => { h with
    links := [(0, { pres := true, up := true })], ctxs := [(1, x)], objs := [(7, o)], exports := [(0, (0, some (.mem 7 7))), (1, (0, some (.fence 0 true true)))], nextObj := 8 }
  { (s1.onFu fun u => { u with storeLog2 := 16, fences := [(0, { refs := 1 })], space := [(2 ^ 24, e)] }).onLk fun x => { x with
      own := [(5, { token := .origin, context := 1, holder := 2 })], mapLog2 := 4 } with berths := [(0, b)] }

/-- A command of function 0 with its arguments. -/
def cmd (args : List Word) : EwCmd := { func := 0, pasid := none, tag := 0, args := args }

/-- Span 1 is harbour 0's; a request of 8 bytes to its channel 0. -/
def spanned : State :=
  ((on.onHb fun m => { m with harbours := [(0, { channels := [0], tiles := [0] })] }).onLk fun x => { x with spanBase := 4096 }).hbmPut
    0 4097 [0x80] false

/-! Ill-formed commands, one for each check (R1–R11 give the counts) -/

theorem test_wf_place : (Instr.loadComplete 512 0).wf = false := by decide
theorem test_wf_slot : (Instr.loadComplete 0 32).wf = false := by decide
theorem test_wf_mill_slot : (Instr.millZeroingDone 0 64).wf = false := by decide
theorem test_wf_engine : (Instr.dmaDescriptor 0 0 2 (.localStore 0) (.hold 0) 64 none).wf = false := by decide
theorem test_wf_tile : (Instr.tlReset .manager 544).wf = false := by decide
theorem test_wf_chan : (Instr.millScanEnd 256 0).wf = false := by decide
theorem test_wf_port : (Instr.lossOfLight 16).wf = false := by decide
theorem test_wf_lane_group : (Instr.keyPhaseChange 64).wf = false := by decide
theorem test_wf_berth : (Instr.manifestFetch 8192).wf = false := by decide
theorem test_wf_harbour : (Instr.invalidationComplete 64).wf = false := by decide
theorem test_wf_wheel_position : (Instr.wheelPosition 128).wf = false := by decide
theorem test_wf_region : (Instr.droop 16).wf = false := by decide
theorem test_wf_cluster : (Instr.ungateComplete 32).wf = false := by decide
theorem test_wf_rail : (Instr.avsTimeout 4).wf = false := by decide
theorem test_wf_func : (Instr.functionLevelReset 128).wf = false := by decide
theorem test_wf_node : (Instr.streamAckSend 4096 0).wf = false := by decide
theorem test_wf_vc : (Instr.streamAck 0 4 0).wf = false := by decide
theorem test_wf_stack : (Instr.mcRemapWrite .manager 8 0 0).wf = false := by decide
theorem test_wf_sensor : (Instr.thermWarn 128 0).wf = false := by decide
theorem test_wf_die : (Instr.throttleRelease 2).wf = false := by decide
theorem test_wf_rail_group : (Instr.powerGoodChange 3 true).wf = false := by decide
theorem test_wf_mailbox : (Instr.message 0 65536 []).wf = false := by decide
theorem test_wf_bridge : (Instr.bridgeDegrade 129).wf = false := by decide
theorem test_wf_quota_register : (Instr.ltQuotaWrite .manager 16 0).wf = false := by decide
theorem test_wf_remap_entry : (Instr.mcRemapWrite .manager 0 32 0).wf = false := by decide
theorem test_wf_iset : (Instr.mcIsetWrite .manager 0 16 0).wf = false := by decide
theorem test_wf_slice : (Instr.hbSliceWrite .manager 64 0 0).wf = false := by decide
theorem test_wf_slice_word : (Instr.hbSliceWrite .manager 0 2 0).wf = false := by decide
theorem test_wf_key_set : (Instr.keyProg 0 0 2).wf = false := by decide
theorem test_wf_contact : (Instr.mateOpen 2).wf = false := by decide
theorem test_wf_buffer : (Instr.urgencySample 68 0).wf = false := by decide
theorem test_wf_fill : (Instr.urgencySample 0 101).wf = false := by decide
theorem test_wf_row : (Instr.rowClear 0 0 64).wf = false := by decide
theorem test_wf_rounded_row : (Instr.rowRound 0 0 { row := 64 }).wf = false := by decide
theorem test_wf_streamed_rows : (Instr.tensorInstruction 0 0 { rows := 65 }).wf = false ∧ (Instr.tensorInstruction 0 0 { rows := 0 }).wf = false := by decide
theorem test_wf_tag : (Instr.clearTag 0 0 (2 ^ 40)).wf = false := by decide
theorem test_wf_stream : (Instr.kSetGo 0 9 0).wf = false := by decide
theorem test_wf_journal : (Instr.rebindDrain 4).wf = false := by decide
theorem test_wf_link : (Instr.hostLinkDown 4).wf = false := by decide
theorem test_wf_scalar_register : (Instr.readSpecialScalar 0 0 0 64).wf = false := by decide
theorem test_wf_master : (Instr.tideApply (.func 128) 0).wf = false := by decide
theorem test_wf_sender : (Instr.ctxCreate { func := 128 }).wf = false := by decide
theorem test_wf_speaker : (Instr.staleSpeaker (.laneGroup 64) 0 0).wf = false := by decide
theorem test_wf_hung_unit : (Instr.livenessCheck [.tile 0, .mill 256]).wf = false := by decide
theorem test_wf_request : (Instr.hbmRead (.range 256 0 64) []).wf = false := by decide
theorem test_wf_bar_size : (Instr.registerWrite .manager { offset := 0, size := 12, words := [0, 0] }).wf = false := by decide
theorem test_wf_bar_words : (Instr.registerWrite .manager { offset := 0, size := 16, words := [0] }).wf = false := by decide

/-! Small steps and worked figures of the spec -/

/-- An empty queue idles (log entry 1). -/
theorem test_idle : step State.reset = .next State.reset := rfl

/-- No word spells a command (log entry 2). -/
theorem test_no_word (nbits w : Nat) : decodeTableWord nbits w = none := rfl

/-- Tile (1, 9, 6), index 361, is in cluster 22 and clock region 11 (the worked example after R11). -/
theorem test_cluster_of_tile : clusterOf 361 = 22 ∧ regionOf (clusterOf 361) = 11 := by decide

/-- The three blocks of the worked exactness example at ANCHOR -8, in either split, leave 2^51. -/
theorem test_exact_blocks :
    let u := pairUnit .e2m1 .e2m1
    let blk (x y : Num) := addProduct false u {} x y
    let six : Num := .fin false 12 (-1)
    let a := addBlock false u (some 20) (-8) (blk six six) (0, false)
    let b := addBlock false u (some (-20)) (-8) (blk (.fin false 1 (-1)) (.fin false 2 (-1))) a
    addBlock false u (some 20) (-8) (blk (.fin true 12 (-1)) six) b = (2 ^ 51, false) ∧ a.1 = 36 * 2 ^ 92 := by decide

/-- That sum rounds to FP32 0x3500_0000 and BF16 0x3500. -/
theorem test_exact_rounding :
    convert .fp32 .nearest (exactVal (BitVec.ofNat 128 (2 ^ 51)) (-8)) = (0x35000000, false) ∧
      convert .bf16 .nearest (exactVal (BitVec.ofNat 128 (2 ^ 51)) (-8)) = (0x3500, false) := by decide

/-- A missed tick of a slave is one step of its queue. -/
theorem test_step_missed_tick : step { slave with pending := [.missedTick, .heartbeat] } = exec .missedTick { slave with pending := [.heartbeat] } := rfl

/-- Any command runs as the first command after reset. -/
theorem test_first_command (i : Instr) : step { State.reset with pending := [i] } = exec i State.reset := rfl

theorem witness_EveryStepGoesOn : on.pending = [] := rfl

theorem witness_StepKeepsMemoryForm : ∃ t, step State.reset = .next t := ⟨_, rfl⟩

theorem reset_memory_form : Memory.wf State.reset.mem := by decide

theorem witness_StepKeepsThePart : ∃ t, step { on with pending := [.missedTick] } = .next t := ⟨_, rfl⟩

theorem witness_HbmReadsAfterWrites :
    Memory.wf spanned.mem ∧ spanned.mem.damage = [] ∧ (spanned.chan 0).retired = false ∧ spanned.throughTo 0 0 = none ∧
      granule 0 64 ∉ spanned.mem.written ∧
      (let s := spanned.onChan 0 fun c => { c with transferTo := some 1, copied := 8192 }
       Memory.wf s.mem ∧ s.mem.damage = [] ∧ s.throughTo 0 4096 = some 1 ∧ (s.chan 1).retired = false ∧ (0 : Nat) ≠ 1 ∧ 4096 + 8 ≤ 2147483648) := by
  decide +kernel

theorem witness_EventsAreCounted :
    (let s := on.onRas fun r => { r with enable := true, log2 := 8 }
     s.ras.enable = true ∧ (s.ras.seq - s.ras.consumed).toNat < 2 ^ s.ras.log2 ∧ s.ras.irqMode ≠ 1) ∧
    (let s := on.onRas fun r => { r with enable := true, log2 := 8, seq := 256, irqMode := 1 }
     2 ^ s.ras.log2 ≤ (s.ras.seq - s.ras.consumed).toNat ∧ s.ras.irqMode = 1) ∧ on.ras.enable = false ∧ on.mem.damage = [] := by decide +kernel

theorem witness_CancelOfAProcedure :
    let at_ (n : Nat) := on.onHb fun m => { m with journal := [(3, { harbour := 0, op := 1, request := [], reqAddr := 0, step := n })] }
    on.halted = false ∧ (at_ 4).halted = false ∧
    (∃ j, tabFind (at_ 4).hb.journal (bits (3 : Word) 0 2) = some j ∧ j.step < 5 ∧ (at_ 4).bumpDue j = false) ∧
    (∃ j, tabFind (at_ 5).hb.journal (bits (3 : Word) 0 2) = some j ∧ 5 ≤ j.step) ∧ tabFind on.hb.journal (bits (3 : Word) 0 2) = none :=
  ⟨by decide, by decide, ⟨_, rfl, by decide, by decide⟩, ⟨_, rfl, by decide⟩, rfl⟩

theorem witness_HandlesAndTokens :
    (∃ x, owned.ctx 1 = some x ∧ x.passes (cmd [1, 2 ^ 24, 2 ^ 24]) = true ∧ x.teardown = 0 ∧
      tabFind x.handles ((cmd [1, 2 ^ 24, 2 ^ 24]).arg 2 % 2 ^ 24) = some { obj := some 7, rights := 7 }) ∧
    (owned.running = true ∧ (owned.link 0).up = true ∧ (owned.page 0).busy = false ∧ (cmd [1, 2 ^ 24, 2 ^ 24]).arg 2 / 2 ^ 24 ≠ 0 ∧ (cmd [1, 2 ^ 24, 2 ^ 24]).arg 3 / 2 ^ 24 = 1) ∧
    tabFind owned.hif.exports ((cmd [1, 2 ^ 24]).arg 2 % 2 ^ 24) = some (0, some (.mem 7 7)) ∧
    (let t : Tab Handle := [(0, { gen := 2 })]
     lowestFree (t.length + 1) (fun i => match tabFind t i with | some x => x.obj.isSome | none => false) = 0 ∧
       tabFind t 0 = some { gen := 2 }) := by
  exact ⟨⟨_, rfl, by decide +kernel⟩, by decide +kernel, by decide +kernel, by decide +kernel⟩

theorem witness_SpdmWithoutARoot : on.boot.life ≠ .unpowered ∧ (on.onSec fun c => { c with rootValid := false }).sec.rootValid = false := by
  decide +kernel

theorem witness_UnprivilegedWritesAreIgnored : (Master.func 3).privileged = false ∧ on.running = true ∧ on.halted = false ∧ Master.func 3 ≠ .sideband := by decide

theorem witness_TideAndBudgetCommands :
    (on.running = true ∧ on.halted = false ∧ on.tide.stopped = false ∧ on.rejoins = none) ∧
    ((launched { kernel with preemptDue := true } on).launch 0 = some { kernel with preemptDue := true } ∧
      ({ kernel with preemptDue := true } : Launch).preemptDue = true ∧ (engine.slotAt 0 0).state = .running) ∧
    (let e : Launch := { kernel with state := .ready, parts := [], timeoutDue := true }
     let s := launched e on
     s.halted = false ∧ s.launch 0 = some e ∧ e.timeoutDue = true ∧ s.hmSilent = false ∧ e.state ≠ .completing ∧ e.retiring = false) ∧
    (Master.manager.privileged = true ∧ bits (100 + 100 * 4096) 0 10 = 100 ∧ bits (100 + 100 * 4096) 12 12 = 100 ∧
      slackFits 100 100 = true ∧ on.tide.role ≠ .slave ∧ on.tide.change = none) := by decide

theorem witness_TickCommands :
    (slave.slaved = true ∧ slave.tickOurs 1 { masterNode := 1, jobFreq := 1000 } = true ∧ slave.tickOurs 2 {} = false ∧
      slave.tide.isolated = false ∧ (tickApplied slave.tide.lastChange { masterNode := 1, jobFreq := 1000 }).jobFreq = slave.tide.jobFreq ∧
      slave.tide.missRun ≠ 7) ∧
    (let s := slave.onTide fun t => { t with missRun := 7 }
     s.slaved = true ∧ s.tide.missRun = 7 ∧ s.tide.isolated = false) ∧
    (let s := slave.onTide fun t => { t with isolated := true }
     s.slaved = true ∧ s.tickOurs 1 { masterNode := 1, jobFreq := 1000 } = true ∧ s.tide.isolated = true ∧ s.tide.aligned = 0) := by decide

theorem witness_SlotTransitionsOfARun :
    (let s := launched kernel (slotted { state := .loading } on)
     s.halted = false ∧ s.launch (s.slotAt 0 0).entry = some kernel ∧ (s.slotAt 0 0).state = .loading ∧ s.drainsNow 0 0 = false ∧
       (s.onPlace 0 fun x => { x with draining := true }).drainsNow 0 0 = true) ∧
    (let s := (launched kernel (slotted { state := .restoring } on)).onPlace 0 fun q => { q with heap := [{ entry := 0, part := 0, size := 4096, ctx := {} }] }
     s.halted = false ∧ s.launch (s.slotAt 0 0).entry = some kernel ∧ (s.slotAt 0 0).state = .restoring ∧
       s.recordOf (s.slotAt 0 0).entry (s.slotAt 0 0).part kernel.harbour = some { entry := 0, part := 0, size := 4096, ctx := {} }) ∧
    (let s := launched kernel (slotted { state := .draining } on)
     (s.slotAt 0 0).state = .draining ∧ (s.slotAt 0 0).ctx.dma0.reqs.any (·.pending) = false ∧
       (s.slotAt 0 0).ctx.dma1.reqs.any (·.pending) = false) ∧
    (let s := launched kernel (slotted { state := .saving } on)
     s.launch (s.slotAt 0 0).entry = some kernel ∧ (s.slotAt 0 0).state = .saving ∧
       ((s.place 0).slots.filter fun x => x.2.inWindow && x.2.window == (s.slotAt 0 0).window).any (fun x => x.2.state == .draining) = false) := by
  decide

theorem witness_LoadWindows :
    let s := (launched kernel owned).onHm fun h => { h with launches := [(0, { kernel with context := 1, entry := [0, 1, 2097152] })] }
    s.halted = false ∧ (s.loadWindows { kernel with context := 1, entry := [0, 1, 2097152] }).isSome = true := by decide +kernel

theorem witness_LaunchEndsAndSaveHeap :
    (let s := launched kernel (slotted { state := .running } on)
     s.halted = false ∧ s.launch (s.slotAt 0 0).entry = some kernel ∧ (s.slotAt 0 0).state = .running ∧ kernel.node = none ∧
       ∀ x ∈ ((s.onSlot 0 0 fun v => { v with state := .retiring, stuck := 0 }).onLaunch 0 fun e => { e with
         retired := setIns e.retired 0, exitValue := 0 }).liveParts 0, ∀ r ∈ x.2.reds, r.seq < 0) ∧
    (let s := launched { kernel with retired := [0] } (slotted { state := .retiring } on)
     s.halted = false ∧ s.launch 0 = some { kernel with retired := [0] } ∧ kernel.kind = 0 ∧ s.allRetired { kernel with retired := [0] } = true) ∧
    ((slotted { state := .aborting } on).slotAt 0 0).state = .aborting ∧ (slotted { state := .aborting } on).halted = false ∧
    (let r : SavedRec := { entry := 0, part := 0, size := 4096, ctx := {} }
     let s := on.onPlace 0 fun q => { q with heap := [r], evicting := 1, cond := .bound 0 0, zeroing := [4096] }
     s.halted = false ∧ 0 < (s.place 0).evicting ∧ (s.place 0).heap = [r] ∧ s.placeHarbour 0 = some 0 ∧ (s.place 0).zeroing ≠ []) := by
  decide

theorem witness_TileErrorExitAndTags :
    let s := launched kernel (slotted { state := .running } on)
    s.halted = false ∧ abortable (s.slotAt 0 0).state = true ∧ s.launch (s.slotAt 0 0).entry = some kernel ∧ tileErrorCode 1 = true ∧
      s.issuing 0 0 = true ∧ (5 : Nat) ≠ 0 ∧ 5 < 2 ^ 40 ∧ 495 + 1 ≤ 496 := by
  decide

theorem witness_EngineInstructions :
    engine.halted = false ∧ engine.issuing 0 0 = true ∧ 63 < engine.rowsHeld 0 0 ∧ 64 ≤ engine.rowsHeld 0 0 ∧ outputFmt .fp32 false = true ∧
      fmtRow .bf16 false = some 0 ∧ fmtRow .e4m3 false = some 1 ∧ rowK 0 = 64 := by
  decide

theorem engine_lsRead (off n : Nat) : engine.lsRead 0 0 off n = (List.replicate n 0, false) := by
  have h1 : (engine.slotAt 0 0).ctx.ls = [] := by decide
  have h2 : (engine.slotAt 0 0).ctx.lsPoison = [] := by decide
  simp [State.lsRead, h1, h2, tabGet, tabFind, wordsPoisoned, List.map_const']

theorem witness_RowMergeRead : engine.reads 0 0 0 1152 (List.replicate 1152 0) :=
  ⟨⟨.localStore, 0, 65536, true, true, 0⟩, 0, by decide +kernel, engine_lsRead _ _⟩

theorem witness_RowMergeEntries :
    ((((List.range 64).map ((engine.slotAt 0 0).ctx.accAt 63)).zipIdx.mapM fun e =>
      mergeEntry (imageEntry (List.replicate 1152 0) e.2) e.1)).isSome = true := by decide +kernel

theorem witness_RowMergeStore : ∃ t, engine.writes 0 0 0 (rowImage (List.replicate 64 {})) t :=
  ⟨engine.lsWrite 0 0 0 (rowImage (List.replicate 64 {})) false, ⟨.localStore, 0, 65536, true, true, 0⟩, 0, by decide +kernel, rfl⟩

theorem witness_RowRoundWrite : ∃ t1 t3, engine.result 0 0 0 (List.replicate 256 0) t1 ∧ t1.result 0 0 0 [] t1 ∧
    t1.result 0 0 256 (natBytes 8 0) t3 :=
  ⟨engine.lsWrite 0 0 0 (List.replicate 256 0) false, (engine.lsWrite 0 0 0 (List.replicate 256 0) false).lsWrite 0 0 256 (natBytes 8 0) false,
    ⟨⟨.localStore, 0, 65536, true, true, 0⟩, 0, by decide +kernel, rfl⟩, rfl,
    ⟨⟨.localStore, 0, 65536, true, true, 0⟩, 256, by decide +kernel, rfl⟩⟩

theorem witness_TensorOperands :
    engine.operand 0 0 0 (64 * (rowK 0 * Fmt.bf16.width / 8)) (List.replicate 8192 0) ∧ engine.operand 0 0 0 0 [] ∧
      engine.operand 0 0 0 (1 * (rowK 0 * Fmt.bf16.width / 8)) (List.replicate 128 0) :=
  ⟨⟨⟨.localStore, 0, 65536, true, true, 0⟩, 0, by decide +kernel, engine_lsRead _ _⟩, rfl,
    ⟨⟨.localStore, 0, 65536, true, true, 0⟩, 0, by decide +kernel, engine_lsRead _ _⟩⟩

theorem witness_TensorRow :
    (tensorRow {} 64 0 [] ((List.range 64).map fun _ => (0, [], 0)) ((List.range 64).map ((engine.slotAt 0 0).ctx.accAt 0))).isSome = true := by
  decide +kernel

theorem witness_VectorInstructions :
    engine.halted = false ∧ engine.issuing 0 0 = true ∧ 63 < engine.rowsHeld 0 0 ∧ 63 < engine.regsHeld 0 0 ∧
      outputFmt .e4m3 true = true ∧ reduces .max = true ∧ (32 : Nat) ≤ 32 ∧ 63 < 64 ∧ 7 < 8 := by
  decide

theorem witness_VectorMemory : engine.reads 0 0 0 128 (List.replicate 128 0) ∧ engine.operand 0 0 0 (4 * Fmt.e4m3.width) (List.replicate 32 0) ∧
    engine.operand 0 0 64 1 [0] ∧ (∃ t, engine.writes 0 0 0 (List.replicate 128 0) t) ∧
    ∃ t1 t2, engine.result 0 0 0 (List.replicate 32 0) t1 ∧ t1.result 0 0 64 [127] t2 :=
  ⟨⟨⟨.localStore, 0, 65536, true, true, 0⟩, 0, by decide +kernel, by decide +kernel⟩,
    ⟨⟨.localStore, 0, 65536, true, true, 0⟩, 0, by decide +kernel, by decide +kernel⟩,
    ⟨⟨.localStore, 0, 65536, true, true, 0⟩, 64, by decide +kernel, by decide +kernel⟩,
    ⟨_, ⟨.localStore, 0, 65536, true, true, 0⟩, 0, by decide +kernel, rfl⟩,
    engine.lsWrite 0 0 0 (List.replicate 32 0) false, (engine.lsWrite 0 0 0 (List.replicate 32 0) false).lsWrite 0 0 64 [127] false,
    ⟨⟨.localStore, 0, 65536, true, true, 0⟩, 0, by decide +kernel, rfl⟩, ⟨⟨.localStore, 0, 65536, true, true, 0⟩, 64, by decide +kernel, rfl⟩⟩

theorem witness_Transcendental : (transExact 2 (fpVal 0x40000000)).isSome = true := by decide +kernel

theorem witness_ScalarAndDmaInstructions :
    engine.halted = false ∧ engine.issuing 0 0 = true ∧ 13 < 14 ∧ 1 < 2 ∧ (4096 : Nat) ≠ 0 ∧ engine.endFits 0 0 4096 (.localStore 0) = true ∧
      engine.endFits 0 0 4096 (.hold 0) = true ∧ engine.endFits 0 0 (atomicWidth { operand := 1 }) (.va 0) = true := by decide

theorem witness_ScalarMemory : engine.reads 0 0 0 8 (List.replicate 8 0) ∧ ∃ t, engine.writes 0 0 0 (wordBytes 5) t :=
  ⟨⟨⟨.localStore, 0, 65536, true, true, 0⟩, 0, by decide +kernel, by decide +kernel⟩,
    _, ⟨.localStore, 0, 65536, true, true, 0⟩, 0, by decide +kernel, rfl⟩

/-- Engine 0 of the part works on a request of 8 bytes from the hold to the local store. -/
def copying (a : Option AtomicOp) (buf : Option Beats) : State := engine.onDma 0 0 0 fun d => { d with
  queue := [{ src := .hold 0, dst := .localStore 0, len := 8, atomic := a, issued := 8 }]
  reqs := [{ len := 8, src := .hold 0, dst := .localStore 0, atomic := a, buf := buf }] }

theorem witness_TileRequestRead :
    let s := copying none none
    let r : DmaReq := { len := 8, src := .hold 0, dst := .localStore 0 }
    s.halted = false ∧ s.servable 0 0 0 0 = some r ∧ (0 : Nat) ≠ (s.dma 0 0 0).reqs.length ∧
      (s.nearRead (s.endTarget 0 0 r.src r.srcAt r.len false) r.len).isSome = true := by decide +kernel

theorem witness_TileRequestWrite :
    let b : Beats := [(List.replicate 8 7, false)]
    let s := copying none (some b)
    let r : DmaReq := { len := 8, src := .hold 0, dst := .localStore 0, buf := some b }
    s.servable 0 0 0 0 = some r ∧ (s.nearWrite (s.endTarget 0 0 r.sink.1 r.sink.2 r.len true) b).isSome = true := by decide +kernel

theorem witness_TileRequestAtomic :
    let a : AtomicOp := { operand := 1 }
    let s := copying (some a) none
    let r : DmaReq := { len := 8, src := .hold 0, dst := .localStore 0, atomic := some a }
    s.servable 0 0 0 0 = some r ∧ (s.nearRead (s.endTarget 0 0 r.dst r.dstAt r.len true) r.len).isSome = true := by decide +kernel

/-- The engine of the part may start the request of the next descriptor, and it is then the one to serve. -/
theorem witness_TileRequestStart :
    let s := engine.onDma 0 0 0 fun d => { d with queue := [{ src := .hold 0, dst := .localStore 0, len := 8 }] }
    (s.dma 0 0 0).reqs.length = 0 ∧ s.engineFree 0 0 0 = true ∧ s.nextNear 0 0 0 = true ∧
      ((s.startReq 0 0 0).servable 0 0 0 0).isSome = true := by decide +kernel

theorem witness_FencesAndDoorbellsOfAKernel :
    let f : Fence := { value := 5 }
    fenced.halted = false ∧ fenced.issuing 0 0 = true ∧ fenced.heard (fenced.placeSpeaker 0) = true ∧
      fenced.fenceEnt (fenced.launchAt 0 0).context 0 =
      some { fon := 0, wait := true, signal := true, valid := true } ∧ (fenced.touchFence 0).fence 0 = some f ∧
      fenced.fence 0 = some f ∧ (7 - f.value).toNat ≠ 2 ^ 63 ∧ (5 + 2 ^ 63 - f.value).toNat = 2 ^ 63 ∧
      f.closed = false ∧ (fenced.berth 0).context = (fenced.launchAt 0 0).context := by decide +kernel

theorem witness_FenceReachedNotice :
    let w : KWait := { fon := 0, target := 5, dstValue := 1, dstStatus := 2, released := true }
    let s := fenced.onCtx 0 0 fun c => { c with wait := some w }
    s.halted = false ∧ (s.slotAt 0 0).ctx.wait = some w ∧ (s.slotAt 0 0).state = .running ∧ w.released = true := by
  decide

theorem witness_GangReductions :
    engine.halted = false ∧ engine.issuing 0 0 = true ∧ (engine.slotAt 0 0).ctx.reds.length < 4 ∧ engine.heard (engine.placeSpeaker 0) = true ∧
      engine.redBroken 0 0 .add = false ∧ engine.redBroken 0 0 (.bcast 0) = false ∧
    (let s := engine.onCtx 0 0 fun c => { c with reds := List.replicate 4 ⟨0, .add, 3, 1⟩ }
     s.issuing 0 0 = true ∧ 4 ≤ (s.slotAt 0 0).ctx.reds.length) := by decide +kernel

theorem witness_ReductionResult :
    let s := engine.onCtx 0 0 fun c => { c with reds := [⟨0, .add, 3, 1⟩] }
    s.halted = false ∧ (s.launch 0).isSome = true ∧ s.residentParts 0 = [(0, 0, 0, s.slotAt 0 0)] ∧ (s.launchAt 0 0).gang = 1 ∧
      (s.slotAt 0 0).ctx.reds.find? (fun r => r.seq == 0) = some ⟨0, .add, 3, 1⟩ ∧ (s.slotAt 0 0).state = .running := by
  decide +kernel

/-- Launch 0 is a scan whose slot 0 on Mill `m` is in state `st`; Mill 1 aborts it. -/
def scanning (st : MillSt) : State :=
  let z : MillScan := { slots := [0], st := st }
  let s := launched { kernel with parts := [], scan := some 0 } on
  { s with scans := [(0, {})], mills := [(0, { slots := [(0, st)], bound := [(0, 0)], scans := [(0, z)] }),
      (1, { slots := [(0, .aborting)], bound := [(0, 0)], scans := [(0, { slots := [0], st := .aborting })] })] }

/-- The scan's windows lie in empty memory of channel 0 of harbour 0: a segment list of no descriptor, and no query. -/
def seeking (st : MillSt) : State :=
  let w : Window := ⟨.hbm, 0, 4096, true, true, 0⟩
  let s0 := (scanning st).onHb fun m => { m with harbours := [(0, { channels := [0] })] }
  { s0 with scans := [(0, { windows := [w, w, w], chCount := 1 })] }

theorem witness_MillSlotsOfAScan :
    (scanning .restoring).halted = false ∧
    (tabFind ((scanning .restoring).mill 0).scans 0 = some { slots := [0], st := .restoring } ∧
      tabFind (scanning .restoring).scans 0 = some {} ∧ ((scanning .restoring).launch 0).isSome = true) ∧
    tabFind ((scanning .draining).mill 0).scans 0 = some { slots := [0], st := .draining } ∧
    tabGet .free ((scanning .zeroing).mill 0).slots 0 = .zeroing ∧
    tabFind ((scanning .aborting).mill 0).scans 0 = some { slots := [0], st := .aborting } := by decide +kernel

theorem witness_MillLoad :
    let s := seeking .loading
    s.halted = false ∧ tabFind (s.mill 0).scans 0 = some { slots := [0], st := .loading } ∧ (s.launch 0).isSome = true ∧
      s.scanRead 0 ((tabFind s.scans 0).getD {}) 1 0 (0 * queryStride 0 0) = some ([], false) ∧
      ((List.range 0).mapM fun i => parseQuery (bytesWords 8 (([] : List Byte).drop i)) []) = some [] := by decide +kernel

theorem witness_MillScan :
    let s := seeking .scanning
    let x := (tabFind s.scans 0).getD {}
    tabFind (s.mill 0).scans 0 = some { slots := [0], st := .scanning } ∧ s.scanSegments 0 x = 0 ∧
      (s.millSeek 0 0 0 x 1).1 = none ∧ (tabFind ((s.millSeek 0 0 0 x 1).2.mill 0).scans 0).map (·.st) = some .scanning := by
  decide +kernel

/-- A segment list of one descriptor of eight records for channel 0. -/
theorem witness_MillRecord :
    let s := ((seeking .scanning).hbmPut 0 0 [1] false).hbmPut 0 32 (natBytes 8 (2 * 2 ^ 24) ++ natBytes 8 2048 ++ natBytes 8 0 ++ natBytes 8 8) false
    let x := (tabFind s.scans 0).getD {}
    s.scanSegments 0 x = 1 ∧ (s.millSeek 0 0 0 x 2).1.isSome = true := by
  decide +kernel

theorem witness_MillSaved :
    let s := seeking .saving
    tabFind (s.mill 0).scans 0 = some { slots := [0], st := .saving } ∧
      (tabFind ((s.millLists 0 0 ((tabFind s.scans 0).getD {})).mill 0).scans 0).isSome = true ∧ (s.harbour 0).isSome = true := by
  decide +kernel

theorem witness_MergeHere :
    let s := scanning .draining
    s.halted = false ∧ tabFind s.scans 0 = some {} ∧ (s.launch 0).map (·.state) = some .active ∧ ({} : Scan).hostMerge = false ∧
      s.listsHere 0 {} = true ∧ s.scanRoot 0 {} = none := by decide

/-- Harbour 0 spans nodes 0 and 2; a scan of two channels has one on each, and its first member merges. -/
def spanning (member : Nat) : State :=
  let s := (scanning .draining).onHb fun m => { m with harbours := [(0, { channels := [0], spanId := 1, span := true, member := member, peers := [{ node := 0, channels := 1 }, { node := 2, channels := 1 }] })] }
  { s with scans := [(0, { chCount := 2, lists := [(member, [])] })] }

theorem witness_MergeRoot :
    let s := spanning 1
    let x := (tabFind s.scans 0).getD {}
    s.listsHere 0 x = true ∧ s.scanRoot 0 x = some 0 ∧ s.lk.unreachable.contains 0 = false := by decide

theorem witness_ListReceive :
    let s := spanning 0
    let x := (tabFind s.scans 0).getD {}
    s.halted = false ∧ (2, 1, 1) ∈ s.scanOthers 0 x ∧ s.scanRoot 0 x = none := by decide

theorem witness_DoorbellPageWrites :
    berthed.halted = false ∧ berthed.ownsPage .manager none 0 = true ∧ (berthed.berth 0).hostSubmit = true ∧
      ((16 : Word32) - (berthed.berth 0).fetch).toNat ≤ 2 ^ (berthed.berth 0).log2 ∧
      ((16 : Word32) - (berthed.berth 0).producer).toNat ≤ 2 ^ (berthed.berth 0).log2 ∧
      ((2 : Word32) - (berthed.berth 0).cplConsumed).toNat ≤ ((berthed.berth 0).cplWritten - (berthed.berth 0).cplConsumed).toNat ∧
      ((2 : Word32) - (berthed.berth 0).capConsumed).toNat ≤ ((berthed.berth 0).capWritten - (berthed.berth 0).capConsumed).toNat ∧
      berthed.fenceEnt (berthed.berth 0).context (berthed.berth 0).stagedHandle =
        some { fon := 0, wait := true, signal := true, valid := true } ∧
      berthed.fence 0 = some { value := 5 } := by decide

theorem witness_DispatchWheelAndQuota :
    (let s := ((berthed.onHb fun m => { m with harbours := [(0, {})] }).onBerth 0 fun b => { b with stop := false, producer := 1 }).onHm fun h => { h with
        quota := [(0, 4)], launches := [] }
     s.halted = false ∧ s.wheelHarbour 0 = some 0 ∧ s.hmSilent = false ∧ s.quotaRoom 0 = true ∧ s.pendingNode 0 = none ∧ s.nextBerth 0 = some 0) ∧
    (let run : GraphRun := { graph := 0, slot := 0, version := 1, nodes := 1, exitNode := 0, pending := [0] }
     let s1 := ((launched { kernel with parts := [], run := some run } on).onHb fun m => { m with harbours := [(0, {})] }).onHm fun h => { h with quota := [(0, 4)], fetching := [0] }
     let s : State := { s1.onHif fun h => { h with objs := [(0, { harbour := 0, addr := 0, len := 4096 })] } with graphs := [(0, { nodes := 1 })] }
     s.halted = false ∧ s.wheelHarbour 0 = some 0 ∧ s.hmSilent = false ∧ s.quotaRoom 0 = true ∧ s.pendingNode 0 = some (0, 0) ∧
       (s.launch 0).map (·.run) = some (some run) ∧ (tabFind s.graphs 0).isSome = true ∧ (tabFind s.hif.objs 0).isSome = true ∧
       0 ∈ s.hm.fetching) ∧
    (Master.manager.privileged = true ∧ (∀ i < 4, bits 4096 (16 * i) 13 ≤ 4096) ∧
      (((List.range 4).foldl (fun t i => tabPut t (4 * 0 + i) (bits 4096 (16 * i) 13)) on.hm.quotaNext).map (·.2)).sum * 16 ≤ 65536) := by
  decide +kernel

theorem witness_ManifestFetch :
    let s := (owned.onBerth 0 fun b => { b with subVa := 2097152, context := 1 }).onHm fun h => { h with fetching := [0] }
    s.halted = false ∧ 0 ∈ s.hm.fetching ∧ s.hmSilent = false ∧ (s.vaRead 1 2097152 512).isSome = true := by decide +kernel

theorem witness_AdmitLaunch :
    let n : Launch := { kernel with parts := [], entry := (3 + 2 ^ 56) :: List.replicate 63 0 }
    on.ras.lost.contains n.context = false ∧ n.kind = 3 ∧ on.fetchStatus n true false = none := by decide +kernel

theorem witness_BerthControl :
    (let c : Ctx := { func := 0, pasid := 0, pasidEn := false, harbour := 0, vaBits := 48, poolAddr := 0, poolLen := 0
                      maps := [⟨0, 1048576, none, some 0, 0, 0, 3⟩] }
     let x : Berth := { subVa := 0, cplVa := 65536, statusVa := 131072 }
     let s := { on with berths := [(0, x)] }.onHif fun h => { h with
       ctxs := [(0, c)], objs := [(0, { harbour := 0, addr := 0, len := 1048576, pins := 1 })] }
     let v : Word := 4 * 2 ^ 24 + 1
     let y := (s.berth 0).withCfg0 v
     s.halted = false ∧ Master.manager.privileged = true ∧
       (s.berth 0).enable = false ∧ 4 ≤ bits v 24 5 ∧ bits v 24 5 ≤ 16 ∧ (s.berthObjs y).isSome = true ∧ y.subVa % 4096 = 0 ∧
       y.cplVa % 4096 = 0 ∧ y.statusVa % 64 = 0 ∧ y.capVa % 4096 = 0 ∧ s.onWheel y.harbour = true ∧ s.pw.transit = false ∧
       y.harbour = 0) ∧
    (let s := { berthed with hm := { berthed.hm with launches := [] } }
     let v : Word := 4 * 2 ^ 24
     (s.berth 0).enable = true ∧ (s.berth 0).stop = true ∧ s.berthBusy 0 = false ∧
       { (s.berth 0).withCfg0 v with timeout := (s.berth 0).timeout } ≠ s.berth 0 ∧
       { (s.berth 0).withCfg0 (v + 2 ^ 30) with timeout := (s.berth 0).timeout } = s.berth 0) := by decide +kernel

theorem witness_HarbourmasterFailover :
    (on.halted = false ∧ on.hm.standby = true ∧ on.hm.takeover = false) ∧ (on.onHm fun h => { h with takeover := true }).hm.takeover = true ∧
    (let s := on.onHm fun h => { h with standby := false }
     s.hm.standby = false ∧ s.hm.lost = false) := by decide

theorem witness_FenceCycleAndPatchCommands :
    (let s := fenced.onFu fun u => { u with inflight := [{ fon := 0, value := 6, err := false }] }
     s.halted = false ∧ s.hmSilent = false ∧ s.fu.inflight = [{ fon := 0, value := 6, err := false }] ∧
       ((s.takeSignal { fon := 0, value := 6, err := false } []).touchFence 0).fence 0 = some { value := 5 } ∧ ((6 : Word) - 5).toNat < 2 ^ 63 ∧
       2 ^ 63 ≤ ((4 : Word) - 5).toNat) ∧
    (Master.manager.privileged = true ∧ bits 0 0 24 ∈ fenced.fu.cache) ∧
    (let s := (launched { kernel with parts := [], state := .waiting } on).onFu fun u => { u with resultDue := true, result := some ⟨3, [0]⟩ }
     s.hmSilent = false ∧ s.fu.resultDue = true ∧ s.fu.result = some ⟨3, [0]⟩ ∧ ∀ l ∈ [0], (s.launch l).map (·.state) = some .waiting) ∧
    (let s := on.onFu fun u => { u with cyclePending := true, snap := some ⟨3, []⟩ }
     let v : Word := 3 * 2 ^ 16
     bits v 0 14 ≤ 8192 ∧ s.fu.cyclePending = true ∧ s.fu.snap = some ⟨3, []⟩ ∧ bits v 16 16 = bits 3 0 16 ∧ bits v 0 14 = 0) := by
  decide +kernel

theorem witness_PatchApply :
    let e : Launch := { kernel with parts := [], state := .ready, entry := [4] }
    let g : Graph := { valid := true, nodes := 0, curVersion := 1 }
    let s : State := { launched e on with graphs := [(0, g)] }
    s.halted = false ∧ s.launch 0 = some e ∧ e.kind = 4 ∧ e.state = .ready ∧ s.hmSilent = false ∧
      (∀ x ∈ s.hm.launches, x.2.kind = 4 → x.2.state = .ready → e.readySeq ≤ x.2.readySeq) ∧
      s.graphOf e.context (bits (wordAt e.entry 6) 0 32) = some (0, g) ∧ bits (wordAt e.entry 6) 32 32 = 0 ∧ bits (wordAt e.entry 7) 0 5 = 0 ∧
      s.slotRun 0 0 = false ∧ (s.writePatches g 0 e).imagePoisoned g 0 = false ∧ (s.writePatches g 0 e).imageOk g 0 = true := by decide +kernel

/-- A procedure of harbour 1 in journal slot 0, at a step. -/
def proc (op step : Nat) (steps : List Nat) : Proc :=
  { harbour := 1, op := op, step := step, steps := steps, boundaries := 2, request := [BitVec.ofNat 64 (op + 16)] }
def journalled (x : Proc) : State := requested.onHb fun m => { m with journal := [(0, x)] }

theorem witness_HarbourRequest :
    requested.halted = false ∧ Master.manager.privileged = true ∧
    (requested.readH 0 (bits 4096 12 36 * 4096) 4096).map (fun x => (x.1.take 8, x.2)) = some ([20, 0, 0, 0, 0, 0, 0, 0], false) := by
  decide +kernel

theorem witness_HarbourRequestAccepted :
    let ws := (bytesWords 512 (20 :: List.replicate 4095 0)).take requestWords
    ((requestRead ws).any fun x => (requested.readH 0 (4096 + x.1) x.2).any (·.2)) = false ∧
      (foldState (requestRead ws) (fun a x => a.readEffectH 0 (4096 + x.1) x.2) requested).reqReason ws
        (bytesWords 512 (20 :: List.replicate 4095 0)) false = 0 := by decide +kernel

theorem witness_HarbourRequestsAndFirstSteps :
    ((journalled (proc 2 1 [1])).halted = false ∧ tabFind (journalled (proc 2 1 [1])).hb.journal (bits 0 0 2) = some (proc 2 1 [1]) ∧
      (proc 2 1 [1]).step < 5 ∧ (journalled (proc 2 1 [1])).bumpDue (proc 2 1 [1]) = false) ∧
    ((journalled (proc 2 0 [1, 2])).procReady 0 1 = some (proc 2 0 [1, 2]) ∧ (journalled (proc 2 0 [1, 2])).stepHeld (proc 2 0 [1, 2]) = false) ∧
    (let x := { proc 2 2 [1, 2] with drainOn := true, drainDone := true, saveOn := true }
     ((journalled x).advanceProc 0).procReady 0 2 = some x) ∧
    (let x := { proc 0 3 [3, 5] with zeroOn := true }
     (journalled x).procReady 0 3 = some x ∧ x.units0 = []) := by decide +kernel

theorem witness_HarbourLaterStepsAndStaleSpeakers :
    ((journalled (proc 3 4 [4])).procReady 0 4 = some (proc 3 4 [4]) ∧ (proc 3 4 [4]).units0 = []) ∧
    (tabFind (journalled (proc 4 0 [5])).hb.journal 0 = some (proc 4 0 [5]) ∧ (journalled (proc 4 0 [5])).bumpDue (proc 4 0 [5]) = true) ∧
    (let x := proc 4 6 [5, 7]
     (journalled x).halted = false ∧ (journalled x).procBumped 0 = some x ∧ x.restoreDone = false ∧ x.releaseDone = false ∧
       x.leaving = [] ∧ (journalled x).savesLeft x = false) ∧
    (let x := { proc 4 7 [5, 7] with restoreDone := true, releaseDone := true }
     (journalled x).procBumped 0 = some x ∧ x.mark < x.boundaries) ∧
    (let x := { proc 2 1 [1] with drainOn := true }
     (journalled x).procReady 0 1 = some x ∧ x.op ≠ 3 ∧ 1 + reqHoldWait x.request ≤ x.boundaries) ∧
    (on.speakerFenced (.channel 0) = false ∧ on.checkerEntry (.channel 0) ≠ some (1, 1)) ∧
    (on.onHb fun m => { m with fencedCh := [0] }).speakerFenced (.channel 0) = true := by decide +kernel

theorem witness_ChannelRequests :
    (on.halted = false ∧ (on.damaged []).channelPresent 0 = true ∧ 4096 + 8 ≤ (on.damaged []).dataBytes 0 ∧ [(1 : Byte)].length ≠ 0) ∧
    (let s := on.hbmPut 0 4096 [1] true
     s.channelPresent 0 = true ∧ 4096 + 8 ≤ s.dataBytes 0 ∧ s.hbmPoison 0 4096 8 = true) := by decide

/-- A request of engine 0 with its translated ends in channel 0 of harbour 0. -/
def hbmReq (a : Option AtomicOp) (buf : Option Beats) : State :=
  (engine.onHb fun m => { m with harbours := [(0, { channels := [0], tiles := [0] })], channels := [(0, .bound 0 0)] }).onDma 0 0 0
    fun d => { d with
      reqs := [{ len := 8, src := .va 0, dst := .va 4096, atomic := a, buf := buf, srcAt := some 4096, dstAt := some 8192 }] }

theorem witness_EngineRequests :
    let s := hbmReq none none
    let q : DmaReq := { len := 8, src := .va 0, dst := .va 4096, srcAt := some 4096, dstAt := some 8192 }
    s.halted = false ∧ (s.damaged []).servable 0 0 0 0 = some q ∧ (s.damaged []).target 0 0 4096 8 false = .hbm [⟨0, 4096, 8⟩] ∧
      ((s.damaged []).readEffects [⟨0, 4096, 8⟩]).channelHeard 0 = true ∧
    (let b : Beats := [([1, 2, 3, 4, 5, 6, 7, 8], false)]
     let s := hbmReq none (some b)
     (s.damaged []).servable 0 0 0 0 = some { q with buf := some b } ∧ (s.damaged []).target 0 0 8192 8 true = .hbm [⟨0, 8192, 8⟩] ∧
       (s.damaged []).sourceData 0 0 { q with buf := some b } = some b ∧
       ((s.damaged []).writeThrough [⟨0, 8192, 8⟩] b).channelHeard 0 = true) ∧
    (let s := hbmReq (some {}) none
     (s.damaged []).servable 0 0 0 0 = some { q with atomic := some {} } ∧ ((s.damaged []).serveAtomic 0 8192 {}).2.channelHeard 0 = true) := by
  decide +kernel

theorem witness_ChannelRegisterWrites :
    Master.manager.privileged = true ∧ on.halted = false ∧
      (on.channelPresent 0 = true ∧ on.channelFree 0 = true ∧ (on.chan 0).level ≠ bits 1 0 2) ∧
    (let s := on.onHif fun h => { h with modeInForce := 32 }
     let r : Remap := { channel := bits (2 ^ 63) 0 5, bank := bits (2 ^ 63) 5 5, row := bits (2 ^ 63) 10 15
                        word := bits (2 ^ 63) 25 9, column := bit (2 ^ 63) 37, byManager := true }
     s.channelPresent (0 * 32) = true ∧ s.hostMode 5 = true ∧ (s.remapEntry 0 0).valid = false ∧ bit 0 63 = false ∧
       bit (2 ^ 63) 63 = true ∧ (s.onMem fun x => { x with remap := tabDel x.remap 0 }).remapFull 0 r = false) ∧
    (let s := on.onHb fun m => { m with harbours := [(0, { channels := [0] })] }
     let v : Word := 2 ^ 15
     s.isetUsed 0 0 = false ∧ bits v 8 4 ≤ 8 ∧ bits v 12 2 ≠ 3 ∧ bit v 15 = true ∧
       bits v 0 8 + 2 ^ bits v 8 4 ≤ (match s.harbour 0 with | some e => e.channels.length | none => 0)) ∧
    (on.chan 0).retired = false := by decide +kernel

theorem witness_RemapInstallAndScrubs :
    (let s := on.onChan 0 fun c => { c with candidates := [{}] }
     s.halted = false ∧ s.hostMode 5 = false ∧ (s.chan 0).candidates = [{}] ∧
       ((s.onChan 0 fun x => { x with candidates := [] }).freeRemap (0 / 32)).isSome = true ∧
       (s.onChan 0 fun x => { x with candidates := [] }).remapFull 0 {} = false) ∧
    (let s := (requested.hbmPut 0 (4096 + 8) (wordBytes (2 ^ 20)) false)
     let s1 := s.readEffectH 0 (bits 4096 6 42 * 64) 64
     s.halted = false ∧ s.channelPresent 0 = true ∧ Master.manager.privileged = true ∧
     ((s.readH 0 (bits 4096 6 42 * 64) 64).map (·.2)) = some false ∧ (s1.chan 0).scrub = none ∧ (s1.readH 0 0 64).isSome = true ∧
       bits (2 ^ 20) 20 21 ≠ 0 ∧ bits (2 ^ 20) 0 20 + bits (2 ^ 20) 20 21 ≤ dataPages (s1.chan 0).level) ∧
    (let s := on.onChan 0 fun c => { c with scrub := some {} }
     (s.chan 0).scrub = some {} ∧ s.channelPresent 0 = true) := by decide +kernel

theorem witness_WalksAndFaultPage :
    engine.halted = false ∧ engine.engineFree 0 0 0 = true ∧ (engine.dma 0 0 0).queue = [] ∧ engine.granted .manager none 0 = true ∧
      (engine.onFq 0 fun q => { q with entries := [(0, {})] }).pendingEntry 0 0 = some (0, {}) := by decide

/-- The next piece of a copy inside the tile needs no translation; nor does a stored request to the hold. -/
theorem witness_TranslateWalk :
    let d : DmaDesc := { src := .hold 0, dst := .localStore 0, len := 8 }
    let s := engine.onDma 0 0 0 fun x => { x with queue := [d] }
    s.engineFree 0 0 0 = true ∧ (s.dma 0 0 0).reqs.find? (fun r => !r.ready) = none ∧
      (s.dma 0 0 0).queue.find? (fun d => decide (d.issued < d.len)) = some d ∧
      (s.translateEnd 0 0 0 (endAt 0 d.src) .read d.nextLen).1 = some none ∧
      ((s.translateEnd 0 0 0 (endAt 0 d.src) .read d.nextLen).2.translateEnd 0 0 0 (endAt 0 d.dst) .write d.nextLen).1 = some none ∧
    (let r : DmaReq := { len := 8, src := .va 0, dst := .hold 0, ready := false, buf := some [(List.replicate 8 1, false)] }
     let s := engine.onDma 0 0 0 fun x => { x with reqs := [r] }
     s.engineFree 0 0 0 = true ∧ (s.dma 0 0 0).reqs.find? (fun r => !r.ready) = some r ∧
       (s.translateEnd 0 0 0 r.sink.1 .write r.len).1 = some none) := by decide +kernel

theorem witness_Invalidations :
    (requested.halted = false ∧ requested.granted .manager none 0 = true ∧ bits (2 ^ 20) 20 30 ≠ 0 ∧ (requested.ctxWords (bits (2 ^ 20) 0 16)).isSome = true ∧
      (requested.ctxWords (bits (2 ^ 20) 0 16)).map (fun x => ctxHarbour x.1) = some 0 ∧ (requested.fq 0).invs.length < 16) ∧
    (let i : Inval := { scope := 2, asid := 0, va := 0, pages := 0 }
     let s := on.onFq 0 fun q => { q with invs := [i] }
     (s.fq 0).invs = [i] ∧ s.invBusy 0 i = false) := by decide +kernel

theorem witness_RegulationWrites :
    on.halted = false ∧
    Master.manager.privileged = true ∧ (bits 256 0 9 ≤ 256 ∧ bits 256 16 7 ≤ 112 ∧ bits 256 0 9 + on.reserveSum 1 (·.xlatRes) ≤ 256 ∧
      bits 256 16 7 + on.reserveSum 1 (·.cq0Res) ≤ 112) ∧
    (∀ c < 8, 1 ≤ bits (0x11111111 + 64 * 2 ^ 32) (4 * c) 4 ∧ bits (0x11111111 + 64 * 2 ^ 32) (4 * c) 4 ≤ 8) ∧
    bits (0x11111111 + 64 * 2 ^ 32) 32 7 + on.reserveSum 1 (·.meshW) ≤ 64 ∧
    bits (0x11111111 + 64 * 2 ^ 32) 40 8 + on.reserveSum 1 (·.brqRes) ≤ 128 ∧
    ((tabGet {} on.rg.slices 63).valid = false ∧ bit (2 : Word) 0 = false) ∧
    (bits 1 8 5 ≤ 20 ∧ bit 1 0 = true ∧ on.sliceOk 63 { valid := bit 1 0, func := bits 1 1 7, pasidLog2 := bits 1 8 5, pasidBase := bits 1 16 20 } = true) ∧
    (let s := on.onRg fun r => { r with slices := [(0, { valid := true, harbours := 2 })] }
     let x := tabGet {} s.rg.slices 0
     x.valid = true ∧ s.quiesced x = true ∧
       { x with valid := bit 1 0, func := bits 1 1 7, pasidLog2 := bits 1 8 5, pasidBase := bits 1 16 20 } = x) := by decide

theorem witness_PortStateCommands :
    (((ported .training).port 0).st = .training ∧ (ported .training).halted = false ∧ ((ported .training).checkPortSlot 0).sec.partnerId ≠ 0 ∧
      (((ported .training).checkPortSlot 0).portKey 0).map (·.partner) = some 2) ∧
    ((ported .retrain).port 0).st = .retrain ∧ ((ported .down).port 0).st = .down ∧
    (let s := (ported .sleep).onPw fun w => { w with st := .watch }
     s.halted = false ∧ s.running = true ∧ s.portPresent 0 = true ∧ (s.port 0).st = .sleep ∧ s.pw.transit = false ∧ s.pw.st = .watch ∧
       s.pw.resuming = false ∧ (s.onPw fun w => { w with transit := true }).pw.transit = true) := by decide +kernel

theorem witness_LaneGroupCommands :
    (((ported .up).port (0 / 4)).st = .up ∧ (ported .up).halted = false ∧
      (0 : BitVec 12) = ((((ported .up).takeAck 0 { type := 1 }).onLg 0 fun x => x).lg 0).rxNext) ∧
    (let s := (ported .up).onLg 0 fun g => { g with ackOwed := 1 }
     (s.port (0 / 4)).st = .up ∧ (s.lg 0).ackOwed ≠ 0 ∧ (s.lg 0).retry.length < 1024) ∧
    (((((ported .up).onLg 0 fun g => { g with farId := 2 }).checkPortSlot (0 / 4)).nextSlot 0).isSome = true ∧ ((ported .up).checkPortSlot (0 / 4)).nextSlot 0 = none) ∧
    0 < (tabGet {} (on.onLk fun x => { x with rx := [(4, { sinceAck := 1 })] }).lk.rx (1 * 4 + 0)).sinceAck := by decide +kernel

def txn : TxnIn := { tag := 0, spanId := 1, addr := 0, len := 8, launch := 0, ext := none }

theorem witness_RemoteRequests :
    spanned.halted = false ∧ (let s := spanned.spanRead txn.spanId
     s.remoteStatus txn 8 false true = 0 ∧ s.remoteTarget txn 8 false = .hbm [⟨0, 0, 8⟩] ∧
      s.remoteStatus txn 8 true false = 0 ∧ s.remoteTarget txn 8 true = .hbm [⟨0, 0, 8⟩] ∧
      s.remoteStatus { txn with spanId := 9 } 8 false true ≠ 0 ∧ s.remoteStatus { txn with spanId := 9 } 8 true false ≠ 0) ∧
      fenced.fenceEnt 0 0 = some { fon := 0, wait := true, signal := true, valid := true } := by decide +kernel

theorem witness_RemoteHold :
    let t : TxnIn := { txn with addr := 3 * 2 ^ 48 }
    let s := spanned.spanRead t.spanId
    s.remoteStatus t 8 false true = 0 ∧ s.remoteStatus t 8 true false = 0 ∧ (s.nearRead (s.remoteTarget t 8 false) 8).isSome = true ∧
      (s.nearWrite (s.remoteTarget t 8 true) (beatsOf (List.replicate 8 0) [])).isSome = true ∧
      ∀ ps, s.remoteTarget t 8 true ≠ .hbm ps := by
  refine ⟨by decide +kernel, by decide +kernel, by decide +kernel, by decide +kernel, ?_⟩
  intro ps h
  have : (match (spanned.spanRead 1).remoteTarget { txn with addr := 3 * 2 ^ 48 } 8 true with | .hbm _ => true | _ => false) = false := by
    decide +kernel
  rw [show (spanned.spanRead 1).remoteTarget { txn with addr := 3 * 2 ^ 48 } 8 true = .hbm ps from h] at this
  exact Bool.noConfusion this

theorem witness_RemoteAnswers :
    on.halted = false ∧
    (∀ a : Access, let r : RemoteReq := { node := 1, place := 0, slot := 0, engine := 0, req := 0, va := 0, len := 8, access := a }
      tabFind (on.onLk fun x => { x with reqs := [(3, r)] }).lk.reqs 3 = some r ∧ r.gone = false) ∧
    (let u : Unacked := { flit := {}, lg := 0 }
     (tabGet {} (on.onLk fun x => { x with tx := [(4, { unacked := [u] })] }).lk.tx (1 * 4 + 0)).unacked = [u] ∧ u.resends < 3) ∧
    (let u : Unacked := { flit := {}, lg := 0, resends := 3 }
     (tabGet {} (on.onLk fun x => { x with tx := [(4, { unacked := [u] })] }).lk.tx (1 * 4 + 0)).unacked = [u] ∧ 1 ∉ on.lk.unreachable) := by
  refine ⟨by decide, fun a => ?_, by decide, by decide⟩
  cases a <;> decide

theorem witness_HandoverMessages :
    let m : OwnMsg := { stateId := 5, epoch := 3 }
    ((owning {}).halted = false ∧ (owning { token := .held, epoch := 2 }).own m.stateId.toNat = some { token := .held, epoch := 2 } ∧
      (2 : Word) < m.epoch) ∧
    ((owning { epoch := 2 }).own 5 = some { epoch := 2 } ∧ (owning {}).lk.pool = true ∧ (owning {}).own 6 = none ∧ (owning {}).ownRoom = true) ∧
    ((owning { token := .taking, epoch := 3 }).own 5 = some { token := .taking, epoch := 3 }) ∧
    ((owning { token := .giving, epoch := 3 }).own 5 = some { token := .giving, epoch := 3 }) ∧
    ((owning { token := .taking, epoch := 3, copied := true }).own 5 = some { token := .taking, epoch := 3, copied := true }) := by
  decide

theorem witness_LeaseAndQueryMessages :
    let m : OwnMsg := { stateId := 5, epoch := 3, acked := 3 }
    ((owning {}).halted = false ∧ (owning {}).own 6 = none ∧ (owning {}).ownRoom = true ∧ (owning {}).lk.pool = true) ∧
    ((owning { token := .origin, epoch := 3, holder := 2 }).own m.stateId.toNat = some { token := .origin, epoch := 3, holder := 2 } ∧
      2 ≠ ({ token := .origin, epoch := 3, holder := 2 } : Own).peer ∧ ¬ m.epoch < (3 : Word)) ∧
    (owning { token := .origin, epoch := 3, holder := 2, restoring := true }).own 5 =
      some { token := .origin, epoch := 3, holder := 2, restoring := true } ∧
    ((owning { token := .origin, epoch := 3, holder := 2, peer := 4 }).own 5 = some { token := .origin, epoch := 3, holder := 2, peer := 4 } ∧
      (4 : Nat) ≠ 2) ∧
    ((owning { token := .held, epoch := 3 }).own 5 = some { token := .held, epoch := 3 }) ∧
    ((owning { token := .taking, epoch := 3 }).own 5 = some { token := .taking, epoch := 3 } ∧
      ({ m with token := 3 } : OwnMsg).token ≠ 7 ∧ (if (0 : Word) < m.acked then m.acked else 0) = 3 ∧
      (if (0 : Word) < ({ m with acked := 1 } : OwnMsg).acked then 1 else 0) ≠ (3 : Word)) ∧
    (owning { token := .giving, epoch := 3 }).own 5 = some { token := .giving, epoch := 3 } ∧
    ((owning { token := .held, epoch := 2 }).own 5 = some { token := .held, epoch := 2 } ∧ (2 : Word) < m.epoch ∧ ¬ m.epoch < (2 : Word)) := by
  decide

theorem witness_CheckpointAndLeaseTimers :
    ((owning {}).halted = false ∧ (owning { token := .taking, restoring := true }).own 5 = some { token := .taking, restoring := true }) ∧
    ((owning { token := .origin, holder := 2 }).own ({ stateId := 5 } : OwnMsg).stateId.toNat = some { token := .origin, holder := 2 } ∧
      ¬ ({ stateId := 5 } : OwnMsg).epoch < (0 : Word) ∧ ({ token := .origin, holder := 2 } : Own).leaseLeft = 0) ∧
    ((owning { token := .giving, wait := 2 }).own 5 = some { token := .giving, wait := 2 }) ∧
    ((owning { token := .held }).own 5 = some { token := .held } ∧
      2 * (owning { token := .held }).lk.leaseTides ≤ ({ token := .held } : Own).unackedBoundaries) := by decide

theorem witness_RolesPortsAndNodes :
    on.halted = false ∧
    (bit (256 : Word) 8 = true ∧ on.lk.pool = false ∧ on.lk.shifting = false ∧ on.computeBusy = false) ∧
    (bit (0 : Word) 8 = false ∧ (owning {}).lk.pool = true ∧ (owning {}).lk.own.any (fun o => o.2.holding) = false) ∧
    (let s := on.onLk fun x => { x with shifting := true, roleReq := some true }
     s.lk.shifting = true ∧ s.lk.roleReq = some true) ∧
    ((ported .failed).portPresent 0 = true ∧ ((ported .failed).port 0).st = .failed ∧ ((ported .up).port 0).st = .up) ∧
    (bit (2 : Word) 1 = true ∧ bit (0 : Word) 1 = false ∧ (on.port 0).st = .off) ∧
    (5 ≠ on.lk.nodeId ∧ (on.node 5).epoch ≠ 1 % 256) := by decide +kernel

theorem witness_PowerStateCommands :
    (on.running = true ∧ Master.manager.privileged = true ∧ on.lowPowerBusy = false ∧ on.pw.st = .active ∧ on.deepBusy = false) ∧
    (engine.lowPowerBusy = true ∧ (owning { token := .held }).deepBusy = true) ∧
    ((powered fun w => { w with st := .idle }).pw.st = .idle ∧ (powered fun w => { w with st := .idle }).pw.transit = false) ∧
    (let s := powered fun w => { w with transit := true, entered := true, waking := false }
     s.running = true ∧ s.pw.transit = true ∧ s.pw.entered = true ∧ s.pw.waking = false ∧ s.pw.st = .active) ∧
    (powered fun w => { w with transit := true, entered := true, waking := true }).pw.waking = true ∧
    (let s := (powered fun w => { w with st := .watch, resuming := true }).onPins fun p => { p with
       enA := true, enB := true, enC := true, pgA := true, pgB := true, pgC := true }
     s.running = true ∧ s.pw.resuming = true ∧ s.railsGood = true) ∧
    ((powered fun w => { w with st := .watch }).running = true ∧ (powered fun w => { w with st := .watch }).pw.resuming = false) := by
  decide +kernel

/-- Rail 0 is `x`. -/
def railed (x : Rail) : State := on.onRail 0 fun _ => x

theorem witness_RailAndBudgetCommands :
    (on.halted = false ∧ (on.rail 0).req = none) ∧
    (let q : AvsReq := { mv := 700, sent := false }
     ((railed { req := some q }).rail 0).req = some q ∧ q.sent = false) ∧
    (let q : AvsReq := { mv := 700, sent := true }
     ((railed { req := some q }).rail 0).req = some q ∧ q.sent = true ∧ q.tries < 3) ∧
    (let q : AvsReq := { mv := 700, sent := true, tries := 3 }
     ((railed { req := some q }).rail 0).req = some q ∧ q.sent = true ∧ 3 ≤ q.tries) ∧
    (bits 1200 0 12 = 1200 ∧ bits 3600 0 12 = 3600 ∧ bits 1199 0 12 < 1200 ∧ 3600 < bits 3601 0 12) ∧
    ((powered fun w => { w with boost := true }).pw.boost = true ∧ (powered fun w => { w with boost := true }).pw.st = .active ∧
      (powered fun w => { w with boost := true }).pw.brown = false ∧ clocked.regionFreq 0 ≠ 0) := by decide +kernel

theorem witness_BrownAndThermalCommands :
    (on.running = true ∧ on.halted = false ∧ on.pw.brown = false ∧ on.pw.st = .active) ∧
    ((powered fun w => { w with st := .watch }).pw.st = .watch ∧
      (on.onBoot fun b => { b with life := .starting }).boot.life = .starting) ∧
    (powered fun w => { w with brown := true }).pw.brown = true ∧
    (let s := powered fun w => { w with brownHold := true, holdCount := 17 }
     s.pw.brownHold = true ∧ 17 ≤ s.pw.holdCount ∧ s.tide.freqAnnounced = none) ∧
    (let s := (powered fun w => { w with brownHold := true, holdCount := 17 }).onTide fun t => { t with freqAnnounced := some 1000 }
     s.tide.freqAnnounced = some 1000 ∧ 1000 ≤ s.tide.jobFreq) ∧
    (let s := (powered fun w => { w with brownHold := true, holdCount := 17, margin := { volt := (List.range 16).map fun r => (64 * r + 17, 700) } }).onTide fun t => { t with
       freqAnnounced := some 1025 }
     let s1 := s.onPw fun w => { w with brownHold := false, holdCount := 0, regionSet := [], regionNext := [] }
     s.tide.jobFreq < 1025 ∧ s1.voltReady 1025 = false) ∧
    (on.warnAt 127 ≤ 200 ∧ on.pw.warm.contains 127 = false) ∧
    (powered fun w => { w with dieWarn := 95 }).warnAt 0 = 95 ∧
    (sensorDie 119 = some 1 ∧ on.throttleAt 119 ≤ 200 ∧ on.pw.throttle.contains 1 = false) ∧
    (powered fun w => { w with throttle := [1] }).pw.throttle.contains 1 = true ∧
    (tripAt 111 = some 120 ∧ tripAt 112 = some 105) := by decide +kernel

theorem witness_MarginAndGatingCommands :
    (let s := powered fun w => { w with sincePlan := 2 ^ 20 }
     s.running = true ∧ s.halted = false ∧ s.pw.measuring = false ∧ 2 ^ 20 ≤ s.pw.sincePlan) ∧
    (powered fun w => { w with measuring := true }).pw.measuring = true ∧
    (let s := powered fun w => { w with flashWriting := true }
     s.pw.flashWriting = true ∧ olderA s.pw.flashA s.pw.flashB = true) ∧
    olderA (powered fun w => { w with flashA := some {} }).pw.flashA none = false ∧
    (on.lk.pool = false ∧ on.lk.shifting = false ∧ on.pw.transit = false ∧ on.pw.resuming = false) ∧
    (owning {}).lk.pool = true ∧
    ((on.onCluster 31 fun x => { x with ungating := true }).cluster 31).ungating = true ∧
    (let s := powered fun w => { w with policyReq := some (700, 5), fAllow := 700 }
     let v : Word := 700 + 5 * 65536
     s.pw.policyReq = some (700, 5) ∧ bits v 0 12 = s.pw.fAllow ∧ s.pw.fAllow = 700 ∧
       bits v 16 16 = (5 : Word).toNat % 65536 ∧ bits (0 : Word) 0 12 ≠ s.pw.fAllow) ∧ on.pw.policyReq = none := by decide +kernel

/-- Tile place 0 is as `f` makes it. -/
def placed (f : Place → Place) : State := on.onPlace 0 f

theorem witness_HangAndTileRecovery :
    (on.tilePresent 0 = true ∧ (on.tile 0).failed = false ∧ on.placeServed 0 = some 0 ∧ (on.place 0).cond ≠ .retired ∧
      on.spareFree 0 = true ∧ on.hostMode 2 = false ∧ on.placeServed 512 = none ∧
      (on.onTile (spareOf 0) fun x => { x with failed := true }).spareFree 0 = false) ∧
    (on.channelPresent 0 = true ∧ (on.chan 0).retired = false ∧ on.millPresent 0 = true ∧ (on.mill 0).failed = false) ∧
    (on.placePresent 0 = true ∧ (on.place 0).holdFailed = false) ∧
    (on.running = true ∧ on.halted = false ∧ on.missers = [] ∧ on.answers (.tile 0) = true ∧ on.misses (.tile 0) = 0) ∧
    (let s := on.onTile 0 fun x => { x with misses := 1 }
     s.missers = [.tile 0] ∧ s.answers (.tile 0) = true ∧ s.misses (.tile 0) = 1) ∧
    (let s := slotted { state := .saving, stuck := 64 } on
     s.running = true ∧ s.placeServed 0 = some 0 ∧ (s.slotAt 0 0).state ≠ .free ∧ 0 < (s.slotAt 0 0).stuck ∧
       s.ras.hangTides ≤ (s.slotAt 0 0).stuck) ∧
    (let s := on.onMill 0 fun x => { x with stuck := [(0, 64)] }
     0 < tabGet 0 (s.mill 0).stuck 0 ∧ s.ras.hangTides ≤ tabGet 0 (s.mill 0).stuck 0) ∧
    (on.absentUnit (tlCtl 0) = false ∧ on.resetCluster 0 = some 0 ∧ on.absentUnit (tlCtl 512) = false ∧ on.resetCluster 512 = none ∧
      on.tilePresent 512 = true ∧ (on.tile 512).standsFor = none ∧
      ((on.onTile 512 fun x => { x with standsFor := some 0 }).tile 512).standsFor = some 0) ∧
    (let s := ((placed fun x => { x with outOfService := true }).onTile 0 fun x => { x with failed := true }).onHif fun h => { h with
       modeInForce := 4 }
     s.hostMode 2 = true ∧ (s.tile 0).failed = true ∧ (s.place 0).outOfService = true ∧ (s.place 0).resume = 0) ∧
    (let s := on.onTile 0 fun x => { x with inReset := true }
     s.resetCluster 0 = some 0 ∧ (s.cluster 0).inReset = false ∧ (s.tile 0).inReset = true) ∧
    ((on.onCluster 0 fun x => { x with inReset := true }).cluster 0).inReset = true ∧
    (let s := placed fun x => { x with subst := 2, outOfService := true, cond := .bound 1 1 }
     (s.place 0).subst = 2 ∧ (s.place 0).outOfService = true ∧ s.hm.takeover = false ∧ s.spareFree 0 = true ∧
       (s.place 0).cond = .bound 1 1) ∧
    ((placed fun x => { x with resume := 2 }).place 0).resume = 2 := by decide +kernel

/-- The security unit is as `f` makes it. -/
def secured (f : Security → Security) : State := on.onSec f

theorem witness_TamperBatteryAndKeyUpdates :
    (on.running = true ∧ on.halted = false ∧ on.boot.life ≠ .unpowered ∧ on.boot.life ≠ .frozen ∧ on.boot.life ≠ .tripped ∧
      on.sec.battLow = false ∧ (secured fun c => { c with battLow := true }).sec.battLow = true) ∧
    ((on.onBoot fun b => { b with life := .unpowered }).boot.life = .unpowered ∧
      (on.onBoot fun b => { b with life := .frozen }).boot.life = .frozen ∧ on.sec.upd = none) ∧
    (let s := secured fun c => { c with upd := some 0, rootValid := false }
     s.sec.upd = some 0 ∧ s.keyReason 0 { mldsaOk := true, ecdsaOk := true, decryptOk := true, keys := [] } = (2, 0, [])) := by
  decide +kernel

theorem witness_SpdmAndIdeKeyCommands :
    on.boot.life ≠ .unpowered ∧ on.halted = false ∧ (secured fun c => { c with rootValid := true }).sec.rootValid = true ∧
    (secured fun c => { c with rootValid := false }).sec.rootValid = false ∧
    (secured fun c => { c with rootValid := true, sessions := 3 }).sec.sessions < 4 ∧
    4 ≤ (secured fun c => { c with rootValid := true, sessions := 4 }).sec.sessions ∧
    0 < (secured fun c => { c with rootValid := true, sessions := 1 }).sec.sessions ∧ on.sec.sessions = 0 ∧
    (let s := ((secured fun c => { c with sessions := 1 }).onLink 0 fun l => { l with up := true }).onStream 0 8 fun x => { x with
       prog1 := true, secure := true }
     s.ideKm 0 8 1 = true ∧ (s.stream 0 8).prog1 = true ∧ s.ideKm 0 8 0 = true ∧ (s.stream 0 8).prog0 = false ∧
       (s.stream 0 8).secure = true) := by decide +kernel

/-- BAR2 page 0 of function 0 maps the first 4,096 bytes of channel 0; link 0 is as `f` makes it. -/
def mapped (f : Link → Link) : State :=
  ((on.onHb fun m => { m with harbours := [(0, { channels := [0], tiles := [0] })] }).onHif fun h => { h with
    apertures := [(0, (1, 0, 7, 0))], objs := [(7, { harbour := 0, addr := 0, len := 4096, refs := 1 })] }).onLink 0 f

theorem witness_HostTrafficAndLinks :
    let s := mapped fun l => { l with up := true, pres := true }
    (s.running = true ∧ s.halted = false ∧ 0 + 8 ≤ s.bar2Size 0 ∧ s.ideBars 0 false = false ∧
      s.bar2Parts 0 (8 / 2097152 + 2) 0 8 = [(8, some [⟨0, 0, 8⟩])] ∧
      [(⟨0, 0, 8⟩ : Piece)].any s.touchesPacing = false ∧
      s.bar2Parts 0 (8 / 2097152 + 2) 4096 8 = [(8, none)] ∧ (s.link 0).up = true ∧ (s.link 0).l23 = false) ∧
    [(⟨0, 2111832064, 8⟩ : Piece)].any s.touchesPacing = true ∧
    (s.onSec fun c => { c with ideRequired := 1 }).ideBars 0 false = true ∧
    (let r : HostReq := { link := 0, place := 0, slot := 0, engine := 0, va := 0, len := 8, access := .read, hostAddr := 0, req := 0 }
     tabFind (s.onHif fun h => { h with reqs := [(3, r)] }).hif.reqs 3 = some r ∧ r.gone = false) ∧
    (let s := s.onPins fun p => { p with pcieRdy := true, perst := true }
     s.pins.pcieRdy = true ∧ s.pins.perst = true) ∧
    (let s := (mapped fun l => { l with pres := true }).onPins fun p => { p with perst := false }
     (s.link 0).up = false ∧ (s.link 0).pres = true ∧ s.pins.perst = false) := by decide +kernel

/-- Context 1 of function 0 is at a step of its teardown. -/
def tearing (n : Nat) : State := on.onHif fun h => { h with ctxs := [(1, {
  harbour := 0, func := 0, pasid := 0, pasidEn := false, vaBits := 39, poolAddr := 0, poolLen := 0, teardown := n })] }

/-- The same, with a state record of the context that is handed to node 3. -/
def tearingMoved : State := (tearing 7).onLk fun x => { x with own := [(5, { token := .origin, context := 1, peer := 3 })] }

theorem witness_TeardownAndFunctionMode :
    ((tearing 4).halted = false ∧ ∃ x, (tearing 4).ctx 1 = some x ∧ x.teardown = 4) ∧ (tearing 4).asidBusy 1 = false ∧
    (∃ x, ((tearing 7).destroyStates 1).ctx 1 = some x ∧ x.teardown = 7) ∧
    (((tearing 7).destroyStates 1).lk.own.any fun o => o.2.token == .origin && o.2.context == 1) = false ∧
    ((∃ x, (tearingMoved.destroyStates 1).ctx 1 = some x ∧ x.teardown = 7) ∧
      ((tearingMoved.destroyStates 1).lk.own.any fun o => o.2.token == .origin && o.2.context == 1) = true) ∧
    (let s := mapped fun l => { l with grace := true }
     (s.link 0).up = false ∧ (s.link 0).grace = true) :=
  ⟨⟨rfl, _, rfl, rfl⟩, by decide +kernel, ⟨_, rfl, rfl⟩, by decide +kernel, ⟨⟨_, rfl, rfl⟩, by decide +kernel⟩, by decide +kernel⟩

/-- A start-up stands at a step with its rails good; the image's default map is loaded, or a stored one. -/
def starting (n : Nat) (m : Option (Tab Harbour)) : State :=
  (State.reset.onBoot fun b => { b with life := .starting, step := n, mapCopy := m, svnRaise := some 3 }).onPins fun p => { p with
    enA := true, enB := true, enC := true, pgA := true, pgB := true, pgC := true }

/-- The image of both slots of a start-up at step 3 is as `f` makes it. -/
def imaged (f : Image → Image) : State := (starting 3 none).onBoot fun b => { b with imageA := f b.imageA, imageB := f b.imageB }

/-- The refused record, the state before the map and the map loaded, of a start-up with a stored map, or else a default map, and what
`f` makes of those of its records that are not of structures or ports. -/
def mapping (m : Option (Tab Harbour)) (map : List (List Word)) (f : List (Nat × Word) → List (Nat × Word)) : Option Nat × State × Option State :=
  let keep (r : Nat × Word) : Bool := decide (r.1 < 0x20100 ∨ 0x80400 ≤ r.1 ∧ r.1 < 0x80800 ∨ 0x180000 ≤ r.1 ∧ r.1 < 0x200000 ∨ 0x1000000 ≤ r.1)
  let s := (starting 8 m).onBoot fun b => { b with imageA := { b.imageA with
    records := f (b.imageA.records.filter keep), map := map } }
  let r := applyRecords 0 s.image.records ((s.selfTests {}).onBoot fun b => { b with step := 9 })
  let s3 := (r.2.inForce.onTide fun c => { c with
    role := (r.2.roleOf s.image false).1, groupId := s.image.groupId, masterNode := s.image.masterNode }).onHif fun h =>
      { h with links := linksOf s.image }
  (r.1, s3, (((s3.onPins fun p => { p with pcieRdy := true }).onBoot fun b => { b with
    step := 11, mapStored := b.mapCopy.isSome }).replay).loadMap)

/-- What the last steps of a start-up with a stored map check. -/
def startChecks (m : Option (Tab Harbour)) (f : List (Nat × Word) → List (Nat × Word)) : Option (Bool × Bool × Bool) :=
  (mapping m [] f).2.2.map fun s5 => (((s5.harbour 0).getD {}).tiles.any fun n => s5.unitOf 0 0 n,
    ((s5.harbour 0).getD {}).channels.any fun n => s5.unitOf 0 1 n, s5.structures.any fun b => (s5.resolve 0 b.1 b.2).isNone)

theorem witness_StartUpCommands :
    (State.reset.boot.life = .inReset ∧ (State.reset.onPins fun p => { p with modRst := false }).pins.modRst = false ∧
      State.reset.pins.freeze = false ∧ State.reset.pins.thermTrip = false ∧ State.reset.pins.seq ≠ 3) ∧
    ((starting 3 none).boot.life = .starting ∧ (starting 3 none).railsGood = true ∧
      (starting 3 none).slotFail (starting 3 none).boot.imageA = 0 ∧ (starting 3 none).slotFail (starting 3 none).boot.imageB = 0) ∧
    (let s := imaged fun x => { x with keysOk := false }
     s.slotFail s.boot.imageA = 3 ∧ s.slotFail s.boot.imageB = 3) ∧ (starting 8 none).boot.svnRaise = some 3 := by decide +kernel

theorem witness_StartUpMapLoaded :
    let m : Option (Tab Harbour) := some [(0, { tiles := [0], channels := [0] })]
    (mapping m [] id).1 = none ∧ (mapping m [] id).2.1.fieldsOk = true ∧ startChecks m id = some (true, true, false) ∧
      (mapping none [[1]] id).2.2.isNone = true := by decide +kernel

theorem witness_StartUpMapWithoutChannel : startChecks (some [(0, { tiles := [0] })]) id = some (true, false, true) := by decide +kernel

theorem witness_StartUpFieldRefused :
    let f (t : List (Nat × Word)) : List (Nat × Word) := t.filter fun r => r.1 != 0x20018
    (mapping none [[1]] f).1 = none ∧ (mapping none [[1]] f).2.1.fieldsOk = false := by decide +kernel

theorem witness_StartUpStructureRefused :
    startChecks (some [(0, { tiles := [0], channels := [0] })]) (· ++ [(0x10300, 0x800000000000)]) = some (true, true, true) := by decide +kernel

theorem witness_StartUpRecordRefused :
    let s := (starting 8 none).onBoot fun b => { b with imageA := { b.imageA with records := [(7, 0)] } }
    (applyRecords 0 s.image.records ((s.selfTests {}).onBoot fun b => { b with step := 9 })).1 = some 0 := by decide +kernel

theorem witness_ResetsFailuresAndRailPins :
    (on.boot.life = .running ∧ (on.onPins fun p => { p with modRst := false }).pins.modRst = false ∧ on.live = true ∧ on.running = true ∧
      0 < on.ras.bridge ∧ 1 < on.ras.bridge) ∧
    (let s := (on.onPins fun p => { p with modRst := true }).onBoot fun b => { b with life := .tripped }
     s.pins.modRst = true ∧ s.boot.life = .tripped) ∧
    (let s := (on.onPins fun p => { p with modRst := true }).onBoot fun b => { b with life := .frozen }
     s.pins.modRst = true ∧ s.boot.life = .frozen) ∧
    (let s := on.onPins fun p => { p with enA := true, enB := true, enC := true, seq := 1 }
     s.pins.enA = true ∧ s.pins.enB = true ∧ s.pins.enC = true ∧ s.pins.seq ≠ 3 ∧ s.pins.seq ≤ 1 ∧ s.boot.life ≠ .unpowered) ∧
    ((State.reset.onPins fun p => { p with modRst := true }).boot.life = .inReset ∧
      (on.onBoot fun b => { b with life := .unpowered }).boot.life = .unpowered) := by decide +kernel

theorem witness_FreezeDumpAndTestAccess :
    (on.running = true ∧ bit (1 : Word) 0 = true ∧ bit (6 : Word) 0 = false) ∧
    (let s := on.onBoot fun b => { b with life := .frozen }
     s.halted = true ∧ unclocked .heartbeat = false ∧ s.boot.life = .frozen ∧ (s.frameOf s.dumpSegments 0).isSome = true ∧
       s.frameOf s.dumpSegments (2 ^ 64) = none) ∧
    (on.onPins fun p => { p with modRst := true }).pins.modRst = true := by decide +kernel

theorem witness_CrcAndRegisterWrites :
    (on.running = true ∧ on.halted = false ∧ on.crc.drift = false ∧ on.served 0x10010 = true ∧ on.served 0x10014 = true) ∧
    (on.absentUnit 0xE00000 = false ∧ reservedBar0 0xE00000 = true ∧ on.served 0xE00000 = true) ∧
    (on.absentUnit 0x10010 = false ∧ reservedBar0 0x10010 = false ∧ on.reaches .manager none true 0x10010 = true ∧
      on.reaches (.func 3) none true 0x10010 = false ∧ doorbellPage 0x10010 = none) ∧
    (doorbellPage 0x2000000 = some 0 ∧ on.reaches (.func 3) none true 0x2000000 = false ∧ reservedBar0 0x2000000 = false ∧
      on.absentUnit 0x2000000 = false) ∧
    (∃ r, on.regAt 0x10010 = some r ∧ r.spans = false ∧ (r.wo.any fun f => f.1 < 0 ∨ 0 + 32 < f.1 + f.2) = true) := by
  refine ⟨by decide +kernel, by decide +kernel, by decide +kernel, by decide +kernel, _, rfl, by decide +kernel, by decide +kernel⟩

theorem witness_EweasContextsAndMemory :
    ((cmd []).func < 128 ∧ owned.running = true ∧ (owned.link 0).up = true ∧ (owned.page 0).busy = false ∧ ((owned.onPage 0 fun p => { p with busy := true }).page 0).busy = true) ∧
    (∃ x, owned.ctx 1 = some x ∧ x.passes (cmd [1]) = true ∧ x.teardown = 0 ∧ x.handle 0 = some (0, { obj := some 7, rights := 7 })) ∧
    (let t := owned.taken 0x01 (cmd [w64 (39 * 256), 0, 2097152, 2097152])
     t.in0 2097152 2097152 = true ∧ (t.harbour 0).isNone = false ∧ bits (w64 (39 * 256)) 6 2 = 0 ∧ bits (w64 (39 * 256)) 14 50 = 0 ∧
       bits (w64 (39 * 256)) 8 6 = 39 ∧ (t.ctx 0).isSome = false) ∧
    (let t := owned.taken 0x03 (cmd [1, 131072, 65536])
     t.lk.nodeId = 0 ∧ (t.resolve 0 131072 65536).isNone = false ∧
       t.objMeets { harbour := 0, addr := 131072, len := 65536, pacing := false } = false) ∧
    ((7 : Nat) &&& 7 = 7 ∧ owned.token 0 = some (.mem 7 7) ∧ (∃ y, tabFind owned.hif.objs 7 = some y ∧ y.pins ≠ 0 ∧ y.harbour = 0) ∧
      (tabFind owned.hif.zeroing 7).isSome = false) := by
  refine ⟨by decide +kernel, ⟨_, rfl, by decide +kernel⟩, by decide +kernel, by decide +kernel, by decide +kernel, by decide +kernel,
    ⟨_, rfl, by decide +kernel⟩, by decide +kernel⟩

theorem witness_EweasMappingsAndFences :
    (owned.running = true ∧ (owned.link 0).up = true ∧ (owned.page 0).busy = false ∧ mapFlags 3 = some (3, 0) ∧ (3 : Nat) &&& 7 = 3 ∧
      ((owned.taken 0x09 (cmd [1, 65536, 0, 0, 4096, 3])).mapRange 1 { va := 65536, len := 4096, handle := some 0, obj := some 7, off := 0, page := 0, rights := 3 }
        65536).isSome = true ∧
      ((owned.taken 0x0A (cmd [1, 65536, 0, 4096, 3])).mapRange 1 { va := 65536, len := 4096, handle := none, obj := none, off := 0, page := 0, rights := 3 }
        (7 * 2 ^ 48)).isSome = true) ∧
    ((cmd [1, 4096, 4096]).arg 2 % 4096 = 0 ∧ (1 : Nat) * 2097152 ≤ owned.bar2Size 0) ∧
    ((owned.taken 0x10 (cmd [1, 0, 0, 0, 0])).mirrorOk 1 0 = true ∧
      lowestFree (2 ^ owned.fu.storeLog2) (fun f => (owned.fence f).isSome) < 2 ^ owned.fu.storeLog2) ∧
    (owned.fenceKey 1 0 = some (2 ^ 24, { fon := 0, wait := true, signal := true, valid := true }) ∧ owned.mirrorOk 1 0 = true) ∧
    (owned.token 1 = some (.fence 0 true true) ∧ owned.fence 0 = some { refs := 1 }) := by decide +kernel

/-- A graph of one node stands at the start of object 7. -/
def graphed : State :=
  (owned.hbmPut 0 65536 (wordBytes (w64 (1 + 2 ^ 32))) false).hbmPut 0 (65536 + 256) (wordBytes (w64 (2 ^ 56))) false

/-- What enabling a berth needs is met by a command of function 0. -/
def berthCmd : EwCmd := cmd [1, w64 (4 * 2 ^ 24), 2097152, 2129920, 2146304, 0, 0]

theorem witness_EweasBerthsGraphsAndRecords :
    (let t := owned.taken 0x18 berthCmd
     let img (r : Nat) : Word := wordAt berthCmd.args (r + 1)
     let y : Berth := { ([1, 2, 3, 4, 5].foldl (fun b r => b.withCfg r (img r)) (({} : Berth).withCfg0 (img 0))) with harbour := 0, context := 1 }
     let s1 := (t.onBerth 1 fun _ => y).enableBerth 1 (w64 (putBits (putBits (img 0).toNat 1 6 0) 8 16 1))
     t.running = true ∧ (owned.link 0).up = true ∧ (owned.page 0).busy = false ∧ berthCmd.func = 0 ∧ berthCmd.arg 1 = 1 ∧ y.func = 0 ∧ y.log2 = 4 ∧ ([1, 2, 3, 4, 5].all fun r => cfgInRange r (img r)) = true ∧
       y.irqMode = 0 ∧ lowestFree 8192 (fun i => (t.berth i).enable || t.berthBusy i) = 1 ∧ (s1.berth 1).enable = true) ∧
    ((cmd [0]).arg 1 < 8192 ∧ (owned.berth 0).enable = true ∧ (owned.berth 0).context = 1 ∧ (owned.ctx 1).isSome = true) ∧
    (∃ x, owned.ctx 1 = some x ∧ x.events.contains 3 = true ∧ x.teardown = 0 ∧ x.pasidEn = false) ∧
    (owned.own 5 = some { token := .origin, context := 1, holder := 2 } ∧ ({ token := .origin } : Own).peer = 0xFFF ∧ owned.ownRoom = true ∧
      owned.lk.nodeId = 0 ∧ ((owned.putOwn 6 { token := .held }).own 6).any fun o => o.token == .held) ∧
    (graphed.readH 0 65536 8 = some (wordBytes (w64 (1 + 2 ^ 32)), false) ∧ graphed.objPinned 7 = true ∧
      graphed.imageOk { context := 1, valid := true, obj := 7, offset := 0, nodes := 1, exitNode := 0, curVersion := 1, curSlot := 0
                        slotVersion := [(0, 1)] } 0 = true ∧ 256 + 4 * 1 * 0x440 ≤ 65536) ∧
    (∃ g : Graph, ({ owned with graphs := [(4096, { context := 1, valid := true, obj := 7, offset := 0, nodes := 1, exitNode := 0, curVersion := 1
                                                    curSlot := 0, slotVersion := [(0, 1)] })] } : State).graphOf 1 0 = some (4096, g) ∧ g.unregistering = false) := by
  refine ⟨by decide +kernel, by decide +kernel, ⟨_, rfl, by decide +kernel⟩, by decide +kernel, by decide +kernel, ⟨_, rfl, by decide⟩⟩

end Sys2Proof.Tests
end

section
/-! SUPPORT. The statements of 00_scope: a step runs the command in front, every command goes on, what no command undoes, the state
after reset, how events are counted, and what a write out of a master's reach does. -/
namespace Sys2Proof.Proofs
open Sys2Proof Sys2Proof.Machine Sys2Proof.Laws

/-! One step is one command (R24, log entries 1 and 14) -/

theorem step_idle {s : State} (h : s.pending = []) : step s = .next s := by
  simp only [step, h]

theorem step_cons {s : State} {c : Instr} {q : List Instr} (h : s.pending = c :: q) :
    step s = exec c { s with pending := q } := by
  simp only [step, h]

/-- Settles O1: the command in front runs on the state whose queue is the rest. -/
theorem stepRunsTheFrontCommand : Obligations.StepRunsTheFrontCommand :=
  fun _ _ _ => step_cons rfl

/-- What the meaning of every command has in common: one next state, behind the gate of a frozen or tripped module unless the command
needs no clock (R611). -/
theorem exec_eq_gated (c : Instr) (s : State) : ∃ u, exec c s = bif unclocked c then done u else s.clocked u := by
  cases c <;> exact ⟨_, rfl⟩

theorem clocked_goesOn (s u : State) : goesOn (s.clocked u) :=
  ⟨if s.halted then s else u, rfl⟩

theorem exec_goesOn (c : Instr) (s : State) : goesOn (exec c s) := by
  obtain ⟨u, hu⟩ := exec_eq_gated c s
  rw [hu]
  cases unclocked c
  case true => exact ⟨u, rfl⟩
  case false => exact clocked_goesOn s u

theorem step_goesOn (s : State) : goesOn (step s) := by
  cases h : s.pending with
  | nil => exact ⟨s, step_idle h⟩
  | cons c q => exact step_cons h ▸ exec_goesOn c _

/-- Settles O2: each command's answer is a next state, with its clock gate or without one. -/
theorem everyStepGoesOn : Obligations.EveryStepGoesOn :=
  ⟨exec_goesOn, step_goesOn, fun _ => step_idle⟩

/-! What no step undoes -/

/-- Every command keeps what the part fixes, the queue behind it and the form of memory, and blows fuses only: the keep law of each
command's meaning, command by command. -/
theorem exec_keep (s : State) : ∀ (c : Instr) (t : State), exec c s = .next t → Keep s t
  | .tideBoundary _ => keep_execTideBoundary (Keep.refl s)
  | .budgetPreempt _ => keep_execBudgetPreempt (Keep.refl s)
  | .berthTimeout _ => keep_execBerthTimeout (Keep.refl s)
  | .tideApply _ _ => keep_execTideApply (Keep.refl s)
  | .tickMessage _ _ _ _ => keep_execTickMessage (Keep.refl s)
  | .missedTick => keep_execMissedTick (Keep.refl s)
  | .echoExchange _ => keep_execEchoExchange (Keep.refl s)
  | .loadComplete _ _ => keep_execLoadComplete (Keep.refl s)
  | .restoreComplete _ _ _ _ => keep_execRestoreComplete (Keep.refl s)
  | .drainComplete _ _ => keep_execDrainComplete (Keep.refl s)
  | .saveWindowClose _ _ _ => keep_execSaveWindowClose (Keep.refl s)
  | .partRetire _ _ => keep_execPartRetire (Keep.refl s)
  | .launchComplete _ => keep_execLaunchComplete (Keep.refl s)
  | .abortComplete _ _ => keep_execAbortComplete (Keep.refl s)
  | .evictionComplete _ => keep_execEvictionComplete (Keep.refl s)
  | .saveHeapZeroingDone _ => keep_execSaveHeapZeroingDone (Keep.refl s)
  | .tileError _ _ _ _ => keep_execTileError (Keep.refl s)
  | .tensorInstruction _ _ _ => keep_execTensorInstruction (Keep.refl s)
  | .exactRowMerge _ _ _ _ _ => keep_execExactRowMerge (Keep.refl s)
  | .rowRound _ _ _ => keep_execRowRound (Keep.refl s)
  | .rowClear _ _ _ => keep_execRowClear (Keep.refl s)
  | .vectorInstruction _ _ _ => keep_execVectorInstruction (Keep.refl s)
  | .transcendentalInstruction _ _ _ _ _ => keep_execTranscendentalInstruction (Keep.refl s)
  | .dmaDescriptor _ _ _ _ _ _ _ => keep_execDmaDescriptor (Keep.refl s)
  | .kernelFenceWait _ _ _ _ _ _ => keep_execKernelFenceWait (Keep.refl s)
  | .fenceReachedNotice _ _ => keep_execFenceReachedNotice (Keep.refl s)
  | .kernelFenceSignal _ _ _ _ => keep_execKernelFenceSignal (Keep.refl s)
  | .deviceDoorbell _ _ _ _ => keep_execDeviceDoorbell (Keep.refl s)
  | .gangReduction _ _ _ _ _ => keep_execGangReduction (Keep.refl s)
  | .gangBroadcast _ _ _ _ _ => keep_execGangBroadcast (Keep.refl s)
  | .reductionResult _ _ => keep_execReductionResult (Keep.refl s)
  | .setTag _ _ _ _ _ => keep_execSetTag (Keep.refl s)
  | .clearTag _ _ _ => keep_execClearTag (Keep.refl s)
  | .readSpecialScalar _ _ _ _ => keep_execReadSpecialScalar (Keep.refl s)
  | .kernelExit _ _ _ => keep_execKernelExit (Keep.refl s)
  | .kernelTrap _ _ _ => keep_execKernelTrap (Keep.refl s)
  | .millLoadComplete _ _ _ => keep_execMillLoadComplete (Keep.refl s)
  | .millRecord _ _ => keep_execMillRecord (Keep.refl s)
  | .millScanEnd _ _ => keep_execMillScanEnd (Keep.refl s)
  | .millListAccepted _ _ => keep_execMillListAccepted (Keep.refl s)
  | .mergeComplete _ => keep_execMergeComplete (Keep.refl s)
  | .millListReceive _ _ _ => keep_execMillListReceive (Keep.refl s)
  | .millSlotSaved _ _ => keep_execMillSlotSaved (Keep.refl s)
  | .millZeroingDone _ _ => keep_execMillZeroingDone (Keep.refl s)
  | .millAbortDone _ _ => keep_execMillAbortDone (Keep.refl s)
  | .dbSubmit _ _ _ _ => keep_execDbSubmit (Keep.refl s)
  | .dbCplConsumed _ _ _ _ => keep_execDbCplConsumed (Keep.refl s)
  | .dbCapConsumed _ _ _ _ => keep_execDbCapConsumed (Keep.refl s)
  | .dbFenceSignal _ _ _ _ => keep_execDbFenceSignal (Keep.refl s)
  | .wheelPosition _ => keep_execWheelPosition (Keep.refl s)
  | .manifestFetch _ => keep_execManifestFetch (Keep.refl s)
  | .berthEnable _ _ _ => keep_execBerthEnable (Keep.refl s)
  | .berthDisable _ _ _ => keep_execBerthDisable (Keep.refl s)
  | .berthStop _ _ => keep_execBerthStop (Keep.refl s)
  | .berthAbort _ _ => keep_execBerthAbort (Keep.refl s)
  | .ltQuotaWrite _ _ _ => keep_execLtQuotaWrite (Keep.refl s)
  | .heartbeat => keep_execHeartbeat (Keep.refl s)
  | .heartbeatLoss => keep_execHeartbeatLoss (Keep.refl s)
  | .selfCheckReport => keep_execSelfCheckReport (Keep.refl s)
  | .hmFailover => keep_execHmFailover (Keep.refl s)
  | .hmLost _ => keep_execHmLost (Keep.refl s)
  | .fenceSignalApply => keep_execFenceSignalApply (Keep.refl s)
  | .hmFenceEvict _ _ => keep_execHmFenceEvict (Keep.refl s)
  | .waitCycleApply => keep_execWaitCycleApply (Keep.refl s)
  | .hmCycleAnswer _ _ => keep_execHmCycleAnswer (Keep.refl s)
  | .patchApply _ => keep_execPatchApply (Keep.refl s)
  | .hbReq _ _ => keep_execHbReq (Keep.refl s)
  | .hbCancel _ _ => keep_execHbCancel (Keep.refl s)
  | .rebindDrain _ => keep_execRebindDrain (Keep.refl s)
  | .rebindSave _ => keep_execRebindSave (Keep.refl s)
  | .rebindZeroDone _ => keep_execRebindZeroDone (Keep.refl s)
  | .rebindTransferDone _ => keep_execRebindTransferDone (Keep.refl s)
  | .rebindBump _ => keep_execRebindBump (Keep.refl s)
  | .rebindRestore _ => keep_execRebindRestore (Keep.refl s)
  | .rebindReleaseDone _ => keep_execRebindReleaseDone (Keep.refl s)
  | .harbourCommit _ => keep_execHarbourCommit (Keep.refl s)
  | .holdWaitExpire _ => keep_execHoldWaitExpire (Keep.refl s)
  | .staleSpeaker _ _ _ => keep_execStaleSpeaker (Keep.refl s)
  | .hbmRead _ _ => keep_execHbmRead (Keep.refl s)
  | .hbmWrite _ _ _ _ => keep_execHbmWrite (Keep.refl s)
  | .hbmAtomic _ _ _ => keep_execHbmAtomic (Keep.refl s)
  | .correctedWriteback _ => keep_execCorrectedWriteback (Keep.refl s)
  | .writtenBitsClearDone _ => keep_execWrittenBitsClearDone (Keep.refl s)
  | .mcLevelWrite _ _ _ => keep_execMcLevelWrite (Keep.refl s)
  | .remapInstall _ => keep_execRemapInstall (Keep.refl s)
  | .mcRemapWrite _ _ _ _ => keep_execMcRemapWrite (Keep.refl s)
  | .mcScrub _ _ _ => keep_execMcScrub (Keep.refl s)
  | .scrubCancel _ _ => keep_execScrubCancel (Keep.refl s)
  | .scrubDone _ _ => keep_execScrubDone (Keep.refl s)
  | .mcIsetWrite _ _ _ _ => keep_execMcIsetWrite (Keep.refl s)
  | .mcRetire _ _ => keep_execMcRetire (Keep.refl s)
  | .translateWalk _ _ _ => keep_execTranslateWalk (Keep.refl s)
  | .xlfConsWrite _ _ _ _ => keep_execXlfConsWrite (Keep.refl s)
  | .xlfResume _ _ _ _ => keep_execXlfResume (Keep.refl s)
  | .xlfAbort _ _ _ _ => keep_execXlfAbort (Keep.refl s)
  | .invRange _ _ _ _ => keep_execInvRange (Keep.refl s)
  | .invAsid _ _ _ _ => keep_execInvAsid (Keep.refl s)
  | .invHarbour _ _ _ v => keep_execInvHarbour (x4 := v) (Keep.refl s)
  | .invalidationComplete _ => keep_execInvalidationComplete (Keep.refl s)
  | .urgencySample _ _ => keep_execUrgencySample (Keep.refl s)
  | .regReserveWrite _ _ _ _ => keep_execRegReserveWrite (Keep.refl s)
  | .hbSliceWrite _ _ _ _ => keep_execHbSliceWrite (Keep.refl s)
  | .linkUp _ _ _ _ => keep_execLinkUp (Keep.refl s)
  | .trainingTimeout _ => keep_execTrainingTimeout (Keep.refl s)
  | .retrainComplete _ _ _ => keep_execRetrainComplete (Keep.refl s)
  | .lossOfLight _ => keep_execLossOfLight (Keep.refl s)
  | .downRetry _ => keep_execDownRetry (Keep.refl s)
  | .wakePattern _ => keep_execWakePattern (Keep.refl s)
  | .flitReceive _ _ _ _ => keep_execFlitReceive (Keep.refl s)
  | .ackControlFlit _ => keep_execAckControlFlit (Keep.refl s)
  | .keyPhaseChange _ => keep_execKeyPhaseChange (Keep.refl s)
  | .read _ _ => keep_execRead (Keep.refl s)
  | .write _ _ _ _ => keep_execWrite (Keep.refl s)
  | .atomic _ _ _ => keep_execAtomic (Keep.refl s)
  | .readResp _ _ _ _ => keep_execReadResp (Keep.refl s)
  | .writeAck _ _ => keep_execWriteAck (Keep.refl s)
  | .atomicResp _ _ _ => keep_execAtomicResp (Keep.refl s)
  | .message _ _ _ => keep_execMessage (Keep.refl s)
  | .signal _ _ => keep_execSignal (Keep.refl s)
  | .streamAck _ _ _ => keep_execStreamAck (Keep.refl s)
  | .remoteResendTimeout _ _ => keep_execRemoteResendTimeout (Keep.refl s)
  | .move _ _ => keep_execMove (Keep.refl s)
  | .give _ _ => keep_execGive (Keep.refl s)
  | .stateCopyComplete _ => keep_execStateCopyComplete (Keep.refl s)
  | .take _ _ => keep_execTake (Keep.refl s)
  | .ack _ _ => keep_execAck (Keep.refl s)
  | .renew _ _ => keep_execRenew (Keep.refl s)
  | .renewAck _ _ => keep_execRenewAck (Keep.refl s)
  | .query _ _ => keep_execQuery (Keep.refl s)
  | .answer _ _ => keep_execAnswer (Keep.refl s)
  | .revoke _ _ => keep_execRevoke (Keep.refl s)
  | .restore _ _ => keep_execRestore (Keep.refl s)
  | .stateReplay _ => keep_execStateReplay (Keep.refl s)
  | .ckpt _ _ => keep_execCkpt (Keep.refl s)
  | .ckptAck _ _ => keep_execCkptAck (Keep.refl s)
  | .handoverQuery _ => keep_execHandoverQuery (Keep.refl s)
  | .leaseExpired _ _ => keep_execLeaseExpired (Keep.refl s)
  | .orphaned _ => keep_execOrphaned (Keep.refl s)
  | .lkRoleReq _ _ => keep_execLkRoleReq (Keep.refl s)
  | .roleShift => keep_execRoleShift (Keep.refl s)
  | .lkpRetrain _ _ => keep_execLkpRetrain (Keep.refl s)
  | .lkpDisable _ _ _ => keep_execLkpDisable (Keep.refl s)
  | .lkNodeWrite _ _ _ => keep_execLkNodeWrite (Keep.refl s)
  | .pwCmdIdle _ => keep_execPwCmdIdle (Keep.refl s)
  | .pwCmdWatch _ => keep_execPwCmdWatch (Keep.refl s)
  | .pwCmdHold _ => keep_execPwCmdHold (Keep.refl s)
  | .pwCmdActive _ => keep_execPwCmdActive (Keep.refl s)
  | .lowpowerEntryDone => keep_execLowpowerEntryDone (Keep.refl s)
  | .wakeN => keep_execWakeN (Keep.refl s)
  | .idleWakeTraffic => keep_execIdleWakeTraffic (Keep.refl s)
  | .resumeDone _ => keep_execResumeDone (Keep.refl s)
  | .watchSample _ _ => keep_execWatchSample (Keep.refl s)
  | .avsRequest _ _ => keep_execAvsRequest (Keep.refl s)
  | .avsStatusPoll _ _ _ => keep_execAvsStatusPoll (Keep.refl s)
  | .avsTimeout _ => keep_execAvsTimeout (Keep.refl s)
  | .pwBudgetWrite _ _ => keep_execPwBudgetWrite (Keep.refl s)
  | .pwHsubWrite _ _ _ => keep_execPwHsubWrite (Keep.refl s)
  | .boostUpdate => keep_execBoostUpdate (Keep.refl s)
  | .droop _ => keep_execDroop (Keep.refl s)
  | .brownWarn => keep_execBrownWarn (Keep.refl s)
  | .brownRecover => keep_execBrownRecover (Keep.refl s)
  | .brownHoldEnd => keep_execBrownHoldEnd (Keep.refl s)
  | .thermWarn _ _ => keep_execThermWarn (Keep.refl s)
  | .thermThrottle _ _ => keep_execThermThrottle (Keep.refl s)
  | .throttleRelease _ => keep_execThrottleRelease (Keep.refl s)
  | .thermTrip _ _ => keep_execThermTrip (Keep.refl s)
  | .marginMeasure => keep_execMarginMeasure (Keep.refl s)
  | .marginReplan _ _ => keep_execMarginReplan (Keep.refl s)
  | .pwGateWrite _ _ => keep_execPwGateWrite (Keep.refl s)
  | .ungateComplete _ => keep_execUngateComplete (Keep.refl s)
  | .pwPolicyWrite _ _ => keep_execPwPolicyWrite (Keep.refl s)
  | .livenessCheck _ => keep_execLivenessCheck (Keep.refl s)
  | .slotWatchdog _ _ => keep_execSlotWatchdog (Keep.refl s)
  | .unitSelfCheckFail _ => keep_execUnitSelfCheckFail (Keep.refl s)
  | .tlReset _ _ => keep_execTlReset (Keep.refl s)
  | .tlClusterReset _ _ => keep_execTlClusterReset (Keep.refl s)
  | .tlSubstitute _ _ => keep_execTlSubstitute (Keep.refl s)
  | .tlRetire _ _ => keep_execTlRetire (Keep.refl s)
  | .tlFail _ _ => keep_execTlFail (Keep.refl s)
  | .tileResetComplete _ => keep_execTileResetComplete (Keep.refl s)
  | .clusterResetTimeout _ => keep_execClusterResetTimeout (Keep.refl s)
  | .spareIn _ => keep_execSpareIn (Keep.refl s)
  | .placeResume _ => keep_execPlaceResume (Keep.refl s)
  | .channelControllerFail _ _ => keep_execChannelControllerFail (Keep.refl s)
  | .millFail _ _ => keep_execMillFail (Keep.refl s)
  | .bridgeDegrade _ => keep_execBridgeDegrade (Keep.refl s)
  | .tamper _ => keep_execTamper (Keep.refl s)
  | .battLow _ => keep_execBattLow (Keep.refl s)
  | .scKeyupd _ _ => keep_execScKeyupd (Keep.refl s)
  | .keyUpdate _ => keep_execKeyUpdate (Keep.refl s)
  | .getVersion => keep_execGetVersion (Keep.refl s)
  | .getCapabilities => keep_execGetCapabilities (Keep.refl s)
  | .negotiateAlgorithms _ => keep_execNegotiateAlgorithms (Keep.refl s)
  | .getMeasurements _ => keep_execGetMeasurements (Keep.refl s)
  | .spdmOtherRequest _ => keep_execSpdmOtherRequest (Keep.refl s)
  | .keyProg _ _ _ => keep_execKeyProg (Keep.refl s)
  | .kSetGo _ _ _ => keep_execKSetGo (Keep.refl s)
  | .kSetStop _ _ _ => keep_execKSetStop (Keep.refl s)
  | .ideInsecure _ _ => keep_execIdeInsecure (Keep.refl s)
  | .bar2Read _ _ _ _ => keep_execBar2Read (Keep.refl s)
  | .bar2Write _ _ _ _ _ => keep_execBar2Write (Keep.refl s)
  | .pcieCompletion _ _ _ _ => keep_execPcieCompletion (Keep.refl s)
  | .pcieCompletionTimeout _ => keep_execPcieCompletionTimeout (Keep.refl s)
  | .msixUnmask _ _ => keep_execMsixUnmask (Keep.refl s)
  | .ctxCreate _ => keep_execCtxCreate (Keep.refl s)
  | .ctxDestroy _ => keep_execCtxDestroy (Keep.refl s)
  | .memCreate _ => keep_execMemCreate (Keep.refl s)
  | .memRelease _ => keep_execMemRelease (Keep.refl s)
  | .memExport _ => keep_execMemExport (Keep.refl s)
  | .memImport _ => keep_execMemImport (Keep.refl s)
  | .memPin _ => keep_execMemPin (Keep.refl s)
  | .memUnpin _ => keep_execMemUnpin (Keep.refl s)
  | .map _ => keep_execMap (Keep.refl s)
  | .mapHost _ => keep_execMapHost (Keep.refl s)
  | .unmap _ => keep_execUnmap (Keep.refl s)
  | .barMap _ => keep_execBarMap (Keep.refl s)
  | .fenceCreate _ => keep_execFenceCreate (Keep.refl s)
  | .fenceExport _ => keep_execFenceExport (Keep.refl s)
  | .fenceImport _ => keep_execFenceImport (Keep.refl s)
  | .fenceDestroy _ => keep_execFenceDestroy (Keep.refl s)
  | .fenceMirror _ => keep_execFenceMirror (Keep.refl s)
  | .berthCreate _ => keep_execBerthCreate (Keep.refl s)
  | .berthDestroy _ => keep_execBerthDestroy (Keep.refl s)
  | .eventBind _ => keep_execEventBind (Keep.refl s)
  | .eventUnbind _ => keep_execEventUnbind (Keep.refl s)
  | .graphRegister _ => keep_execGraphRegister (Keep.refl s)
  | .graphUnregister _ => keep_execGraphUnregister (Keep.refl s)
  | .stateCreate _ => keep_execStateCreate (Keep.refl s)
  | .stateMove _ => keep_execStateMove (Keep.refl s)
  | .phaseEnd _ => keep_execPhaseEnd (Keep.refl s)
  | .stateDestroy _ => keep_execStateDestroy (Keep.refl s)
  | .teardownQuiesced _ => keep_execTeardownQuiesced (Keep.refl s)
  | .ctxTeardown _ => keep_execCtxTeardown (Keep.refl s)
  | .functionLevelReset _ => keep_execFunctionLevelReset (Keep.refl s)
  | .hostLinkDown _ => keep_execHostLinkDown (Keep.refl s)
  | .linkDownGraceExpire _ => keep_execLinkDownGraceExpire (Keep.refl s)
  | .cfFuncModeWrite _ _ => keep_execCfFuncModeWrite (Keep.refl s)
  | .startupBegin _ => keep_execStartupBegin (Keep.refl s)
  | .imageAccept => keep_execImageAccept (Keep.refl s)
  | .startDone _ => keep_execStartDone (Keep.refl s)
  | .startupStop _ _ => keep_execStartupStop (Keep.refl s)
  | .svnFuseBlow => keep_execSvnFuseBlow (Keep.refl s)
  | .perstNDeassert _ => keep_execPerstNDeassert (Keep.refl s)
  | .modRstN _ => keep_execModRstN (Keep.refl s)
  | .freezeN _ => keep_execFreezeN (Keep.refl s)
  | .dbFreezeSoft _ _ => keep_execDbFreezeSoft (Keep.refl s)
  | .dumpFrame => keep_execDumpFrame (Keep.refl s)
  | .tapDump => keep_execTapDump (Keep.refl s)
  | .tapExtest => keep_execTapExtest (Keep.refl s)
  | .tapIdcode => keep_execTapIdcode (Keep.refl s)
  | .tapBypass => keep_execTapBypass (Keep.refl s)
  | .tapSamplePreload => keep_execTapSamplePreload (Keep.refl s)
  | .supplyReset => keep_execSupplyReset (Keep.refl s)
  | .pgFault => keep_execPgFault (Keep.refl s)
  | .mateOpen _ => keep_execMateOpen (Keep.refl s)
  | .crcPassEnd => keep_execCrcPassEnd (Keep.refl s)
  | .crcRefWrite _ _ => keep_execCrcRefWrite (Keep.refl s)
  | .crcAdopt _ => keep_execCrcAdopt (Keep.refl s)
  | .registerWrite _ _ => keep_execRegisterWrite (Keep.refl s)
  | .hostLinkReturn _ _ _ => keep_execHostLinkReturn (Keep.refl s)
  | .wakePatternSend _ => keep_execWakePatternSend (Keep.refl s)
  | .streamAckSend _ _ => keep_execStreamAckSend (Keep.refl s)
  | .scalarInstruction _ _ _ => keep_execScalarInstruction (Keep.refl s)
  | .fabricDomainFailure => keep_execFabricDomainFailure (Keep.refl s)
  | .holdFailure _ => keep_execHoldFailure (Keep.refl s)
  | .holdOrLocalStoreRequest _ _ _ => keep_execHoldOrLocalStoreRequest (Keep.refl s)
  | .marginFlashWriteDone _ => keep_execMarginFlashWriteDone (Keep.refl s)
  | .powerGoodChange _ _ => keep_execPowerGoodChange (Keep.refl s)

/-- A step keeps all that, measured from the state whose queue the command in front has left. -/
theorem step_keep {s t : State} (h : step s = .next t) : Keep { s with pending := s.pending.tail } t := by
  cases hp : s.pending with
  | nil =>
    obtain rfl : s = t := Host.Outcome.next.inj ((step_idle hp).symm.trans h)
    exact ⟨rfl, rfl, rfl, rfl, rfl, by simp [hp], id, Nat.le_refl _⟩
  | cons c q => exact exec_keep _ c t ((step_cons hp).symm.trans h)

/-- Settles O5: the parts of `Keep` that speak of the part, the queue and the fused floor. -/
theorem stepKeepsThePart : Obligations.StepKeepsThePart := by
  intro s t h
  have k := step_keep h
  exact ⟨k.part, k.disabled, k.uid, k.formats, k.frenor, k.pending, k.floor⟩

/-! The state after reset -/

/-- Settles O3: the memory of reset stores nothing, so it has its form; every other field is read off `State.reset`. -/
theorem resetState : Obligations.ResetState :=
  ⟨wf_empty rfl rfl rfl, rfl, rfl, rfl, rfl, rfl, rfl, rfl, rfl, rfl, rfl, rfl, rfl, rfl, rfl, rfl, rfl, rfl, rfl, rfl, rfl, rfl,
    rfl, rfl, rfl⟩

/-! Stores in a channel whose array holds no symbol error (R371, R380) -/

section
variable {s : State}

theorem beyond_of_undamaged (h : s.mem.damage = []) (c cw : Nat) : s.beyond c cw = false := by
  simp [State.beyond, State.symbolErrors, h, tabFind]

theorem foldl_tabDel_nil {α : Type} (f : Nat → Nat) (xs : List Nat) :
    xs.foldl (fun t w => tabDel t (f w)) ([] : Tab α) = [] := by
  induction xs with
  | nil => rfl
  | cons x xs ih => exact ih

theorem hbmStore_damage (h : s.mem.damage = []) (c b : Nat) (data : List Byte) (p : Bool) :
    (s.hbmStore c b data p).mem.damage = [] := by
  unfold State.hbmStore
  dsimp only
  split
  · exact h
  · split
    · simp [h, foldl_tabDel_nil]
    · simp [State.onChan, h, foldl_tabDel_nil]

theorem storeThrough_damage (h : s.mem.damage = []) (c b : Nat) (data : List Byte) (p : Bool) :
    (s.storeThrough c b data p).mem.damage = [] := by
  unfold State.storeThrough
  dsimp only
  split
  · exact hbmStore_damage (hbmStore_damage h c b data p) _ b data p
  · exact hbmStore_damage h c b data p

theorem hbmStore_discarded {c b : Nat} {data : List Byte} {p : Bool} (h : data.isEmpty ∨ (s.chan c).retired) :
    s.hbmStore c b data p = s := by
  unfold State.hbmStore
  exact if_pos h

/-- Nothing is stored of no data or in a retired channel, so nothing goes through either (R522). -/
theorem storeThrough_discarded {c b : Nat} {data : List Byte} {p : Bool} (h : data.isEmpty ∨ (s.chan c).retired) :
    s.storeThrough c b data p = s := by
  simp only [State.storeThrough, hbmStore_discarded h]
  split
  · next d hd =>
    have live : (s.chan c).retired = false := by simpa using (Option.filter_eq_some_iff.1 hd).2
    exact hbmStore_discarded (.inl (h.resolve_right (by simp [live])))
  · rfl

/-- With nothing to decode first, a write is the store itself. -/
theorem hbmPut_eq_storeThrough (h : s.mem.damage = []) (c b : Nat) (data : List Byte) (p : Bool) :
    s.hbmPut c b data p = s.storeThrough c b data p := by
  unfold State.hbmPut
  split
  · next hd => exact (storeThrough_discarded hd).symm
  · simp [h]

end

/-! Events (R39, R534–R536, R632) -/

/-- An occurrence of a code takes the next SEQ and is counted. -/
def counted (code : Nat) (s : State) : State :=
  s.onRas fun r => { r with
    seq := r.seq + 1, counts := tabMod 0 r.counts code (· + 1), lastSeq := tabPut r.lastSeq code r.seq }

/-- The eight words of an event's record. -/
def eventRecord (seq : Word32) (tide : Word) (code kind unit : Nat) (items : List Word) : List Word :=
  w64 (code % 65536 + kind % 16 * 65536 + unit % 4096 * 1048576 + seq.toNat * 2 ^ 32) :: tide
    :: (items ++ List.replicate (6 - items.length) 0).take 6

/-- The bytes of a piece of the record are stored over its codewords, of which one that is uncorrectable is marked first. -/
def storeRecordPiece (s : State) (x : Piece × List Byte) : State :=
  (foldState ((codewordsOf x.1.byte x.1.len).filter (s.beyond x.1.ch)) (fun u w => u.markCodeword x.1.ch w) s).storeThrough
    x.1.ch x.1.byte x.2 false

/-- An occurrence whose record goes to a slot of the ring. -/
def recorded (tide : Word) (code kind unit : Nat) (items : List Word) (a : Nat) (s : State) : State :=
  ((counted code s).put0 a (eventRecord s.ras.seq tide code kind unit items)).onRas fun r => { r with wrote := true }

theorem length_wordBytes (w : Word) : (wordBytes w).length = 8 := by
  simp [wordBytes]

theorem length_eventRecord (seq : Word32) (tide : Word) (code kind unit : Nat) (items : List Word) :
    (eventRecord seq tide code kind unit items).length = 8 := by
  simp only [eventRecord, List.length_cons, List.length_take, List.length_append, List.length_replicate]
  omega

theorem length_eventRecord_bytes (seq : Word32) (tide : Word) (code kind unit : Nat) (items : List Word) :
    ((eventRecord seq tide code kind unit items).flatMap wordBytes).length = 64 := by
  simp [List.length_flatMap, length_wordBytes, length_eventRecord]

theorem storeRecordPiece_eq_hbmPut {s : State} (h : s.mem.damage = []) (x : Piece × List Byte) :
    storeRecordPiece s x = s.hbmPut x.1.ch x.1.byte x.2 false := by
  have none_marked : (codewordsOf x.1.byte x.1.len).filter (s.beyond x.1.ch) = [] :=
    List.filter_eq_nil_iff.2 fun w _ => by simp [beyond_of_undamaged h]
  rw [hbmPut_eq_storeThrough h, storeRecordPiece, none_marked]
  rfl

/-- In an undamaged array the pieces of a record are written as any data are. -/
theorem foldState_storeRecordPiece (xs : List (Piece × List Byte)) {s : State} (h : s.mem.damage = []) :
    foldState xs storeRecordPiece s = foldState xs (fun a x => a.hbmPut x.1.ch x.1.byte x.2 false) s := by
  induction xs generalizing s with
  | nil => rfl
  | cons x xs ih =>
    have hx : (s.hbmPut x.1.ch x.1.byte x.2 false).mem.damage = [] := by
      rw [hbmPut_eq_storeThrough h]
      exact storeThrough_damage h _ _ _ _
    simpa [foldState, storeRecordPiece_eq_hbmPut h] using ih hx

/-- With nothing to decode first, an event is only stored. -/
theorem eventAt_eq_eventStored {s : State} (h : s.mem.damage = []) (tide : Word) (code kind unit : Nat) (items : List Word) :
    s.eventAt tide code kind unit items = s.eventStored tide code kind unit items := by
  simp [State.eventAt, h]

theorem eventSlot_of_disabled {s : State} (he : s.ras.enable = false) : s.eventSlot = none := by
  simp [State.eventSlot, he]

theorem eventSlot_of_full {s : State} (hf : 2 ^ s.ras.log2 ≤ (s.ras.seq - s.ras.consumed).toNat) : s.eventSlot = none :=
  if_neg fun h => Nat.not_lt.2 hf h.2

theorem eventSlot_of_room {s : State} (he : s.ras.enable = true) (hr : (s.ras.seq - s.ras.consumed).toNat < 2 ^ s.ras.log2) :
    s.eventSlot = some (s.ras.base + s.ras.seq.toNat % 2 ^ s.ras.log2 * 64) :=
  if_pos ⟨he, hr⟩

section
variable {s : State} {seq : Word32} {tide : Word} {code kind unit a : Nat} {items : List Word}

/-- Storing a record's pieces in the ring is writing its words in harbour 0's view. -/
theorem put0_eventRecord_of_resolved {ps : List Piece} (h : s.mem.damage = [])
    (hp : s.resolve 0 a 64 = some ps) :
    s.put0 a (eventRecord seq tide code kind unit items) =
      foldState (shares ps ((eventRecord seq tide code kind unit items).flatMap wordBytes)) storeRecordPiece s := by
  rw [foldState_storeRecordPiece _ h]
  simp only [State.put0, State.writeH, length_eventRecord_bytes, hp, State.writePieces]

theorem put0_eventRecord_of_unresolved (hp : s.resolve 0 a 64 = none) :
    s.put0 a (eventRecord seq tide code kind unit items) = s := by
  simp only [State.put0, State.writeH, length_eventRecord_bytes, hp]

theorem eventStored_of_noSlot (hs : s.eventSlot = none) :
    s.eventStored tide code kind unit items =
      if s.ras.enable then (counted code s).onRas fun r => { r with dropped := r.dropped + 1 } else counted code s := by
  unfold State.eventStored
  rw [hs]
  rfl

theorem eventStored_of_slot (h : s.mem.damage = []) (hs : s.eventSlot = some a) :
    s.eventStored tide code kind unit items =
      if s.ras.irqMode = 1 then (recorded tide code kind unit items a s).msix 0 s.ras.msiVector
      else recorded tide code kind unit items a s := by
  have sameView : (counted code s).resolve 0 a 64 = s.resolve 0 a 64 := rfl
  unfold State.eventStored recorded
  rw [hs]
  dsimp only
  cases hp : s.resolve 0 a 64 with
  | none =>
    rw [put0_eventRecord_of_unresolved (sameView.trans hp)]
    rfl
  | some ps =>
    rw [put0_eventRecord_of_resolved (s := counted code s) h (sameView.trans hp)]
    rfl

end

/-- Settles O7: an undamaged array has nothing to decode before the record, and the ring is disabled, full or has room. -/
theorem eventsAreCounted : Obligations.EventsAreCounted := by
  intro tide code kind unit items s h
  rw [eventAt_eq_eventStored h]
  refine ⟨⟨tabGet_tabMod_same 0 s.ras.counts code (· + 1), fun k hk => tabGet_tabMod_other 0 s.ras.counts code k (· + 1) hk⟩,
    fun he => ?_, fun he hf => ?_, fun he hr hi => ?_, fun he hr hi => ?_⟩
  · rw [eventStored_of_noSlot (eventSlot_of_disabled he), he]
    rfl
  · rw [eventStored_of_noSlot (eventSlot_of_full hf), he]
    rfl
  · rw [eventStored_of_slot h (eventSlot_of_room he hr), if_neg hi]
    rfl
  · rw [eventStored_of_slot h (eventSlot_of_room he hr), if_pos hi]
    rfl

/-! Writes out of a master's reach (R5, R28, R628) -/

/-- A register write that only the manager may make, by another master while the clocks run. -/
theorem clocked_privWrite_ignored {m : Master} {s : State} (hs : s.halted = false) (hm : m.privileged = false) (o : Nat)
    (f : State → State) : s.clocked (s.privWrite m o f) = .next (if s.absentUnit o then s else s.rwpIgnored m o) := by
  rw [State.clocked_run _ _ hs, State.privWrite_ignored hm]

/-- The same of a command that needs a running module. -/
theorem clocked_running_privWrite_ignored {m : Master} {s : State} (hs : s.halted = false) (hm : m.privileged = false)
    (hr : s.running = true) (o : Nat) (f : State → State) :
    s.clocked (if !s.running then s else s.privWrite m o f) = .next (if s.absentUnit o then s else s.rwpIgnored m o) := by
  rw [hr]
  exact clocked_privWrite_ignored hs hm o f

/-- A budget write by a master other than the sideband is one that only the manager may make. -/
theorem exec_pwBudgetWrite_ignored {m : Master} {s : State} (hs : s.halted = false) (hm : m.privileged = false)
    (hb : m ≠ .sideband) (v : Word) :
    exec (.pwBudgetWrite m v) s = .next (if s.absentUnit 0x20018 then s else s.rwpIgnored m 0x20018) := by
  show s.clocked (if m = .sideband then s.writeBudget m v else s.privWrite m 0x20018 fun s => s.writeBudget m v) = _
  rw [if_neg hb]
  exact clocked_privWrite_ignored hs hm _ _

/-- Settles O11: each of the commands is a `privWrite` at its register's offset, behind the clock gate. -/
theorem unprivilegedWritesAreIgnored : Obligations.UnprivilegedWritesAreIgnored := by
  intro m v n k s hs hm
  have ign := clocked_privWrite_ignored hs hm
  have run := clocked_running_privWrite_ignored hs hm
  exact ⟨ign _ _, ign _ _, ign _ _, ign _ _, ign _ _, ign _ _, ign _ _, ign _ _, ign _ _, ign _ _, ign _ _, ign _ _, ign _ _,
    ign _ _, ign _ _, ign _ _, ign _ _, ign _ _, ign _ _, ign _ _, ign _ _, ign _ _, ign _ _, ign _ _, ign _ _, ign _ _,
    ign _ _, ign _ _, ign _ _, ign _ _, ign _ _, ign _ _, fun h => run h _ _, fun h => run h _ _, fun h => run h _ _,
    fun h => run h _ _, fun h => run h _ _, fun h => exec_pwBudgetWrite_ignored hs hm h v⟩

end Sys2Proof.Proofs
end

section
/-! SUPPORT. The statements of 01_module_architecture on start-up: its begin, the choice of the image, the steps to its end, a stop, and the
raised security version. -/
namespace Sys2Proof.Proofs
open Sys2Proof Sys2Proof.Machine Sys2Proof.Laws

/-! STARTUP_BEGIN (R53, R603, R613) -/

/-- The module once VSTBY is valid: what a powered module held is lost, a freeze is kept for report, and the MATE contacts are closed. -/
def atVstby (s : State) : State :=
  (if s.boot.life = .unpowered then s
   else if s.boot.life = .frozen then s.powerLost.onRas fun r => { r with kept := [s.freezeReset] }
   else s.powerLost).onPins fun p => { p with mate0 := true, mate1 := true, modRst := false }

/-- The cause of a start-up that VSTBY begins. -/
def vstbyCause (s : State) : Nat := if s.boot.life = .frozen then 6 else 0

theorem atVstby_freeze (s : State) : (atVstby s).pins.freeze = s.pins.freeze := by
  unfold atVstby
  split
  · rfl
  · split <;> rfl

theorem exec_startupBegin_vstby (s : State) :
    exec (.startupBegin true) s = .next (if s.pins.freeze then
      (atVstby s).onBoot fun b => { b with life := .inReset, nextCause := vstbyCause s }
      else (atVstby s).startUp (vstbyCause s)) := by
  rw [← atVstby_freeze]
  show execStartupBegin true s = _
  unfold execStartupBegin atVstby vstbyCause
  by_cases hu : s.boot.life = .unpowered
  · simp [hu, done]
  · by_cases hf : s.boot.life = .frozen <;> simp [hu, hf, done]

section
variable {s : State}

theorem atVstby_of_unpowered (hl : s.boot.life = .unpowered) :
    atVstby s = s.onPins fun p => { p with mate0 := true, mate1 := true, modRst := false } := by
  rw [atVstby, if_pos hl]

theorem atVstby_of_powered (hu : s.boot.life ≠ .unpowered) (hf : s.boot.life ≠ .frozen) :
    atVstby s = s.powerLost.onPins fun p => { p with mate0 := true, mate1 := true, modRst := false } := by
  rw [atVstby, if_neg hu, if_neg hf]

theorem atVstby_of_frozen (hl : s.boot.life = .frozen) :
    atVstby s = (s.powerLost.onRas fun r => { r with kept := [s.freezeReset] }).onPins fun p => { p with
      mate0 := true, mate1 := true, modRst := false } := by
  rw [atVstby, if_neg (by simp [hl]), if_pos hl]

theorem vstbyCause_of_frozen (hl : s.boot.life = .frozen) : vstbyCause s = 6 := if_pos hl

theorem vstbyCause_of_notFrozen (hl : s.boot.life ≠ .frozen) : vstbyCause s = 0 := if_neg hl

theorem exec_startupBegin_vstby_released (hz : s.pins.freeze = false) :
    exec (.startupBegin true) s = .next ((atVstby s).startUp (vstbyCause s)) := by
  rw [exec_startupBegin_vstby, hz]
  rfl

theorem exec_startupBegin_vstby_held (hz : s.pins.freeze = true) :
    exec (.startupBegin true) s = .next ((atVstby s).onBoot fun b => { b with life := .inReset, nextCause := vstbyCause s }) := by
  rw [exec_startupBegin_vstby, hz]
  rfl

theorem exec_startupBegin_resetEnded (hl : s.boot.life = .inReset) (hm : s.pins.modRst = false) (hz : s.pins.freeze = false)
    (ht : s.pins.thermTrip = false) (hq : s.pins.seq ≠ 3) :
    exec (.startupBegin false) s = .next (s.startUp s.boot.nextCause) := by
  show execStartupBegin false s = _
  simp [execStartupBegin, hl, hm, hz, ht, hq, done]

end

/-! IMAGE_ACCEPT (R597, R604 steps 4 to 8) -/

/-- The failure codes of the slot tried first and of the other one. -/
def firstFail (s : State) : Nat := if s.firstB then s.slotFail s.boot.imageB else s.slotFail s.boot.imageA
def secondFail (s : State) : Nat := if s.firstB then s.slotFail s.boot.imageA else s.slotFail s.boot.imageB

/-- The failure code that is recorded of a slot: none of one that was a candidate and was never tried. -/
def seenFail (s : State) (n : Nat) (isFirst : Bool) : Nat :=
  if isFirst = true ∨ firstFail s ≠ 0 ∨ n = 1 ∨ n = 2 then n else 0

/-- The rails are set, and the codes of both slots recorded. -/
def slotsTried (s : State) : State :=
  s.startRails.onBoot fun x => { x with
    failA := seenFail s (s.slotFail s.boot.imageA) (!s.firstB), failB := seenFail s (s.slotFail s.boot.imageB) s.firstB }

/-- A slot is taken. -/
def slotTaken (s : State) (useB fallback : Bool) : State :=
  let img := if useB then s.boot.imageB else s.boot.imageA
  (((slotsTried s).onBoot fun x => { x with
    step := 8, slotB := useB, fallback := fallback, version := img.version, svn := img.svn, members := img.members }).onHm
      fun h => { h with pilotVersion := bits s.fresh 0 16 }).drawn

/-- A slot that is no candidate has code 1 or 2. -/
theorem not_candidate_iff (n : Nat) : (!(n != 1 && n != 2)) = true ↔ n = 1 ∨ n = 2 := by
  simp [or_iff_not_imp_left]

section
variable {s : State} (hl : s.boot.life = .starting) (hr : s.railsGood = true) (hs : s.boot.step = 3)
include hl hr hs

theorem exec_imageAccept_ready :
    exec .imageAccept s = .next (if firstFail s ≠ 0 ∧ secondFail s ≠ 0 then (slotsTried s).stopStart 2 0
      else slotTaken s (s.firstB != (firstFail s != 0 && secondFail s == 0)) (firstFail s != 0 && secondFail s == 0)) := by
  have ready : ¬ (s.boot.life ≠ .starting ∨ (!s.railsGood) = true ∨ s.boot.step ≠ 3) := by simp [hl, hr, hs]
  show execImageAccept s = _
  unfold execImageAccept
  rw [if_neg ready]
  simp only [not_candidate_iff]
  rfl

theorem exec_imageAccept_first (h1 : firstFail s = 0) : exec .imageAccept s = .next (slotTaken s s.firstB false) := by
  simp [exec_imageAccept_ready hl hr hs, h1]

theorem exec_imageAccept_fallback (h1 : firstFail s ≠ 0) (h2 : secondFail s = 0) :
    exec .imageAccept s = .next (slotTaken s (!s.firstB) true) := by
  simp [exec_imageAccept_ready hl hr hs, bne_iff_ne.2 h1, h2]

theorem exec_imageAccept_bothFail (h1 : firstFail s ≠ 0) (h2 : secondFail s ≠ 0) :
    exec .imageAccept s = .next ((slotsTried s).stopStart 2 0) := by
  rw [exec_imageAccept_ready hl hr hs, if_pos ⟨h1, h2⟩]

end

/-! START_DONE (R604 steps 9 to 12, R606) -/

/-- Step 9: the image's records are applied after the self-tests. -/
def recordsApplied (t : StartIn) (s : State) : Option Nat × State :=
  applyRecords 0 s.image.records ((s.selfTests t).onBoot fun b => { b with step := 9 })

/-- Step 10: the fields are in force, with the image's role and links. -/
def fieldsTaken (x : Image) (t : StartIn) (s : State) : State :=
  (s.inForce.onTide fun c => { c with
    role := (s.roleOf x t.cascadeMst).1, groupId := x.groupId, masterNode := x.masterNode }).onHif fun h => { h with links := linksOf x }

/-- Step 11 up to the harbour map: the journal is replayed. -/
def journalReplayed (s : State) : State :=
  ((s.onPins fun p => { p with pcieRdy := true }).onBoot fun b => { b with step := 11, mapStored := b.mapCopy.isSome }).replay

/-- Harbour 0 has a unit that is bound to it, of a type and among those of its map. -/
def harbour0Holds (s : State) (type : Nat) (units : Harbour → List Nat) : Bool :=
  (units ((s.harbour 0).getD {})).any fun n => s.unitOf 0 type n

/-- Some structure of the manager does not resolve in harbour 0's view. -/
def someStructureUnresolved (s : State) : Bool := s.structures.any fun b => (s.resolve 0 b.1 b.2).isNone

/-- What a loaded map leads to. -/
def startOnMap (x : Image) (t : StartIn) (conflict : Bool) (s : State) : State :=
  if !harbour0Holds s 0 Harbour.tiles ∨ !harbour0Holds s 1 Harbour.channels then s.stopStart 6 0
  else if someStructureUnresolved s then s.stopStart 4 0
  else s.finishStart x t conflict

/-- What the fields that the records wrote lead to. -/
def startOnFields (x : Image) (t : StartIn) (conflict : Bool) (s : State) : State :=
  if !s.fieldsOk then s.stopStart 4 0
  else match (journalReplayed s).loadMap with
    | none => (journalReplayed s).stopStart 6 0
    | some s5 => startOnMap x t conflict s5

/-- What the records lead to. -/
def startOnRecords (x : Image) (t : StartIn) (r : Option Nat × State) : State :=
  match r.1 with
  | some i => r.2.stopStart 3 i
  | none => startOnFields x t (r.2.roleOf x t.cascadeMst).2 (fieldsTaken x t r.2)

section
variable {x : Image} {t : StartIn} {c : Bool} {s : State}

theorem startOnMap_missingUnit (h : (harbour0Holds s 0 Harbour.tiles && harbour0Holds s 1 Harbour.channels) = false) :
    startOnMap x t c s = s.stopStart 6 0 := by
  rw [startOnMap, if_pos (by simpa [← Bool.and_eq_false_iff] using h)]

theorem startOnMap_withUnits (h0 : harbour0Holds s 0 Harbour.tiles = true) (h1 : harbour0Holds s 1 Harbour.channels = true) :
    startOnMap x t c s = if someStructureUnresolved s then s.stopStart 4 0 else s.finishStart x t c := by
  rw [startOnMap, if_neg (by simp [h0, h1])]

theorem startOnFields_refused (h : s.fieldsOk = false) : startOnFields x t c s = s.stopStart 4 0 := by
  simp [startOnFields, h]

theorem startOnFields_unloaded (h : s.fieldsOk = true) (hm : (journalReplayed s).loadMap = none) :
    startOnFields x t c s = (journalReplayed s).stopStart 6 0 := by
  simp [startOnFields, h, hm]

theorem startOnFields_loaded {s5 : State} (h : s.fieldsOk = true) (hm : (journalReplayed s).loadMap = some s5) :
    startOnFields x t c s = startOnMap x t c s5 := by
  simp [startOnFields, h, hm]

theorem startOnRecords_refused {r : Option Nat × State} {i : Nat} (h : r.1 = some i) :
    startOnRecords x t r = r.2.stopStart 3 i := by
  simp [startOnRecords, h]

theorem startOnRecords_applied {r : Option Nat × State} (h : r.1 = none) :
    startOnRecords x t r = startOnFields x t (r.2.roleOf x t.cascadeMst).2 (fieldsTaken x t r.2) := by
  simp [startOnRecords, h]

end

section
variable {t : StartIn} {s : State} (hl : s.boot.life = .starting) (hs : s.boot.step = 8) (hr : s.railsGood = true)
include hl hs hr

theorem exec_startDone_ready :
    exec (.startDone t) s = .next (if t.failedHm.contains 0 = true ∧ t.failedHm.contains 1 = true then s.stopStart 5 0
      else if t.bridge = 0 then s.stopStart 7 0 else startOnRecords s.image t (recordsApplied t s)) := by
  have ready : ¬ (s.boot.life ≠ .starting ∨ s.boot.step ≠ 8 ∨ (!s.railsGood) = true) := by simp [hl, hr, hs]
  show execStartDone t s = _
  unfold execStartDone
  rw [if_neg ready]
  rfl

theorem exec_startDone_noHarbourmaster (h0 : t.failedHm.contains 0 = true) (h1 : t.failedHm.contains 1 = true) :
    exec (.startDone t) s = .next (s.stopStart 5 0) := by
  rw [exec_startDone_ready hl hs hr, if_pos ⟨h0, h1⟩]

theorem exec_startDone_noBridge (hh : (t.failedHm.contains 0 && t.failedHm.contains 1) = false) (hb : t.bridge = 0) :
    exec (.startDone t) s = .next (s.stopStart 7 0) := by
  rw [exec_startDone_ready hl hs hr, if_neg (by simpa using hh), if_pos hb]

theorem exec_startDone_onRecords (hh : (t.failedHm.contains 0 && t.failedHm.contains 1) = false) (hb : t.bridge ≠ 0) :
    exec (.startDone t) s = .next (startOnRecords s.image t (recordsApplied t s)) := by
  rw [exec_startDone_ready hl hs hr, if_neg (by simpa using hh), if_neg hb]

end

/-! STARTUP_STOP and SVN_FUSE_BLOW (R598, R606) -/

theorem exec_startupStop_starting {c r : Nat} {s : State} (hl : s.boot.life = .starting) (hc : 1 ≤ c) (hc' : c ≤ 7) :
    exec (.startupStop c r) s = .next (s.stopStart c r) := by
  show execStartupStop c r s = _
  unfold execStartupStop
  rw [if_neg (by simp [hl]; omega)]
  rfl

theorem exec_svnFuseBlow_raise {n : Nat} {s : State} (h : s.boot.svnRaise = some n) :
    exec .svnFuseBlow s = .next (s.onBoot fun b => { b with floor := max b.floor n, svnRaise := none }) := by
  show execSvnFuseBlow s = _
  simp only [execSvnFuseBlow, h, done]

/-- Settles O54: one law per outcome of each start-up command; START_DONE goes through its records, its fields and its map. -/
theorem startUpCommands : Obligations.StartUpCommands := by
  refine ⟨fun s => ⟨exec_startupBegin_resetEnded, fun hz => ⟨fun hl => ?_, fun hu hf => ?_, fun hl => ?_⟩,
      fun hz => ⟨fun hl => ?_, fun hu hf => ?_, fun hl => ?_⟩⟩,
    fun s hl hr hs => ⟨exec_imageAccept_first hl hr hs, exec_imageAccept_fallback hl hr hs, exec_imageAccept_bothFail hl hr hs⟩,
    fun t s hl hs hr => ⟨exec_startDone_noHarbourmaster hl hs hr, fun hh => ⟨exec_startDone_noBridge hl hs hr hh, fun hb => ?_⟩⟩,
    fun c r s => exec_startupStop_starting, fun n s => exec_svnFuseBlow_raise⟩
  · rw [exec_startupBegin_vstby_released hz, atVstby_of_unpowered hl, vstbyCause_of_notFrozen (by simp [hl])]
    rfl
  · rw [exec_startupBegin_vstby_released hz, atVstby_of_powered hu hf, vstbyCause_of_notFrozen hf]
    rfl
  · rw [exec_startupBegin_vstby_released hz, atVstby_of_frozen hl, vstbyCause_of_frozen hl]
    rfl
  · rw [exec_startupBegin_vstby_held hz, atVstby_of_unpowered hl, vstbyCause_of_notFrozen (by simp [hl])]
  · rw [exec_startupBegin_vstby_held hz, atVstby_of_powered hu hf, vstbyCause_of_notFrozen hf]
  · rw [exec_startupBegin_vstby_held hz, atVstby_of_frozen hl, vstbyCause_of_frozen hl]
  · rw [exec_startDone_onRecords hl hs hr hh hb]
    refine ⟨fun i hi => congrArg _ (startOnRecords_refused hi), fun hn hf => ?_, fun hn hf hm => ?_, fun s5 hn hf hm => ?_⟩
    · exact congrArg _ ((startOnRecords_applied hn).trans (startOnFields_refused hf))
    · exact congrArg _ ((startOnRecords_applied hn).trans (startOnFields_unloaded hf hm))
    · have loaded := (startOnRecords_applied (x := s.image) (t := t) hn).trans (startOnFields_loaded hf hm)
      refine ⟨fun hu => congrArg _ (loaded.trans (startOnMap_missingUnit hu)), fun h0 h1 hx => ?_, fun h0 h1 hx => ?_⟩
      · exact congrArg _ (loaded.trans ((startOnMap_withUnits h0 h1).trans (if_pos hx)))
      · exact congrArg _ (loaded.trans ((startOnMap_withUnits h0 h1).trans (if_neg (Bool.eq_false_iff.1 hx))))

end Sys2Proof.Proofs
end

section
/-! SUPPORT. The statements of 01_module_architecture on MOD_RST_N, FREEZE_N, module failures, the rail groups and the MATE contacts. -/
namespace Sys2Proof.Proofs
open Sys2Proof Sys2Proof.Machine Sys2Proof.Laws

section
variable {s : State}

theorem live_iff : s.live = true ↔ s.boot.life = .starting ∨ s.boot.life = .running ∨ s.boot.life = .stopped := by
  unfold State.live
  cases s.boot.life <;> decide

/-- A module whose clocks may run is in reset or live: the lives that MOD_RST_N and FREEZE_N do not treat one by one, so that the three
inequalities select the last branch of those commands. -/
theorem inReset_or_live_iff : (s.boot.life = .inReset ∨ s.live = true) ↔
    s.boot.life ≠ .unpowered ∧ s.boot.life ≠ .frozen ∧ s.boot.life ≠ .tripped := by
  rw [live_iff]
  cases s.boot.life <;> decide

theorem halted_of_live (h : s.live = true) : s.halted = false := by
  obtain ⟨-, hf, ht⟩ := inReset_or_live_iff.1 (.inr h)
  simp [State.halted, hf, ht]

theorem live_of_running (h : s.running = true) : s.live = true :=
  live_iff.2 (.inr (.inl (beq_iff_eq.1 h)))

/-! MOD_RST_N (R603, R613, R652, R653) -/

theorem exec_modRstN_unchanged {a : Bool} (ha : s.pins.modRst = a) : exec (.modRstN a) s = .next s := by
  show execModRstN a s = _
  simp [execModRstN, ha, done]

section
variable {a : Bool} (ha : s.pins.modRst ≠ a)
include ha

theorem exec_modRstN_unpowered (hl : s.boot.life = .unpowered) :
    exec (.modRstN a) s = .next (s.onPins fun p => { p with modRst := a }) := by
  show execModRstN a s = _
  simp [execModRstN, ha.symm, hl, done]

theorem exec_modRstN_frozen (hl : s.boot.life = .frozen) :
    exec (.modRstN a) s = .next (s.onPins fun p => { p with modRst := a }).thaw := by
  show execModRstN a s = _
  simp [execModRstN, ha.symm, hl, done]

theorem exec_modRstN_tripped (hl : s.boot.life = .tripped) :
    exec (.modRstN a) s = .next (if a then s.onPins fun p => { p with modRst := a }
      else ((s.onPins fun p => { p with modRst := a }).moduleReset 3).onPins fun p => { p with thermTrip := false, seq := 0 }) := by
  show execModRstN a s = _
  simp [execModRstN, ha.symm, hl, done]

theorem exec_modRstN_clocked (hl : s.boot.life = .inReset ∨ s.live = true) :
    exec (.modRstN a) s = .next (if a then (s.onPins fun p => { p with modRst := a }).moduleReset 1
      else (s.onPins fun p => { p with modRst := a }).onPins fun p => { p with
        seq := if p.seq = 3 then 0 else p.seq, alert := p.alert && p.seq != 3 }) := by
  obtain ⟨hu, hf, ht⟩ := inReset_or_live_iff.1 hl
  show execModRstN a s = _
  simp [execModRstN, ha.symm, done]

end

/-! FREEZE_N (R611) -/

theorem exec_freezeN_clocked (hl : s.boot.life = .inReset ∨ s.live = true) :
    exec (.freezeN true) s = .next ((s.onPins fun p => { p with freeze := true }).freezeNow false) := by
  obtain ⟨hu, hf, ht⟩ := inReset_or_live_iff.1 hl
  show execFreezeN true s = _
  simp [execFreezeN, done]

theorem exec_freezeN_noClock (hl : s.boot.life = .unpowered ∨ s.boot.life = .frozen ∨ s.boot.life = .tripped) :
    exec (.freezeN true) s = .next (s.onPins fun p => { p with freeze := true }) := by
  show execFreezeN true s = _
  rcases hl with hl | hl | hl <;> simp [execFreezeN, hl, done]

/-! Module failures (R502, R513, R524) -/

theorem exec_fabricDomainFailure_live (h : s.live = true) : exec .fabricDomainFailure s = .next (s.moduleFail 1 4) := by
  show s.clocked (if s.live then s.moduleFail 1 4 else s) = _
  rw [State.clocked_run _ _ (halted_of_live h), if_pos h]

theorem exec_supplyReset_live (h : s.live = true) : exec .supplyReset s = .next (s.moduleFail 2 2) := by
  show done (if s.live then s.moduleFail 2 2 else s) = _
  rw [if_pos h, done]

/-- The bridge modules still working are counted and reported. -/
def bridgeLost (n : Nat) (s : State) : State :=
  (s.onRas fun r => { r with bridge := n }).event 0x0907 0 0 [w64 n, w64 (125 * n)]

theorem exec_bridgeDegrade_running {n : Nat} (hr : s.running = true) (hn : n < s.ras.bridge) :
    exec (.bridgeDegrade n) s = .next (if n = 0 then (bridgeLost n s).moduleFail 3 4 else bridgeLost n s) := by
  show execBridgeDegrade n s = _
  unfold execBridgeDegrade
  rw [State.clocked_run _ _ (halted_of_live (live_of_running hr)), if_neg (by simp [hr, hn])]
  rfl

/-! The rail groups (R651, R652) -/

/-- The module after a power-good fault: the fault is kept, the module resets, and the rails go. -/
def railsRemoved (s : State) : State :=
  let kept := (s.keepEvent 0x0802 13 7 [7, s.fresh, Config.freeWord (s.freeTick + 1)]).drawn.drawn
  (((if s.running then kept.keepEvent 0x0909 0 0 [2] else kept).moduleReset 2).powerOff 3).onPins fun p => { p with alert := true }

theorem pgFault_eq_railsRemoved (hq : s.pins.seq ≠ 3) (hl : s.boot.life ≠ .unpowered) : s.pgFault = railsRemoved s := by
  rw [State.pgFault, if_neg (by simp [hq, hl])]
  rfl

theorem exec_pgFault_enabled (hq : s.pins.seq ≠ 3) (hl : s.boot.life ≠ .unpowered)
    (he : s.pins.enA = true ∨ s.pins.enB = true ∨ s.pins.enC = true) : exec .pgFault s = .next (railsRemoved s) := by
  show done (if s.pins.enA ∨ s.pins.enB ∨ s.pins.enC then s.pgFault else s) = _
  rw [if_pos he, pgFault_eq_railsRemoved hq hl, done]

/-- The enable of a rail group. -/
def railEnabled (p : Pins) : Nat → Bool
  | 0 => p.enA
  | 1 => p.enB
  | _ => p.enC

/-- The pins once the power-good of a rail group stands at a level. -/
def withGood (p : Pins) (good : Bool) : Nat → Pins
  | 0 => { p with pgA := good }
  | 1 => { p with pgB := good }
  | 2 => { p with pgC := good }
  | _ => p

theorem withGood_seq (p : Pins) (good : Bool) (g : Nat) : (withGood p good g).seq = p.seq := by
  unfold withGood
  split <;> rfl

theorem exec_powerGoodChange {g : Nat} (hg : g < 3) (good : Bool) :
    exec (.powerGoodChange g good) s = .next (
      if !good && railEnabled s.pins g && decide (s.pins.seq ≤ 1) then (s.onPins fun p => withGood p good g).pgFault
      else (s.onPins fun p => withGood p good g).powerStep) := by
  show execPowerGoodChange g good s = _
  unfold execPowerGoodChange
  rw [if_neg (Nat.not_le.2 hg)]
  rfl

theorem exec_powerGoodChange_rise {g : Nat} (hg : g < 3) :
    exec (.powerGoodChange g true) s = .next (s.onPins fun p => withGood p true g).powerStep :=
  exec_powerGoodChange hg true

theorem exec_powerGoodChange_fall {g : Nat} (hg : g < 3) (hq : s.pins.seq ≤ 1) (hl : s.boot.life ≠ .unpowered)
    (he : railEnabled s.pins g = true) :
    exec (.powerGoodChange g false) s = .next (railsRemoved (s.onPins fun p => withGood p false g)) := by
  have hq3 : (s.onPins fun p => withGood p false g).pins.seq ≠ 3 := by simp [withGood_seq]; omega
  rw [exec_powerGoodChange hg, if_pos (by simp [he, hq]), pgFault_eq_railsRemoved hq3 hl]

/-! The MATE contacts (R619, R664) -/

theorem exec_mateOpen_powered (c : Nat) (hl : s.boot.life ≠ .unpowered) :
    exec (.mateOpen c) s = .next (s.powerLost.onPins fun p => if c = 0 then { p with mate0 := false } else { p with mate1 := false }) := by
  show execMateOpen c s = _
  unfold execMateOpen
  rw [if_neg hl, done]

end

/-- Settles O55: one law per input of the module and per state of life that answers it differently. -/
theorem resetsFailuresAndRailPins : Obligations.ResetsFailuresAndRailPins := by
  refine ⟨fun s hm => ?assert, fun s hm => ?release, fun s => ?freeze, fun s hl => ?failures, fun n s hr hn => ?bridge,
    fun s hq hl => ?fault, fun s => ?rise, fun s hl => ⟨exec_mateOpen_powered 0 hl, exec_mateOpen_powered 1 hl⟩⟩
  case assert =>
    have ha : s.pins.modRst ≠ true := by simp [hm]
    exact ⟨fun hl => hl.elim (exec_modRstN_unpowered ha) (exec_modRstN_tripped ha), exec_modRstN_frozen ha,
      exec_modRstN_clocked ha, exec_modRstN_unchanged hm⟩
  case release =>
    have ha : s.pins.modRst ≠ false := by simp [hm]
    exact ⟨exec_modRstN_unpowered ha, exec_modRstN_frozen ha, exec_modRstN_tripped ha, exec_modRstN_clocked ha,
      exec_modRstN_unchanged hm⟩
  case freeze => exact ⟨exec_freezeN_clocked, exec_freezeN_noClock, rfl⟩
  case failures => exact ⟨exec_fabricDomainFailure_live hl, exec_supplyReset_live hl⟩
  case bridge =>
    rw [exec_bridgeDegrade_running hr hn]
    exact ⟨fun h => by rw [if_neg h]; rfl, fun h => by rw [if_pos h]; rfl⟩
  case fault =>
    have fall (g : Nat) (hg : g < 3) (h1 : s.pins.seq ≤ 1) := exec_powerGoodChange_fall hg h1 hl
    exact ⟨exec_pgFault_enabled hq hl, fun h1 => ⟨fall 0 (by decide) h1, fall 1 (by decide) h1, fall 2 (by decide) h1⟩⟩
  case rise =>
    exact ⟨exec_powerGoodChange_rise (by decide), exec_powerGoodChange_rise (by decide), exec_powerGoodChange_rise (by decide)⟩

end Sys2Proof.Proofs
end

section
/-! SUPPORT. The statements of 02_tides on the boundary of a tide, budget pre-emption, berth timeouts and the settings of the tide. -/
namespace Sys2Proof.Proofs
open Sys2Proof Sys2Proof.Machine Sys2Proof.Laws

section
variable {s : State}

/-! TIDE_BOUNDARY (R78, R83) -/

theorem exec_tideBoundary_running (b : BoundaryIn) (hr : s.running = true) (hs : s.tide.stopped = false) :
    exec (.tideBoundary b) s = .next (s.boundary b) := by
  show s.clocked (if !s.running ∨ s.tide.stopped then s else s.boundary b) = _
  rw [State.clocked_run _ _ (halted_of_live (live_of_running hr)), if_neg (by simp [hr, hs])]

theorem tickNumber_of_noRejoin (h : s.rejoins = none) :
    s.tickNumber = s.onTide fun t => { t with num := t.num + 1, rejoinSkip := false } := by
  simp only [State.tickNumber, h]

/-! BUDGET_PREEMPT (R83 step 4, R86) -/

theorem exec_budgetPreempt_due {l : Nat} {e : Launch} (hh : s.halted = false) (hl : s.launch l = some e)
    (hd : e.preemptDue = true) (ha : e.state = .active) : exec (.budgetPreempt l) s = .next (s.preemptLaunch l) := by
  show execBudgetPreempt l s = _
  simp [execBudgetPreempt, hh, hl, hd, ha]

theorem preemptLaunch_of_launch {l : Nat} {e : Launch} (hl : s.launch l = some e) :
    s.preemptLaunch l = foldState e.parts (fun a x => match x with | .slot p k => a.preemptPart p k | _ => a)
      (s.onLaunch l fun e => { e with preemptDue := false }) := by
  simp only [State.preemptLaunch, hl] <;> rfl

theorem preemptPart_running {p k : Nat} (h : (s.slotAt p k).state = .running) :
    s.preemptPart p k = (((s.startDrain true p k).dropLatches p k).cancelReqs p k).onCtx p k fun c => { c with
      dma0 := c.dma0.rewind, dma1 := c.dma1.rewind } := by
  simp only [State.preemptPart, h]

/-! BERTH_TIMEOUT (R279) -/

theorem exec_berthTimeout_due {l : Nat} {e : Launch} (hh : s.halted = false) (hl : s.launch l = some e)
    (hd : e.timeoutDue = true) : exec (.berthTimeout l) s = .next (s.fireTimeout l).settle := by
  show execBerthTimeout l s = _
  simp [execBerthTimeout, hh, hl, hd]

theorem fireTimeout_due {l : Nat} {e : Launch} (hl : s.launch l = some e) (hd : e.timeoutDue = true) (hm : s.hmSilent = false)
    (hc : e.state ≠ .completing) (hr : e.retiring = false) :
    s.fireTimeout l = (s.onLaunch l fun e => { e with timeoutDue := false }).abortLaunch l .timeout none := by
  simp [State.fireTimeout, hl, hd, hm, hc, hr]

/-! TIDE_APPLY (R81, R82) -/

/-- The APPLY bit of a write of CF_TIDE_CFG lies above the fields it carries. -/
theorem bits_or_applyBit (v : Word) {lo n : Nat} (h : lo + n ≤ 63) : bits (v ||| (1 : Word) <<< 63) lo n = bits v lo n := by
  have apply_toNat : ((1 : Word) <<< 63).toNat = 2 ^ 63 := by decide
  refine Nat.eq_of_testBit_eq fun i => ?_
  simp only [bits, bitsN, BitVec.toNat_or, apply_toNat, Nat.testBit_mod_two_pow, Nat.testBit_div_two_pow, Nat.testBit_or]
  by_cases hi : i < n
  · have below : 63 ≠ lo + i := by omega
    simp [Nat.testBit_two_pow_of_ne below, Nat.add_comm i lo]
  · simp [hi]

theorem bit_or_applyBit (v : Word) : bit (v ||| (1 : Word) <<< 63) 63 = true := by
  have top : (v ||| (1 : Word) <<< 63).getLsbD 63 = true := by simp
  simpa [bit, bits, bitsN, BitVec.getLsbD, Nat.testBit, Nat.shiftRight_eq_div_pow, Nat.and_comm, Nat.one_and_eq_mod_two] using top

/-- CF_TIDE_CFG is a register of the module, which every part has (R5). -/
theorem tideCfg_present : s.absentUnit 0x10100 = false := by
  simp [State.absentUnit]

theorem exec_tideApply_privileged {m : Master} (v : Word) (hh : s.halted = false) (hm : m.privileged = true) :
    exec (.tideApply m v) s = .next (s.writeTideCfg (v ||| (1 : Word) <<< 63)) := by
  show s.clocked (s.privWrite m 0x10100 fun s => s.writeTideCfg (v ||| (1 : Word) <<< 63)) = _
  rw [State.clocked_run _ _ hh, State.privWrite_run hm tideCfg_present]

/-- A period and slack in range that fit each other are taken where the module sets its own tides and no change is pending (R82). -/
theorem writeTideCfg_accepted {v : Word} {p k : Nat} (hv : bit v 63 = true) (ep : bits v 0 10 = p) (ek : bits v 12 12 = k)
    (hp : 25 ≤ p) (hp' : p ≤ 1000) (hk : 5 ≤ k) (hk' : k ≤ 2500) (hf : slackFits p k = true) (hr : s.tide.role ≠ .slave)
    (hc : s.tide.change = none) :
    s.writeTideCfg v = s.onTide fun t => { t with nextPeriod := p, nextSlack := k, change := some ⟨p, k, 2⟩ } := by
  have inRange : ¬ (p < 25 ∨ 1000 < p ∨ k < 5 ∨ 2500 < k) := by omega
  unfold State.writeTideCfg
  simp only [ep, ek]
  rw [if_neg inRange, if_neg (by simp [hv]), if_neg (by simp [hf, hr, hc])]
  rfl

end

/-- Settles O12: one law per command; a boundary is its steps in their order, and APPLY does not touch the fields of its write. -/
theorem tideAndBudgetCommands : Obligations.TideAndBudgetCommands := by
  refine ⟨fun b s hr hs => ?boundary, fun s => tickNumber_of_noRejoin, fun l s e hh hl hd ha => ?preempt,
    fun p k s => preemptPart_running, fun l s e hh hl hd hm hc hr => ?timeout, fun m v s hh hm hp hp' hk hk' hf hr hc => ?apply⟩
  case boundary =>
    refine (exec_tideBoundary_running b hr hs).trans ?_
    unfold State.boundary
    generalize s.settleDue = settled
    rfl
  case preempt => exact (exec_budgetPreempt_due hh hl hd ha).trans (congrArg _ (preemptLaunch_of_launch hl))
  case timeout => rw [exec_berthTimeout_due hh hl hd, fireTimeout_due hl hd hm hc hr]
  case apply =>
    rw [exec_tideApply_privileged v hh hm, writeTideCfg_accepted (bit_or_applyBit v) (bits_or_applyBit v (by decide))
      (bits_or_applyBit v (by decide)) hp hp' hk hk' hf hr hc]

end Sys2Proof.Proofs
end

section
/-! SUPPORT. The statements of 02_tides on the ticks of a cascade group and the echo exchange. -/
namespace Sys2Proof.Proofs
open Sys2Proof Sys2Proof.Machine Sys2Proof.Laws

/-! What a tick says once the change announced for its tide is in force (R83, R96) -/

@[simp] theorem tickApplied_tide (last : Option TickMsg) (t : TickMsg) : (tickApplied last t).tide = t.tide := by
  unfold tickApplied
  split
  · split <;> rfl
  · rfl

@[simp] theorem tickApplied_changeValid (last : Option TickMsg) (t : TickMsg) :
    (tickApplied last t).changeValid = t.changeValid := by
  unfold tickApplied
  split
  · split <;> rfl
  · rfl

theorem tickAnnounced_of_noChange (last : Option TickMsg) {t : TickMsg} (h : t.changeValid = false) :
    tickAnnounced last t = last := by
  simp [tickAnnounced, h]

section
variable {s : State} {t : TickMsg}

/-! An accepted, a missed and an aligned tick (R97, R99, R490) -/

/-- The slave is at its master's frequency already: no raise to ask for, and an announced frequency is forgotten where its own
F_ALLOW admits this one. -/
theorem acceptTick_sameFreq (hv : t.changeValid = false) (hf : (tickApplied s.tide.lastChange t).jobFreq = s.tide.jobFreq) :
    s.acceptTick t = s.onTide fun x => { x with
      lastMaster := t.tide, missRun := 0, holdover := false, locked := true
      freqAnnounced := if s.tide.jobFreq ≤ s.pw.fAllow then none else x.freqAnnounced } := by
  by_cases follows : s.tide.jobFreq ≤ s.pw.fAllow <;> simp [State.acceptTick, hv, hf, tickAnnounced_of_noChange, follows]

theorem missTick_counted (h : s.tide.missRun ≠ 7 ∨ s.tide.isolated = true) :
    s.missTick = s.onTide fun t => { t with
      cMissedTick := t.cMissedTick + 1, missRun := t.missRun + 1, aligned := 0, holdover := t.holdover || !t.isolated } := by
  have notIsolating : ¬ (s.tide.missRun + 1 = 8 ∧ (!s.tide.isolated) = true) := by
    rintro ⟨h8, hi⟩
    exact h.elim (fun h7 => h7 (by omega)) (fun hi' => by simp [hi'] at hi)
  unfold State.missTick
  dsimp only
  rw [if_neg notIsolating]
  rfl

theorem missTick_isolating (h7 : s.tide.missRun = 7) (hi : s.tide.isolated = false) :
    s.missTick = (s.onTide fun t => { t with
      cMissedTick := t.cMissedTick + 1, missRun := 8, aligned := 0, holdover := true, isolated := true, locked := false
      slaveChange := none }).event 0x0200 0 0 [s.tide.lastMaster, w64 s.tide.masterNode] := by
  simp [State.missTick, State.onTide, h7, hi]

theorem alignTick_first (ph : Nat) (ha : s.tide.aligned = 0) (hv : t.changeValid = false) :
    s.alignTick t true ph = s.onTide fun x => { x with aligned := 1, lastMaster := t.tide } := by
  simp [State.alignTick, ha, tickAnnounced_of_noChange _ hv]

end

/-! TICK_MESSAGE, MISSED_TICK and ECHO_EXCHANGE of a slave (R97, R99) -/

section
variable {s : State} (hs : s.slaved = true)
include hs

theorem halted_of_slaved : s.halted = false := by
  have running : s.running = true := by
    simp only [State.slaved, Bool.and_eq_true] at hs
    exact hs.1.1
  exact halted_of_live (live_of_running running)

theorem exec_missedTick_slaved : exec .missedTick s = .next s.missTick := by
  show s.clocked (if s.slaved then s.missTick else s) = _
  rw [State.clocked_run _ _ (halted_of_slaved hs), if_pos hs]

/-- The four things a tick can be to a slave: another group's, one that realigns it, in time, or late. -/
theorem exec_tickMessage_slaved (node : Nat) (t : TickMsg) (w : Bool) (ph : Nat) :
    exec (.tickMessage node t w ph) s = .next (
      if !s.tickOurs node t then s.missTick
      else if s.tide.isolated then (if w then s else s.missTick).alignTick t w ph
      else if w then s.acceptTick t
      else s.missTick) := by
  show execTickMessage node t w ph s = _
  unfold execTickMessage
  rw [State.clocked_run _ _ (halted_of_slaved hs), if_neg (by simp [hs])]

theorem exec_echoExchange_slaved (r : Nat) :
    exec (.echoExchange r) s = .next (s.onTide fun t => { t with delay := r / 2, sinceEcho := 0, echoDue := false }) := by
  show execEchoExchange r s = _
  unfold execEchoExchange
  rw [State.clocked_run _ _ (halted_of_slaved hs), if_pos hs]

end

/-- Settles O13: a tick is accepted, missed or aligned by whose it is, the window and isolation. -/
theorem tickCommands : Obligations.TickCommands := by
  refine ⟨fun node t ph s hs ho hi hv hf => ?accepted, fun node t ph s hs ho hi => ?late, fun node t w ph s hs ho => ?foreign,
    fun s hs h => ?counted, fun s hs h7 hi => ?isolating, fun node t ph s hs ho hi ha hv => ?aligned,
    fun r s hs => exec_echoExchange_slaved hs r⟩
  case accepted =>
    rw [exec_tickMessage_slaved hs, ← acceptTick_sameFreq hv hf]
    simp [ho, hi]
  case late =>
    rw [exec_tickMessage_slaved hs, exec_missedTick_slaved hs]
    simp [ho, hi]
  case foreign =>
    rw [exec_tickMessage_slaved hs, exec_missedTick_slaved hs]
    simp [ho]
  case counted => rw [exec_missedTick_slaved hs, missTick_counted h]
  case isolating => rw [exec_missedTick_slaved hs, missTick_isolating h7 hi]
  case aligned =>
    rw [exec_tickMessage_slaved hs, ← alignTick_first ph ha hv]
    simp [ho, hi]

end Sys2Proof.Proofs
end

section
/-! SUPPORT. The statements of 02_tides on the states of a launch slot: load, restore, drain and save window. -/
namespace Sys2Proof.Proofs
open Sys2Proof Sys2Proof.Machine Sys2Proof.Laws

section
variable {s : State} {p k : Nat}

/-! Going to RUNNING or DRAINING (R94, R106, R107) -/

theorem enterRun_runs (h : s.drainsNow p k = false) :
    s.enterRun p k = s.onSlot p k fun v => { v with state := .running, stuck := 0 } := by
  simp [State.enterRun, h]

theorem enterRun_drains (h : s.drainsNow p k = true) : s.enterRun p k = s.startDrain false p k := if_pos h

/-- The save of a slot counts an overrun where its window ended late or the slack is short (R89, R133). -/
theorem closeSave_of_launch {e : Launch} (late : Bool) (hl : s.launch (s.slotAt p k).entry = some e) :
    s.closeSave p late k = (if late ∨ s.tide.slack < 40 then s.onTide fun t => { t with cSaveOverrun := t.cSaveOverrun + 1 }
      else s).saveSlot p k (s.slotAt p k) e := by
  simp only [State.closeSave, hl]

/-! The commands (R106, R130, R132, R136, R187) -/

theorem not_frozen_of_clocked (hh : s.halted = false) : s.boot.life ≠ .frozen := by
  intro hf
  simp [State.halted, hf] at hh

variable (hh : s.halted = false)
include hh

theorem exec_loadComplete_resolved {e : Launch} {ws : List Window} (hl : s.launch (s.slotAt p k).entry = some e)
    (hv : (s.slotAt p k).state = .loading) (hw : s.loadWindows e = some ws) :
    exec (.loadComplete p k) s = .next (((s.onCtx p k fun _ => s.loadedCtx e p (s.slotAt p k).part ws).enterRun p k).onLaunch
      (s.slotAt p k).entry fun e => { e with started := true }) := by
  show execLoadComplete p k s = _
  simp [execLoadComplete, hh, hl, hv, hw]

theorem exec_restoreComplete_good {e : Launch} {r : SavedRec} (hl : s.launch (s.slotAt p k).entry = some e)
    (hv : (s.slotAt p k).state = .restoring) (hr : s.recordOf (s.slotAt p k).entry (s.slotAt p k).part e.harbour = some r) :
    exec (.restoreComplete p k true false) s = .next ((((((s.releaseRecord (s.slotAt p k).entry (s.slotAt p k).part).dropPoolRecord
      e.harbour (s.slotAt p k).entry (s.slotAt p k).part).onCtx p k fun _ => { r.ctx with logicalTile := s.logicalNumber e.harbour p }).onTile
      (s.servingTile p) fun t => { t with cRestores := t.cRestores + 1 }).enterRun p k)) := by
  show execRestoreComplete p k true false s = _
  simp [execRestoreComplete, hh, hl, hv, hr]

theorem exec_drainComplete_quiet (hv : (s.slotAt p k).state = .draining)
    (h0 : (s.slotAt p k).ctx.dma0.reqs.any (·.pending) = false) (h1 : (s.slotAt p k).ctx.dma1.reqs.any (·.pending) = false) :
    exec (.drainComplete p k) s = .next ((s.cancelReqs p k).onSlot p k fun v => { v with
      state := .saving, ctx := { v.ctx with dma0 := v.ctx.dma0.rewind, dma1 := v.ctx.dma1.rewind } }) := by
  have notFrozen := not_frozen_of_clocked hh
  show execDrainComplete p k s = _
  unfold execDrainComplete
  rw [State.clocked_run _ _ hh]
  dsimp only
  rw [if_pos (by simp [hv, h0, h1, notFrozen])]

/-- The slots of a place that share the save window of one of them (R132). -/
def sharedWindow (s : State) (p k : Nat) : Tab Slot :=
  (s.place p).slots.filter fun x => x.2.inWindow && x.2.window == (s.slotAt p k).window

theorem exec_saveWindowClose_saved (late : Bool) (hv : (s.slotAt p k).state = .saving)
    (hd : (sharedWindow s p k).any (fun x => x.2.state == .draining) = false) :
    exec (.saveWindowClose p k late) s =
      .next (foldState ((sharedWindow s p k).map (·.1)) (fun a j => a.closeSave p late j) s).settle := by
  have notFrozen := not_frozen_of_clocked hh
  have closes : ¬ ((s.slotAt p k).state ≠ .saving ∨ (sharedWindow s p k).any (fun x => x.2.state == .draining) = true ∨
      s.boot.life = .frozen) := by
    simp only [hv, hd, notFrozen]
    decide
  show execSaveWindowClose p k late s = _
  unfold execSaveWindowClose
  rw [State.clocked_run _ _ hh]
  exact congrArg _ (if_neg closes)

end

/-- Settles O14: one law per command, and two for where a loaded or restored slot goes. -/
theorem slotTransitionsOfARun : Obligations.SlotTransitionsOfARun :=
  fun _ hh => ⟨fun _ _ _ _ => exec_loadComplete_resolved hh, fun _ _ => enterRun_runs, fun _ _ => enterRun_drains,
    fun _ _ _ _ => exec_restoreComplete_good hh, fun _ _ => exec_drainComplete_quiet hh,
    fun _ _ late => exec_saveWindowClose_saved hh late, fun _ _ late _ => closeSave_of_launch late⟩

end Sys2Proof.Proofs
end

section
/-! SUPPORT. The statements of 03_tile on the instructions of a part that work on accumulator rows: clear, merge, rounding and the tensor
instruction. -/
namespace Sys2Proof.Proofs
open Sys2Proof Sys2Proof.Machine Sys2Proof.Laws

/-! What every instruction of a part goes through (R105, R115, R181) -/

section
variable {s : State} {p k : Nat}

theorem running_of_issuing (hi : s.issuing p k = true) : (s.slotAt p k).state = .running := by
  simp only [State.issuing, Bool.and_eq_true, beq_iff_eq] at hi
  exact hi.1.1

/-- An instruction that may do nothing unless its part issues and its operands name what the part holds runs where both are so. -/
theorem issuing_guard {out : Prop} (hi : s.issuing p k = true) (ho : ¬ out) : ¬ ((!s.issuing p k) = true ∨ out) := by
  simp [hi, ho]

theorem issue_of_done {r : Stop ⊕ State} {t : State} (h : r = .inr t) : s.issue p k r = t.nextPc p k := by
  rw [h]
  rfl

end

/-! The tensor instruction (R108–R110, R154) -/

/-- What a tensor instruction on formats of row `r` of the format table reads, in order: the stationary operand with its scales and anchors,
then the streamed rows with theirs. -/
def tensorReads (t : TensorOp) (r : Nat) : List (Word × Nat) :=
  [(t.b, 64 * (rowK r * t.fmtB.width / 8)), (t.bScale, if t.scaledB then 64 * (rowK r / 32) else 0), (t.anchors, if r = 0 then 0 else 128),
    (t.a, t.rows * (rowK r * t.fmtA.width / 8)), (t.aScale, if t.scaledA then t.rows * (rowK r / 32) else 0)]

/-- The anchors of the 64 columns. -/
def tensorAnchors (an : List Byte) : List Nat := (List.range 64).map fun j => leNat (slice an j 2)

/-- The 64 columns of a stationary operand: codes, scales and anchor. -/
def tensorCols (t : TensorOp) (r : Nat) (b sb an : List Byte) : List (Nat × List Byte × BitVec 9) :=
  (List.range 64).map fun j =>
    (leNat (slice b j (rowK r * t.fmtB.width / 8)), slice sb j (rowK r / 32), BitVec.ofNat 9 ((tensorAnchors an).getD j 0))

section
variable {s : State} {p k : Nat}

/-- With its operands read and its anchors in range, a tensor instruction is its rows. -/
theorem tensor_of_reads {t : TensorOp} {r : Nat} {b sb an a sa : List Byte} (ha : fmtRow t.fmtA t.scaledA = some r)
    (hb : fmtRow t.fmtB t.scaledB = some r) (rows : ¬ (t.rows = 0 ∨ 64 < t.rows ∨ s.rowsHeld p k < t.rows))
    (reads : readMany s p k (tensorReads t r) = .inr [b, sb, an, a, sa]) (inRange : ∀ x ∈ tensorAnchors an, x < 512) :
    s.tensor p k t = s.issue p k (s.tensorRows t (rowK r) p k a sa (tensorCols t r b sb an) (List.range t.rows)) := by
  have noneAbove : ¬ ((tensorAnchors an).any fun x => decide (512 ≤ x)) = true := by simpa using inRange
  unfold tensorReads at reads
  unfold tensorAnchors at noneAbove
  unfold State.tensor
  simp only [ha, hb]
  rw [if_neg (by simp), if_neg rows]
  simp only [reads]
  rw [if_neg noneAbove]
  rfl

theorem exec_tensorInstruction_issuing (hh : s.halted = false) (hi : s.issuing p k = true) (t : TensorOp) :
    exec (.tensorInstruction p k t) s = .next (s.tensor p k t) := by
  show execTensorInstruction p k t s = _
  rw [execTensorInstruction, State.clocked_run _ _ hh, if_pos hi]

end

/-! ROW_CLEAR, EXACT_ROW_MERGE and ROW_ROUND of a row that the part holds (R112, R159, R166–R170) -/

/-- The values of a row, converted as a ROW_ROUND asks. -/
def roundedRow (s : State) (p k : Nat) (r : RoundOp) : List Byte × List Byte × List Bool :=
  convertAll r.fmt r.scaled (((List.range 64).map ((s.slotAt p k).ctx.accAt r.row)).map entryVal) fun i =>
    (s.launchAt p k).rounding r.shard (r.index + i)

/-- The mask that a ROW_ROUND writes: the entries out of range before or after the conversion. -/
def roundedMask (s : State) (p k : Nat) (r : RoundOp) : List Byte :=
  natBytes 8 (maskOf ((((List.range 64).map ((s.slotAt p k).ctx.accAt r.row)).zip (roundedRow s p k r).2.2).map fun y => y.1.range || y.2))

section
variable {s : State} {p k row : Nat} (hh : s.halted = false) (hi : s.issuing p k = true)
include hh hi

theorem exec_rowClear_held (hr : row < s.rowsHeld p k) :
    exec (.rowClear p k row) s = .next ((s.onCtx p k fun c => c.putRow row (List.replicate 64 {})).nextPc p k) := by
  show execRowClear p k row s = _
  rw [execRowClear, State.clocked_run _ _ hh, if_neg (issuing_guard hi (Nat.not_le.2 hr))]

theorem exec_exactRowMerge_merge {a : Word} {b : List Byte} {es : List AccEntry} (hr : row < s.rowsHeld p k) (reads : s.reads p k a 1152 b)
    (merged : (((List.range 64).map ((s.slotAt p k).ctx.accAt row)).zipIdx.mapM fun e => mergeEntry (imageEntry b e.2) e.1) = some es) :
    exec (.exactRowMerge p k row a false) s = .next ((s.onCtx p k fun c => c.putRow row es).nextPc p k) := by
  show execExactRowMerge p k row a false s = _
  rw [execExactRowMerge, State.clocked_run _ _ hh, if_neg (issuing_guard hi (Nat.not_le.2 hr)), if_neg (by decide)]
  simp only [winRead_of_reads reads, merged]

theorem exec_exactRowMerge_store {a : Word} {t : State} (hr : row < s.rowsHeld p k)
    (writes : s.writes p k a (rowImage ((List.range 64).map ((s.slotAt p k).ctx.accAt row))) t) :
    exec (.exactRowMerge p k row a true) s = .next (t.nextPc p k) := by
  show execExactRowMerge p k row a true s = _
  rw [execExactRowMerge, State.clocked_run _ _ hh, if_neg (issuing_guard hi (Nat.not_le.2 hr)), if_pos rfl,
    issue_of_done (winWrite_of_writes writes)]

theorem exec_rowRound_held {r : RoundOp} {t1 t2 t3 : State} (hr : r.row < s.rowsHeld p k) (hf : outputFmt r.fmt r.scaled = true)
    (codes : s.result p k r.dst (roundedRow s p k r).1 t1) (scales : t1.result p k r.scaleDst (roundedRow s p k r).2.1 t2)
    (mask : t2.result p k r.maskDst (roundedMask s p k r) t3) :
    exec (.rowRound p k r) s = .next (t3.nextPc p k) := by
  have written := writeMany_cons codes (writeMany_cons scales (writeMany_cons mask (writeMany_nil t3 p k)))
  show execRowRound p k r s = _
  rw [execRowRound, State.clocked_run _ _ hh, if_neg (issuing_guard hi (Nat.not_le.2 hr)), if_neg (by simp [hf])]
  exact congrArg _ (issue_of_done written)

end

/-- Settles O17: one law per instruction; the rows of a tensor instruction, none in error, are added one by one. -/
theorem engineInstructions : Obligations.EngineInstructions := by
  intro p k s hh hi
  refine ⟨fun row => exec_rowClear_held hh hi, fun row a b es => exec_exactRowMerge_merge hh hi,
    fun row a t => exec_exactRowMerge_store hh hi, fun r t1 t2 t3 hr hf => exec_rowRound_held hh hi hr hf, ?tensor⟩
  case tensor =>
    intro t ra b sb an a sa es ha hb h1 h64 held kk na nb ob osb oan oa osa anchors inRange cols added
    have rows : ¬ (t.rows = 0 ∨ 64 < t.rows ∨ s.rowsHeld p k < t.rows) := by omega
    have reads : readMany s p k (tensorReads t ra) = .inr [b, sb, an, a, sa] :=
      readMany_cons ob (readMany_cons osb (readMany_cons oan (readMany_cons oa (readMany_cons osa (readMany_nil s p k)))))
    have sums := tensorRows_ok t kk p k a sa cols (by simp [cols]) es (List.range t.rows) s (running_of_issuing hi) List.nodup_range
      fun i hm => added i (List.mem_range.1 hm)
    rw [exec_tensorInstruction_issuing hh hi, tensor_of_reads ha hb rows reads inRange]
    exact congrArg _ (issue_of_done sums)

end Sys2Proof.Proofs
end

section
/-! SUPPORT. The statements of 03_tile on the vector engine and the transcendental unit. -/
namespace Sys2Proof.Proofs
open Sys2Proof Sys2Proof.Machine Sys2Proof.Laws

section
variable {s : State} {p k : Nat} (hh : s.halted = false) (hi : s.issuing p k = true)
include hh hi

theorem exec_vectorInstruction_issuing (v : VecOp) : exec (.vectorInstruction p k v) s = .next (s.vector p k v) := by
  show execVectorInstruction p k v s = _
  rw [execVectorInstruction, State.clocked_run _ _ hh, if_pos hi]

theorem exec_transcendentalInstruction_held {fn dst src : Nat} (hd : dst < s.regsHeld p k) (hs : src < s.regsHeld p k) (hf : fn < 8) :
    exec (.transcendentalInstruction p k fn dst src) s = .next ((s.onCtx p k fun x => x.putReg dst ((x.reg src).map fun y =>
      transResult fn y (Config.transcendental fn y))).nextPc p k) := by
  show execTranscendentalInstruction p k fn dst src s = _
  rw [execTranscendentalInstruction, State.clocked_run _ _ hh, if_neg (issuing_guard hi (by omega))]

end

/-! One law per form of vector instruction on registers and rows that the part holds (R113, R165–R167) -/

/-- A vector register after an operation on each of its 32 lanes. -/
def putLanes (p k dst : Nat) (f : PartCtx → Nat → Word32) (s : State) : State :=
  s.onCtx p k fun c => c.putReg dst ((List.range 32).map (f c))

section
variable {s : State} {p k dst : Nat}

theorem vector_fp {f : FpOp} {a b d : Nat} (hd : dst < s.regsHeld p k) (ha : a < s.regsHeld p k) (hb : b < s.regsHeld p k)
    (hc : d < s.regsHeld p k) :
    s.vector p k (.fp f dst a b d) =
      (putLanes p k dst (fun x i => fpLane f (x.lane a i) (x.lane b i) (x.lane d i)) s).nextPc p k :=
  if_neg (by omega)

theorem vector_int {f : IntOp} {a b : Nat} (hd : dst < s.regsHeld p k) (ha : a < s.regsHeld p k) (hb : b < s.regsHeld p k) :
    s.vector p k (.int f dst a b) = (putLanes p k dst (fun x i => intLane f (x.lane a i) (x.lane b i)) s).nextPc p k :=
  if_neg (by omega)

theorem vector_load {a : Word} {b : List Byte} (hd : dst < s.regsHeld p k) (reads : s.reads p k a 128 b) :
    s.vector p k (.load dst a) = (putLanes p k dst (fun _ i => BitVec.ofNat 32 (leNat (slice b i 4))) s).nextPc p k := by
  simp only [State.vector, winRead_of_reads reads]
  exact if_neg (Nat.not_le.2 hd)

theorem vector_store {src : Nat} {a : Word} {t : State} (hs : src < s.regsHeld p k)
    (writes : s.writes p k a (((s.slotAt p k).ctx.reg src).flatMap fun x => natBytes 4 x.toNat) t) :
    s.vector p k (.store src a) = t.nextPc p k :=
  (if_neg (Nat.not_le.2 hs)).trans (issue_of_done (winWrite_of_writes writes))

/-- The FP32 value of an element of a widened block whose scale byte was read. -/
def widened (f : Fmt) (scaled : Bool) (b sb : List Byte) (i : Nat) : Word32 :=
  match blockExp scaled sb 0 with
  | none => qnan
  | some e => BitVec.ofNat 32 (convert .fp32 .nearest ((decodeElem f (element f.width (leNat b) i)).shift e)).1

theorem vector_widen {f : Fmt} {sc : Bool} {a scale : Word} {b sb : List Byte} (hd : dst < s.regsHeld p k) (hf : outputFmt f sc = true)
    (codes : s.operand p k a (4 * f.width) b) (scales : s.operand p k scale (if sc then 1 else 0) sb) :
    s.vector p k (.widen f sc dst a scale) = (putLanes p k dst (fun _ => widened f sc b sb) s).nextPc p k := by
  have reads := readMany_cons codes (readMany_cons scales (readMany_nil s p k))
  simp only [State.vector, reads]
  rw [if_neg (Nat.not_le.2 hd), if_neg (by simp [hf])]
  rfl

/-- The lanes of a register, converted as the manifest of the launch rounds. -/
def narrowed (s : State) (p k : Nat) (f : Fmt) (sc : Bool) (src shard index : Nat) : List Byte × List Byte × List Bool :=
  convertAll f sc (((s.slotAt p k).ctx.reg src).map fpVal) fun i => (s.launchAt p k).rounding shard (index + i)

theorem vector_narrow {f : Fmt} {sc : Bool} {src shard index : Nat} {a scale : Word} {t1 t2 : State} (hs : src < s.regsHeld p k)
    (hf : outputFmt f sc = true) (codes : s.result p k a (narrowed s p k f sc src shard index).1 t1)
    (scales : t1.result p k scale (narrowed s p k f sc src shard index).2.1 t2) :
    s.vector p k (.narrow f sc src a scale shard index) = t2.nextPc p k :=
  ((if_neg (Nat.not_le.2 hs)).trans (if_neg (by simp [hf]))).trans
    (issue_of_done (writeMany_cons codes (writeMany_cons scales (writeMany_nil t2 p k))))

theorem vector_readRow {row half shard index : Nat} (hd : dst < s.regsHeld p k) (hr : row < s.rowsHeld p k) :
    s.vector p k (.readRow dst row half shard index) = (putLanes p k dst (fun x i =>
      BitVec.ofNat 32 (convert .fp32 ((s.launchAt p k).rounding shard (index + i)) (entryVal (x.accAt row (half % 2 * 32 + i)))).1)
      s).nextPc p k :=
  if_neg (by omega)

theorem vector_reduceReg {f : FpOp} {src count : Nat} (hs : src < s.regsHeld p k) (hc : count ≤ 32) (hd : dst < 64)
    (hf : reduces f = true) :
    s.vector p k (.reduceReg f src count dst) =
      (s.onCtx p k fun x => x.putSreg dst ((fpReduce f ((x.reg src).take count)).zeroExtend 64)).nextPc p k :=
  if_neg (by simp [hf]; omega)

theorem vector_reduceRow {f : FpOp} {row count shard index : Nat} (hr : row < s.rowsHeld p k) (hc : count ≤ 64) (hd : dst < 64)
    (hf : reduces f = true) :
    s.vector p k (.reduceRow f row count dst shard index) =
      (s.onCtx p k fun x => x.putSreg dst ((fpReduce f ((List.range count).map fun i =>
        BitVec.ofNat 32 (convert .fp32 ((s.launchAt p k).rounding shard (index + i)) (entryVal (x.accAt row i))).1)).zeroExtend
        64)).nextPc p k :=
  if_neg (by simp [hf]; omega)

end

/-- A result of the transcendental unit meets the bound of R114, or is the exact value rounded. -/
theorem transResult_bounded {fn : Nat} {x raw : Word32} {v : Num} (h : transExact fn (fpVal x) = some v) :
    withinTwoUlp (fpVal (transResult fn x raw)) v = true ∨ transResult fn x raw = fpRound v := by
  simp only [transResult, h]
  by_cases close : withinTwoUlp (fpVal raw) v = true
  · exact .inl (by rw [if_pos close, close])
  · exact .inr (if_neg close)

/-- Settles O18: one law per form of vector instruction, and the bound of the transcendental unit. -/
theorem vectorInstructions : Obligations.VectorInstructions := by
  intro p k s hh hi
  have runs {v : VecOp} {t : State} (h : s.vector p k v = t) := (exec_vectorInstruction_issuing hh hi v).trans (congrArg _ h)
  exact ⟨fun _ _ _ _ _ hd ha hb hc => runs (vector_fp hd ha hb hc), fun _ _ _ _ hd ha hb => runs (vector_int hd ha hb),
    fun _ _ _ hd reads => runs (vector_load hd reads), fun _ _ _ hs writes => runs (vector_store hs writes),
    fun _ _ _ _ _ _ _ hd hf codes scales => runs (vector_widen hd hf codes scales),
    fun _ _ _ _ _ _ _ _ _ hs hf codes scales => runs (vector_narrow hs hf codes scales),
    fun _ _ _ _ _ hd hr => runs (vector_readRow hd hr), fun _ _ _ _ hs hc hd hf => runs (vector_reduceReg hs hc hd hf),
    fun _ _ _ _ _ _ hr hc hd hf => runs (vector_reduceRow hr hc hd hf),
    fun _ _ _ hd hs hf => exec_transcendentalInstruction_held hh hi hd hs hf, fun _ _ _ => transResult_bounded⟩

end Sys2Proof.Proofs
end

section
/-! SUPPORT. The statements of 03_tile on the sequencer, DMA descriptors and requests that are served inside the tile. -/
namespace Sys2Proof.Proofs
open Sys2Proof Sys2Proof.Machine Sys2Proof.Laws

/-! Scalar instructions, special scalars and descriptors (R115, R120, R187, R191) -/

/-- Bytes that a descriptor moves: an atomic those of its operation (R455). -/
def descriptorLen (len : Nat) (a : Option AtomicOp) : Nat := match a with | some a => atomicWidth a | none => len

section
variable {s : State} {p k : Nat} (hh : s.halted = false) (hi : s.issuing p k = true)
include hh hi

theorem exec_scalarInstruction_issuing (i : ScalarOp) : exec (.scalarInstruction p k i) s = .next (s.scalar p k i) := by
  show execScalarInstruction p k i s = _
  rw [execScalarInstruction, State.clocked_run _ _ hh, if_pos hi]

theorem exec_readSpecialScalar_known {n dst : Nat} (hn : n < 14) :
    exec (.readSpecialScalar p k n dst) s = .next ((s.onCtx p k fun c => c.putSreg dst (s.special p k n)).nextPc p k) := by
  show execReadSpecialScalar p k n dst s = _
  rw [execReadSpecialScalar, State.clocked_run _ _ hh, if_neg (issuing_guard hi (Nat.not_le.2 hn))]

theorem exec_dmaDescriptor_inBounds {e len : Nat} {src dst : DmaEnd} {a : Option AtomicOp} (he : e < 2) (hn : descriptorLen len a ≠ 0)
    (hs : s.endFits p k (descriptorLen len a) src = true) (hd : s.endFits p k (descriptorLen len a) dst = true) :
    exec (.dmaDescriptor p k e src dst len a) s = .next ((s.onDma p k e fun d => { d with
      queue := d.queue ++ [{ id := d.nextDesc, src := src, dst := dst, len := descriptorLen len a, atomic := a }]
      nextDesc := d.nextDesc + 1 }).nextPc p k) := by
  have named : ¬ (2 ≤ e ∨ descriptorLen len a = 0) := by omega
  have fits {x : DmaEnd} (h : s.endFits p k (descriptorLen len a) x = true) : ¬ (!s.endFits p k (descriptorLen len a) x) = true := by
    simp [h]
  show execDmaDescriptor p k e src dst len a s = _
  unfold execDmaDescriptor
  rw [State.clocked_run _ _ hh]
  exact congrArg _ ((if_neg (issuing_guard hi named)).trans ((if_neg (fits hs)).trans (if_neg (fits hd))))

end

section
variable {s : State} {p k : Nat}

theorem scalar_load {dst : Nat} {a : Word} {b : List Byte} (reads : s.reads p k a 8 b) :
    s.scalar p k (.load dst a) = (s.onCtx p k fun c => c.putSreg dst (w64 (leNat b))).nextPc p k := by
  simp only [State.scalar, winRead_of_reads reads]

theorem scalar_store {src : Nat} {a : Word} {t : State} (writes : s.writes p k a (wordBytes ((s.slotAt p k).ctx.sreg src)) t) :
    s.scalar p k (.store src a) = t.nextPc p k :=
  issue_of_done (winWrite_of_writes writes)

end

/-! HOLD_OR_LOCAL_STORE_REQUEST (R119–R121, R130, R381) -/

/-- The state in which a request is served: the errors of the tile's words are taken, and the engine's next request has started where that
is the one named and it may. -/
def nearReady (s : State) (p k : Nat) (r : NearReq) : State :=
  let s1 := foldState (r.errs.filter (s.eccHere p)) (fun a x => a.eccError p x) s
  if r.n = (s1.dma p k r.engine).reqs.length ∧ s1.engineFree p k r.engine ∧ s1.nextNear p k r.engine ∧ r.engine < 2
  then s1.startReq p k r.engine else s1

theorem exec_holdOrLocalStoreRequest_servable {s : State} {p k : Nat} {r : NearReq} {q : DmaReq} (hh : s.halted = false)
    (hq : (nearReady s p k r).servable p k r.engine r.n = some q) :
    exec (.holdOrLocalStoreRequest p k r) s = .next ((nearReady s p k r).nearServe p k r.engine q) := by
  unfold nearReady at *
  show execHoldOrLocalStoreRequest p k r s = _
  rw [execHoldOrLocalStoreRequest, State.clocked_run _ _ hh]
  simp only [hq]

section
variable {u : State} {p k e : Nat} {r : DmaReq} {b : Beats}

theorem nearServe_source (ha : r.atomic = none) (hb : r.buf = none)
    (read : u.nearRead (u.endTarget p k r.src r.srcAt r.len false) r.len = some b) : u.nearServe p k e r = u.gotData p k e r.id b := by
  simp only [State.nearServe, ha, hb, read]

theorem nearServe_sink {t : State} (hb : r.buf = some b)
    (written : u.nearWrite (u.endTarget p k r.sink.1 r.sink.2 r.len true) b = some t) : u.nearServe p k e r = t.reqDone p k e r.id := by
  simp only [State.nearServe, hb, written]

theorem nearServe_atomic {a : AtomicOp} (ha : r.atomic = some a) (hb : r.buf = none)
    (read : u.nearRead (u.endTarget p k r.dst r.dstAt r.len true) r.len = some b) :
    u.nearServe p k e r = (if b.any (·.2) then u
      else (u.nearWrite (u.endTarget p k r.dst r.dstAt r.len true)
        [(natBytes r.len (atomicResult a (leNat (beatBytes b))), false)]).getD u).gotData p k e r.id b := by
  simp only [State.nearServe, ha, hb, State.nearAtomic, read, Option.map_some]

end

/-- Settles O19: one law per form of scalar instruction, and one per thing a request inside the tile does next. -/
theorem scalarAndDmaInstructions : Obligations.ScalarAndDmaInstructions := by
  intro p k s hh
  refine ⟨fun hi => ?sequencer, fun e n errs => ?requests⟩
  case sequencer =>
    have runs {i : ScalarOp} {t : State} (h : s.scalar p k i = t) := (exec_scalarInstruction_issuing hh hi i).trans (congrArg _ h)
    exact ⟨fun _ _ => runs rfl, fun _ _ _ reads => runs (scalar_load reads), fun _ _ _ writes => runs (scalar_store writes),
      fun _ _ _ _ => runs rfl, fun _ _ => runs rfl, fun _ => runs rfl, runs rfl, fun _ _ => exec_readSpecialScalar_known hh hi,
      fun _ _ _ _ _ => exec_dmaDescriptor_inBounds hh hi⟩
  case requests =>
    have serves {q : DmaReq} {t : State} (hq : (nearReady s p k ⟨e, n, errs⟩).servable p k e n = some q)
        (h : (nearReady s p k ⟨e, n, errs⟩).nearServe p k e q = t) : exec (.holdOrLocalStoreRequest p k ⟨e, n, errs⟩) s = .next t :=
      (exec_holdOrLocalStoreRequest_servable hh hq).trans (congrArg _ h)
    exact ⟨fun _ _ hq ha hb read => serves hq (nearServe_source ha hb read), fun _ _ _ hq hb written => serves hq (nearServe_sink hb written),
      fun _ _ _ hq ha hb read => serves hq (nearServe_atomic ha hb read)⟩

end Sys2Proof.Proofs
end

section
/-! SUPPORT. The statement of 03_tile on the reductions of a gang. -/
namespace Sys2Proof.Proofs
open Sys2Proof Sys2Proof.Machine Sys2Proof.Laws

/-! The canonical tree of one value (R165, R177) -/

theorem treeLevels_singleton {α : Type} (f : α → α → α) (n : Nat) (v : α) : treeLevels f n [v] = [v] := by
  induction n with
  | zero => rfl
  | succ n ih => exact ih

theorem tree_singleton {α : Type} (f : α → α → α) (z v : α) : tree f z [v] = v := by
  simp [tree, treeLevels_singleton]

/-- The floating-point reductions treat a gang of one apart, and the others are trees. -/
theorem reduceValues_singleton {op : RedOp} (h : ∀ root, op ≠ .bcast root) (v : Word) : reduceValues op [v] = v := by
  cases op with
  | bcast root => exact absurd rfl (h root)
  | fmin | fmax | fadd => rfl
  | add | smin | smax | umin | umax | band | bor | bxor => exact tree_singleton _ _ _

/-! Contributions (R124, R188, R189) -/

section
variable {s : State} {p k : Nat} {op : RedOp} {v : Word} {dst : Nat}

/-- The part's contribution stands under the next sequence number. -/
def contributed (p k : Nat) (op : RedOp) (v : Word) (dst : Nat) (s : State) : State :=
  (s.onCtx p k fun c => { c with
    reds := c.reds ++ [⟨c.nextRed, op, v, dst⟩], nextRed := c.nextRed + 1, blockedRed := false }).nextPc p k

theorem contribute_agreed (room : (s.slotAt p k).ctx.reds.length < 4) (heard : s.heard (s.placeSpeaker p) = true)
    (agrees : s.redBroken (s.slotAt p k).entry (s.slotAt p k).ctx.nextRed op = false) :
    s.contribute p k op v dst = contributed p k op v dst s := by
  unfold State.contribute
  dsimp only
  rw [if_neg (Nat.not_le.2 room), if_neg (by simp [heard]), if_neg (by simp [agrees])]
  rfl

theorem contribute_blocked (full : 4 ≤ (s.slotAt p k).ctx.reds.length) :
    s.contribute p k op v dst = s.onCtx p k fun c => { c with blockedRed := true } := if_pos full

variable (hh : s.halted = false) (hi : s.issuing p k = true)
include hh hi

theorem exec_gangReduction_issuing : exec (.gangReduction p k op v dst) s = .next (s.contribute p k op v dst) := by
  show execGangReduction p k op v dst s = _
  rw [execGangReduction, State.clocked_run _ _ hh, if_pos hi]

theorem exec_gangBroadcast_issuing {root : Nat} :
    exec (.gangBroadcast p k root v dst) s = .next (s.contribute p k (.bcast root) v dst) := by
  show execGangBroadcast p k root v dst s = _
  rw [execGangBroadcast, State.clocked_run _ _ hh, if_pos hi]

end

/-! REDUCTION_RESULT (R124, R131, R190) -/

/-- The contribution of a part under a sequence number. -/
def pendOf (seq : Nat) (v : Slot) : Option RedPend := v.ctx.reds.find? fun r => r.seq == seq

/-- A resident part runs or retires, and has contributed. -/
def partReady (seq : Nat) (x : Nat × Nat × Nat × Slot) : Bool :=
  (x.2.2.2.state == .running || x.2.2.2.state == .retiring) && (pendOf seq x.2.2.2).isSome

/-- A part takes the result of a reduction into the register it named. -/
def takeResult (seq : Nat) (v : Word) (c : PartCtx) : PartCtx :=
  match c.reds.find? fun r => r.seq == seq with
  | none => c
  | some q => { c.putSreg q.dst v with reds := c.reds.filter (fun r => r.seq != seq), blockedRed := false }

theorem exec_reductionResult_ready {s : State} {l seq : Nat} {e : Launch} {r : RedPend} {x : Nat × Nat × Nat × Slot}
    {rest : List (Nat × Nat × Nat × Slot)} (hh : s.halted = false) (hl : s.launch l = some e) (hp : s.residentParts l = x :: rest)
    (hg : (x :: rest).length = e.gang) (hx : pendOf seq x.2.2.2 = some r) (ready : (x :: rest).all (partReady seq) = true) :
    exec (.reductionResult l seq) s = .next (foldState (x :: rest) (fun a y => a.onCtx y.2.1 y.2.2.1
      (takeResult seq (reduceValues r.op ((x :: rest).filterMap fun y => (pendOf seq y.2.2.2).map (·.value))))) s) := by
  have complete : ¬ ((!(x :: rest).all (partReady seq)) = true ∨ (x :: rest).length ≠ e.gang) := by simp [ready, hg]
  unfold pendOf at hx
  show execReductionResult l seq s = _
  unfold execReductionResult
  rw [State.clocked_run _ _ hh]
  simp only [hl, hp, List.head?_cons, Option.bind_some, hx]
  exact congrArg _ (if_neg complete)

theorem all_partReady {seq : Nat} {xs : List (Nat × Nat × Nat × Slot)}
    (h : ∀ y ∈ xs, (y.2.2.2.state = .running ∨ y.2.2.2.state = .retiring) ∧ (pendOf seq y.2.2.2).isSome = true) :
    xs.all (partReady seq) = true := by
  simpa [partReady] using h

/-- Settles O21: a contribution is recorded or blocks, a complete set of them ends, and the tree of one value is that value. -/
theorem gangReductions : Obligations.GangReductions := by
  intro s hh
  refine ⟨fun p k op v dst root hi room heard => ⟨fun agrees => ?_, fun agrees => ?_⟩,
    fun p k op v dst root hi full => ⟨?_, ?_⟩,
    fun l seq e r x rest hl hp hg hx ready => exec_reductionResult_ready hh hl hp hg hx (all_partReady ready),
    fun op v h => reduceValues_singleton h v⟩
  · exact (exec_gangReduction_issuing hh hi).trans (congrArg _ (contribute_agreed room heard agrees))
  · exact (exec_gangBroadcast_issuing hh hi).trans (congrArg _ (contribute_agreed room heard agrees))
  · exact (exec_gangReduction_issuing hh hi).trans (congrArg _ (contribute_blocked full))
  · exact (exec_gangBroadcast_issuing hh hi).trans (congrArg _ (contribute_blocked full))

end Sys2Proof.Proofs
end

section
/-! SUPPORT. The statement of 03_tile on the ends of a launch and on the save heap. -/
namespace Sys2Proof.Proofs
open Sys2Proof Sys2Proof.Machine Sys2Proof.Laws

/-! Retirement, completion and abort (R106, R178, R190, R270, R285) -/

section
variable {s : State}

/-- A running part after it has retired its last instruction. -/
def retiredPart (p k : Nat) (s : State) : State :=
  (s.onSlot p k fun v => { v with state := .retiring, stuck := 0 }).onLaunch (s.slotAt p k).entry fun e => { e with
    retired := setIns e.retired (s.slotAt p k).part
    exitValue := if (s.slotAt p k).part = 0 then (s.slotAt p k).ctx.exitValue else e.exitValue }

/-- Nothing that the other parts have contributed waits for a contribution of the part that retires. -/
theorem exec_partRetire_alone {p k : Nat} {e : Launch} (hh : s.halted = false) (hl : s.launch (s.slotAt p k).entry = some e)
    (hv : (s.slotAt p k).state = .running) (before : ∀ x ∈ (retiredPart p k s).liveParts (s.slotAt p k).entry, ∀ r ∈ x.2.reds,
      r.seq < (s.slotAt p k).ctx.nextRed) :
    exec (.partRetire p k) s = .next (retiredPart p k s) := by
  have notBroken : ¬ (((retiredPart p k s).liveParts (s.slotAt p k).entry).any fun x =>
      x.2.reds.any fun r => decide ((s.slotAt p k).ctx.nextRed ≤ r.seq)) = true := by
    simpa using before
  show execPartRetire p k s = _
  unfold execPartRetire
  rw [State.clocked_run _ _ hh]
  simp only [hl]
  rw [if_neg (by simp [hv])]
  exact congrArg _ (if_neg notBroken)

theorem exec_launchComplete_drained {l : Nat} {e : Launch} (hh : s.halted = false) (hl : s.launch l = some e) (hk : e.kind = 0)
    (hr : s.allRetired e = true) : exec (.launchComplete l) s = .next (s.complete l).settle := by
  show execLaunchComplete l s = _
  rw [execLaunchComplete, State.clocked_run _ _ hh]
  simp only [hl]
  rw [if_pos ⟨hk, hr⟩]

theorem exec_abortComplete (hh : s.halted = false) (p k : Nat) : exec (.abortComplete p k) s = .next (s.abortEnds p k) := by
  show execAbortComplete p k s = _
  rw [execAbortComplete, State.clocked_run _ _ hh]

/-- A launch whose status stands, with its place in the order of its berth. -/
def endMarked (l : Nat) (s : State) : State :=
  (s.stamp l).onLaunch l fun e => { e with ended := true, state := .completing, status := some (e.status.getD .ok) }

theorem complete_of_launch {l : Nat} {e : Launch} (hl : s.launch l = some e) (hn : e.node = none) :
    s.complete l = (endMarked l s).flushBerth e.berth ((endMarked l s).hm.launches.length + 1) := by
  simp only [State.complete, hl]
  exact if_pos (by simp [hn])

end

/-! The save heap of a place (R135, R382) -/

section
variable {s : State} {p : Nat}

/-- The oldest record of a place has gone to the eviction area of its harbour. -/
def evicted (p h : Nat) (r : SavedRec) (rest : List SavedRec) (s : State) : State :=
  ((((s.evictPut h r).2).onPlace p fun x => { x with
    heap := rest, zeroing := x.zeroing ++ [r.size], evicting := x.evicting - 1 }).onHarbour h fun y => { y with
    poolEvicted := y.poolEvicted ++ [(s.evictPut h r).1] }).onLaunch r.entry fun e => { e with parts := e.parts.set r.part (.pool p) }

theorem evictOne_of_heap {h : Nat} {r : SavedRec} {rest : List SavedRec} (heap : (s.place p).heap = r :: rest)
    (hp : s.placeHarbour p = some h) : s.evictOne p = evicted p h r rest s := by
  simp only [State.evictOne, heap, hp, evicted]

theorem exec_evictionComplete_waited (hh : s.halted = false) (hw : 0 < (s.place p).evicting) :
    exec (.evictionComplete p) s = .next (s.evictOne p).settle := by
  show execEvictionComplete p s = _
  rw [execEvictionComplete, State.clocked_run _ _ hh, if_pos hw]

theorem exec_saveHeapZeroingDone_released (hh : s.halted = false) (hz : (s.place p).zeroing ≠ []) :
    exec (.saveHeapZeroingDone p) s = .next (s.onPlace p fun x => { x with zeroing := x.zeroing.drop 1 }).settle := by
  show execSaveHeapZeroingDone p s = _
  rw [execSaveHeapZeroingDone, State.clocked_run _ _ hh, if_neg (by simp [hz])]

end

/-- Settles O15: one law per end of a part or launch, and per step of the save heap. -/
theorem launchEndsAndSaveHeap : Obligations.LaunchEndsAndSaveHeap := by
  refine fun s hh => ⟨fun p k e => exec_partRetire_alone hh, fun l e => exec_launchComplete_drained hh, fun p k hv => ?abort,
    fun p r rest h hw heap hp => ?eviction, fun p => exec_saveHeapZeroingDone_released hh, fun l e => complete_of_launch⟩
  case abort => exact (exec_abortComplete hh p k).trans (congrArg _ (if_neg (not_not.2 hv)))
  case eviction =>
    rw [exec_evictionComplete_waited hh hw, evictOne_of_heap heap hp]
    rfl

end Sys2Proof.Proofs
end

section
/-! SUPPORT. The statement of 03_tile on tile errors, exit, trap and residency tags. -/
namespace Sys2Proof.Proofs
open Sys2Proof Sys2Proof.Machine Sys2Proof.Laws

theorem abortable_iff {st : SlotState} :
    abortable st = true ↔ st = .loading ∨ st = .restoring ∨ st = .running ∨ st = .draining ∨ st = .saving := by
  cases st <;> decide

/-! A cause in one part of a launch (R116, R179, R284, R379, R525) -/

section
variable {s : State} {p k : Nat}

/-- A part after an error that stops it and loses its context. -/
def partFailed (p k code : Nat) (addr : Word) (st : Status) (e : Launch) (s : State) : State :=
  ((s.onCtx p k fun c => { c with errCode := code, errAddr := addr, stopped := true }).markLost e.context e.harbour e.ident
    (worse e.status st)).abortLaunch (s.slotAt p k).entry st (some (s.slotAt p k).part)

theorem failPart_abortable {e : Launch} (code : Nat) (addr : Word) (st : Status) (hv : abortable (s.slotAt p k).state = true)
    (hl : s.launch (s.slotAt p k).entry = some e) : s.failPart p k code addr st true = partFailed p k code addr st e s := by
  have held : (s.slotAt p k).state ≠ .free := fun h => by simp [h, abortable] at hv
  simp only [State.failPart, hl]
  rw [if_neg held]
  rfl

/-- A window error is counted on the tile that serves the place. -/
def windowErrCounted (p code : Nat) (s : State) : State :=
  if code = 1 then s.onTile (s.servingTile p) fun t => { t with cWindowErr := t.cWindowErr + 1 } else s

theorem windowErrCounted_slotAt (code : Nat) : (windowErrCounted p code s).slotAt p k = s.slotAt p k := by
  unfold windowErrCounted
  split <;> rfl

theorem windowErrCounted_launch (code l : Nat) : (windowErrCounted p code s).launch l = s.launch l := by
  unfold windowErrCounted
  split <;> rfl

variable {code : Nat} {e : Launch} (hh : s.halted = false) (hv : abortable (s.slotAt p k).state = true)
  (hl : s.launch (s.slotAt p k).entry = some e)
include hh hv hl

theorem exec_tileError_fault (addr : Word) (hc : tileErrorCode code = true) :
    exec (.tileError p k code addr) s = .next (partFailed p k code addr .fault e (windowErrCounted p code s)).settle := by
  have notPoison : code ≠ 3 := by
    rintro rfl
    simp [tileErrorCode] at hc
  have fails : (windowErrCounted p code s).tileErr p k code addr = partFailed p k code addr .fault e (windowErrCounted p code s) :=
    failPart_abortable code addr .fault (by rw [windowErrCounted_slotAt, hv]) (by rw [windowErrCounted_slotAt, windowErrCounted_launch, hl])
  show execTileError p k code addr s = _
  rw [execTileError, State.clocked_run _ _ hh, if_neg (by simp [hv]), if_neg notPoison, if_neg (by simp [hc])]
  exact congrArg (fun t => Host.Outcome.next t.settle) fails

theorem exec_tileError_poison (addr : Word) :
    exec (.tileError p k 3 addr) s = .next (partFailed p k 3 addr .poison e s).settle := by
  show execTileError p k 3 addr s = _
  rw [execTileError, State.clocked_run _ _ hh, if_neg (by simp [hv]), if_pos rfl]
  exact congrArg (fun t => Host.Outcome.next t.settle) (failPart_abortable 3 addr .poison hv hl)

end

/-! Exit, trap and tags of a part that issues (R184, R202, R203) -/

section
variable {s : State} {p k : Nat} (hh : s.halted = false) (hi : s.issuing p k = true)
include hh hi

theorem exec_kernelExit_issuing (v : Word32) :
    exec (.kernelExit p k v) s = .next (s.onCtx p k fun c => { c with exitValue := v, stopped := true }) := by
  show execKernelExit p k v s = _
  rw [execKernelExit, State.clocked_run _ _ hh, if_pos hi]

theorem exec_kernelTrap_issuing (code : Nat) :
    exec (.kernelTrap p k code) s =
      .next ((s.onCtx p k fun c => { c with trapTaken := true, trapCode := code % 256 }).tileErr p k 4 0).settle := by
  show execKernelTrap p k code s = _
  rw [execKernelTrap, State.clocked_run _ _ hh, if_pos hi]

theorem exec_setTag_inBounds {tag base len : Nat} (ht : tag ≠ 0) (ht' : tag < 2 ^ 40) (hn : len ≠ 0) (hb : base + len ≤ 496) :
    exec (.setTag p k tag base len) s =
      .next ((s.onPlace p fun x => { x with tags := setTagIn x.tags ⟨tag, base, len⟩ }).nextPc p k) := by
  show execSetTag p k tag base len s = _
  rw [execSetTag, State.clocked_run _ _ hh, if_neg (by simp [hi]), if_neg (by omega)]

theorem exec_clearTag_issuing (tag : Nat) :
    exec (.clearTag p k tag) s = .next ((s.onPlace p fun x => { x with tags := x.tags.filter fun t => t.tag != tag }).nextPc p k) := by
  show execClearTag p k tag s = _
  rw [execClearTag, State.clocked_run _ _ hh, if_neg (by simp [hi])]

end

/-- Settles O16: an error of a part goes through `failPart`; one law per other command. -/
theorem tileErrorExitAndTags : Obligations.TileErrorExitAndTags := by
  refine fun s hh => ⟨fun p k code a e hv hl hc => ?fault, fun p k a e hv hl => exec_tileError_poison hh hv hl a, fun _ => abortable_iff,
    fun p k v hi => exec_kernelExit_issuing hh hi v, fun p k code hi => exec_kernelTrap_issuing hh hi code,
    fun p k tag base len hi => exec_setTag_inBounds hh hi, fun p k tag hi => exec_clearTag_issuing hh hi tag⟩
  case fault =>
    rw [exec_tileError_fault hh hv hl a hc, partFailed, windowErrCounted_slotAt]
    rfl

end Sys2Proof.Proofs
end

section
/-! SUPPORT. The statement of 12_translation_and_faults on a walk of an engine and on the fault page. -/
namespace Sys2Proof.Proofs
open Sys2Proof Sys2Proof.Machine Sys2Proof.Laws

/-! TRANSLATE_WALK (R120, R121, R130, R406) -/

section
variable {s s1 s2 : State} {p k e : Nat}

theorem exec_translateWalk_free (hh : s.halted = false) (hf : s.engineFree p k e = true) (he : e < 2) :
    exec (.translateWalk p k e) s = .next (s.startReq p k e) := by
  show execTranslateWalk p k e s = _
  rw [execTranslateWalk, State.clocked_run _ _ hh, if_pos ⟨hf, he⟩]

theorem reissue_translated {r : DmaReq} {at' : Option Nat} (ht : s.translateEnd p k e r.sink.1 .write r.len = (some at', s1)) :
    s.reissue p k e r = (s1.onReq p k e r.id fun q =>
      if q.atomic.isSome then { q with ready := true, srcAt := at' } else { q with ready := true, dstAt := at' }).moveOn p k e r.id := by
  simp only [State.reissue, ht]

theorem startReq_restored {r : DmaReq} (hr : (s.dma p k e).reqs.find? (fun r => !r.ready) = some r) :
    s.startReq p k e = s.reissue p k e r := by
  simp only [State.startReq, hr]

theorem startReq_unfinished {d : DmaDesc} (hr : (s.dma p k e).reqs.find? (fun r => !r.ready) = none)
    (hd : (s.dma p k e).queue.find? (fun d => decide (d.issued < d.len)) = some d) : s.startReq p k e = s.issueReq p k e d := by
  simp only [State.startReq, hr, hd]

theorem startReq_nothing (hr : (s.dma p k e).reqs.find? (fun r => !r.ready) = none)
    (hd : (s.dma p k e).queue.find? (fun d => decide (d.issued < d.len)) = none) : s.startReq p k e = s := by
  simp only [State.startReq, hr, hd]

/-- A translated end lies on another node or in the host's memory. -/
def liesAway (s : State) (p k : Nat) (at' : Option Nat) (n : Nat) : Bool :=
  match at'.map fun y => s.target p k y n true with
  | some (.remote _ _) | some (.host _) => true
  | _ => false

/-- The request of the next piece of a descriptor. -/
def nextReqOf (s : State) (p k e : Nat) (d : DmaDesc) (srcAt dstAt : Option Nat) : DmaReq :=
  { id := (s.dma p k e).nextReq, desc := d.id, pos := d.issued, len := d.nextLen, src := endAt d.issued d.src, dst := endAt d.issued d.dst
    atomic := d.atomic, srcAt := srcAt, dstAt := dstAt }

/-- The same with the data that it takes along where its sink lies away. -/
def issuedReq (s : State) (p k e : Nat) (d : DmaDesc) (srcAt dstAt : Option Nat) : DmaReq :=
  if liesAway s p k dstAt d.nextLen then
    { nextReqOf s p k e d srcAt dstAt with buf := s.sourceData p k (nextReqOf s p k e d srcAt dstAt) }
  else nextReqOf s p k e d srcAt dstAt

theorem issueReq_translated {d : DmaDesc} {srcAt dstAt : Option Nat}
    (hs : s.translateEnd p k e (endAt d.issued d.src) (if d.atomic.isSome then .write else .read) d.nextLen = (some srcAt, s1))
    (hd : s1.translateEnd p k e (endAt d.issued d.dst) (if d.atomic.isSome then .atomic else .write) d.nextLen = (some dstAt, s2)) :
    s.issueReq p k e d = (s2.onDma p k e fun x => { x with
      reqs := x.reqs ++ [issuedReq s2 p k e d srcAt dstAt], nextReq := (s2.dma p k e).nextReq + 1
      queue := x.queue.map fun y => if y.id = d.id then { y with
        issued := if d.atomic.isSome then d.len else d.issued + d.nextLen } else y }).moveOn p k e (s2.dma p k e).nextReq := by
  simp only [State.issueReq, hs, hd]
  rfl

end

/-! The fault page (R409, R415, R417, R424) -/

section
variable {s : State} {m : Master} {q : Option Nat} {h : Nat}

theorem pageWrite_granted (o : Nat) (f : State → State) (hb : h < 64) (hg : s.granted m q h = true) : s.pageWrite m q h o f = f s := by
  rw [State.pageWrite, if_neg (Nat.not_le.2 hb), if_pos hg]

/-- A granted write of the fault page while the clocks run does what the page's register does. -/
theorem clocked_pageWrite_granted (o : Nat) (f : State → State) (hh : s.halted = false) (hb : h < 64) (hg : s.granted m q h = true) :
    s.clocked (s.pageWrite m q h o f) = .next (f s) := by
  rw [State.clocked_run _ _ hh, pageWrite_granted o f hb hg]

/-- The engines that an entry of a fault queue holds in their latches. -/
def heldBy (s : State) (h slot : Nat) : List (Nat × Nat × Nat × FaultLatch) :=
  s.latched.filter fun y => y.2.2.2.entry == some slot && s.slotHarbour y.1 y.2.1 == h

variable {v : Word} {slot : Nat} {x : FaultEnt} (hh : s.halted = false) (hb : h < 64) (hg : s.granted m q h = true)
  (hx : s.pendingEntry h v = some (slot, x))
include hh hb hg hx

theorem exec_xlfResume_pending :
    exec (.xlfResume m q h v) s = .next (s.resumeEntry h slot 1) := by
  refine (clocked_pageWrite_granted 0x10 _ hh hb hg).trans ?_
  simp only [hx]

theorem exec_xlfAbort_pending :
    exec (.xlfAbort m q h v) s = .next ((foldState (heldBy s h slot) (fun a y => (a.releaseLatch y.1 y.2.1 y.2.2.1).failPart y.1 y.2.1
      (8 + x.kind) (w64 y.2.2.2.va) .fault true) (s.putFault h slot { x with state := 3, engines := [] })).retryHeld h).settle := by
  refine (clocked_pageWrite_granted 0x10 _ hh hb hg).trans ?_
  simp only [hx]
  rfl

end

/-- Settles O34: the walk is what the engine has to start, and each register of the fault page has its law. -/
theorem walksAndFaultPage : Obligations.WalksAndFaultPage := by
  refine fun s hh => ⟨fun p k e hf he => ?walk, fun m q h v hb hg => ⟨clocked_pageWrite_granted 8 _ hh hb hg, fun slot x hx =>
    ⟨exec_xlfResume_pending hh hb hg hx, exec_xlfAbort_pending hh hb hg hx⟩⟩⟩
  case walk =>
    have starts {t : State} (h : s.startReq p k e = t) : exec (.translateWalk p k e) s = .next t :=
      (exec_translateWalk_free hh hf he).trans (congrArg _ h)
    exact ⟨fun r at' s1 hr ht => starts ((startReq_restored hr).trans (reissue_translated ht)),
      fun d srcAt dstAt s1 s2 hr hd hs ht => starts ((startReq_unfinished hr hd).trans (issueReq_translated hs ht)),
      fun hr hd => starts (startReq_nothing hr hd)⟩

end Sys2Proof.Proofs
end

section
/-! SUPPORT. The statement of 15_power_and_health on margin measurement, cluster gates and the power policy. -/
namespace Sys2Proof.Proofs
open Sys2Proof Sys2Proof.Machine Sys2Proof.Laws

/-! Margins (R506, R507) -/

section
variable {s : State}

theorem exec_marginMeasure_due (hr : s.running = true) (hm : s.pw.measuring = false) (hp : 2 ^ 20 ≤ s.pw.sincePlan) :
    exec .marginMeasure s = .next (s.onPw fun w => { w with measuring := true, sincePlan := 0 }) := by
  have due : ¬ ((!s.running) = true ∨ s.pw.measuring = true ∨ s.pw.sincePlan < 2 ^ 20) := by simpa [hr, hm] using hp
  show execMarginMeasure s = _
  rw [execMarginMeasure, State.clocked_run _ _ (halted_of_live (live_of_running hr)), if_neg due]

/-- The table that a measurement plans. -/
def plannedMargin (least : List (Nat × Nat)) (s : State) : Margin :=
  { s.pw.margin with
    planTide := s.tide.num
    volt := least.foldl (fun t x =>
      tabPut t x.1 (replanned (s.pw.margin.at (x.1 / 64) (x.1 % 64)) x.2 s.pw.guardMv)) s.pw.margin.volt }

/-- The plan of a measurement is kept for a later boundary. -/
def marginPlanned (least : List (Nat × Nat)) (fabric : Nat) (s : State) : State :=
  s.onPw fun w => { w with
    measuring := false, planNext := some (plannedMargin least s), planFabric := replanned (s.rail 2).mv fabric s.pw.guardMv }

/-- The voltage that a plan needs of a rail. -/
def plannedVolt (least : List (Nat × Nat)) (fabric : Nat) (s : State) (d : Nat) : Nat :=
  if d = 2 then replanned (s.rail 2).mv fabric s.pw.guardMv
  else (marginPlanned least fabric s).dieVolt (plannedMargin least s) d s.tide.jobFreq

/-- A rail below what is needed of it is asked to rise. -/
def askRise (need : Nat → Nat) (d : Nat) (s : State) : State := if (s.rail d).mv < need d then s.railAsk d (need d) else s

theorem exec_marginReplan_measured (least : List (Nat × Nat)) (fabric : Nat) (hh : s.halted = false) (hm : s.pw.measuring = true) :
    exec (.marginReplan least fabric) s = .next (foldState [0, 1, 2] (fun a d => askRise (plannedVolt least fabric s) d a)
      (marginPlanned least fabric s)) := by
  show execMarginReplan least fabric s = _
  rw [execMarginReplan, State.clocked_run _ _ hh, if_neg (by simp [hm])]
  rfl

theorem exec_marginFlashWriteDone_good {w : Power} (hh : s.halted = false) (hw : s.pw.flashWriting = true)
    (stored : s.pw.putFlash s.pw.margin = w) : exec (.marginFlashWriteDone true) s = .next { s with pw := w } := by
  show execMarginFlashWriteDone true s = _
  rw [execMarginFlashWriteDone, State.clocked_run _ _ hh, if_neg (by simp [hw]), if_pos rfl, ← stored]
  rfl

theorem exec_marginFlashWriteDone_bad (hh : s.halted = false) (hw : s.pw.flashWriting = true) :
    exec (.marginFlashWriteDone false) s = .next (((s.onPw fun w => { w with
      flashWriting := false, cFlashFail := w.cFlashFail + 1 }).event 0x0807 0 0 [s.pw.margin.planTide, s.fresh]).drawn) := by
  show execMarginFlashWriteDone false s = _
  rw [execMarginFlashWriteDone, State.clocked_run _ _ hh, if_neg (by simp [hw]), if_neg (by decide)]

/-- A good write replaces the older copy of the two. -/
theorem putFlash_older {w : Power} (m : Margin) (h : olderA w.flashA w.flashB = true) :
    w.putFlash m = { w with flashA := some m, flashWriting := false } := if_pos h

theorem putFlash_notOlder {w : Power} (m : Margin) (h : olderA w.flashA w.flashB = false) :
    w.putFlash m = { w with flashB := some m, flashWriting := false } := if_neg (by simp [h])

end

/-! Registers of the PW block are those of the module, which every part has (R5) -/

theorem pwGate_present (s : State) : s.absentUnit 0x20058 = false := by
  simp [State.absentUnit]

theorem pwPolicy_present (s : State) : s.absentUnit 0x20050 = false := by
  simp [State.absentUnit]

/-! PW_GATE and UNGATE_COMPLETE (R127, R512) -/

section
variable {s : State} {m : Master} {v : Word}

theorem exec_pwGateWrite_privileged (hh : s.halted = false) (hm : m.privileged = true) :
    exec (.pwGateWrite m v) s = .next (s.writeGate v) := by
  show execPwGateWrite m v s = _
  rw [execPwGateWrite, State.clocked_run _ _ hh, State.privWrite_run hm (pwGate_present s)]

/-- The request that a written gate bit leaves with a cluster. -/
def gateAsked (gate : Bool) (x : Cluster) : Cluster :=
  if gate then { x with request := if x.gated && !x.ungating then none else some true }
  else if x.gated then { x with request := some false, wait := 2 } else { x with request := none }

theorem onCluster_congr {c : Nat} {f g : Cluster → Cluster} (h : f (s.cluster c) = g (s.cluster c)) :
    s.onCluster c f = s.onCluster c g :=
  congrArg (fun x => { s with clusters := tabPut s.clusters c x }) h

theorem askGate_eq (c : Nat) (gate : Bool) : s.askGate c gate = if s.gateBit c = gate then s else s.onCluster c (gateAsked gate) := by
  unfold State.askGate
  congr 1
  cases gate with
  | true => rfl
  | false =>
    by_cases gated : (s.cluster c).gated = true
    · exact (if_pos gated).trans (onCluster_congr (if_pos gated).symm)
    · exact (if_neg gated).trans (onCluster_congr (if_neg gated).symm)

theorem writeGate_accepted (hp : s.lk.pool = false) (hs : s.lk.shifting = false) (ht : s.pw.transit = false) (hr : s.pw.resuming = false) :
    s.writeGate v = (foldState ((List.range 32).filter s.clusterPresent) (fun a c => a.askGate c (bit v c)) s).decideJob :=
  if_neg (by simp [hp, hs, ht, hr])

theorem writeGate_refused (h : s.lk.pool = true ∨ s.lk.shifting = true ∨ s.pw.transit = true ∨ s.pw.resuming = true) :
    s.writeGate v = s.pwRefused := if_pos h

theorem exec_ungateComplete_ungating {c : Nat} (hh : s.halted = false) (hc : c < 32) (hu : (s.cluster c).ungating = true) :
    exec (.ungateComplete c) s = .next (s.onCluster c fun x => { x with gated := false, ungating := false, accepts := false }).setRegions := by
  have ungates : ¬ (32 ≤ c ∨ (!(s.cluster c).ungating) = true) := by simp [hu, hc]
  show execUngateComplete c s = _
  rw [execUngateComplete, State.clocked_run _ _ hh, if_neg ungates]

/-! PW_POLICY (R588, R591) -/

theorem exec_pwPolicyWrite_privileged (hh : s.halted = false) (hm : m.privileged = true) :
    exec (.pwPolicyWrite m v) s = .next (s.writePolicy v) := by
  show execPwPolicyWrite m v s = _
  rw [execPwPolicyWrite, State.clocked_run _ _ hh, State.privWrite_run hm (pwPolicy_present s)]

section
variable {f : Nat} {t : Word} (hq : s.pw.policyReq = some (f, t))
include hq

theorem writePolicy_answering (hv : bits v 0 12 = s.pw.fAllow) (hf : s.pw.fAllow = f) (ht : bits v 16 16 = t.toNat % 65536) :
    s.writePolicy v = (s.onPw fun w => { w with policyReq := none }).decideFreq f := by
  simp only [State.writePolicy, hq]
  exact if_pos ⟨hv, hf, ht⟩

theorem writePolicy_other (h : bits v 0 12 ≠ s.pw.fAllow ∨ s.pw.fAllow ≠ f ∨ bits v 16 16 ≠ t.toNat % 65536) :
    s.writePolicy v = s.pwRefused := by
  simp only [State.writePolicy, hq]
  exact if_neg (by tauto)

end

theorem writePolicy_unasked (hq : s.pw.policyReq = none) : s.writePolicy v = s.pwRefused := by
  simp only [State.writePolicy, hq]

end

/-- Settles O48: one law per command, and per answer that a write of PW_GATE or PW_POLICY has. -/
theorem marginAndGatingCommands : Obligations.MarginAndGatingCommands := by
  refine ⟨fun s => exec_marginMeasure_due, fun least fabric s hh hm => exec_marginReplan_measured least fabric hh hm,
    fun s hh hw => ⟨fun ha => exec_marginFlashWriteDone_good hh hw (putFlash_older _ ha),
      fun hb => exec_marginFlashWriteDone_good hh hw (putFlash_notOlder _ hb), exec_marginFlashWriteDone_bad hh hw⟩,
    fun m v s hh hm => ⟨fun hp hs ht hr => ?gate, fun h => ?gateRefused⟩, fun c s => exec_ungateComplete_ungating,
    fun m v s hh hm => ⟨fun f t hq => ⟨fun hv hf ht => ?policy, fun h => ?policyOther⟩, fun hq => ?policyUnasked⟩⟩
  case gate =>
    rw [exec_pwGateWrite_privileged hh hm, writeGate_accepted hp hs ht hr]
    simp only [askGate_eq]
    rfl
  case gateRefused => rw [exec_pwGateWrite_privileged hh hm, writeGate_refused h]
  case policy =>
    rw [exec_pwPolicyWrite_privileged hh hm, writePolicy_answering hq hv hf ht]
    rfl
  case policyOther => rw [exec_pwPolicyWrite_privileged hh hm, writePolicy_other hq h]
  case policyUnasked => rw [exec_pwPolicyWrite_privileged hh hm, writePolicy_unasked hq]

end Sys2Proof.Proofs
end

section
/-! SUPPORT. The statement of 05_execution_model on the fence waits and signals of a kernel and on its doorbells. -/
namespace Sys2Proof.Proofs
open Sys2Proof Sys2Proof.Machine Sys2Proof.Laws

/-! KERNEL_FENCE_WAIT (R185, R304) -/

/-- The wait of a kernel on the fence of a handle. -/
def kernelWait (x : FenceEnt) (f : Fence) (tg : Word) (dv ds : Nat) : KWait :=
  { fon := x.fon, target := tg, dstValue := dv, dstStatus := ds, released := releasedBy f tg, err := releasedBy f tg && waitErr f tg }

/-- The status of a wait on a target out of range. -/
def outOfRangeStatus (f : Fence) (tg : Word) : Word :=
  w64 (2 ^ 63 + if f.abandoned then 2 + (if waitErr f tg then 1 else 0) else 0)

section
variable {s : State} {p k : Nat} (hh : s.halted = false) (hi : s.issuing p k = true)
include hh hi

section
variable {hd : Word32} {tg : Word} {dv ds : Nat} {x : FenceEnt} {f : Fence} (heard : s.heard (s.placeSpeaker p) = true)
  (hx : s.fenceEnt (s.launchAt p k).context hd = some x) (hf : (s.touchFence x.fon).fence x.fon = some f) (hw : x.wait = true)
include heard hx hf hw

/-- A wait that the kernel may make returns at once or stands, by the distance of its target. -/
theorem exec_kernelFenceWait_allowed :
    exec (.kernelFenceWait p k hd tg dv ds) s = .next (
      if (tg - f.value).toNat = 2 ^ 63 then
        ((s.touchFence x.fon).onCtx p k fun c => (c.putSreg dv f.value).putSreg ds (outOfRangeStatus f tg)).nextPc p k
      else (s.touchFence x.fon).onCtx p k fun c => { c with wait := some (kernelWait x f tg dv ds) }) := by
  show execKernelFenceWait p k hd tg dv ds s = _
  rw [execKernelFenceWait, State.clocked_run _ _ hh, if_neg (by simp [hi]), if_neg (by simp [heard])]
  simp only [hx, hf]
  exact congrArg _ (if_neg (by simp [hw]))

theorem exec_kernelFenceWait_inRange (near : (tg - f.value).toNat ≠ 2 ^ 63) :
    exec (.kernelFenceWait p k hd tg dv ds) s =
      .next ((s.touchFence x.fon).onCtx p k fun c => { c with wait := some (kernelWait x f tg dv ds) }) :=
  (exec_kernelFenceWait_allowed hh hi heard hx hf hw).trans (congrArg _ (if_neg near))

theorem exec_kernelFenceWait_outOfRange (far : (tg - f.value).toNat = 2 ^ 63) :
    exec (.kernelFenceWait p k hd tg dv ds) s = .next
      (((s.touchFence x.fon).onCtx p k fun c => (c.putSreg dv f.value).putSreg ds (outOfRangeStatus f tg)).nextPc p k) :=
  (exec_kernelFenceWait_allowed hh hi heard hx hf hw).trans (congrArg _ (if_pos far))

end

/-! KERNEL_FENCE_SIGNAL and DEVICE_DOORBELL: what is held goes behind the descriptors queued before it (R184, R258, R307) -/

theorem exec_kernelFenceSignal_open {hd : Word32} {v : Word} {x : FenceEnt} {f : Fence}
    (hx : s.fenceEnt (s.launchAt p k).context hd = some x) (hf : s.fence x.fon = some f) (hs : x.signal = true) (hc : f.closed = false) :
    exec (.kernelFenceSignal p k hd v) s = .next ((s.hold p k (.inl (x.fon, v))).nextPc p k) := by
  show execKernelFenceSignal p k hd v s = _
  rw [execKernelFenceSignal, State.clocked_run _ _ hh, if_neg (by simp [hi])]
  simp only [hx, hf]
  exact congrArg _ (if_neg (by simp [hs, hc]))

theorem exec_deviceDoorbell_own {b : Nat} {v : Word32} (hb : b < 8192) (own : (s.berth b).context = (s.launchAt p k).context) :
    exec (.deviceDoorbell p k b v) s = .next ((s.hold p k (.inr (b, v))).nextPc p k) := by
  have allowed : ¬ (8192 ≤ b ∨ (s.berth b).context ≠ (s.launchAt p k).context) := by simp [hb, own]
  show execDeviceDoorbell p k b v s = _
  rw [execDeviceDoorbell, State.clocked_run _ _ hh, if_neg (by simp [hi]), if_neg allowed]

end

/-! FENCE_REACHED_NOTICE (R185) -/

/-- The wait of a part ends with the value and the status of the fence in its registers. -/
def waitEnded (w : KWait) (f : Fence) (c : PartCtx) : PartCtx :=
  ({ c with wait := none }.putSreg w.dstValue f.value).putSreg w.dstStatus
    (w64 ((if w.err then 1 else 0) + (if f.abandoned then 2 else 0)))

theorem exec_fenceReachedNotice_released {s : State} {p k : Nat} {w : KWait} (hh : s.halted = false)
    (hw : (s.slotAt p k).ctx.wait = some w) (running : (s.slotAt p k).state = .running) (released : w.released = true) :
    exec (.fenceReachedNotice p k) s =
      .next (((s.onCtx p k (waitEnded w ((s.fence w.fon).getD {}))).nextPc p k).reapFence w.fon) := by
  show execFenceReachedNotice p k s = _
  rw [execFenceReachedNotice, State.clocked_run _ _ hh]
  simp only [hw]
  exact congrArg _ (if_neg (by simp [running, released]))

/-- Settles O20: one law per instruction, and per answer that KERNEL_FENCE_WAIT has to a wait that the kernel may make. -/
theorem fencesAndDoorbellsOfAKernel : Obligations.FencesAndDoorbellsOfAKernel := by
  intro p k s hh
  exact ⟨fun hd tg dv ds x f hi => exec_kernelFenceWait_inRange hh hi,
    fun hd tg dv ds x f hi => exec_kernelFenceWait_outOfRange hh hi, fun f tg => ⟨rfl, rfl⟩,
    fun w => exec_fenceReachedNotice_released hh, fun hd v x f hi => exec_kernelFenceSignal_open hh hi,
    fun b v hi => exec_deviceDoorbell_own hh hi⟩

end Sys2Proof.Proofs
end

section
/-! SUPPORT. The statement of 06_mill on the slots of a scan: load, records, end, lists, save, abort and zeroing. -/
namespace Sys2Proof.Proofs
open Sys2Proof Sys2Proof.Machine Sys2Proof.Laws

/-! One Mill cycle (R218, R234) -/

section
variable {s s2 : State} {m l h : Nat} {x : Scan} {z : MillScan}

/-- Each list of a scan on a Mill has compared one candidate. -/
def absorbedOn (m l : Nat) (x : Scan) (s : State) : State :=
  s.onMill m fun y => { y with scans := tabMod {} y.scans l fun z => { z with queries := z.queries.map (Query.absorb x) } }

theorem millStep_full (full : z.full = true) : s.millStep m l h x z = (absorbedOn m l x s).pressure m := if_pos full

theorem millStep_exhausted (room : z.full = false)
    (seek : (absorbedOn m l x s).millSeek m l h x (s.scanSegments h x + 1 - z.seg) = (none, s2)) :
    s.millStep m l h x z = s2.pressure m := by
  unfold absorbedOn at seek
  simp only [State.millStep, seek]
  exact if_neg (by simp [room])

theorem millStep_segment {g : MillSeg} {y : MillScan} (room : z.full = false)
    (seek : (absorbedOn m l x s).millSeek m l h x (s.scanSegments h x + 1 - z.seg) = (some g, s2))
    (found : tabFind (s2.mill m).scans l = some y) :
    s.millStep m l h x z = (s2.millMany m l x g.tagP g.idE g.stride g.addr g.base y.recIx
      (min (g.count - y.recIx) (max 1 (8 / g.stride)))).pressure m := by
  unfold absorbedOn at seek
  simp only [State.millStep, seek, found]
  exact if_neg (by simp [room])

end

/-! The commands of a scan that is resident on a Mill (R226, R230–R232, R238, R241, R243) -/

/-- The query records that a Mill has read for a scan, if every one of them can be read as a query. -/
def parsedQueries (x : Scan) (bs : List Byte) : Option (List Query) :=
  (List.range x.q).mapM fun i => parseQuery (bytesWords 8 (bs.drop (i * queryStride x.mode x.codeWords)))
    (((bs.drop (i * queryStride x.mode x.codeWords)).drop 64).take (queryBytes x.mode x.codeWords))

/-- The lists that a Mill holds of a scan stand in the result area. -/
def listsWritten (h : Nat) (x : Scan) (z : MillScan) (s : State) : State :=
  foldState z.queries.zipIdx (fun a q => a.writeList h x (z.idx * x.q + q.2)
    (listWords x.k q.1.tag q.1.itemsRead q.1.itemsPassed q.1.poisonSkipped (x.chFirst + z.idx) q.1.list)) s

/-- The scan after a Mill's lists stand in the result area, as the table keeps it. -/
def listsCounted (m l : Nat) (h : Nat) (x : Scan) (z : MillScan) (s : State) : State :=
  { (listsWritten h x z s).millLeave m l with
    scans := tabPut (listsWritten h x z s).scans l { x with written := setIns x.written z.idx } }

/-- Slot records that the pool of a harbour already lists for the logical channel of a Mill's scan. -/
def savedBefore (s : State) (h : Harbour) (x : Scan) (w : MillScan) : Nat :=
  ((h.poolScans.filter fun y => match tabFind s.scans y.entry with
    | some v => v.chFirst + y.idx == x.chFirst + w.idx
    | none => false).map fun y => y.slots.length).sum

/-- The records of a Mill's queries, whose lists are in `a`, stand in the pool behind those that were there in `s`. -/
def recordsPut (s : State) (n : Nat) (h : Harbour) (x : Scan) (w : MillScan) (a : State) : State :=
  foldState w.queries.zipIdx (fun a q => a.slotRecordPut n (x.chFirst + w.idx - h.chanBase) (savedBefore s h x w + q.2) q.1) a

section
variable {s : State} {m l : Nat} {z : MillScan} {x : Scan} {e : Launch} (hh : s.halted = false)
  (hz : tabFind (s.mill m).scans l = some z) (hx : tabFind s.scans l = some x) (he : s.launch l = some e)
include hh hz hx he

theorem exec_millLoadComplete_restoring (hst : z.st = .restoring) :
    exec (.millLoadComplete m l true) s = .next (s.millSlots m l (s.scanningOr m)) := by
  show execMillLoadComplete m l true s = _
  rw [execMillLoadComplete, State.clocked_run _ _ hh]
  simp only [hz, hx, he, hst, if_true]

theorem exec_millLoadComplete_loading {ok : Bool} {bs : List Byte} {qs : List Query} (hst : z.st = .loading)
    (read : s.scanRead e.harbour x 1 x.qryOff (x.q * queryStride x.mode x.codeWords) = some (bs, false))
    (parsed : parsedQueries x bs = some qs) :
    exec (.millLoadComplete m l ok) s = .next ((s.millSlots m l (s.scanningOr m)).onMill m fun y => { y with
      scans := tabMod {} y.scans l fun z => { z with queries := qs } }) := by
  unfold parsedQueries at parsed
  show execMillLoadComplete m l ok s = _
  rw [execMillLoadComplete, State.clocked_run _ _ hh]
  simp only [hz, hx, he, hst, read, parsed]
  rfl

theorem exec_millRecord_scanning (hst : z.st = .scanning) : exec (.millRecord m l) s = .next (s.millStep m l e.harbour x z) := by
  show execMillRecord m l s = _
  rw [execMillRecord, State.clocked_run _ _ hh]
  simp only [hz, hx, he]
  rw [if_pos hst]

theorem exec_millScanEnd_exhausted {s2 : State} {y : MillScan} (hst : z.st = .scanning)
    (seek : s.millSeek m l e.harbour x (s.scanSegments e.harbour x + 1 - z.seg) = (none, s2))
    (found : tabFind (s2.mill m).scans l = some y) (scans : y.st = .scanning) (past : s.scanSegments e.harbour x ≤ y.seg) :
    exec (.millScanEnd m l) s = .next (((s2.millLists m l x).millSlots m l .draining).onMill m fun y => { y with
      cScans := y.cScans + BitVec.ofNat 16 z.slots.length }) := by
  show execMillScanEnd m l s = _
  rw [execMillScanEnd, State.clocked_run _ _ hh]
  simp only [hz, hx, he, seek, found]
  rw [if_neg (not_not.2 hst), if_neg (by simp), if_pos (by simp [scans, past])]

theorem exec_millListAccepted_hardware (hst : z.st = .draining) (hardware : x.hostMerge = false) :
    exec (.millListAccepted m l) s = .next { s.millLeave m l with
      scans := tabPut s.scans l { x with lists := tabPut x.lists z.idx z.queries } } := by
  show execMillListAccepted m l s = _
  rw [execMillListAccepted, State.clocked_run _ _ hh]
  simp only [hz, hx, he]
  rw [if_neg (not_not.2 hst)]
  simp [hardware]

theorem exec_millListAccepted_host (hst : z.st = .draining) (host : x.hostMerge = true) :
    exec (.millListAccepted m l) s = .next (
      if (setIns x.written z.idx).length = (s.scanChannels e.harbour x).length then
        ((listsCounted m l e.harbour x z s).complete l).settle
      else listsCounted m l e.harbour x z s) := by
  show execMillListAccepted m l s = _
  rw [execMillListAccepted, State.clocked_run _ _ hh]
  simp only [hz, hx, he]
  rw [if_neg (not_not.2 hst)]
  simp only [host, if_true, true_and, listsCounted, listsWritten]

theorem exec_millSlotSaved_saving {w : MillScan} {h : Harbour} (hst : z.st = .saving)
    (found : tabFind ((s.millLists m l x).mill m).scans l = some w) (hb : s.harbour e.harbour = some h) :
    exec (.millSlotSaved m l) s = .next ((((recordsPut s e.harbour h x w (s.millLists m l x)).onHarbour e.harbour fun h => { h with
      poolScans := h.poolScans ++ [w] }).millLeave m l).onMill m fun y => { y with
        cSaves := y.cSaves + BitVec.ofNat 16 w.slots.length }).settle := by
  show execMillSlotSaved m l s = _
  rw [execMillSlotSaved, State.clocked_run _ _ hh]
  simp only [hz, hx, he, found, hb]
  rw [if_neg (not_not.2 hst)]
  rfl

end

/-! Zeroing and aborts (R226, R232, R244, R249, R382) -/

section
variable {s : State} {m l : Nat}

theorem exec_millZeroingDone_zeroing {k : Nat} (hh : s.halted = false) (hk : tabGet .free (s.mill m).slots k = .zeroing) :
    exec (.millZeroingDone m k) s = .next (s.onMill m fun y => { y with slots := tabDel y.slots k }).settle := by
  show execMillZeroingDone m k s = _
  rw [execMillZeroingDone, State.clocked_run _ _ hh, if_pos hk]

theorem millAborted_aborting {z : MillScan} (hz : tabFind (s.mill m).scans l = some z) (hst : z.st = .aborting) :
    s.millAborted m l = if (s.millLeave m l).stillBusy l then s.millLeave m l else (s.millLeave m l).complete l := by
  simp only [State.millAborted, hz]
  rw [if_neg (not_not.2 hst)]

theorem exec_millAbortDone (hh : s.halted = false) : exec (.millAbortDone m l) s = .next (s.millAborted m l).settle := by
  show execMillAbortDone m l s = _
  rw [execMillAbortDone, State.clocked_run _ _ hh]

end

/-- Settles O22: one law per command and state of the slots; MILL_RECORD goes through the cases of a Mill cycle. -/
theorem millSlotsOfAScan : Obligations.MillSlotsOfAScan := by
  refine fun m l s hh => ⟨fun z x e hz hx he => ⟨exec_millLoadComplete_restoring hh hz hx he,
      fun ok bs qs => exec_millLoadComplete_loading hh hz hx he, fun hst => ?scanning,
      exec_millListAccepted_hardware hh hz hx he, exec_millListAccepted_host hh hz hx he,
      fun w h => exec_millSlotSaved_saving hh hz hx he⟩,
    fun k => exec_millZeroingDone_zeroing hh, fun z hz hst => ?aborting⟩
  case scanning =>
    have cycle := exec_millRecord_scanning hh hz hx he hst
    exact ⟨fun full => cycle.trans (congrArg _ (millStep_full full)),
      fun s2 room seek => cycle.trans (congrArg _ (millStep_exhausted room seek)),
      fun s2 g y room seek found => cycle.trans (congrArg _ (millStep_segment room seek found)),
      fun s2 y => exec_millScanEnd_exhausted hh hz hx he hst⟩
  case aborting => rw [exec_millAbortDone hh, millAborted_aborting hz hst]

end Sys2Proof.Proofs
end

section
/-! SUPPORT. The statement of 06_mill on the merge of a scan's lists and the lists of other modules. -/
namespace Sys2Proof.Proofs
open Sys2Proof Sys2Proof.Machine Sys2Proof.Laws

/-! Lists of another module as the tree keeps them (R237) -/

/-- The tag of the `i`-th query in the first list that the tree has of a scan. -/
def firstListTag (x : Scan) (i : Nat) : Nat :=
  match x.lists.head? with
  | some y => (match y.2[i]? with | some q => q.tag | none => 0)
  | none => 0

theorem firstListTag_of_head {x : Scan} {i : Nat} {z : Nat × List Query} {t : Query} (first : x.lists.head? = some z)
    (query : z.2[i]? = some t) : firstListTag x i = t.tag := by
  simp only [firstListTag, first, query]

/-- Received lists as queries of the scan. -/
def receivedQueries (x : Scan) (ls : List MillList) : List Query := ls.zipIdx.map fun y => queryOfList (firstListTag x y.2) y.1

theorem receivedQueries_length (x : Scan) (ls : List MillList) : (receivedQueries x ls).length = ls.length := by simp [receivedQueries]

theorem receivedQueries_getElem? {x : Scan} {ls : List MillList} {i : Nat} {y : MillList} (hy : ls[i]? = some y) :
    (receivedQueries x ls)[i]? = some (queryOfList (firstListTag x i) y) := by
  simp [receivedQueries, hy]

/-! MERGE_COMPLETE (R230, R236, R237, R239) -/

/-- The merged lists stand in the result area where the scan has its root here; the lists of each half go to the root where it is another
module. -/
def listsMerged (e : Launch) (x : Scan) (s : State) : Option Nat → State
  | none => foldState (List.range x.q) (fun a q => a.writeList e.harbour x q (mergedWords x x.lists q)) s
  | some node => foldState (s.halvesOf e.harbour x) (fun a d => a.sendLists e x node d) s

/-- Every half of the tree in use counts a merge, and the launch completes. -/
def mergeEnded (l h : Nat) (x : Scan) (s a : State) : State :=
  (foldState (s.halvesOf h x) (fun a d => a.onHalf d fun y => { y with merges := y.merges + 1 }) a).complete l

section
variable {l : Nat} {s : State} {x : Scan} {e : Launch} (hh : s.halted = false) (hx : tabFind s.scans l = some x)
  (he : s.launch l = some e) (hardware : x.hostMerge = false) (active : e.state = .active)
include hh hx he hardware active

/-- The root of the scan, where it is another module, is reached. -/
theorem exec_mergeComplete_reached (here : s.listsHere e.harbour x = true)
    (reached : (s.scanRoot e.harbour x).any s.lk.unreachable.contains = false) :
    exec (.mergeComplete l) s = .next (mergeEnded l e.harbour x s (listsMerged e x s (s.scanRoot e.harbour x))).settle := by
  show execMergeComplete l s = _
  rw [execMergeComplete, State.clocked_run _ _ hh]
  simp only [hx, he]
  rw [if_neg (by simp [hardware, active, here]), if_neg (by simp [reached])]
  cases s.scanRoot e.harbour x <;> rfl

/-! MILL_LIST_RECEIVE (R237, R249) -/

theorem exec_millListReceive_known {idx : Nat} {ls : List MillList} {y : Nat × Nat × Nat} (other : y ∈ s.scanOthers e.harbour x)
    (low : y.2.1 ≤ idx) (high : idx < y.2.1 + y.2.2) (root : s.scanRoot e.harbour x = none) :
    exec (.millListReceive l idx ls) s = .next (({ s with
      scans := tabPut s.scans l { x with lists := tabPut x.lists idx (receivedQueries x ls) } }).onHalf (s.listHalf e.harbour x idx)
        fun y => { y with joins := y.joins + BitVec.ofNat 16 ls.length }) := by
  have known : ((s.scanOthers e.harbour x).any fun y => decide (y.2.1 ≤ idx ∧ idx < y.2.1 + y.2.2)) = true :=
    List.any_eq_true.2 ⟨y, other, decide_eq_true ⟨low, high⟩⟩
  show execMillListReceive l idx ls s = _
  rw [execMillListReceive, State.clocked_run _ _ hh]
  simp only [hx, he, known]
  rw [if_neg (by simp [hardware, root, active])]
  rfl

end

/-- Settles O23: a merge ends with its lists written here or sent to the root; the tree keeps the queries of a received list. -/
theorem millMergesAndReceivedLists : Obligations.MillMergesAndReceivedLists := by
  intro l s x e hh hx he hardware active
  refine ⟨fun here => ⟨fun root => ?root, fun node root reached => ?away⟩,
    fun idx ls y other low high root => ⟨receivedQueries x ls,
      exec_millListReceive_known hh hx he hardware active other low high root, receivedQueries_length x ls, fun i y q hy hq => ?kept⟩⟩
  case root =>
    rw [exec_mergeComplete_reached hh hx he hardware active here (by rw [root, Option.any_none]), root]
    rfl
  case away =>
    rw [exec_mergeComplete_reached hh hx he hardware active here (by rw [root, Option.any_some, reached]), root]
    rfl
  case kept =>
    obtain rfl : queryOfList (firstListTag x i) y = q := Option.some.inj ((receivedQueries_getElem? hy).symm.trans hq)
    exact ⟨rfl, rfl, rfl, rfl, fun z t => firstListTag_of_head⟩

end Sys2Proof.Proofs
end

section
/-! SUPPORT. The statement of 08_harbourmaster and 10_harbours on the later steps of a harbour procedure and on stale speakers. -/
namespace Sys2Proof.Proofs
open Sys2Proof Sys2Proof.Machine Sys2Proof.Laws

/-! What holds up RELEASE (R347, R356) -/

section
variable {s : State} {h : Nat}

/-- A Mill still has a scan of the harbour. -/
def millScansFor (s : State) (h m : Nat) : Bool :=
  (s.mill m).scans.any fun z => match s.launch z.1 with
    | some e => e.harbour == h
    | none => false

theorem millScansFor_eq_false {m : Nat} (free : ∀ z ∈ (s.mill m).scans, ∀ e, s.launch z.1 = some e → e.harbour ≠ h) :
    millScansFor s h m = false := by
  refine List.any_eq_false.2 fun z hz => ?_
  cases he : s.launch z.1 with
  | none => simp
  | some e => simpa using free z hz e he

/-- A unit that leaves is busy: a place in reset, or a channel whose Mill still has a scan of the harbour (R347, R356). -/
def leaverBusy (s : State) (h : Nat) (u : Nat × Nat) : Bool := (u.1 == 0 && s.inReset u.2) || u.1 == 1 && millScansFor s h u.2

theorem leaverBusy_of_idle {u : Nat × Nat} (placeRuns : u.1 = 0 → s.inReset u.2 = false)
    (millFree : u.1 = 1 → millScansFor s h u.2 = false) : leaverBusy s h u = false := by
  simp only [leaverBusy, Bool.or_eq_false_iff, Bool.and_eq_false_imp, beq_iff_eq]
  exact ⟨placeRuns, millFree⟩

end

section
variable {s : State} {j : Nat} {x : Proc} (hh : s.halted = false)
include hh

/-! Before BUMP: TRANSFER and the hold wait (R347–R349) -/

theorem exec_rebindTransferDone_transferring (ready : s.procReady j 4 = some x) (inTransfer : x.step = 4) (notDone : x.done = false)
    (running : ∀ e ∈ x.units0, e.type = 0 → s.inReset e.src = false ∧ s.inReset e.dst = false) :
    exec (.rebindTransferDone j) s = .next ((foldState (x.units0.zipIdx.filter fun e => s.moves e.1)
      (fun a e => a.transferEntry j e.2 e.1) s).onProc j fun y => { y.at 4 true s.tide.num with mark := y.boundaries }) := by
  have noneInReset : (x.units0.any fun e => e.type == 0 && (s.inReset e.src || s.inReset e.dst)) = false := by
    simpa using running
  show execRebindTransferDone j s = _
  rw [execRebindTransferDone, State.clocked_run _ _ hh]
  simp only [ready]
  rw [if_neg (by simp [inTransfer, notDone, noneInReset])]

/-- Hold-bound launches and scans that are still on units which leave (R349). -/
def stillOnLeaving (s : State) (x : Proc) : List (Nat × Launch) :=
  (s.hm.launches.filter fun l => x.op == 2 && l.2.holdBound && x.sources.any l.2.partOn)
  ++ s.hm.launches.filter fun l => x.units0.any fun e => (e.type == 2 || (e.type == 1 && x.op == 2))
    && (match tabFind (s.mill e.src).scans l.1 with
      | some z => z.slots.any (s.leavingSlots e.src x.harbour).contains
      | none => false)

theorem exec_holdWaitExpire_due (ready : s.procReady j 1 = some x) (drains : x.drainOn = true) (notDone : x.drainDone = false)
    (notMove : x.op ≠ 3) (due : 1 + reqHoldWait x.request ≤ x.boundaries) :
    exec (.holdWaitExpire j) s =
      .next ((foldState (stillOnLeaving s x) (fun a l => a.abortLaunch l.1 .aborted none) s).settle.advanceProc j) := by
  show execHoldWaitExpire j s = _
  rw [execHoldWaitExpire, State.clocked_run _ _ hh]
  simp only [ready]
  rw [if_neg (by simp [drains, notDone, notMove, due])]
  rfl

/-! BUMP (R340, R347, R354, R393) -/

/-- The procedure has ended BUMP with the maps switched, after a scrub of each leaving channel has ended. -/
def bumped (j : Nat) (x : Proc) (s : State) : State :=
  let leave := s.leavingUnits x
  let scrubless := foldState (leave.filter fun u => u.1 == 1) (fun a u => a.endScrub u.2 2 0) (s.onProc j fun y => y.at 5 false s.tide.num)
  (scrubless.bumpMap x).onProc j fun y => { y.at 5 true s.tide.num with
    leaving := leave, mark := y.boundaries, restoreDone := !x.steps.contains 6, releaseDone := !x.steps.contains 7 }

theorem exec_rebindBump_due (found : tabFind s.hb.journal j = some x) (due : s.bumpDue x = true) :
    exec (.rebindBump j) s = .next (if x.steps.contains 7 then
        (bumped j x s).onProc j fun y => y.at (if x.steps.contains 6 then 6 else 7) false s.tide.num
      else bumped j x s).sendAll.settle := by
  show execRebindBump j s = _
  rw [execRebindBump, State.clocked_run _ _ hh]
  simp only [found]
  rw [if_neg (by simp [due])]
  rfl

/-! After BUMP: RESTORE, RELEASE and COMMIT (R241, R330, R338, R347, R358) -/

section
variable (past : s.procBumped j = some x)
include past

theorem exec_rebindRestore_saved (notDone : x.restoreDone = false) (saved : s.savesLeft x = false) :
    exec (.rebindRestore j) s = .next (((foldState x.moved (fun a l => match a.launch l with
        | some e => if e.state = .saved ∧ !e.timeoutDue then a.placeKernel l else a
        | none => a) s).restoreScans x.harbour).onProc j fun y => { y.earn (fun _ r => { r with restored := true }) with
          restoreDone := true }.after s.tide.num).settle := by
  show execRebindRestore j s = _
  rw [execRebindRestore, State.clocked_run _ _ hh]
  simp only [past]
  exact congrArg _ (if_neg (by simp [notDone, saved]))

theorem exec_rebindReleaseDone_idle (notDone : x.releaseDone = false) (idle : ∀ u ∈ x.leaving, leaverBusy s x.harbour u = false) :
    exec (.rebindReleaseDone j) s = .next (((foldState x.leaving (fun a u =>
        if a.unitCond u.1 u.2 = .retired then a else a.zeroUnit u.1 u.2) s).onHb fun m => { m with
          forward := m.forward.filter fun f => !x.leaving.contains (1, f.1) }).onProc j fun y => {
            y.earn (fun _ r => { r with srcReleased := true }) with releaseDone := true }.after s.tide.num) := by
  have noneBusy : x.leaving.any (leaverBusy s x.harbour) = false := by simpa using idle
  show execRebindReleaseDone j s = _
  rw [execRebindReleaseDone, State.clocked_run _ _ hh]
  simp only [past]
  exact congrArg _ (if_neg (not_or.2 ⟨by simp [notDone], Bool.eq_false_iff.1 noneBusy⟩))

theorem exec_harbourCommit_ended (restored : x.restoreDone = true) (released : x.releaseDone = true) (later : x.mark < x.boundaries) :
    exec (.harbourCommit j) s = .next (s.commitProc j x) := by
  show execHarbourCommit j s = _
  rw [execHarbourCommit, State.clocked_run _ _ hh]
  simp only [past]
  rw [if_pos ⟨restored, released, later⟩]

end

end

/-! STALE_SPEAKER (R289, R341–R343) -/

section
variable {s : State} {u : Speaker} {h g : Nat}

theorem passesChecker_of_fenced (fenced : s.speakerFenced u = true) : s.passesChecker u h g = false := by
  simp [State.passesChecker, fenced]

theorem passesChecker_of_stale (stale : s.checkerEntry u ≠ some (h, g)) : s.passesChecker u h g = false := by
  simp [State.passesChecker, stale]

theorem exec_staleSpeaker_dropped (hh : s.halted = false) (drops : s.passesChecker u h g = false) :
    exec (.staleSpeaker u h g) s = .next (s.dropSpeech u h g) := by
  show execStaleSpeaker u h g s = _
  rw [execStaleSpeaker, State.clocked_run _ _ hh, if_neg (by simp [drops])]

theorem dropSpeech_fenced (fenced : s.speakerFenced u = true) :
    s.dropSpeech u h g = s.onHb fun m => { m with cFencedDrop := m.cFencedDrop + 1 } := if_pos fenced

/-- A speaker's first drop fences it and is counted; for the Harbourmaster neither takes place (R289, log entry 133). -/
def firstDrop (u : Speaker) (s : State) : State :=
  match u with
  | .harbourmaster _ => s
  | _ => (s.fenceSpeaker u).onHb fun m => { m with cStaleSpeaker := m.cStaleSpeaker + 1 }

theorem firstDrop_eq : firstDrop u s =
    if bindingDrop u then (s.fenceSpeaker u).onHb fun m => { m with cStaleSpeaker := m.cStaleSpeaker + 1 } else s := by
  cases u <;> rfl

theorem dropSpeech_unfenced (free : s.speakerFenced u = false) :
    s.dropSpeech u h g = (firstDrop u s).event 0x0002 (speakerUnit u).1 (speakerUnit u).2
      [pair (speakerUnit u).1 (speakerUnit u).2, pair h g,
       pair ((s.checkerEntry u).getD (0, 0)).1 ((s.checkerEntry u).getD (0, 0)).2] := by
  rw [firstDrop_eq]
  exact if_neg (by simp [free])

end

/-- Settles O30: one law per step of a procedure, and the drops of a speaker by whether it is fenced. -/
theorem harbourLaterStepsAndStaleSpeakers : Obligations.HarbourLaterStepsAndStaleSpeakers := by
  refine fun s hh => ⟨fun j x => exec_rebindTransferDone_transferring hh, fun j x => exec_rebindBump_due hh,
    fun j x => exec_rebindRestore_saved hh, fun j x past notDone idle => ?release, fun j x => exec_harbourCommit_ended hh,
    fun j x => exec_holdWaitExpire_due hh, fun u h g free stale => ?stale, fun u h g fenced => ?fenced⟩
  case release =>
    refine exec_rebindReleaseDone_idle hh past notDone fun u hu => ?idle
    obtain ⟨placeRuns, millFree⟩ := idle u hu
    exact leaverBusy_of_idle placeRuns fun chan => millScansFor_eq_false (millFree chan)
  case stale => exact (exec_staleSpeaker_dropped hh (passesChecker_of_stale stale)).trans (congrArg _ (dropSpeech_unfenced free))
  case fenced => rw [exec_staleSpeaker_dropped hh (passesChecker_of_fenced fenced), dropSpeech_fenced fenced]

end Sys2Proof.Proofs
end

section
/-! SUPPORT. The statement of 08_harbourmaster on the writes of a doorbell page. -/
namespace Sys2Proof.Proofs
open Sys2Proof Sys2Proof.Machine Sys2Proof.Laws

/-! Doorbell pages (R258, R259, R263, R282, R299, R308) -/

theorem doorbell_inRange {s : State} {b : Nat} {v : Word32} (ahead : (v - (s.berth b).fetch).toNat ≤ 2 ^ (s.berth b).log2)
    (more : (v - (s.berth b).producer).toNat ≤ 2 ^ (s.berth b).log2) :
    s.doorbell b v = s.onBerth b fun x => { x with producer := v } := if_pos ⟨ahead, more⟩

section
variable {s : State} {m : Master} {q : Option Nat} {b : Nat} (hh : s.halted = false) (owns : s.ownsPage m q b = true)
include hh owns

theorem exec_dbSubmit_owner (takes : (s.berth b).hostSubmit = true) (v : Word32) :
    exec (.dbSubmit m q b v) s = .next (s.doorbell b v) := by
  show execDbSubmit m q b v s = _
  rw [execDbSubmit, State.clocked_run _ _ hh, if_neg (by simp [owns, takes])]

theorem exec_dbCplConsumed_written {v : Word32}
    (written : (v - (s.berth b).cplConsumed).toNat ≤ ((s.berth b).cplWritten - (s.berth b).cplConsumed).toNat) :
    exec (.dbCplConsumed m q b v) s = .next (s.onBerth b fun x => { x with cplConsumed := v }) := by
  show execDbCplConsumed m q b v s = _
  rw [execDbCplConsumed, State.clocked_run _ _ hh, if_neg (by simp [owns])]
  exact congrArg _ (if_pos written)

theorem exec_dbCapConsumed_written {v : Word32}
    (written : (v - (s.berth b).capConsumed).toNat ≤ ((s.berth b).capWritten - (s.berth b).capConsumed).toNat) :
    exec (.dbCapConsumed m q b v) s = .next (s.onBerth b fun x => { x with capConsumed := v }) := by
  show execDbCapConsumed m q b v s = _
  rw [execDbCapConsumed, State.clocked_run _ _ hh, if_neg (by simp [owns])]
  exact congrArg _ (if_pos written)

theorem exec_dbFenceSignal_open {v : Word} {e : FenceEnt} {f : Fence}
    (staged : s.fenceEnt (s.berth b).context (s.berth b).stagedHandle = some e) (fence : s.fence e.fon = some f)
    (signals : e.signal = true) (isOpen : f.closed = false) :
    exec (.dbFenceSignal m q b v) s = .next (s.onFu fun u => { u with
      inflight := u.inflight ++ [{ fon := e.fon, value := v, err := (s.berth b).stagedError }] }) := by
  show execDbFenceSignal m q b v s = _
  rw [execDbFenceSignal, State.clocked_run _ _ hh, if_neg (by simp [owns])]
  simp only [staged, fence]
  exact congrArg _ (if_neg (by simp [signals, isOpen]))

end

/-- Settles O24: one law per register of the page. -/
theorem doorbellPageWrites : Obligations.DoorbellPageWrites := by
  intro m q b s hh owns
  refine ⟨fun v takes ahead more => ?_, fun v => exec_dbCplConsumed_written hh owns, fun v => exec_dbCapConsumed_written hh owns,
    fun v e f => exec_dbFenceSignal_open hh owns⟩
  rw [exec_dbSubmit_owner hh owns takes, doorbell_inRange ahead more]

end Sys2Proof.Proofs
end

section
/-! SUPPORT. The statement of 08_harbourmaster on the control of a berth. -/
namespace Sys2Proof.Proofs
open Sys2Proof Sys2Proof.Machine Sys2Proof.Laws

/-- The pages of units that a part may lack lie below 0x908000 (R5, R624). -/
theorem present_of_above (s : State) {o : Nat} (above : 0x908000 ≤ o) : s.absentUnit o = false := by
  simp only [State.absentUnit]
  rw [if_neg (by omega), if_neg (by omega), if_neg (by omega), if_neg (by omega), decide_eq_false (by omega), Bool.false_and]

theorem berthOffset_present (s : State) (b r : Nat) : s.absentUnit (berthOffset b r) = false :=
  present_of_above s (by unfold berthOffset; omega)

/-- A write that only the manager may make, by the manager while the clocks run, above the pages of units that may be absent. -/
theorem clocked_privWrite_run {s : State} {m : Master} {o : Nat} (hh : s.halted = false) (hm : m.privileged = true)
    (present : s.absentUnit o = false) (f : State → State) : s.clocked (s.privWrite m o f) = .next (f s) := by
  rw [State.clocked_run _ _ hh, State.privWrite_run hm present]

/-! HM_BERTH_CFG0 (R255, R280, R285, R295, R464, R482) -/

section
variable {s : State} {b : Nat} {v : Word}

theorem enableBerth_accepted {os : List Nat} (objs : s.berthObjs ((s.berth b).withCfg0 v) = some os)
    (sub : ((s.berth b).withCfg0 v).subVa % 4096 = 0) (cpl : ((s.berth b).withCfg0 v).cplVa % 4096 = 0)
    (status : ((s.berth b).withCfg0 v).statusVa % 64 = 0) (cap : ((s.berth b).withCfg0 v).capVa % 4096 = 0)
    (wheel : s.onWheel ((s.berth b).withCfg0 v).harbour = true) (stays : s.pw.transit = false)
    (role : ((s.berth b).withCfg0 v).harbour = 0 ∨ (s.lk.pool = false ∧ s.lk.berthWait = false)) :
    s.enableBerth b v = (s.onBerth b fun _ => { (s.berth b).withCfg0 v with enable := true, objs := os }).statusArea b := by
  have notPool : ¬ (((s.berth b).withCfg0 v).harbour ≠ 0 ∧ (s.lk.pool = true ∨ s.lk.berthWait = true)) := by
    rintro ⟨other, pooled⟩
    obtain ⟨compute, waited⟩ := role.resolve_left other
    simp [compute, waited] at pooled
  simp only [State.enableBerth, objs]
  exact if_neg (by simpa [sub, cpl, status, cap, wheel, stays] using notPool)

/-- The write of HM_BERTH_CFG0 changes no field but TIMEOUT. -/
abbrev onlyTimeout (x : Berth) (v : Word) : Prop := { x.withCfg0 v with timeout := x.timeout } = x

/-- An enabled berth with a TIMEOUT for the next boundary. -/
def timeoutTaken (b : Nat) (v : Word) (s : State) : State :=
  s.onBerth b fun y => { y with timeoutNext := some ((s.berth b).withCfg0 v).timeout }

theorem cfg0Enabled_same (same : onlyTimeout (s.berth b) v) : s.cfg0Enabled b v = timeoutTaken b v s := if_pos same

theorem cfg0Enabled_other (other : ¬ onlyTimeout (s.berth b) v) : s.cfg0Enabled b v = (timeoutTaken b v s).hmRefused := if_neg other

theorem disableBerth_disabled (off : (s.berth b).enable = false) : s.disableBerth b v = s.onBerth b fun y => y.withCfg0 v :=
  if_pos (by simp [off])

/-- A berth after its disabling, with the TIMEOUT written. -/
def berthDisabled (b : Nat) (v : Word) (s : State) : State :=
  (s.onBerth b fun y => { y with
    enable := false, objs := [], timeout := ((s.berth b).withCfg0 v).timeout, timeoutNext := none }).statusArea b

section
variable (enabled : (s.berth b).enable = true) (stopped : (s.berth b).stop = true) (idle : s.berthBusy b = false)
include enabled stopped idle

theorem disableBerth_idle : s.disableBerth b v =
    if onlyTimeout (s.berth b) v then berthDisabled b v s else (berthDisabled b v s).hmRefused :=
  (if_neg (by simp [enabled])).trans (if_neg (by simp [stopped, idle]))

theorem disableBerth_same (same : onlyTimeout (s.berth b) v) : s.disableBerth b v = berthDisabled b v s :=
  (disableBerth_idle enabled stopped idle).trans (if_pos same)

theorem disableBerth_other (other : ¬ onlyTimeout (s.berth b) v) : s.disableBerth b v = (berthDisabled b v s).hmRefused :=
  (disableBerth_idle enabled stopped idle).trans (if_neg other)

end

/-! The commands of the manager -/

variable {m : Master} (hh : s.halted = false) (hm : m.privileged = true) (hb : b < 8192)
include hh hm hb

section
variable (least : 4 ≤ bits v 24 5) (most : bits v 24 5 ≤ 16)
include least most

theorem exec_berthEnable_inRange :
    exec (.berthEnable m b v) s = .next (if (s.berth b).enable then s.cfg0Enabled b v else s.enableBerth b v) := by
  show execBerthEnable m b v s = _
  rw [execBerthEnable, clocked_privWrite_run hh hm (berthOffset_present s b 0), if_neg (by omega), if_neg (by omega)]

theorem exec_berthDisable_inRange : exec (.berthDisable m b v) s = .next (s.disableBerth b v) := by
  show execBerthDisable m b v s = _
  rw [execBerthDisable, clocked_privWrite_run hh hm (berthOffset_present s b 0), if_neg (by omega), if_neg (by omega)]

end

theorem exec_berthStop_privileged : exec (.berthStop m b) s = .next (s.stopBerth b true) := by
  show execBerthStop m b s = _
  rw [execBerthStop, clocked_privWrite_run hh hm (berthOffset_present s b 6), if_neg (by omega)]

theorem exec_berthAbort_privileged : exec (.berthAbort m b) s = .next (s.abortBerth b) := by
  show execBerthAbort m b s = _
  rw [execBerthAbort, clocked_privWrite_run hh hm (berthOffset_present s b 6), if_neg (by omega)]

end

/-- Settles O26: a write of HM_BERTH_CFG0 by what it finds the berth to be, and the two control bits. -/
theorem berthControl : Obligations.BerthControl := by
  refine fun m b s hh hm hb => ⟨fun v least most => ?config, exec_berthStop_privileged hh hm hb, exec_berthAbort_privileged hh hm hb⟩
  have enables := exec_berthEnable_inRange hh hm hb least most
  have disables := exec_berthDisable_inRange hh hm hb least most
  refine ⟨fun os off objs sub cpl status cap wheel stays role => ?enable, fun on => ⟨fun same => ?timeout, fun other => ?refused⟩,
    fun off => ?configure, fun on stopped idle => ⟨fun same => ?disable, fun other => ?disableRefused⟩⟩
  case enable => rw [enables, if_neg (by simp [off]), enableBerth_accepted objs sub cpl status cap wheel stays role]
  case timeout => exact enables.trans (congrArg _ ((if_pos on).trans (cfg0Enabled_same same)))
  case refused => exact enables.trans (congrArg _ ((if_pos on).trans (cfg0Enabled_other other)))
  case configure => rw [disables, disableBerth_disabled off]
  case disable => exact disables.trans (congrArg _ (disableBerth_same on stopped idle same))
  case disableRefused => exact disables.trans (congrArg _ (disableBerth_other on stopped idle other))

end Sys2Proof.Proofs
end

section
/-! SUPPORT. The statement of 08_harbourmaster on heartbeats, takeovers and the loss of the last Harbourmaster. -/
namespace Sys2Proof.Proofs
open Sys2Proof Sys2Proof.Machine Sys2Proof.Laws

/-! The beginning of a takeover (R289, R292) -/

/-- Launches whose parts are all still loading: the log does not show them as placed. -/
def loadingLaunches (s : State) : Tab Launch :=
  s.hm.launches.filter fun x => x.2.state == .active && x.2.kind == 0 && !x.2.parts.isEmpty &&
    x.2.parts.all fun p => match p with | .slot q k => (s.slotAt q k).state == .loading | _ => false

/-- The Harbourmaster's state at the detection of a failure. -/
def detected (s : State) (h : Hm) : Hm :=
  { h with
    takeover := true, gen := h.gen + 1, takeoverTide := s.tide.num, takeoverNs := s.fresh.toNat % (s.tide.period * 1000), rewritten := 0
    returned := ((loadingLaunches s).map fun x => x.2.parts.length).sum, fetching := [] }

/-- The takeover that begins in a state. -/
def takeoverBegun (s : State) : State :=
  foldState (loadingLaunches s) (fun a x => a.unplace x.1 x.2) (s.onHm (detected s)).drawn

section
variable {s : State} (hh : s.halted = false)

section
variable (standby : s.hm.standby = true) (acts : s.hm.takeover = false)
include standby acts

theorem takeover_standby : s.takeover = takeoverBegun s := if_neg (by simp [standby, acts])

include hh

theorem exec_heartbeatLoss_standby : exec .heartbeatLoss s = .next (takeoverBegun (s.onHm fun h => { h with sinceBeat := 4 })) :=
  (State.clocked_run _ _ hh).trans (congrArg _ (takeover_standby (s := s.onHm fun h => { h with sinceBeat := 4 }) standby acts))

theorem exec_selfCheckReport_standby : exec .selfCheckReport s = .next (takeoverBegun s) :=
  (State.clocked_run _ _ hh).trans (congrArg _ (takeover_standby standby acts))

theorem exec_hmLost_standby : exec (.hmLost true) s = .next (takeoverBegun s) := by
  show execHmLost true s = _
  rw [execHmLost, State.clocked_run _ _ hh, if_pos ⟨standby, rfl, by simp [acts]⟩, takeover_standby standby acts]

end

include hh

/-! Heartbeats, the end of a takeover, and the loss of the last Harbourmaster (R288–R292, R513) -/

theorem exec_heartbeat : exec .heartbeat s = .next (s.onHm fun h => { h with sinceBeat := 0 }) := State.clocked_run _ _ hh

/-- The records and signals in the tail of the mirror log, once more. -/
def tailRewritten (s : State) : State := foldState s.hm.tail (fun a r => a.rewriteRec r) s

/-- The other die is active and no standby is left; the event names the tide of the detection. -/
def failedOver (s : State) : State :=
  (s.onHm fun h => { h with takeover := false, standby := false, activeDie := 1 - h.activeDie, cFailovers := h.cFailovers + 1 }).eventAt
    s.hm.takeoverTide 0x0300 11 (1 - s.hm.activeDie) [w64 s.hm.takeoverNs, w64 s.hm.rewritten, w64 s.hm.returned]

theorem exec_hmFailover_takeover (takes : s.hm.takeover = true) :
    exec .hmFailover s = .next (failedOver (tailRewritten s)).flushAll.heldSteps.advanceProcs.settle := by
  show execHmFailover s = _
  rw [execHmFailover, State.clocked_run _ _ hh, if_neg (by simp [takes])]
  rfl

theorem exec_hmLost_last {ready : Bool} (last : s.hm.standby = false ∨ ready = false ∨ s.hm.takeover = true) :
    exec (.hmLost ready) s = .next s.hmLost := by
  have noneTakesOver : ¬ (s.hm.standby = true ∧ ready = true ∧ (!s.hm.takeover) = true) := by
    rcases last with h | h | h <;> simp [h]
  show execHmLost ready s = _
  rw [execHmLost, State.clocked_run _ _ hh, if_neg noneTakesOver]

end

theorem hmLost_first {s : State} (served : s.hm.lost = false) :
    s.hmLost = ((s.onHm fun h => { h with lost := true, takeover := false, standby := false }).event 0x0301 11 s.hm.activeDie
      [w64 s.hm.launches.length]).keepEvent 0x0909 0 0 [4] := if_neg (by simp [served])

/-- Settles O27: the three ways into a takeover, its end, and the loss of the last Harbourmaster. -/
theorem harbourmasterFailover : Obligations.HarbourmasterFailover := by
  refine fun s hh => ⟨exec_heartbeat hh, fun standby acts => ⟨exec_heartbeatLoss_standby hh standby acts,
    exec_selfCheckReport_standby hh standby acts, exec_hmLost_standby hh standby acts⟩, exec_hmFailover_takeover hh,
    fun ready last served => ?_⟩
  rw [exec_hmLost_last hh last, hmLost_first served]

end Sys2Proof.Proofs
end

section
/-! SUPPORT. The statement of 08_harbourmaster on the dispatch wheel, the fetch of a manifest and the quotas of the launch table. -/
namespace Sys2Proof.Proofs
open Sys2Proof Sys2Proof.Machine Sys2Proof.Laws

/-! The dispatch wheel (R261, R262, R320) -/

section
variable {s : State}

section
variable {pos h : Nat} (hh : s.halted = false) (wheel : s.wheelHarbour pos = some h) (serves : s.hmSilent = false)
  (onWheel : pos < 128) (room : s.quotaRoom h = true)
include hh wheel serves onWheel room

theorem exec_wheelPosition_pending {g i : Nat} (pending : s.pendingNode h = some (g, i)) :
    exec (.wheelPosition pos) s = .next (s.instantiate g i) := by
  show execWheelPosition pos s = _
  rw [execWheelPosition, State.clocked_run _ _ hh]
  simp only [wheel, pending]
  rw [if_neg (by simp [serves, room, onWheel])]

theorem exec_wheelPosition_berth {b : Nat} (idle : s.pendingNode h = none) (next : s.nextBerth h = some b) :
    exec (.wheelPosition pos) s = .next (s.onHm fun m => { m with
      fetching := setIns m.fetching b, lastServed := tabPut m.lastServed h b }) := by
  show execWheelPosition pos s = _
  rw [execWheelPosition, State.clocked_run _ _ hh]
  simp only [wheel, idle, next]
  rw [if_neg (by simp [serves, room, onWheel])]

end

/-- A graph launch without one of its pending nodes. -/
def nodeTaken (g i : Nat) (r : GraphRun) (s : State) : State :=
  s.onLaunch g fun x => { x with run := some { r with pending := setDel r.pending i } }

theorem instantiate_recorded {g i : Nat} {e : Launch} {r : GraphRun} {gr : Graph} {o : MemObj} (launched : s.launch g = some e)
    (runs : e.run = some r) (graph : tabFind s.graphs r.graph = some gr) (obj : tabFind s.hif.objs gr.obj = some o) :
    s.instantiate g i = ((((nodeTaken g i r s).readEffectH o.harbour (o.addr + gr.offset + nodeOffset gr.nodes r.slot i)
      1088).admitLaunch ((nodeTaken g i r s).nodeLaunch g e r gr i) true ((nodeTaken g i r s).nodeRecord gr r.slot i).2).settle) := by
  simp only [State.instantiate, launched, runs, graph, obj]
  rfl

/-! MANIFEST_FETCH (R259, R266, R267, R270, R273) -/

/-- Where the next manifest of a berth stands. -/
def manifestVa (x : Berth) : Nat := x.subVa + x.fetch.toNat % 2 ^ x.log2 * 512

/-- The launch that the bytes of a manifest give, its extension not yet read. -/
def launchOf (b : Nat) (x : Berth) (bs : List Byte) : Launch :=
  { berth := b, index := x.fetch, harbour := x.harbour, context := x.context, entry := bytesWords 64 bs, ringVa := manifestVa x
    det := !x.nondet.contains x.fetch.toNat, serialOn := if x.serial then x.lastEntry else none }

/-- FETCH has advanced over the manifest, which has been read. -/
def entryRead (b : Nat) (s : State) : State :=
  ((s.onHm fun h => { h with fetching := setDel h.fetching b }).onBerth b fun x => { x with
    fetch := x.fetch + 1, lastEntry := some s.hm.nextEntry, nondet := setDel x.nondet x.fetch.toNat }).readEffectVa
    (s.berth b).context (manifestVa (s.berth b)) 512

/-- The extension that the manifest has, has been read. -/
def extensionRead (n : Launch) (ext : List Word) (s : State) : State :=
  foldState (if ext.isEmpty then [] else n.extRanges)
    (fun a r => a.readEffectVa n.context (bits (wordAt n.entry 3) 0 57 + r.1) r.2) s

/-- The first word of the binary of a kernel has been read. -/
def binaryRead (n : Launch) (s : State) : State := s.readEffectVa n.context (bits (wordAt n.entry 2) 0 57) 8

theorem exec_manifestFetch_started {b : Nat} (hh : s.halted = false) (started : b ∈ s.hm.fetching) (serves : s.hmSilent = false) :
    exec (.manifestFetch b) s = .next (s.fetchManifest b) := by
  show execManifestFetch b s = _
  rw [execManifestFetch, State.clocked_run _ _ hh, if_pos ⟨by simpa using started, by simp [serves]⟩]

theorem fetchManifest_read {b : Nat} {bs : List Byte} {p ok p2 : Bool} {ext : List Word}
    (entry : s.vaRead (s.berth b).context (manifestVa (s.berth b)) 512 = some (bs, p))
    (extension : s.readExt (launchOf b (s.berth b) bs) = (ok, ext, p2)) :
    s.fetchManifest b =
      let n := launchOf b (s.berth b) bs
      let a := extensionRead n ext (entryRead b s)
      (((if n.kind = 0 ∧ s.ras.lost.contains n.context = false then binaryRead n a else a).statusArea b).admitLaunch { n with ext := ext }
        ok (p || p2)).settle := by
  unfold manifestVa at entry
  unfold launchOf manifestVa at extension
  simp only [State.fetchManifest, entry, Option.getD_some, extension, Bool.not_eq_true']
  rfl

/-! Admission to the launch table (R267, R269, R270) -/

/-- The fences that the waits of a manifest name. -/
def waitFences (s : State) (n : Launch) : List Nat :=
  (List.range (min n.waitCount 8)).filterMap fun i =>
    (s.fenceEnt n.context (BitVec.ofNat 32 (bits (wordAt n.ext (32 + 2 * i)) 0 32))).map (·.fon)

/-- The fences of a manifest's waits have been looked up. -/
def waitsTouched (n : Launch) (s : State) : State := foldState (waitFences s n) (fun a f => a.touchFence f) s

theorem admitLaunch_passes {n : Launch} {ext p : Bool} (kept : s.ras.lost.contains n.context = false)
    (kind : n.kind = 1 ∨ n.kind = 3 ∨ n.kind = 4) (passes : (waitsTouched n s).fetchStatus n ext p = none) :
    s.admitLaunch n ext p = (waitsTouched n s).onHm fun h => { h with
      launches := tabPut h.launches s.hm.nextEntry { n with
        status := none, state := .waiting, waits := (waitsTouched n s).waitsOf n
        budgetInit := (waitsTouched n s).lowerBudget n.harbour (bits (wordAt n.entry 0) 40 8)
        budgetCont := (waitsTouched n s).lowerBudget n.harbour (bits (wordAt n.entry 0) 48 8), run := none }
      nextEntry := s.hm.nextEntry + 1 } := by
  have notKernel : n.kind ≠ 0 := by omega
  have notGraph : n.kind ≠ 2 := by omega
  have looked : (if s.ras.lost.contains n.context = true then s
      else foldState (waitFences s n) (fun a f => a.touchFence f) s) = waitsTouched n s := if_neg (by rw [kept]; exact Bool.false_ne_true)
  unfold waitFences at looked
  simp only [State.admitLaunch, looked, passes, if_neg notKernel, if_neg notGraph, Option.isSome_none, Bool.false_eq_true, if_false]

/-! HM_LT_QUOTA_j (R271) -/

/-- The quotas with four of them as written. -/
def quotasWritten (j : Nat) (v : Word) (s : State) : Tab Nat :=
  (List.range 4).foldl (fun t i => tabPut t (4 * j + i) (bits v (16 * i) 13)) s.hm.quotaNext

theorem exec_ltQuotaWrite_inRange {m : Master} {j : Nat} {v : Word} (hh : s.halted = false) (hm : m.privileged = true) (hj : j < 16)
    (each : ∀ i < 4, bits v (16 * i) 13 ≤ 4096) (total : ((quotasWritten j v s).map (·.2)).sum * 16 ≤ 65536) :
    exec (.ltQuotaWrite m j v) s = .next (s.onHm fun h => { h with quotaNext := quotasWritten j v s }) := by
  have inRange : ((List.range 4).all fun i => decide (bits v (16 * i) 13 ≤ 4096)) = true := by simpa using each
  have fits : ¬ ((!(List.range 4).all fun i => decide (bits v (16 * i) 13 ≤ 4096)) = true ∨
      65536 < ((quotasWritten j v s).map (·.2)).sum * 16) := by simpa [inRange] using total
  show execLtQuotaWrite m j v s = _
  rw [execLtQuotaWrite, clocked_privWrite_run hh hm (present_of_above s (by omega)), if_neg (by omega)]
  exact congrArg _ (if_neg fits)

end

/-- Settles O25: the two turns of a wheel position, the fetch, the admission of a launch that passes, and the quotas. -/
theorem dispatchWheelAndQuota : Obligations.DispatchWheelAndQuota := by
  refine fun s hh => ⟨fun pos h g i e r gr o wheel serves onWheel room pending launched runs graph obj => ?node,
    fun pos h b wheel serves onWheel room => exec_wheelPosition_berth hh wheel serves onWheel room,
    fun b bs p ok ext p2 started serves entry extension => ?fetch, fun n ext p => admitLaunch_passes,
    fun m j v => exec_ltQuotaWrite_inRange hh⟩
  case node =>
    rw [exec_wheelPosition_pending hh wheel serves onWheel room pending, instantiate_recorded launched runs graph obj]
    rfl
  case fetch =>
    rw [exec_manifestFetch_started hh started serves, fetchManifest_read entry extension]
    rfl

end Sys2Proof.Proofs
end

section
/-! SUPPORT. The statement of 18_host_interface on Eweas commands for berths, events, stored graphs and state records. -/
namespace Sys2Proof.Proofs
open Sys2Proof Sys2Proof.Machine Sys2Proof.Laws

/-! A command on a free page (R575, R576, R590, R591) -/

/-- The module runs, the link of the command's function is up, and its page is free. -/
structure Submits (s : State) (c : EwCmd) : Prop where
  func : c.func < 128
  running : s.running = true
  linkUp : (s.link (c.func / 32)).up = true
  free : (s.page c.func).busy = false

/-- The context that a command names is its function's, and no teardown has begun. -/
structure Owns (s : State) (c : EwCmd) (x : Ctx) : Prop where
  ctx : s.ctx (c.arg 1) = some x
  passes : x.passes c = true
  stands : x.teardown = 0

theorem Owns.taken {s : State} {c : EwCmd} {x : Ctx} (owns : Owns s c x) (op : Nat) : Owns (s.taken op c) c x :=
  ⟨owns.ctx, owns.passes, owns.stands⟩

theorem ownerOf_owns {t : State} {c : EwCmd} {x : Ctx} (owns : Owns t c x) (f : Nat → Ctx → Reply) :
    t.ownerOf c f = f (c.arg 1) x := by
  simp only [State.ownerOf, owns.ctx]
  rw [if_neg (by simp [owns.passes]), if_neg (by simp [owns.stands])]

theorem passes_of_func_zero {c : EwCmd} (x : Ctx) (hf : c.func = 0) : x.passes c = true := by
  simp [Ctx.passes, hf]

theorem withState_origin {t : State} {c : EwCmd} {o : Own} (own : t.own (c.arg 2) = some o) (origin : o.token = .origin)
    (mine : o.context = c.arg 1) (f : Nat → Own → Reply) : withState t c (c.arg 1) f = f (c.arg 2) o := by
  simp only [withState, own]
  rw [if_pos ⟨origin, mine⟩]

section
variable {s s2 : State} {c : EwCmd} {op : Nat} {run : EwCmd → State → Reply} (submits : Submits s c)
include submits

theorem halted_of_submits : s.halted = false := halted_of_live (live_of_running submits.running)

theorem submits_guards : ¬ (128 ≤ c.func ∨ (!s.running) = true ∨ (!(s.link (c.func / 32)).up) = true) ∧
    ¬ (s.page c.func).busy = true := by
  simp [submits.running, submits.linkUp, submits.free, submits.func]

theorem clocked_command_ok {res : List Word} (replies : run c (s.taken op c) = .ok res s2) :
    s.clocked (s.command op run c) = .next (s2.pageDone c.func 0 0 res) := by
  obtain ⟨heard, free⟩ := submits_guards submits
  rw [State.clocked_run _ _ (halted_of_submits submits), State.command, if_neg heard, if_neg free]
  simp only [replies]

theorem clocked_command_wait {w : PageWait} (replies : run c (s.taken op c) = .wait w s2) :
    s.clocked (s.command op run c) = .next ((s2.pageWait c.func w).pollPage c.func) := by
  obtain ⟨heard, free⟩ := submits_guards submits
  rw [State.clocked_run _ _ (halted_of_submits submits), State.command, if_neg heard, if_neg free]
  simp only [replies]

theorem clocked_command_later (replies : run c (s.taken op c) = .later s2) :
    s.clocked (s.command op run c) = .next s2 := by
  obtain ⟨heard, free⟩ := submits_guards submits
  rw [State.clocked_run _ _ (halted_of_submits submits), State.command, if_neg heard, if_neg free]
  simp only [replies]

end

section
variable {t : State} {c : EwCmd} {x : Ctx}

/-! Berths (R255, R295, R577, R582, log entry 64) -/

/-- The configuration words of BERTH_CREATE. -/
def cfgWord (c : EwCmd) (r : Nat) : Word := wordAt c.args (r + 1)

/-- The berth that BERTH_CREATE asks for. -/
def askedBerth (c : EwCmd) (x : Ctx) : Berth :=
  { ([1, 2, 3, 4, 5].foldl (fun b r => b.withCfg r (cfgWord c r)) (({} : Berth).withCfg0 (cfgWord c 0))) with
    harbour := x.harbour, context := c.arg 1 }

def freeBerth (t : State) : Nat := lowestFree 8192 fun i => (t.berth i).enable || t.berthBusy i

/-- The lowest free berth is set up as asked, and its enabling tried. -/
def berthSetUp (c : EwCmd) (x : Ctx) (t : State) : State :=
  (t.onBerth (freeBerth t) fun _ => askedBerth c x).enableBerth (freeBerth t)
    (w64 (putBits (putBits (cfgWord c 0).toNat 1 6 x.harbour) 8 16 (c.arg 1)))

theorem ewBerthCreate_enabled (hf : c.func = 0) (owns : Owns t c x) (sameFunc : (askedBerth c x).func = x.func)
    (samePasid : x.pasidEn = true → (askedBerth c x).pasidCheck = true ∧ (askedBerth c x).pasid = x.pasid)
    (inRange : ¬ ((askedBerth c x).log2 < 4 ∨ 16 < (askedBerth c x).log2 ∨
      (!([1, 2, 3, 4, 5].all fun r => cfgInRange r (cfgWord c r))) = true))
    (bound : (askedBerth c x).irqMode ≠ 0 → x.events.contains ((askedBerth c x).func * 2048 + (askedBerth c x).msiVector) = true)
    (room : freeBerth t < 8192) (enabled : ((berthSetUp c x t).berth (freeBerth t)).enable = true) :
    ewBerthCreate c t = .ok [w64 (freeBerth t)] (berthSetUp c x t) := by
  have matching : ¬ ((askedBerth c x).func ≠ x.func ∨
      (x.pasidEn = true ∧ ((!(askedBerth c x).pasidCheck) = true ∨ (askedBerth c x).pasid ≠ x.pasid))) := by
    rintro (other | ⟨checked, other⟩)
    · exact other sameFunc
    · obtain ⟨checks, same⟩ := samePasid checked
      simp [checks, same] at other
  have vectorBound : ¬ ((askedBerth c x).irqMode ≠ 0 ∧
      (!x.events.contains ((askedBerth c x).func * 2048 + (askedBerth c x).msiVector)) = true) := by
    rintro ⟨raises, unbound⟩
    rw [bound raises] at unbound
    exact absurd unbound (by decide)
  rw [ewBerthCreate, if_neg (by simp [hf]), ownerOf_owns owns]
  exact (if_neg matching).trans <| (if_neg inRange).trans <| (if_neg vectorBound).trans <| (if_neg (Nat.not_le.2 room)).trans <|
    if_pos enabled

theorem ewBerthDestroy_enabled (inRange : c.arg 1 < 8192) (enabled : (t.berth (c.arg 1)).enable = true)
    (ctx : t.ctx (t.berth (c.arg 1)).context = some x) (passes : x.passes c = true) (stands : x.teardown = 0) :
    ewBerthDestroy c t = .wait (.berth (c.arg 1)) ((t.stopBerth (c.arg 1) true).abortBerth (c.arg 1)) := by
  simp only [ewBerthDestroy, State.ownerOfBerth, ctx]
  rw [if_neg (by simp [enabled, inRange]), if_neg (by simp [passes]), if_neg (by simp [stands])]

variable (owns : Owns t c x)
include owns

/-! Events (R577) -/

theorem ewEventBind_inRange (vector : c.arg 2 < 2048) :
    ewEventBind c t = .ok [] (t.onAsid (c.arg 1) fun q => { q with events := setIns q.events (c.func * 2048 + c.arg 2) }) := by
  rw [ewEventBind, ownerOf_owns owns, if_neg (by omega)]

theorem ewEventUnbind_bound (vector : c.arg 2 < 2048) (bound : x.events.contains (c.func * 2048 + c.arg 2) = true) :
    ewEventUnbind c t = .ok [] (t.onAsid (c.arg 1) fun q => { q with events := setDel q.events (c.func * 2048 + c.arg 2) }) := by
  rw [ewEventUnbind, ownerOf_owns owns, if_neg (by omega), if_neg (by rw [bound]; decide)]

/-! Stored graphs (R316, R318, R321) -/

/-- The lowest free place in a context's graph table. -/
def freeGraph (t : State) (a : Nat) : Nat :=
  lowestFree 4096 fun j => match tabFind t.graphs (a * 4096 + j) with | some g => g.valid | none => false

/-- The generation of the graph that comes next to a table entry. -/
def nextGraphGen (t : State) (k : Nat) : BitVec 8 := match tabFind t.graphs k with | some g => g.gen + 1 | none => 0

/-- The first word of a graph image. -/
def imageWord (bs : List Byte) : Word := BitVec.ofNat 64 (leNat bs)

/-- Key of the table entry that GRAPH_REGISTER fills. -/
def newGraphKey (c : EwCmd) (t : State) : Nat := c.arg 1 * 4096 + freeGraph t (c.arg 1)

/-- The graph that an image names. -/
def newGraph (c : EwCmd) (o : Nat) (w : Word) (t : State) : Graph :=
  { context := c.arg 1, gen := nextGraphGen t (newGraphKey c t), valid := true, obj := o, offset := c.arg 3, nodes := bits w 0 11
    exitNode := bits w 16 10, curVersion := 1, curSlot := 0, slotVersion := [(0, 1)] }

/-- A graph image that GRAPH_REGISTER does not take (R318). -/
def imageRefused (c : EwCmd) (o : Nat) (y : MemObj) (w : Word) (t : State) : Prop :=
  bits w 0 11 = 0 ∨ 1024 < bits w 0 11 ∨ bits w 0 11 ≤ bits w 16 10 ∨ bits w 11 5 ≠ 0 ∨ bits w 26 6 ≠ 0 ∨ bits w 32 32 ≠ 1
    ∨ y.len < c.arg 3 + 256 + 4 * bits w 0 11 * 0x440 ∨ (!t.objPinned o) = true ∨ (!t.imageOk (newGraph c o w t) 0) = true

/-- A new graph enters the table, and its header is written. -/
def graphStored (c : EwCmd) (o : Nat) (w : Word) (t : State) : State :=
  let s1 : State := { t with graphs := tabPut t.graphs (newGraphKey c t) (newGraph c o w t) }
  s1.graphWrite (newGraph c o w t) 0 ((s1.graphHeader (newGraphKey c t) (newGraph c o w t)).flatMap wordBytes)

theorem ewGraphRegister_valid {i o : Nat} {h : Handle} {y : MemObj} {bs : List Byte} (handle : x.handle (c.arg 2) = some (i, h))
    (names : h.obj = some o) (obj : tabFind t.hif.objs o = some y) (fits : c.arg 3 + 256 ≤ y.len)
    (read : t.readH y.harbour (y.addr + c.arg 3) 8 = some (bs, false)) (valid : ¬ imageRefused c o y (imageWord bs) t)
    (room : freeGraph t (c.arg 1) < 4096) :
    ewGraphRegister c t = .ok [w64 ((nextGraphGen t (newGraphKey c t)).toNat * 2 ^ 24 + freeGraph t (c.arg 1))]
      (graphStored c o (imageWord bs) t) := by
  have sound : ¬ (false = true ∨ imageRefused c o y (imageWord bs) t) := by simp [valid]
  rw [ewGraphRegister, ownerOf_owns owns]
  simp only [withHandle, handle, names, obj, if_pos fits, read]
  exact (if_neg sound).trans <| if_neg (Nat.not_le.2 room)

theorem ewGraphUnregister_registered {k : Nat} {g : Graph} (inRange : c.arg 2 < 2 ^ 32)
    (graph : t.graphOf (c.arg 1) (c.arg 2) = some (k, g)) (stays : g.unregistering = false) :
    ewGraphUnregister c t = .wait (.graph k) { t with graphs := tabPut t.graphs k { g with unregistering := true } } := by
  rw [ewGraphUnregister, ownerOf_owns owns]
  simp only [if_pos inRange, graph]
  rw [if_neg (by simp [stays])]

/-! State records (R466, R468, R472) -/

/-- Identifier of the record that STATE_CREATE makes: this node is its originator. -/
def newStateId (c : EwCmd) (t : State) : Nat := t.lk.nodeId * 2 ^ 52 + c.arg 2 % 2 ^ 52

/-- The record that STATE_CREATE makes. -/
def newState (c : EwCmd) (t : State) : Own :=
  { epoch := 1, token := .origin, holder := bits (wordAt c.args 2) 0 12, ckptNode := bits (wordAt c.args 2) 16 12
    leaseLeft := t.lk.leaseTides, stateAddr := wordAt c.args 3, ckptAddr := wordAt c.args 4, len := c.arg 6, context := c.arg 1 }

theorem ewStateCreate_free (inRange : ¬ (2 ^ 52 ≤ c.arg 2 ∨ bits (wordAt c.args 2) 12 4 ≠ 0 ∨ bits (wordAt c.args 2) 28 36 ≠ 0 ∨
      bits (wordAt c.args 2) 0 12 = bits (wordAt c.args 2) 16 12 ∨ 2 ^ 40 ≤ c.arg 6))
    (unused : t.own (newStateId c t) = none) (room : t.ownRoom = true) :
    ewStateCreate c t = .ok [] (t.putOwn (newStateId c t) (newState c t)) := by
  have fresh : ¬ (t.own (newStateId c t)).isSome = true := by simp [unused]
  rw [ewStateCreate, ownerOf_owns owns]
  exact (if_neg inRange).trans <| (if_neg fresh).trans <| if_neg (by simp [room])

variable {o : Own} (own : t.own (c.arg 2) = some o)
include own

theorem ewPhaseEnd_held (held : o.token = .held) (hf : c.func = 0) (phase : c.arg 3 < 2 ^ 24) :
    ewPhaseEnd c t = .later ((t.putOwn (c.arg 2) { o with ckptPending := some 0 }).sendOwn (originatorOf (c.arg 2))
      { o.msg (c.arg 2) 10 with epoch := o.heldEpoch, phase := c.arg 3, addr := wordAt c.args 3 }) := by
  rw [ewPhaseEnd, ownerOf_owns owns]
  simp only [own]
  rw [if_neg (Nat.not_le.2 phase), if_pos ⟨held, hf⟩, hf]

variable (origin : o.token = .origin) (mine : o.context = c.arg 1)
include origin mine

/-- A record of an origin that begins to move. -/
def movingOwn (c : EwCmd) (o : Own) : Own := { o with epoch := o.epoch + 1, peer := c.arg 3, wait := 0, movePending := some c.func }

theorem ewStateMove_origin (node : c.arg 3 < 4095) (elsewhere : c.arg 3 ≠ o.holder) (settled : o.peer = 0xFFF) :
    ewStateMove c t = .later ((t.putOwn (c.arg 2) (movingOwn c o)).sendOwn o.holder ((movingOwn c o).msg (c.arg 2) 0)) := by
  rw [ewStateMove, ownerOf_owns owns, withState_origin own origin mine]
  exact (if_neg (by omega)).trans <| if_neg (by simp [settled])

section
variable (phase : c.arg 3 < 2 ^ 24)
include phase

theorem ewPhaseEnd_origin : ewPhaseEnd c t =
    if o.holder = t.lk.nodeId then .ok [] (t.putOwn (c.arg 2) { o with phase := c.arg 3, ckptAddr := wordAt c.args 3 })
    else .later (t.putOwn (c.arg 2) { o with ckptPending := some c.func }) := by
  rw [ewPhaseEnd, ownerOf_owns owns]
  simp only [own]
  rw [if_neg (Nat.not_le.2 phase), if_neg (by simp [origin]), if_neg (by simp [origin, mine])]

theorem ewPhaseEnd_holder (here : o.holder = t.lk.nodeId) :
    ewPhaseEnd c t = .ok [] (t.putOwn (c.arg 2) { o with phase := c.arg 3, ckptAddr := wordAt c.args 3 }) :=
  (ewPhaseEnd_origin owns own origin mine phase).trans (if_pos here)

theorem ewPhaseEnd_away (away : o.holder ≠ t.lk.nodeId) :
    ewPhaseEnd c t = .later (t.putOwn (c.arg 2) { o with ckptPending := some c.func }) :=
  (ewPhaseEnd_origin owns own origin mine phase).trans (if_neg away)

end

theorem ewStateDestroy_origin : ewStateDestroy c t = .wait (.state (c.arg 2)) t := by
  rw [ewStateDestroy, ownerOf_owns owns, withState_origin own origin mine]

end

/-- Settles O60: each command by what its submission answers, and the reply that its meaning gives. -/
theorem eweasBerthsGraphsAndRecords : Obligations.EweasBerthsGraphsAndRecords := by
  refine ⟨fun c x s hf hr hl hb ctx stands => ?create, fun c x s hf hr hl hb inRange enabled ctx passes stands => ?destroy,
    fun c x s hf hr hl hb ctx passes stands => ?owner⟩
  case create =>
    have submits : Submits s c := ⟨by omega, hr, by simpa [hf] using hl, by simpa [hf] using hb⟩
    have owns : Owns s c x := ⟨ctx, passes_of_func_zero x hf, stands⟩
    intro t img y b v s1 sameFunc samePasid inRange bound room enabled
    exact clocked_command_ok submits (ewBerthCreate_enabled hf (owns.taken 0x18) sameFunc samePasid inRange bound room enabled)
  case destroy =>
    have submits : Submits s c := ⟨hf, hr, hl, hb⟩
    exact clocked_command_wait (s := s) (op := 0x19) submits (ewBerthDestroy_enabled inRange enabled ctx passes stands)
  case owner =>
    have submits : Submits s c := ⟨hf, hr, hl, hb⟩
    have owns (op : Nat) : Owns (s.taken op c) c x := Owns.taken ⟨ctx, passes, stands⟩ op
    refine ⟨fun vector => clocked_command_ok submits (ewEventBind_inRange (owns 0x1A) vector),
      fun vector bound => clocked_command_ok submits (ewEventUnbind_bound (owns 0x1B) vector bound),
      fun i h o y bs handle names obj fits read => ?register,
      fun k g inRange graph stays => clocked_command_wait submits (ewGraphUnregister_registered (owns 0x21) inRange graph stays),
      ?state,
      fun o own held hf phase => clocked_command_later submits (ewPhaseEnd_held (owns 0x2A) own held hf phase),
      fun o own origin mine => ⟨fun node elsewhere settled => ?move, fun phase here => ?holder, fun phase away => ?away, ?destroyed⟩⟩
    case register =>
      intro t w n j k gen g s1 valid room
      exact clocked_command_ok submits (ewGraphRegister_valid (owns 0x20) handle names obj fits read valid room)
    case state =>
      intro t w id inRange unused room
      exact clocked_command_ok submits (ewStateCreate_free (owns 0x28) inRange unused room)
    case move => exact clocked_command_later submits (ewStateMove_origin (owns 0x29) own origin mine node elsewhere settled)
    case holder => exact clocked_command_ok submits (ewPhaseEnd_holder (owns 0x2A) own origin mine phase here)
    case away => exact clocked_command_later submits (ewPhaseEnd_away (owns 0x2A) own origin mine phase away)
    case destroyed => exact clocked_command_wait submits (ewStateDestroy_origin (owns 0x2B) own origin mine)

end Sys2Proof.Proofs
end

section
/-! SUPPORT. The statement of 09_fences_and_graphs on arriving signals, the fence cache, wait cycles and graph patches. -/
namespace Sys2Proof.Proofs
open Sys2Proof Sys2Proof.Machine Sys2Proof.Laws

/-! FENCE_SIGNAL_APPLY (R302, R304) -/

section
variable {s : State}

theorem exec_fenceSignalApply_arrived {x : Signal} {t : List Signal} (hh : s.halted = false) (arrived : s.fu.inflight = x :: t)
    (serves : s.hmSilent = false) :
    exec .fenceSignalApply s = .next ((((s.takeSignal x t).applySignal x.fon x.value x.err).settle).reapFence x.fon) := by
  show execFenceSignalApply s = _
  rw [execFenceSignalApply, State.clocked_run _ _ hh]
  simp only [arrived]
  rw [if_neg (by simp [serves])]

/-- A fence with the value and the error state of a signal ahead of it. -/
def signalled (v : Word) (err : Bool) (f : Fence) : Fence :=
  { f with errFloor := if err && !f.error then f.value else f.errFloor, error := f.error || err, value := v }

variable {fon : Nat} {v : Word} {f : Fence} (found : (s.touchFence fon).fence fon = some f)
include found

theorem applySignal_ahead (err : Bool) (stands : f.abandoned = false) (changes : v ≠ f.value) (ahead : (v - f.value).toNat < 2 ^ 63) :
    s.applySignal fon v err = (((s.touchFence fon).putFence fon (signalled v err f)).writeMirrors fon).releaseWaits fon := by
  simp only [State.applySignal, found]
  rw [if_neg (by simp [stands]), if_neg changes, if_neg (Nat.not_le.2 ahead), signalled]

/-- A value behind the fence differs from the fence's value, so it is stale like any signal of an abandoned fence. -/
theorem applySignal_stale (err : Bool) (stale : f.abandoned = true ∨ 2 ^ 63 ≤ (v - f.value).toNat) :
    s.applySignal fon v err = (s.touchFence fon).staleSignal fon v f.value := by
  simp only [State.applySignal, found]
  by_cases abandoned : f.abandoned = true
  · rw [if_pos abandoned]
  · have behind := stale.resolve_left abandoned
    have differs : v ≠ f.value := by
      rintro rfl
      simp at behind
    rw [if_neg abandoned, if_neg differs, if_pos behind]

end

/-! HM_FENCE_EVICT and wait cycles (R310, R313–R315, R326) -/

section
variable {s : State} {m : Master} {v : Word} (hh : s.halted = false)
include hh

theorem exec_hmFenceEvict_cached (hm : m.privileged = true) (cached : bits v 0 24 ∈ s.fu.cache) :
    exec (.hmFenceEvict m v) s = .next (s.onFu fun u => { u with
      cache := u.cache.filter (· != bits v 0 24), cSpills := u.cSpills + 1 }) :=
  (clocked_privWrite_run hh hm (present_of_above s (by decide)) _).trans (congrArg _ (if_pos (by simpa using cached)))

/-- The members of a wait cycle are stamped with WAIT_CYCLE. -/
def cycleStamped (x : CycleResult) (s : State) : State :=
  foldState x.members (fun a l => (a.onLaunch l fun e => { e with
    status := some (worse e.status .waitCycle), state := .completing }).stamp l) s

/-- The members of a wait cycle are completed and counted. -/
def cycleCompleted (x : CycleResult) (s : State) : State :=
  (foldState x.members (fun a l => a.complete l) (cycleStamped x s)).onFu fun u => { u with
    cFound := u.cFound + 1, cMembers := u.cMembers + BitVec.ofNat 16 x.members.length }

/-- The identities of the members of a wait cycle. -/
def cycleIdents (s : State) (x : CycleResult) : List Nat := x.members.filterMap fun l => (s.launch l).map fun e => e.ident.toNat

omit hh in
theorem applyCycle_waiting {x : CycleResult} (waiting : ∀ l ∈ x.members, (s.launch l).map (·.state) = some .waiting) :
    s.applyCycle x = (cycleCompleted x s).eventAt x.tide 0x0400 0 0
      [w64 x.members.length, w64 ((cycleIdents s x).min?.getD 0)] := by
  refine if_neg ?_
  rw [Bool.not_eq_true', Bool.not_eq_false, List.all_eq_true]
  intro l hl
  obtain ⟨e, launched, waits⟩ := Option.map_eq_some_iff.1 (waiting l hl)
  simp [launched, waits]

/-- The result that was due is taken from the dependency unit. -/
def resultTaken (s : State) : State := s.onFu fun u => { u with result := none, resultDue := false }

theorem exec_waitCycleApply_due {x : CycleResult} (serves : s.hmSilent = false) (due : s.fu.resultDue = true)
    (result : s.fu.result = some x) :
    exec .waitCycleApply s = .next ((((resultTaken s).applyCycle x).settleLate).takeSnapshot) := by
  show execWaitCycleApply s = _
  rw [execWaitCycleApply, State.clocked_run _ _ hh, if_neg (by simp [serves])]
  simp only [due, result]
  rfl

/-- The identities that stand in the cycle buffer as the manager's answer. -/
def answeredIdents (s : State) (n : Nat) : List Word :=
  (List.range n).filterMap fun i => (s.word0 (s.fu.bufBase + 0xA0040 + 8 * i)).map (·.1)

/-- The entry of the candidate with an identity. -/
def candidateOf (s : State) (x : CycleSnap) (w : Word) : Option Nat :=
  (x.cands.find? fun c => match s.launch c.entry with | some e => e.ident == w | none => false).map (·.entry)

theorem exec_hmCycleAnswer_found {x : CycleSnap} {ms : List Nat} (hm : m.privileged = true) (inRange : bits v 0 14 ≤ 8192)
    (pending : s.fu.cyclePending = true) (snap : s.fu.snap = some x)
    (read : (answeredIdents s (bits v 0 14)).length = bits v 0 14) (sameTide : bits v 16 16 = bits x.tide 0 16)
    (found : (answeredIdents s (bits v 0 14)).map (candidateOf s x) = ms.map some) :
    exec (.hmCycleAnswer m v) s = .next (s.onFu fun u => { u with
      cyclePending := false, result := some ⟨x.tide, (x.cands.map (·.entry)).filter fun l => ms.contains l⟩ }) := by
  have answers : ¬ (bits v 16 16 ≠ bits x.tide 0 16 ∨ (answeredIdents s (bits v 0 14)).length ≠ bits v 0 14 ∨
      ((answeredIdents s (bits v 0 14)).map (candidateOf s x)).any (·.isNone) = true) := by
    simp [sameTide, read, found]
  have members (l : Nat) : ms.contains l = ((answeredIdents s (bits v 0 14)).map (candidateOf s x)).contains (some l) := by
    simp [found]
  refine (clocked_privWrite_run hh hm (present_of_above s (by decide)) _).trans (congrArg _ ?_)
  simp only [pending, snap, members]
  exact (if_neg (Nat.not_lt.2 inRange)).trans (if_neg answers)

end

/-! PATCH_APPLY (R322, R323) -/

/-- Handle of the graph that a patch manifest names. -/
def patchGraph (e : Launch) : Nat := bits (wordAt e.entry 6) 0 32

/-- Version that a patch is based on, 0 for whichever is current. -/
def patchBase (e : Launch) : Nat := bits (wordAt e.entry 6) 32 32

/-- Number of its patch entries. -/
def patchCount (e : Launch) : Nat := bits (wordAt e.entry 7) 0 5

/-- Patch entry `i` lies in a patchable range of a node that the graph has. -/
def patchFits (g : Graph) (e : Launch) (i : Nat) : Bool :=
  patchable (bits (wordAt e.entry (8 + 2 * i)) 16 11) (bits (wordAt e.entry (8 + 2 * i)) 32 4) &&
    decide (bits (wordAt e.entry (8 + 2 * i)) 0 10 < g.nodes)

/-- The slot that the next version goes to: the current version's unless a launch runs it, else one that is not live. -/
def patchSlot (s : State) (k : Nat) (g : Graph) : Option Nat :=
  if s.slotRun k g.curSlot then (List.range 4).find? fun i => !(s.liveSlots k g).contains i else some g.curSlot

/-- The patches are written into a slot, after a copy of the current version where it is another one. -/
def patchWritten (g : Graph) (d : Nat) (e : Launch) (s : State) : State :=
  (if d = g.curSlot then s else s.graphCopy g g.curSlot d).writePatches g d e

/-- The number after the current version's. -/
def nextVersion (g : Graph) : Nat := if g.curVersion = 0xFFFFFFFF then 1 else g.curVersion + 1

/-- The graph with its next version in a slot. -/
def advanced (s : State) (k : Nat) (g : Graph) (d : Nat) : Graph :=
  let old := if d = g.curSlot ∨ s.slotRun k g.curSlot then g.slotVersion else tabPut g.slotVersion g.curSlot 0
  { g with curVersion := nextVersion g, curSlot := d, slotVersion := tabPut old d (nextVersion g) }

/-- A graph enters the table in the place of its last version, and its header is written. -/
def graphPut (k : Nat) (g : Graph) (s : State) : State :=
  let s1 : State := { s with graphs := tabPut s.graphs k g }
  s1.graphWrite g 0 ((s1.graphHeader k g).flatMap wordBytes)

section
variable {s : State} {l : Nat} {e : Launch}

theorem exec_patchApply_first (hh : s.halted = false) (launched : s.launch l = some e) (patch : e.kind = 4) (ready : e.state = .ready)
    (serves : s.hmSilent = false)
    (first : ∀ x ∈ s.hm.launches, x.2.kind = 4 → x.2.state = .ready → e.readySeq ≤ x.2.readySeq) :
    exec (.patchApply l) s = .next (s.applyPatch l e) := by
  have noneBefore : (s.hm.launches.all fun x =>
      x.2.kind != 4 || x.2.state != .ready || decide (e.readySeq ≤ x.2.readySeq)) = true := by
    refine List.all_eq_true.2 fun x hx => ?_
    by_cases hk : x.2.kind = 4
    · by_cases hr : x.2.state = .ready
      · simp [first x hx hk hr]
      · simp [hr]
    · simp [hk]
  show execPatchApply l s = _
  rw [execPatchApply, State.clocked_run _ _ hh]
  simp only [launched]
  rw [if_pos ⟨patch, ready, noneBefore, by simp [serves]⟩]

theorem applyPatch_good {k d : Nat} {g : Graph} (graph : s.graphOf e.context (patchGraph e) = some (k, g))
    (stays : g.unregistering = false) (base : patchBase e = 0 ∨ patchBase e = g.curVersion)
    (fits : ∀ i < patchCount e, patchFits g e i = true) (slot : patchSlot s k g = some d)
    (clean : (patchWritten g d e s).imagePoisoned g d = false) (good : (patchWritten g d e s).imageOk g d = true) :
    s.applyPatch l e = (graphPut k (advanced s k g d) (patchWritten g d e s)).endPatch l .ok (BitVec.ofNat 32 (nextVersion g)) := by
  have allFit : (List.range (patchCount e)).all (patchFits g e) = true :=
    List.all_eq_true.2 fun i hi => fits i (List.mem_range.1 hi)
  have takes : ¬ (g.unregistering = true ∨ (patchBase e ≠ 0 ∧ patchBase e ≠ g.curVersion) ∨
      (!(List.range (patchCount e)).all (patchFits g e)) = true) := by
    rintro (leaves | ⟨h0, hv⟩ | unfit)
    · simp [stays] at leaves
    · exact base.elim h0 hv
    · simp [allFit] at unfit
  have sound : ¬ (!(patchWritten g d e s).imageOk g d) = true := by simp [good]
  unfold patchGraph at graph
  unfold patchSlot at slot
  simp only [State.applyPatch, graph]
  refine (if_neg takes).trans ?_
  simp only [slot]
  exact (if_neg (Bool.eq_false_iff.1 clean)).trans (if_neg sound)

end

/-- Settles O28: a signal by where its value lies, and one law per other command. -/
theorem fenceCycleAndPatchCommands : Obligations.FenceCycleAndPatchCommands := by
  refine fun s hh => ⟨?signal, fun m v => exec_hmFenceEvict_cached hh, ?cycle, ?answer, ?patch⟩
  case signal =>
    intro x t f arrived serves s0 found
    refine ⟨fun stands changes ahead => ?_, fun stale => ?_⟩
    · rw [exec_fenceSignalApply_arrived hh arrived serves, applySignal_ahead found x.err stands changes ahead]
      rfl
    · rw [exec_fenceSignalApply_arrived hh arrived serves, applySignal_stale found x.err stale]
  case cycle =>
    intro x serves due result waiting
    rw [exec_waitCycleApply_due hh serves due result, applyCycle_waiting (s := resultTaken s) waiting]
    rfl
  case answer =>
    rintro m v x ids ms hm inRange pending snap rfl read sameTide found
    exact exec_hmCycleAnswer_found hh hm inRange pending snap read sameTide found
  case patch =>
    intro l e k g d launched patch ready serves first graph stays base fits slot s2 clean good
    have entriesFit (i : Nat) (hi : i < patchCount e) : patchFits g e i = true := by
      obtain ⟨inside, node⟩ := fits i hi
      simp [patchFits, inside, node]
    rw [exec_patchApply_first hh launched patch ready serves first, applyPatch_good graph stays base entriesFit slot clean good]
    rfl

end Sys2Proof.Proofs
end

section
/-! SUPPORT. The statement of 14_shomea_links_and_pools on the requests, messages and signals that come from another node. -/
namespace Sys2Proof.Proofs
open Sys2Proof Sys2Proof.Machine Sys2Proof.Laws

/-! READ, WRITE and ATOMIC (R455, R460, R471). A target in channels has no bytes near by, so the law of each command for a hold or a
local store asks only for those. -/

section
variable {s0 a b : State} {status : Nat} (hh : s0.halted = false)
include hh

theorem clocked_refused (refused : status ≠ 0) : s0.clocked (if status ≠ 0 then a else b) = .next a := by
  rw [State.clocked_run _ _ hh, if_pos refused]

theorem clocked_allowed (allowed : status = 0) : s0.clocked (if status ≠ 0 then a else b) = .next b := by
  rw [State.clocked_run _ _ hh, if_neg (not_not.2 allowed)]

end

section
variable {s0 s : State} {n : Nat} {t : TxnIn} (hh : s0.halted = false) (spanned : s0.spanRead t.spanId = s)
include hh spanned

theorem exec_read_refused (refused : s.remoteStatus t t.len false true ≠ 0) :
    exec (.read n t) s0 = .next (s.respond n 3 t (s.remoteStatus t t.len false true) []) := by
  subst spanned
  exact clocked_refused hh refused

theorem exec_write_refused (d : List Byte) (p : List Nat) (refused : s.remoteStatus t t.len true false ≠ 0) :
    exec (.write n t d p) s0 = .next (s.respond n 4 t (s.remoteStatus t t.len true false) []) := by
  subst spanned
  exact clocked_refused hh refused

theorem exec_atomic_refused {a : AtomicOp} (refused : s.remoteStatus t (atomicWidth a) true false ≠ 0) :
    exec (.atomic n t a) s0 = .next (s.respond n 5 t (s.remoteStatus t (atomicWidth a) true false) []) := by
  subst spanned
  exact clocked_refused hh refused

section
variable (allowed : s.remoteStatus t t.len false true = 0)
include allowed

theorem exec_read_channels {ps : List Piece} (target : s.remoteTarget t t.len false = .hbm ps) :
    exec (.read n t) s0 = .next ((s.readEffects ps).respond n 3 t 0
      ((granulesOf ps).map fun q => (s.hbmBytes q.ch q.byte q.len, s.hbmPoison q.ch q.byte q.len))) := by
  subst spanned
  refine (clocked_allowed hh allowed).trans (congrArg _ ?_)
  simp only [target, State.readThrough]

theorem exec_read_near {b : Beats} (near : s.nearRead (s.remoteTarget t t.len false) t.len = some b) :
    exec (.read n t) s0 = .next (s.respond n 3 t 0 b) := by
  subst spanned
  refine (clocked_allowed hh allowed).trans (congrArg _ ?_)
  split
  · next ps target => simp [target, State.nearRead] at near
  · simp only [near]

end

section
variable (allowed : s.remoteStatus t t.len true false = 0) (d : List Byte) (p : List Nat)
include allowed

theorem exec_write_channels {ps : List Piece} (target : s.remoteTarget t t.len true = .hbm ps) :
    exec (.write n t d p) s0 = .next
      ((s.writeThrough ps (beatsOf ((d ++ List.replicate t.len 0).take t.len) p)).respond n 4 t 0 []) := by
  subst spanned
  refine (clocked_allowed hh allowed).trans (congrArg _ ?_)
  simp only [target]

theorem exec_write_near {s1 : State} (near : s.nearWrite (s.remoteTarget t t.len true)
      (beatsOf ((d ++ List.replicate t.len 0).take t.len) p) = some s1) :
    exec (.write n t d p) s0 = .next (s1.respond n 4 t 0 []) := by
  subst spanned
  refine (clocked_allowed hh allowed).trans (congrArg _ ?_)
  split
  · next ps target => simp [target, State.nearWrite] at near
  · simp only [near]

end

section
variable {a : AtomicOp} (allowed : s.remoteStatus t (atomicWidth a) true false = 0)
include allowed

theorem exec_atomic_channels {x : Piece} {ps : List Piece} (target : s.remoteTarget t (atomicWidth a) true = .hbm (x :: ps)) :
    exec (.atomic n t a) s0 = .next ((s.serveAtomic x.ch x.byte a).2.respond n 5 t 0 [(s.serveAtomic x.ch x.byte a).1]) := by
  subst spanned
  refine (clocked_allowed hh allowed).trans (congrArg _ ?_)
  simp only [target]

theorem exec_atomic_near {x : Beats × State}
    (near : s.nearAtomic (s.remoteTarget t (atomicWidth a) true) (atomicWidth a) a = some x) :
    exec (.atomic n t a) s0 = .next (x.2.respond n 5 t 0 x.1) := by
  subst spanned
  refine (clocked_allowed hh allowed).trans (congrArg _ ?_)
  split
  · next p ps target => simp [target, State.nearAtomic, State.nearRead] at near
  · simp only [near]

end

end

/-! MESSAGE and SIGNAL (R302, R307, R338, R455, R467, R495) -/

section
variable {s : State} {n : Nat} (hh : s.halted = false)
include hh

theorem exec_message_ownership (ws : List Word) : exec (.message n 0xFF00 ws) s = .next (s.rxOwn n (ownOfWords ws)) := by
  show execMessage n 0xFF00 ws s = _
  rw [execMessage, State.clocked_run _ _ hh, if_pos rfl]

section
variable {b : Nat} (ws : List Word) (other : b ≠ 0xFF00)
include other

theorem exec_message_counts (counts : b = Config.messageBox 0 % 65536) : exec (.message n b ws) s = .next (s.takeCounts n ws) := by
  show execMessage n b ws s = _
  rw [execMessage, State.clocked_run _ _ hh, if_neg other, if_pos counts]

theorem exec_message_mailbox (mailbox : b ≠ Config.messageBox 0 % 65536) :
    exec (.message n b ws) s = .next (s.onLk fun x => { x with mailbox := x.mailbox ++ [(b, ws)] }) := by
  show execMessage n b ws s = _
  rw [execMessage, State.clocked_run _ _ hh, if_neg other, if_neg mailbox]

end

theorem exec_signal_open {hd : Word32} {c : Nat} {x : FenceEnt} {f : Fence} (v : Word) (err : Bool) (entry : s.fenceEnt c hd = some x)
    (fence : s.fence x.fon = some f) (signals : x.signal = true) (isOpen : f.closed = false) :
    exec (.signal n (.fence hd c v err)) s = .next (s.onFu fun q => { q with
      inflight := q.inflight ++ [{ fon := x.fon, value := v, err := err }] }) := by
  show execSignal n (.fence hd c v err) s = _
  rw [execSignal, State.clocked_run _ _ hh]
  simp only [entry, fence]
  rw [if_pos (by simp [signals, isOpen])]

theorem exec_signal_allow (f : Nat) :
    exec (.signal n (.allow f)) s = .next (s.onLk fun x => { x with slaveAllow := tabPut x.slaveAllow n f }) :=
  State.clocked_run _ _ hh

end

/-- Settles O39: each request is refused, or served in channels or near by; one law per kind of message and signal. -/
theorem remoteRequests : Obligations.RemoteRequests := by
  refine fun n s0 hh => ⟨fun t => ⟨exec_read_refused hh rfl, fun d p => exec_write_refused hh rfl d p, fun a => exec_atomic_refused hh rfl,
      fun allowed => ⟨fun ps => exec_read_channels hh rfl allowed, ?read⟩,
      fun d p allowed => ⟨fun ps => exec_write_channels hh rfl allowed d p, ?write⟩,
      fun a allowed => ⟨fun x ps => exec_atomic_channels hh rfl allowed, ?atomic⟩⟩,
    fun b ws other => exec_message_mailbox hh ws other, exec_message_ownership hh, fun b ws other => exec_message_counts hh ws other,
    fun hd c v err x f => exec_signal_open hh v err, exec_signal_allow hh⟩
  case read =>
    rintro y b rfl - near
    exact exec_read_near hh rfl allowed near
  case write =>
    rintro y s1 rfl - near
    exact exec_write_near hh rfl allowed d p near
  case atomic =>
    rintro y x rfl - near
    exact exec_atomic_near hh rfl allowed near

end Sys2Proof.Proofs
end

section
/-! SUPPORT. The statement of 18_host_interface on Eweas commands for mappings, apertures and fences. -/
namespace Sys2Proof.Proofs
open Sys2Proof Sys2Proof.Machine Sys2Proof.Laws

/-! Commands that answer a new handle or token, or NO_RESOURCE (R574, R576) -/

/-- The reply that names a new handle or token, or says that none is left. -/
def answerNew : Option (Nat × State) → Reply
  | some (h, s1) => .ok [w64 h] s1
  | none => .refuse 3

section
variable {s : State} {c : EwCmd} {op : Nat} {run : EwCmd → State → Reply} (submits : Submits s c)
include submits

theorem clocked_command_refuse {r : Nat} (replies : run c (s.taken op c) = .refuse r) :
    s.clocked (s.command op run c) = .next ((s.taken op c).pageDone c.func (if r = 7 then 10 else 4) r []) := by
  obtain ⟨heard, free⟩ := submits_guards submits
  rw [State.clocked_run _ _ (halted_of_submits submits), State.command, if_neg heard, if_neg free]
  simp only [replies]

theorem clocked_command_new {r : Option (Nat × State)} (replies : run c (s.taken op c) = answerNew r) :
    (∀ h s1, r = some (h, s1) → s.clocked (s.command op run c) = .next (s1.pageDone c.func 0 0 [w64 h])) ∧
    (r = none → s.clocked (s.command op run c) = .next ((s.taken op c).pageDone c.func 4 3 [])) := by
  refine ⟨?_, ?_⟩
  · rintro h s1 rfl
    exact clocked_command_ok submits replies
  · rintro rfl
    exact clocked_command_refuse submits replies

end

/-! Mappings (R404, R410, R577, R580) -/

/-- What a mapping must not be: empty, not aligned to its page size, or beyond the addresses of its context. -/
def mappingMalformed (x : Ctx) (m : Mapping) (out : Nat) : Prop :=
  m.len = 0 ∨ m.va % pageBytes m.page ≠ 0 ∨ m.len % pageBytes m.page ≠ 0 ∨ out % pageBytes m.page ≠ 0 ∨ 2 ^ x.vaBits < m.va + m.len

/-- Some mapping of a context shares an address with another one. -/
def mappingMeets (x : Ctx) (m : Mapping) : Bool := x.maps.any fun y => decide (y.va < m.va + m.len ∧ m.va < y.va + y.len)

theorem mapOrRefuse_mapped {t s1 : State} {a out : Nat} {x : Ctx} {m : Mapping} (sound : ¬ mappingMalformed x m out)
    (apart : mappingMeets x m = false) (room : t.mapRange a m out = some s1) : t.mapOrRefuse a x m out = .ok [] s1 := by
  unfold mappingMeets at apart
  rw [State.mapOrRefuse]
  refine (if_neg sound).trans ?_
  simp only [apart, room]
  rfl

theorem withHandle_names {x : Ctx} {h i o : Nat} {y : Handle} (handle : x.handle h = some (i, y)) (names : y.obj = some o)
    (f : Nat → Handle → Nat → Reply) : withHandle x h f = f i y o := by
  simp only [withHandle, handle, names]

section
variable {t : State} {c : EwCmd} {x : Ctx} (owns : Owns t c x)
include owns

/-- The mapping that MAP asks for, of a handle of the context. -/
def askedMap (c : EwCmd) (i o r page : Nat) : Mapping :=
  { va := c.arg 2, len := c.arg 5, handle := some i, obj := some o, off := c.arg 4, page := page, rights := r }

/-- The mapping of host addresses that MAP_HOST asks for. -/
def askedHostMap (c : EwCmd) (r page : Nat) : Mapping :=
  { va := c.arg 2, len := c.arg 4, handle := none, obj := none, off := 0, page := page, rights := r }

theorem ewMap_mapped {i o r page : Nat} {y : Handle} {z : MemObj} {s1 : State} (handle : x.handle (c.arg 3) = some (i, y))
    (names : y.obj = some o) (flags : mapFlags (c.arg 6) = some (r, page)) (obj : tabFind t.hif.objs o = some z)
    (rights : r &&& y.rights = r) (fits : c.arg 4 + c.arg 5 ≤ z.len)
    (sound : ¬ mappingMalformed x (askedMap c i o r page) (t.lk.nodeId * 2 ^ 52 + z.addr + c.arg 4))
    (apart : mappingMeets x (askedMap c i o r page) = false)
    (room : t.mapRange (c.arg 1) (askedMap c i o r page) (t.lk.nodeId * 2 ^ 52 + z.addr + c.arg 4) = some s1) :
    ewMap c t = .ok [] s1 := by
  rw [ewMap, ownerOf_owns owns, withHandle_names handle names]
  simp only [flags, obj]
  rw [if_neg (by simp [rights, fits])]
  exact mapOrRefuse_mapped sound apart room

theorem ewMapHost_mapped {r page : Nat} {s1 : State} (flags : mapFlags (c.arg 5) = some (r, page)) (inHost : c.arg 3 + c.arg 4 ≤ 2 ^ 48)
    (sound : ¬ mappingMalformed x (askedHostMap c r page) (t.lk.nodeId * 2 ^ 52 + 7 * 2 ^ 48 + c.arg 3))
    (apart : mappingMeets x (askedHostMap c r page) = false)
    (room : t.mapRange (c.arg 1) (askedHostMap c r page) (t.lk.nodeId * 2 ^ 52 + 7 * 2 ^ 48 + c.arg 3) = some s1) :
    ewMapHost c t = .ok [] s1 := by
  rw [ewMapHost, ownerOf_owns owns]
  simp only [flags]
  rw [if_neg (Nat.not_lt.2 inHost)]
  exact mapOrRefuse_mapped sound apart room

theorem ewUnmap_whole (whole : ¬ (c.arg 2 % 4096 ≠ 0 ∨ c.arg 3 % 4096 ≠ 0 ∨ c.arg 3 = 0 ∨ 2 ^ x.vaBits < c.arg 2 + c.arg 3 ∨
      x.cuts (c.arg 2) (c.arg 3) = true)) :
    ewUnmap c t = .wait (.inval x.harbour { scope := 0, asid := c.arg 1, va := c.arg 2, pages := c.arg 3 / 4096 })
      (t.unmapRange (c.arg 1) (c.arg 2) (c.arg 3) fun _ => true) := by
  rw [ewUnmap, ownerOf_owns owns]
  exact if_neg whole

/-! Apertures of BAR2 (R568, R577) -/

section
variable {i o : Nat} {y : Handle} (handle : x.handle (c.arg 2) = some (i, y)) (names : y.obj = some o) (aligned : c.arg 3 % 2097152 = 0)
include handle names aligned

theorem ewBarMap_unmaps (count : c.arg 5 = 0) :
    ewBarMap c t = .ok [] (t.putApertures (t.hif.apertures.filter fun p =>
      !(p.1 / 2 ^ 17 == x.func && p.2.1 == c.arg 1 && p.2.2.1 == i))) := by
  rw [ewBarMap, ownerOf_owns owns, withHandle_names handle names]
  exact (if_neg (not_not.2 aligned)).trans (if_pos count)

theorem ewBarMap_maps (count : c.arg 5 ≠ 0) (inBar : (c.arg 4 + c.arg 5) * 2097152 ≤ t.bar2Size x.func) :
    ewBarMap c t = .ok [] (t.putApertures ((List.range (c.arg 5)).foldl (fun a j =>
      tabPut a (x.func * 2 ^ 17 + c.arg 4 + j) (c.arg 1, i, o, c.arg 3 + j * 2097152)) t.hif.apertures)) := by
  rw [ewBarMap, ownerOf_owns owns, withHandle_names handle names]
  exact (if_neg (not_not.2 aligned)).trans <| (if_neg count).trans <| if_neg (Nat.not_lt.2 inBar)

end

/-! Fences (R298–R301, R303, R581) -/

/-- The fence that FENCE_CREATE asks for is closed. -/
def askedClosed (c : EwCmd) : Bool := c.arg 2 % 2 == 1

/-- The berths that FENCE_CREATE names as signallers, by their place in the signaller word. -/
def askedSignallers (c : EwCmd) : Tab Nat :=
  ((List.range 4).filter fun j => bitsN (c.arg 2) (4 + j) 1 == 1).map fun j => (j, bitsN (c.arg 3) (13 * j) 13)

/-- A berth is enabled and SERIAL, of the context that a command names. -/
def serialBerth (t : State) (c : EwCmd) (b : Nat) : Bool := (t.berth b).enable && (t.berth b).context == c.arg 1 && (t.berth b).serial

/-- The lowest free number of the fence store. -/
def freeFence (t : State) : Nat := lowestFree (2 ^ t.fu.storeLog2) fun f => (t.fence f).isSome

/-- The fence that FENCE_CREATE stores. -/
def newFence (c : EwCmd) (x : Ctx) : Fence :=
  { value := wordAt c.args 3, closed := askedClosed c, harbour := x.harbour, owner := c.arg 1, refs := 1
    signallers := if askedClosed c then askedSignallers c else [] }

theorem ewFenceCreate_valid (sound : ¬ (256 ≤ c.arg 2 ∨ bitsN (c.arg 2) 1 3 ≠ 0 ∨ 2 ^ 52 ≤ c.arg 3 ∨
      (askedClosed c = true ∧ (askedSignallers c).isEmpty = true) ∨ (!t.mirrorOk (c.arg 1) (c.arg 5)) = true))
    (signallers : askedClosed c = true → ((askedSignallers c).all fun b => serialBerth t c b.2) = true)
    (room : freeFence t < 2 ^ t.fu.storeLog2) :
    ewFenceCreate c t = answerNew ((t.putFence (freeFence t) (newFence c x)).newFenceEnt (c.arg 1)
      { fon := freeFence t, wait := true, signal := true, mirrorVa := c.arg 5 }) := by
  have mine : ¬ (askedClosed c = true ∧ (!(askedSignallers c).all fun b => serialBerth t c b.2) = true) := by
    rintro ⟨closed, other⟩
    rw [signallers closed] at other
    exact absurd other (by decide)
  rw [ewFenceCreate, ownerOf_owns owns]
  exact (if_neg sound).trans <| (if_neg mine).trans <| if_neg (Nat.not_le.2 room)

section
variable {k : Nat} {e : FenceEnt} (entry : t.fenceKey (c.arg 1) (c.arg 2) = some (k, e))
include entry

theorem ewFenceExport_allowed (inRange : c.arg 3 < 4) (waits : (c.arg 3 % 2 == 1) = true → e.wait = true)
    (signals : (c.arg 3 / 2 % 2 == 1) = true → e.signal = true) :
    ewFenceExport c t = answerNew (t.newToken (.fence e.fon (c.arg 3 % 2 == 1) (c.arg 3 / 2 % 2 == 1))) := by
  have held : ¬ (4 ≤ c.arg 3 ∨ ((c.arg 3 % 2 == 1) = true ∧ (!e.wait) = true) ∨ ((c.arg 3 / 2 % 2 == 1) = true ∧ (!e.signal) = true)) := by
    rintro (beyond | ⟨w, lacks⟩ | ⟨g, lacks⟩)
    · omega
    · simp [waits w] at lacks
    · simp [signals g] at lacks
  rw [ewFenceExport, ownerOf_owns owns]
  simp only [entry]
  exact if_neg held

theorem ewFenceDestroy_held : ewFenceDestroy c t = .ok [] (t.dropFenceEnt k e) := by
  rw [ewFenceDestroy, ownerOf_owns owns]
  simp only [entry]

theorem ewFenceMirror_valid (mirror : t.mirrorOk (c.arg 1) (c.arg 3) = true) :
    ewFenceMirror c t = .ok [] (t.onFu fun u => { u with space := tabPut u.space k { e with mirrorVa := c.arg 3 } }) := by
  rw [ewFenceMirror, ownerOf_owns owns]
  simp only [entry]
  rw [if_neg (by simp [mirror])]

end

theorem ewFenceImport_exported {fon : Nat} {w g : Bool} {f : Fence} (token : t.token (c.arg 2) = some (.fence fon w g))
    (fence : t.fence fon = some f) :
    ewFenceImport c t = answerNew ((t.putFence fon { f with refs := f.refs + 1 }).newFenceEnt (c.arg 1)
      { fon := fon, wait := w, signal := g }) := by
  rw [ewFenceImport, ownerOf_owns owns]
  simp only [token, fence]
  rfl

end

/-- Settles O59: each command by what its submission answers, and the reply that its meaning gives. -/
theorem eweasMappingsAndFences : Obligations.EweasMappingsAndFences := by
  intro c x s hf hr hl hb ctx passes stands
  have submits : Submits s c := ⟨hf, hr, hl, hb⟩
  have owns (op : Nat) : Owns (s.taken op c) c x := Owns.taken ⟨ctx, passes, stands⟩ op
  refine ⟨fun i y o r page z s1 handle names flags obj rights fits => ?map, fun r page s1 flags inHost => ?mapHost,
    fun whole => clocked_command_wait submits (ewUnmap_whole (owns 0x0B) whole),
    fun i y o handle names aligned => ⟨fun count => ?unmaps, fun count inBar => ?maps⟩, ?create, fun k e entry => ⟨?exported, ?destroy, ?mirror⟩,
    fun fon w g f token fence => ?imported⟩
  case map =>
    intro m out sound apart room
    exact clocked_command_ok submits (ewMap_mapped (owns 0x09) handle names flags obj rights fits sound apart room)
  case mapHost =>
    intro m out sound apart room
    exact clocked_command_ok submits (ewMapHost_mapped (owns 0x0A) flags inHost sound apart room)
  case unmaps => exact clocked_command_ok submits (ewBarMap_unmaps (owns 0x0C) handle names aligned count)
  case maps => exact clocked_command_ok submits (ewBarMap_maps (owns 0x0C) handle names aligned count inBar)
  case create =>
    intro t closed sbs mine fon f r sound signallers room
    exact clocked_command_new submits (ewFenceCreate_valid (owns 0x10) sound signallers room)
  case exported =>
    intro w g z inRange waits signals
    exact clocked_command_new submits (ewFenceExport_allowed (owns 0x11) entry inRange waits signals)
  case destroy => exact clocked_command_ok submits (ewFenceDestroy_held (owns 0x13) entry)
  case mirror =>
    intro mirror
    exact clocked_command_ok submits (ewFenceMirror_valid (owns 0x14) entry mirror)
  case imported => exact clocked_command_new submits (ewFenceImport_exported (owns 0x12) token fence)

end Sys2Proof.Proofs
end

section
/-! SUPPORT. The statement of 11_memory on what a channel reads after writes and clears. -/
namespace Sys2Proof.Proofs
open Sys2Proof Sys2Proof.Machine Sys2Proof.Laws

/-! Reads of an array that holds no symbol error (R370, R374, R375) -/

section
variable {s : State}

theorem hbmByte_of_undamaged (h : s.mem.damage = []) (c b : Nat) : s.hbmByte c b = s.storedByte c b :=
  if_neg (by simp [beyond_of_undamaged h])

theorem storedByte_of_absent {c b : Nat} (absent : tabGet 0 s.mem.bytes (byteKey c b) = 0) : s.storedByte c b = 0 := by
  rw [State.storedByte, absent, ite_self]

theorem tabGet_of_noCell {t : List Host.Cell} {k : Nat} (noCell : ∀ v, (k, v) ∉ t) : tabGet 0 t k = 0 := by
  cases hf : tabFind t k with
  | none => simp [tabGet, hf]
  | some v => exact absurd (tabFind_mem t k v hf) (noCell v)

/-! A store, by whether the byte lies in its range (R376, R380, R522) -/

theorem hbmStore_bytes {c b : Nat} {data : List Byte} {p : Bool} (live : (s.chan c).retired = false) :
    (s.hbmStore c b data p).mem.bytes = putBytes s.mem.bytes (byteKey c b) data := by
  cases data with
  | nil => rw [hbmStore_discarded (.inl rfl), putBytes]
  | cons x xs =>
    rw [State.hbmStore, if_neg (by simp [live])]
    dsimp only
    split <;> rfl

/-- What a store does to the registers of a channel leaves the retirement of every channel. -/
theorem hbmStore_retired (c b : Nat) (data : List Byte) (p : Bool) (a : Nat) :
    ((s.hbmStore c b data p).chan a).retired = (s.chan a).retired := by
  unfold State.hbmStore
  dsimp only
  split
  · rfl
  · split
    · rfl
    · by_cases ha : a = c
      · subst ha
        rw [State.chan_onChan]
        rfl
      · rw [State.chan_onChan_other _ _ _ _ ha]
        rfl

theorem storedByte_hbmStore {c b : Nat} {data : List Byte} {p : Bool} (live : (s.chan c).retired = false) (c' b' : Nat) :
    (s.hbmStore c b data p).storedByte c' b' =
      if (s.chan c').retired then 0 else tabGet 0 (putBytes s.mem.bytes (byteKey c b) data) (byteKey c' b') := by
  rw [State.storedByte, hbmStore_retired, hbmStore_bytes live]

theorem storedByte_hbmStore_inside {c b : Nat} {data : List Byte} {p : Bool} (wf : Memory.wf s.mem)
    (live : (s.chan c).retired = false) {i : Nat} (hi : i < data.length) :
    (s.hbmStore c b data p).storedByte c (b + i) = data[i] := by
  have key : byteKey c (b + i) = byteKey c b + i := by simp only [byteKey]; omega
  rw [storedByte_hbmStore live, if_neg (by simp [live]), key, putBytes_same data s.mem.bytes _ i hi wf.1]

theorem storedByte_hbmStore_outside {c b : Nat} {data : List Byte} {p : Bool} (live : (s.chan c).retired = false) {c' b' : Nat}
    (outside : byteKey c' b' < byteKey c b ∨ byteKey c b + data.length ≤ byteKey c' b') :
    (s.hbmStore c b data p).storedByte c' b' = s.storedByte c' b' := by
  rw [storedByte_hbmStore live, putBytes_other data s.mem.bytes _ _ outside, State.storedByte]

/-- The same range of two channels never meets. -/
theorem byteKey_outside_otherChannel {c d b n i : Nat} (other : c ≠ d) (fits : b + n ≤ 2147483648) (hi : i < n) :
    byteKey c (b + i) < byteKey d b ∨ byteKey d b + n ≤ byteKey c (b + i) := by
  simp only [byteKey]
  omega

/-! A write, alone and through to the destination of a TRANSFER (R348, R380) -/

theorem hbmPut_eq_hbmStore (undamaged : s.mem.damage = []) {c b : Nat} {data : List Byte} {p : Bool} (alone : s.throughTo c b = none) :
    s.hbmPut c b data p = s.hbmStore c b data p := by
  rw [hbmPut_eq_storeThrough undamaged, State.storeThrough, alone]
  rfl

theorem hbmPut_eq_hbmStore_both (undamaged : s.mem.damage = []) {c b d : Nat} {data : List Byte} {p : Bool}
    (live : (s.chan c).retired = false) (through : s.throughTo c b = some d) :
    s.hbmPut c b data p = (s.hbmStore c b data p).hbmStore d b data p := by
  rw [hbmPut_eq_storeThrough undamaged, State.storeThrough, through]
  simp [live, Option.filter]

theorem hbmByte_hbmPut (undamaged : s.mem.damage = []) (c b : Nat) (data : List Byte) (p : Bool) (c' b' : Nat) :
    (s.hbmPut c b data p).hbmByte c' b' = (s.hbmPut c b data p).storedByte c' b' :=
  hbmByte_of_undamaged (by rw [hbmPut_eq_storeThrough undamaged]; exact storeThrough_damage undamaged c b data p) c' b'

section
variable {c b d : Nat} {data : List Byte} {p : Bool} (undamaged : s.mem.damage = []) (live : (s.chan c).retired = false)
include undamaged live

theorem hbmByte_hbmPut_alone_inside (wf : Memory.wf s.mem) (alone : s.throughTo c b = none) {i : Nat} (hi : i < data.length) :
    (s.hbmPut c b data p).hbmByte c (b + i) = data[i] := by
  rw [hbmByte_hbmPut undamaged, hbmPut_eq_hbmStore undamaged alone, storedByte_hbmStore_inside wf live hi]

theorem hbmByte_hbmPut_alone_outside (alone : s.throughTo c b = none) {c' b' : Nat}
    (outside : byteKey c' b' < byteKey c b ∨ byteKey c b + data.length ≤ byteKey c' b') :
    (s.hbmPut c b data p).hbmByte c' b' = s.hbmByte c' b' := by
  rw [hbmByte_hbmPut undamaged, hbmPut_eq_hbmStore undamaged alone, storedByte_hbmStore_outside live outside,
    hbmByte_of_undamaged undamaged]

section
variable (through : s.throughTo c b = some d) (liveDst : (s.chan d).retired = false)
include through liveDst

theorem hbmByte_hbmPut_source (wf : Memory.wf s.mem) (other : c ≠ d) (fits : b + data.length ≤ 2147483648) {i : Nat}
    (hi : i < data.length) : (s.hbmPut c b data p).hbmByte c (b + i) = data[i] := by
  have liveDst' : ((s.hbmStore c b data p).chan d).retired = false := (hbmStore_retired c b data p d).trans liveDst
  rw [hbmByte_hbmPut undamaged, hbmPut_eq_hbmStore_both undamaged live through,
    storedByte_hbmStore_outside liveDst' (byteKey_outside_otherChannel other fits hi), storedByte_hbmStore_inside wf live hi]

theorem hbmByte_hbmPut_destination (wf : Memory.wf s.mem) {i : Nat} (hi : i < data.length) :
    (s.hbmPut c b data p).hbmByte d (b + i) = data[i] := by
  have liveDst' : ((s.hbmStore c b data p).chan d).retired = false := (hbmStore_retired c b data p d).trans liveDst
  rw [hbmByte_hbmPut undamaged, hbmPut_eq_hbmStore_both undamaged live through,
    storedByte_hbmStore_inside (hbmStore_wf c b data p s wf) liveDst' hi]

theorem hbmByte_hbmPut_through_outside {c' b' : Nat}
    (outsideSrc : byteKey c' b' < byteKey c b ∨ byteKey c b + data.length ≤ byteKey c' b')
    (outsideDst : byteKey c' b' < byteKey d b ∨ byteKey d b + data.length ≤ byteKey c' b') :
    (s.hbmPut c b data p).hbmByte c' b' = s.hbmByte c' b' := by
  have liveDst' : ((s.hbmStore c b data p).chan d).retired = false := (hbmStore_retired c b data p d).trans liveDst
  rw [hbmByte_hbmPut undamaged, hbmPut_eq_hbmStore_both undamaged live through, storedByte_hbmStore_outside liveDst' outsideDst,
    storedByte_hbmStore_outside live outsideSrc, hbmByte_of_undamaged undamaged]

end

end

/-! A clear, and granules that are not written (R375, R376) -/

theorem hbmClear_damage (undamaged : s.mem.damage = []) (c b n : Nat) : (s.hbmClear c b n).mem.damage = [] := by
  unfold State.hbmClear
  dsimp only
  split <;> simp [undamaged]

theorem hbmClear_bytes (c b n : Nat) : (s.hbmClear c b n).mem.bytes =
    s.mem.bytes.filter fun x => decide (x.1 < byteKey c b / 64 * 64 ∨ (byteKey c b + n + 63) / 64 * 64 ≤ x.1) := by
  unfold State.hbmClear
  dsimp only
  split <;> rfl

theorem hbmByte_hbmClear (undamaged : s.mem.damage = []) {c b n i : Nat} (hi : i < n) : (s.hbmClear c b n).hbmByte c (b + i) = 0 := by
  rw [hbmByte_of_undamaged (hbmClear_damage undamaged c b n)]
  refine storedByte_of_absent (tabGet_of_noCell fun v => ?_)
  have inside : ¬ (byteKey c (b + i) < byteKey c b / 64 * 64 ∨ (byteKey c b + n + 63) / 64 * 64 ≤ byteKey c (b + i)) := by
    simp only [byteKey]
    omega
  simp [hbmClear_bytes, inside]

section
variable (wf : Memory.wf s.mem) {c b : Nat} (unwritten : granule c b ∉ s.mem.written)
include wf unwritten

theorem storedByte_unwritten : s.storedByte c b = 0 := by
  obtain ⟨_, _, _, bytesWritten, _⟩ := wf
  exact storedByte_of_absent (tabGet_of_noCell fun v cell => unwritten (bytesWritten _ cell))

theorem storedPoison_unwritten (live : (s.chan c).retired = false) : s.storedPoison c b 1 = false := by
  obtain ⟨_, _, _, _, poisonWritten⟩ := wf
  have clean : ∀ g ∈ s.mem.poison, ¬ (g * 64 < byteKey c b + 1 ∧ byteKey c b < g * 64 + 64) := fun g hg covers =>
    unwritten ((show g = granule c b by unfold granule; omega) ▸ poisonWritten g hg)
  simpa [State.storedPoison, live] using clean

end

theorem hbmPoison_of_undamaged (undamaged : s.mem.damage = []) (c b n : Nat) : s.hbmPoison c b n = s.storedPoison c b n := by
  simp [State.hbmPoison, beyond_of_undamaged undamaged]

end

/-- Settles O6: in an undamaged array a channel delivers the bytes it stores, so each clause is one of the laws of a store, a store in
both channels of a TRANSFER, a clear and an unwritten granule. -/
theorem hbmReadsAfterWrites : Obligations.HbmReadsAfterWrites := by
  refine fun s wf undamaged => ⟨fun c b data p live => ⟨fun alone => ⟨?inside, ?outside⟩,
    fun d through liveDst other fits => ⟨?both, ?outsideBoth⟩⟩,
    fun c b n i => hbmByte_hbmClear undamaged, fun c b unwritten => ⟨?zero, ?clean⟩⟩
  case inside => exact fun i => hbmByte_hbmPut_alone_inside undamaged live wf alone
  case outside => exact fun c' b' => hbmByte_hbmPut_alone_outside undamaged live alone
  case both =>
    exact fun i hi => ⟨hbmByte_hbmPut_source undamaged live through liveDst wf other fits hi,
      hbmByte_hbmPut_destination undamaged live through liveDst wf hi⟩
  case outsideBoth => exact fun c' b' => hbmByte_hbmPut_through_outside undamaged live through liveDst
  case zero => rw [hbmByte_of_undamaged undamaged, storedByte_unwritten wf unwritten]
  case clean => exact fun live => (hbmPoison_of_undamaged undamaged c b 1).trans (storedPoison_unwritten wf unwritten live)

end Sys2Proof.Proofs
end

section
/-! SUPPORT. The statements of 10_harbours on requests, their cancel and the steps before TRANSFER. -/
namespace Sys2Proof.Proofs
open Sys2Proof Sys2Proof.Machine Sys2Proof.Laws

/-! HB_CANCEL (R352, R355, R357, R358) -/

/-- HB_REQ and HB_CANCEL are registers of the module, which every part has (R5). -/
theorem harbourBlock_present (s : State) {o : Nat} (below : o < 0x190000) : s.absentUnit o = false := by
  simp only [State.absentUnit]
  rw [if_neg (by omega), if_neg (by omega), if_neg (by omega), if_neg (by omega), decide_eq_false (by omega), Bool.false_and]

section
variable {m : Master} {v : Word} {s : State} (hh : s.halted = false) (hm : m.privileged = true)
include hh hm

/-- A cancel is refused of an empty slot, and of a procedure at BUMP or later or whose BUMP is due. -/
theorem exec_hbCancel_refused (late : ∀ j, tabFind s.hb.journal (bits v 0 2) = some j → 5 ≤ j.step ∨ s.bumpDue j = true) :
    exec (.hbCancel m v) s = .next s.hbRefused := by
  show execHbCancel m v s = _
  rw [execHbCancel, clocked_privWrite_run hh hm (harbourBlock_present s (by decide))]
  cases found : tabFind s.hb.journal (bits v 0 2) with
  | none => rfl
  | some j =>
    have notBefore : ¬ (j.step < 5 ∧ (!s.bumpDue j) = true) := by
      rintro ⟨before, notDue⟩
      rcases late j found with atBump | due
      · omega
      · simp [due] at notDue
    exact congrArg _ (if_neg notBefore)

theorem exec_hbCancel_before {j : Proc} (found : tabFind s.hb.journal (bits v 0 2) = some j) (before : j.step < 5)
    (notDue : s.bumpDue j = false) : exec (.hbCancel m v) s = .next (s.rollback (bits v 0 2) 1 9).settle := by
  show execHbCancel m v s = _
  rw [execHbCancel, clocked_privWrite_run hh hm (harbourBlock_present s (by decide))]
  simp only [found]
  rw [if_pos ⟨before, by simp [notDue]⟩]

end

/-- What a rollback undoes of an entry: a destination that was copied to or ungated is zeroed, a draining place drains no more, a TRANSFER
of a channel ends (R355, R356). -/
def undoEntry (op : Nat) (a : State) (x : UnitEntry × ProcEntry) : State :=
  let a1 := if addsUnit op x.1 ∧ (x.2.xferPos ≠ 0 ∨ x.2.xferDone ∨ x.2.dstWasUngated ∨ !x.2.dstZeroed) then
    a.zeroUnit x.1.type x.1.dst else a
  let a2 := if takesUnit op x.1 ∧ x.1.type = 0 then a1.onPlace x.1.src fun p => { p with draining := false } else a1
  if x.1.type = 1 ∧ op = 3 then a2.endTransfer x.1.src x.1.dst else a2

/-- Every entry of a procedure has been undone, under BACK of the journal (R355). -/
def undone (slot : Nat) (j : Proc) (s : State) : State :=
  foldState j.rows (undoEntry j.op) (s.onProc slot fun y => { y with back := true })

theorem rollback_of_proc {slot status reason : Nat} {j : Proc} {s : State} (found : tabFind s.hb.journal slot = some j) :
    s.rollback slot status reason =
      ((((undone slot j s).procResult j.reqAddr status reason 0).journalClear slot).onHb fun m => { m with
        cRolledBack := m.cRolledBack + 1 }).procEvent 0x0501 j.harbour
          [w64 j.harbour, w64 j.op, wordAt j.request 1, w64 j.step, w64 reason] := by
  rw [State.rollback]
  simp only [found]
  rfl

/-- Settles O8: a cancel by where the slot's procedure stands, and the rollback written out entry by entry. -/
theorem cancelOfAProcedure : Obligations.CancelOfAProcedure := by
  refine fun m v s hh hm => ⟨fun j found before notDue => ?before, fun j found late => ?late, fun empty => ?empty⟩
  case before =>
    rw [exec_hbCancel_before hh hm found before notDue, rollback_of_proc found]
    rfl
  case late => exact exec_hbCancel_refused hh hm fun y hy => Option.some.inj (found.symm.trans hy) ▸ late
  case empty => exact exec_hbCancel_refused hh hm fun y hy => absurd (empty.symm.trans hy) (by simp)

/-! HB_REQ (R344, R346, R347, R353) -/

/-- The words of a request. -/
def requestOf (bs : List Byte) : List Word := (bytesWords 512 bs).take requestWords

/-- The state once validation has read a request. -/
def validated (addr : Nat) (ws : List Word) (s : State) : State :=
  foldState (requestRead ws) (fun a x => a.readEffectH 0 (addr + x.1) x.2) s

theorem exec_hbReq_valid {m : Master} {v : Word} {s : State} {bs : List Byte} {p : Bool} (hh : s.halted = false)
    (hm : m.privileged = true) (read : s.readH 0 (bits v 12 36 * 4096) 4096 = some (bs, p))
    (clean : ((requestRead (requestOf bs)).any fun x => (s.readH 0 (bits v 12 36 * 4096 + x.1) x.2).any (·.2)) = false)
    (valid : (validated (bits v 12 36 * 4096) (requestOf bs) s).reqReason (requestOf bs) (bytesWords 512 bs) false = 0) :
    exec (.hbReq m v) s =
      .next ((validated (bits v 12 36 * 4096) (requestOf bs) s).acceptProc (bits v 12 36 * 4096) (requestOf bs)) := by
  show execHbReq m v s = _
  rw [execHbReq, clocked_privWrite_run hh hm (harbourBlock_present s (by decide))]
  simp only [read]
  unfold requestOf at clean
  rw [clean]
  exact congrArg _ (if_pos valid)

/-! DRAIN, SAVE and ZERO (R347, R349, R350, R356) -/

section
variable {s : State} {j : Nat} {x : Proc} (hh : s.halted = false)
include hh

/-- The launches with a part resident on a source place. -/
def onSources (s : State) (x : Proc) : List (Nat × Launch) :=
  s.hm.launches.filter fun l => x.sources.any fun p => (s.residents p).any fun e => e == l.2

/-- DRAIN has begun: its hold-bound launches are kept for RESTORE and the source places drain. -/
def drainBegun (j : Nat) (x : Proc) (s : State) : State :=
  foldState x.sources (fun a p => a.onPlace p fun q => { q with draining := true })
    (s.onProc j fun y => { y with drainOn := true, moved := ((onSources s x).filter fun l => l.2.holdBound).map (·.1) })

theorem exec_rebindDrain_first (ready : s.procReady j 1 = some x) (notOn : x.drainOn = false) (free : s.stepHeld x = false) :
    exec (.rebindDrain j) s =
      .next ((foldState (onSources s x) (fun a l => a.preemptLaunch l.1) (drainBegun j x s)).advanceProc j) := by
  show execRebindDrain j s = _
  rw [execRebindDrain, State.clocked_run _ _ hh]
  simp only [ready]
  exact congrArg _ (if_neg (by simp [notOn, free]))

/-- The records of a source place's heap that SAVE moves: those of launches that are not hold-bound. -/
def poolBound (a : State) (p : Nat) : List SavedRec :=
  (a.place p).heap.filter fun r => match a.launch r.entry with | some e => !e.holdBound | none => false

/-- The records that are not hold-bound are in the pool reserve. -/
def pooled (x : Proc) (s : State) : State :=
  foldState x.sources (fun a p => foldState (poolBound a p) (fun b r => b.poolRecord x.harbour p r) a) s

theorem exec_rebindSave_started (ready : (s.advanceProc j).procReady j 2 = some x) (on : x.saveOn = true) (notDone : x.saveDone = false) :
    exec (.rebindSave j) s = .next (((pooled x (s.advanceProc j)).onProc j fun y => { y with
      saveDone := true, mark := y.boundaries }).advanceProc j) := by
  show execRebindSave j s = _
  rw [execRebindSave, State.clocked_run _ _ hh]
  simp only [ready]
  exact congrArg _ (if_neg (by simp [on, notDone]))

/-- A destination is a place whose cluster is gated. -/
def dstGated (s : State) (e : UnitEntry) : Bool := e.type == 0 && (s.cluster (clusterOf e.dst)).gated

/-- ZERO of a destination, whose cluster is ungated; a channel of a MOVE takes its source's correction level (R347, R373). -/
def zeroDst (s : State) (x : Proc) (a : State) (e : UnitEntry) : State :=
  let a1 := if a.unitZeroed e.type e.dst ∧ !(e.type = 1 ∧ x.op = 3) then a else a.zeroUnit e.type e.dst
  let a2 := if dstGated s e then a1.ungateFor e.dst else a1
  if e.type = 1 ∧ x.op = 3 then a2.onChan e.dst fun c => { c with level := (s.chan e.src).level } else a2

/-- Every destination is zeroed; REF of a MOVE follows (R637). -/
def dstsZeroed (x : Proc) (s : State) : State :=
  let s1 := foldState (x.units0.filter fun e => addsUnit x.op e) (zeroDst s x) s
  if x.op = 3 then s1.followRef s else s1

theorem exec_rebindZeroDone_started (ready : s.procReady j 3 = some x) (on : x.zeroOn = true) (notDone : x.zeroDone = false)
    (running : ∀ e ∈ x.units0, addsUnit x.op e = true → e.type = 0 → s.inReset e.dst = false) :
    exec (.rebindZeroDone j) s = .next (((dstsZeroed x s).onProc j fun y => { y.earn (fun e r =>
        if addsUnit x.op e then { r with dstZeroed := true, dstWasUngated := dstGated s e } else r) with
      zeroDone := true, mark := y.boundaries }).advanceProc j) := by
  have noneInReset : ((x.units0.filter fun e => addsUnit x.op e).any fun e => e.type == 0 && s.inReset e.dst) = false := by
    simpa using running
  show execRebindZeroDone j s = _
  rw [execRebindZeroDone, State.clocked_run _ _ hh]
  simp only [ready]
  exact congrArg _ (if_neg (by simp [on, notDone, noneInReset]))

end

/-- Settles O29: one law per command. -/
theorem harbourRequestsAndFirstSteps : Obligations.HarbourRequestsAndFirstSteps := by
  exact fun s hh => ⟨fun m v bs p hm => exec_hbReq_valid hh hm, fun m v x hm => exec_hbCancel_before hh hm,
    fun j x => exec_rebindDrain_first hh, fun j x => exec_rebindSave_started hh, fun j x => exec_rebindZeroDone_started hh⟩

end Sys2Proof.Proofs
end

section
/-! SUPPORT. The statement of 10_harbours and 11_memory on the requests that a channel serves. -/
namespace Sys2Proof.Proofs
open Sys2Proof Sys2Proof.Machine Sys2Proof.Laws

section
variable {s : State} (hh : s.halted = false)
include hh

/-! A range of a channel's data space (R348, R370, R374–R380) -/

section
variable {c b n : Nat} {errs : List CwError} (present : (s.damaged errs).channelPresent c = true)
include present

theorem exec_hbmRead_range (inside : b + n ≤ (s.damaged errs).dataBytes c) :
    exec (.hbmRead (.range c b n) errs) s = .next ((s.damaged errs).readEffect ⟨(s.damaged errs).forwarded c, b, n⟩) := by
  show execHbmRead (.range c b n) errs s = _
  rw [execHbmRead, State.clocked_run _ _ hh]
  exact congrArg _ (if_pos ⟨present, inside⟩)

theorem exec_hbmWrite_range {d : List Byte} {p : Bool} (inside : b + d.length ≤ (s.damaged errs).dataBytes c)
    (nonempty : d.length ≠ 0) :
    exec (.hbmWrite (.range c b d.length) d p errs) s =
      .next ((s.damaged errs).hbmPut ((s.damaged errs).forwarded c) b d p) := by
  show execHbmWrite (.range c b d.length) d p errs s = _
  rw [execHbmWrite, State.clocked_run _ _ hh]
  exact congrArg _ (if_pos ⟨present, inside, rfl, nonempty⟩)

theorem exec_hbmAtomic_range {a : AtomicOp} (inside : b + atomicWidth a ≤ (s.damaged errs).dataBytes c) :
    exec (.hbmAtomic (.range c b n) a errs) s =
      .next ((s.damaged errs).serveAtomic ((s.damaged errs).forwarded c) b a).2 := by
  show execHbmAtomic (.range c b n) a errs s = _
  rw [execHbmAtomic, State.clocked_run _ _ hh]
  exact congrArg _ (if_pos ⟨present, inside⟩)

end

end

/-- A poisoned operand is only read; otherwise the result of the operation is stored (R376, R380, R455). -/
theorem serveAtomic_state (c b : Nat) (a : AtomicOp) (s : State) : (s.serveAtomic c b a).2 =
    if s.hbmPoison c b (atomicWidth a) then s.readEffect ⟨c, b, atomicWidth a⟩
    else (s.readEffect ⟨c, b, atomicWidth a⟩).hbmPut c b
      (natBytes (atomicWidth a) (atomicResult a (leNat (s.hbmBytes c b (atomicWidth a))))) false :=
  apply_ite Prod.snd _ _ _

/-! A request of a DMA engine (R341, R342, R365, R374–R380) -/

/-- Where the checkers hear every channel that served a request, its answer comes. -/
theorem answer_heard {s : State} {p k e id : Nat} {ps : List Piece} {f : State → State}
    (heard : ∀ x ∈ ps, s.channelHeard x.ch = true) :
    s.answer p k e id ps f = f s := by
  have noneDropped : (ps.find? fun q => !s.channelHeard q.ch) = none := List.find?_eq_none.2 fun x hx => by simp [heard x hx]
  rw [State.answer]
  simp only [noneDropped]

section
variable {s : State} {p k e n : Nat} {errs : List CwError} {q : DmaReq} (hh : s.halted = false)
  (serves : (s.damaged errs).servable p k e n = some q)
include hh serves

theorem exec_hbmRead_engine {a : Nat} {ps : List Piece} (copy : q.atomic = none) (noData : q.buf = none) (src : q.srcAt = some a)
    (inHbm : (s.damaged errs).target p k a q.len false = .hbm ps)
    (heard : ∀ x ∈ ps, ((s.damaged errs).readEffects ps).channelHeard x.ch = true) :
    exec (.hbmRead (.engine p k e n) errs) s =
      .next (((s.damaged errs).readEffects ps).gotData p k e q.id ((s.damaged errs).readThrough ps).1) := by
  show execHbmRead (.engine p k e n) errs s = _
  rw [execHbmRead, State.clocked_run _ _ hh]
  simp only [serves]
  rw [if_neg (by simp [DmaReq.unread, copy, noData]), src, Option.map_some, inHbm]
  exact congrArg _ (answer_heard heard)

theorem exec_hbmWrite_engine {bs : Beats} {a : Nat} {ps : List Piece} (d : List Byte) (w : Bool)
    (data : (s.damaged errs).sourceData p k q = some bs) (sink : q.sink.2 = some a)
    (inHbm : (s.damaged errs).target p k a q.len true = .hbm ps)
    (heard : ∀ x ∈ ps, ((s.damaged errs).writeThrough ps bs).channelHeard x.ch = true) :
    exec (.hbmWrite (.engine p k e n) d w errs) s = .next (((s.damaged errs).writeThrough ps bs).reqDone p k e q.id) := by
  show execHbmWrite (.engine p k e n) d w errs s = _
  rw [execHbmWrite, State.clocked_run _ _ hh]
  simp only [serves]
  rw [data, sink, Option.map_some, inHbm]
  exact congrArg _ (answer_heard heard)

theorem exec_hbmAtomic_engine {op : AtomicOp} {a : Nat} {x : Piece} {ps : List Piece} (f : AtomicOp) (atomic : q.atomic = some op)
    (noData : q.buf = none) (dst : q.dstAt = some a) (inHbm : (s.damaged errs).target p k a q.len true = .hbm (x :: ps))
    (heard : ((s.damaged errs).serveAtomic x.ch x.byte op).2.channelHeard x.ch = true) :
    exec (.hbmAtomic (.engine p k e n) f errs) s = .next
      (((s.damaged errs).serveAtomic x.ch x.byte op).2.gotData p k e q.id [((s.damaged errs).serveAtomic x.ch x.byte op).1]) := by
  show execHbmAtomic (.engine p k e n) f errs s = _
  rw [execHbmAtomic, State.clocked_run _ _ hh]
  simp only [serves]
  rw [if_neg (by simp [DmaReq.pending, atomic, noData]), atomic, dst, Option.map_some, inHbm]
  exact congrArg _ (answer_heard (by simpa using heard))

end

/-- Settles O31: one law per request of a range and of an engine; the ends of a write-back and of a clear are the model's own. -/
theorem channelRequests : Obligations.ChannelRequests := by
  refine fun s hh => ⟨fun c b n errs => exec_hbmRead_range hh, fun c b d p errs present => exec_hbmWrite_range hh present,
    fun c b n a errs present inside => ?atomic, fun p k e n errs q serves => ⟨fun a ps => exec_hbmRead_engine hh serves,
      fun bs a ps d w => exec_hbmWrite_engine hh serves d w, fun op a x ps f => exec_hbmAtomic_engine hh serves f⟩,
    fun c => ?writeback, fun c => ?clear⟩
  case atomic => exact (exec_hbmAtomic_range hh present inside).trans (congrArg _ (serveAtomic_state _ b a _))
  case writeback => exact State.clocked_run _ _ hh
  case clear => exact State.clocked_run _ _ hh

end Sys2Proof.Proofs
end

section
/-! SUPPORT. The statements of 11_memory: the form of memory that no step breaks, the registers of a channel, its remap tables and
its scrubs. -/
namespace Sys2Proof.Proofs
open Sys2Proof Sys2Proof.Machine Sys2Proof.Laws

/-! The canonical form of HBM (R370, R375–R378, R380) -/

/-- Settles O4: the form of memory is a part of what every step keeps. -/
theorem stepKeepsMemoryForm : Obligations.StepKeepsMemoryForm :=
  fun _ _ form steps => (step_keep steps).mem form

/-! The pages of a channel and of a remap table (R5, R624) -/

theorem lt_of_channelPresent {s : State} {c : Nat} (present : s.channelPresent c = true) : c < 256 := by
  unfold State.channelPresent channelOn at present
  split at present <;> have inRange := of_decide_eq_true present <;> omega

theorem channelPage_present {s : State} {c r : Nat} (present : s.channelPresent c = true) (inPage : r < 0x1000) :
    s.absentUnit (0x800000 + c * 0x1000 + r) = false := by
  have inRange := lt_of_channelPresent present
  simp only [State.absentUnit]
  rw [if_neg (by omega), if_neg (by omega), if_neg (by omega), if_pos (by omega),
    show (0x800000 + c * 0x1000 + r - 0x800000) / 0x1000 = c by omega, present, Bool.not_true]

theorem remapEntry_present {s : State} {st e : Nat} (present : s.channelPresent (st * 32) = true) (inTable : e < 32) :
    s.absentUnit (0x900000 + st * 0x1000 + e * 8) = false := by
  have inRange := lt_of_channelPresent present
  simp only [State.absentUnit]
  rw [if_neg (by omega), if_neg (by omega), if_neg (by omega), if_neg (by omega),
    show (0x900000 + st * 0x1000 + e * 8 - 0x900000) / 0x1000 * 32 = st * 32 by omega, present, Bool.not_true, Bool.and_false]

/-! Level, remap entries, interleave sets and retirement (R365, R366, R373, R384, R386, R387, R396, R522) -/

/-- The entry that a write of a remap table asks for. -/
def askedRemap (v : Word) : Remap :=
  { channel := bits v 0 5, bank := bits v 5 5, row := bits v 10 15, word := bits v 25 9, column := bit v 37, byManager := true }

/-- The table of stack `st` has lost entry `e`. -/
def remapRemoved (st e : Nat) (s : State) : State := s.onMem fun x => { x with remap := tabDel x.remap (st * 32 + e) }

/-- A remap entry may be replaced: it is not in force, or its channel is free. -/
def remapMayGo (st e : Nat) (s : State) : Prop :=
  (s.remapEntry st e).valid = false ∨ s.channelFree (st * 32 + (s.remapEntry st e).channel) = true

/-- The interleave set that a write of MC_ISET asks for. -/
def askedSet (v : Word) : ISet := { baseCh := bits v 0 8, log2Ways := bits v 8 4, gran := bits v 12 2, valid := bit v 15 }

/-- How many channels a harbour holds; none where there is no such harbour. -/
def heldChannels (s : State) (h : Nat) : Nat := match s.harbour h with | some e => e.channels.length | none => 0

section
variable {m : Master} {s : State} (hh : s.halted = false) (hm : m.privileged = true)
include hh hm

theorem exec_mcLevelWrite_free {c : Nat} (v : Word) (present : s.channelPresent c = true) (free : s.channelFree c = true) :
    exec (.mcLevelWrite m c v) s = .next (if (s.chan c).level = bits v 0 2 then s
      else (s.clearChannel c).onChan c fun x => { x with level := bits v 0 2 }) := by
  show execMcLevelWrite m c v s = _
  rw [execMcLevelWrite, clocked_privWrite_run hh hm (channelPage_present present (by decide)), if_neg (by simp [present]),
    if_neg (by simp [free])]

/-- In host-assisted mode an entry that may go goes, and VALID tells whether a new one is asked for. -/
theorem exec_mcRemapWrite_mayGo {st e : Nat} (v : Word) (present : s.channelPresent (st * 32) = true) (inTable : e < 32)
    (assisted : s.hostMode 5 = true) (mayGo : remapMayGo st e s) :
    exec (.mcRemapWrite m st e v) s = .next (
      if !bit v 63 then remapRemoved st e s
      else if (remapRemoved st e s).remapFull (st * 32 + bits v 0 5) (askedRemap v) then
        s.remapFullEvent (st * 32 + bits v 0 5) (askedRemap v)
      else ((remapRemoved st e s).remapPut (st * 32 + bits v 0 5) e (askedRemap v)).onChan (st * 32 + bits v 0 5) fun x =>
        { x with candidates := x.candidates.filter fun q => !sameRemap (askedRemap v) q }) := by
  have notHeld : ¬ ((s.remapEntry st e).valid = true ∧ (!s.channelFree (st * 32 + (s.remapEntry st e).channel)) = true) := by
    rintro ⟨valid, busy⟩
    rcases mayGo with invalid | free
    · simp [invalid] at valid
    · simp [free] at busy
  show execMcRemapWrite m st e v s = _
  rw [execMcRemapWrite, clocked_privWrite_run hh hm (remapEntry_present present inTable)]
  dsimp only
  rw [if_neg (by simp [present, inTable]), if_neg (by simp [assisted]), if_neg notHeld]
  rfl

theorem exec_mcIsetWrite_unused {h set : Nat} {v : Word} (unused : s.isetUsed h set = false) (ways : (askedSet v).log2Ways ≤ 8)
    (gran : (askedSet v).gran ≠ 3)
    (held : (askedSet v).valid = true → (askedSet v).baseCh + 2 ^ (askedSet v).log2Ways ≤ heldChannels s h) :
    exec (.mcIsetWrite m h set v) s = .next (s.onMem fun q => { q with isets := tabSet {} q.isets (h * 16 + set) (askedSet v) }) := by
  have sound : ¬ (s.isetUsed h set = true ∨ 8 < (askedSet v).log2Ways ∨ (askedSet v).gran = 3 ∨
      ((askedSet v).valid = true ∧ heldChannels s h < (askedSet v).baseCh + 2 ^ (askedSet v).log2Ways)) := by
    rintro (used | wide | reserved | ⟨valid, beyond⟩)
    · simp [unused] at used
    · omega
    · exact gran reserved
    · exact absurd (held valid) (Nat.not_le.2 beyond)
  show execMcIsetWrite m h set v s = _
  rw [execMcIsetWrite, clocked_privWrite_run hh hm (present_of_above s (by omega))]
  exact congrArg _ (if_neg sound)

theorem exec_mcRetire_present {c : Nat} (present : s.channelPresent c = true) :
    exec (.mcRetire m c) s = .next (s.failChannel c 4) := by
  show execMcRetire m c s = _
  rw [execMcRetire, clocked_privWrite_run hh hm (channelPage_present present (by decide))]

end

/-- Settles O32: one law per register; a remap write by its VALID bit, and the failure of a channel not retired yet. -/
theorem channelRegisterWrites : Obligations.ChannelRegisterWrites := by
  refine fun m s hh hm => ⟨fun c v => exec_mcLevelWrite_free hh hm v, fun st e v present inTable assisted mayGo => ?remap,
    fun h set v unused ways gran held => exec_mcIsetWrite_unused hh hm unused ways gran held, fun c present live => ?retire⟩
  case remap =>
    have written := exec_mcRemapWrite_mayGo hh hm v present inTable assisted mayGo
    refine ⟨fun removes => written.trans ?_, fun replaces admitted => written.trans ?_⟩
    · exact congrArg _ (if_pos (by simp [removes]))
    · exact congrArg _ ((if_neg (by simp [replaces])).trans (if_neg (Bool.eq_false_iff.1 admitted)))
  case retire => exact (exec_mcRetire_present hh hm present).trans (congrArg _ (if_neg (by simp [present, live])))

/-! REMAP_INSTALL (R384, R386, R387) -/

section
variable {s : State} {c : Nat} {r : Remap} {rest : List Remap} (candidates : (s.chan c).candidates = r :: rest)
include candidates

theorem installCandidate_admitted {e : Nat}
    (free : (s.onChan c fun x => { x with candidates := rest }).freeRemap (c / 32) = some e)
    (admitted : (s.onChan c fun x => { x with candidates := rest }).remapFull c r = false) :
    s.installCandidate c = (s.onChan c fun x => { x with candidates := rest }).remapPut c e r := by
  rw [State.installCandidate]
  simp only [candidates, free]
  exact if_neg (Bool.eq_false_iff.1 admitted)

theorem installCandidate_refused (refused : (s.onChan c fun x => { x with candidates := rest }).freeRemap (c / 32) = none ∨
      (s.onChan c fun x => { x with candidates := rest }).remapFull c r = true) :
    s.installCandidate c = (s.onChan c fun x => { x with candidates := rest }).remapFullEvent c r := by
  rw [State.installCandidate]
  cases free : (s.onChan c fun x => { x with candidates := rest }).freeRemap (c / 32) with
  | none => simp only [candidates, free]
  | some e =>
    have full := refused.resolve_left (by simp [free])
    simp only [candidates, free]
    exact if_pos full

end

theorem exec_remapInstall_hardware {s : State} (hh : s.halted = false) (hardware : s.hostMode 5 = false) (c : Nat) :
    exec (.remapInstall c) s = .next (s.installCandidate c) := by
  show execRemapInstall c s = _
  rw [execRemapInstall, State.clocked_run _ _ hh, if_neg (by simp [hardware])]

/-! MC_SCRUB (R388–R390) -/

/-- The scrub that a request of words `ws` asks for. -/
def askedScrub (ws : List Word) (s : State) : Scrub :=
  { cls := bits (wordAt ws 0) 0 3, first := bits (wordAt ws 1) 0 20, pages := bits (wordAt ws 1) 20 21
    summary := bits (wordAt ws 2) 6 42 * 64, tag := wordAt ws 3, chunk := s.hostMode 6, startTide := s.tide.num }

/-- A scrub is refused: another one runs, its summary record cannot be written, or its range is empty or leaves the data space. -/
def scrubRefused (c : Nat) (x : Scrub) (s : State) : Prop :=
  (s.chan c).scrub.isSome ∨ (s.readH 0 x.summary 64).isNone ∨ x.pages = 0 ∨ dataPages (s.chan c).level < x.first + x.pages

theorem not_scrubRefused {c : Nat} {x : Scrub} {s : State} (idle : (s.chan c).scrub = none)
    (summary : (s.readH 0 x.summary 64).isSome = true) (nonempty : x.pages ≠ 0)
    (inside : x.first + x.pages ≤ dataPages (s.chan c).level) : ¬ scrubRefused c x s := by
  rintro (runs | unwritable | empty | beyond)
  · simp [idle] at runs
  · simp [Option.isNone_iff_eq_none.1 unwritable] at summary
  · exact nonempty empty
  · exact Nat.not_le.2 beyond inside

/-- The state once the request at the address in `v` has been read. -/
def scrubRequestRead (v : Word) (s : State) : State := s.readEffectH 0 (bits v 6 42 * 64) 64

theorem exec_mcScrub_accepted {m : Master} {s : State} {c : Nat} {v : Word} {bs : List Byte} {p : Bool}
    (hh : s.halted = false) (hm : m.privileged = true) (present : s.channelPresent c = true)
    (read : s.readH 0 (bits v 6 42 * 64) 64 = some (bs, p))
    (accepted : ¬ scrubRefused c (askedScrub (bytesWords 8 bs) (scrubRequestRead v s)) (scrubRequestRead v s)) :
    exec (.mcScrub m c v) s = .next ((scrubRequestRead v s).onChan c fun x =>
      { x with scrub := some (askedScrub (bytesWords 8 bs) (scrubRequestRead v s)) }) := by
  show execMcScrub m c v s = _
  rw [execMcScrub, clocked_privWrite_run hh hm (channelPage_present present (by decide))]
  dsimp only
  rw [if_neg (by simp [present])]
  simp only [read]
  exact congrArg _ (if_neg accepted)

/-! SCRUB_CANCEL and SCRUB_DONE (R388–R390, R395) -/

/-- The summary record of a scrub that ends. -/
def scrubSummary (c : Nat) (x : Scrub) (status next : Nat) (s : State) : List Word :=
  [w64 (status + c * 256 + 2 ^ 63), pair x.pagesRead x.pagesSkipped, pair x.cwCorrected x.symCorrected,
    pair x.cwUncorrectable x.candidates, w64 ((match x.firstUe with | some p => p + 2 ^ 20 | none => 0) + next * 2 ^ 32),
    x.startTide, s.tide.num, x.tag]

/-- Pages that a scrub reads before it reports: all of its range, or the first chunk. -/
def scrubSpan (x : Scrub) : Nat := if x.chunk then min 1024 x.pages else x.pages

/-- The codewords that a scrub decodes: those of the written pages it reads, where the array holds an error at all. -/
def scrubWords (c : Nat) (x : Scrub) (s : State) : List Nat :=
  if s.mem.damage.isEmpty then [] else (s.writtenPages c x.first (scrubSpan x)).flatMap fun d => [2 * d, 2 * d + 1]

/-- The codewords of a scrub have been decoded, one after the other. -/
def scrubDecoded (c : Nat) (x : Scrub) (s : State) : State :=
  foldState (scrubWords c x s) (fun a w => a.decodeOne c w false) s

/-- The codewords that a scrub finds correctable. -/
def scrubFixed (c : Nat) (x : Scrub) (s : State) : List Nat :=
  (scrubWords c x s).filter fun w => !s.beyond c w && !(s.symbolErrors c w).isEmpty

/-- The sums of a scrub that reads the array of `s`, with `found` new candidates. -/
def scrubSums (c : Nat) (x : Scrub) (found : Nat) (s : State) : Scrub :=
  { x with
    pagesRead := (s.writtenPages c x.first (scrubSpan x)).length
    pagesSkipped := scrubSpan x - (s.writtenPages c x.first (scrubSpan x)).length
    cwCorrected := (scrubFixed c x s).length
    symCorrected := ((scrubFixed c x s).map fun w => (s.symbolErrors c w).length).sum
    cwUncorrectable := ((scrubWords c x s).filter (s.beyond c)).length
    candidates := found
    firstUe := (((scrubWords c x s).filter (s.beyond c)).map fun w => w / 2).min? }

/-- A scrub has read its pages: the codewords are decoded, and it holds its sums. -/
def scrubSummed (c : Nat) (x : Scrub) (errs : List CwError) (s : State) : State :=
  let decoded := scrubDecoded c x (s.damaged errs)
  decoded.onChan c fun q => { q with scrub := some (scrubSums c x
    ((decoded.chan c).candidates.length - (s.chan c).candidates.length) (s.damaged errs)) }

section
variable {s : State} {c : Nat} {x : Scrub} (running : (s.chan c).scrub = some x)
include running

theorem endScrub_running (status next : Nat) :
    s.endScrub c status next = ((s.put0 x.summary (scrubSummary c x status next s)).onChan c fun y =>
      { y with scrub := none, cScrubs := y.cScrubs + 1 }).event 0x0603 3 c [w64 c, w64 status, w64 x.cwUncorrectable, x.tag] := by
  rw [State.endScrub]
  simp only [running]
  rfl

theorem exec_scrubDone_running (hh : s.halted = false) (errs : List CwError) :
    exec (.scrubDone c errs) s = .next (
      if scrubSpan x < x.pages then (scrubSummed c x errs s).endScrub c 1 (x.first + scrubSpan x)
      else (scrubSummed c x errs s).endScrub c 0 0) := by
  show execScrubDone c errs s = _
  rw [execScrubDone, State.clocked_run _ _ hh]
  simp only [running]
  rfl

end

theorem exec_scrubCancel_present {m : Master} {s : State} {c : Nat} (hh : s.halted = false) (hm : m.privileged = true)
    (present : s.channelPresent c = true) : exec (.scrubCancel m c) s = .next (s.endScrub c 3 0) := by
  show execScrubCancel m c s = _
  rw [execScrubCancel, clocked_privWrite_run hh hm (channelPage_present present (by decide))]

/-- Settles O33: a candidate by what the table makes of it, and one law per command of a scrub. -/
theorem remapInstallAndScrubs : Obligations.RemapInstallAndScrubs := by
  refine fun s hh => ⟨fun c r rest hardware candidates => ?install, fun m c v bs p hm present read idle summary nonempty inside => ?scrub,
    fun m c x hm present running => ?cancel, fun c x errs running => exec_scrubDone_running running hh errs⟩
  case install =>
    have installs := exec_remapInstall_hardware hh hardware c
    exact ⟨fun e free admitted => installs.trans (congrArg _ (installCandidate_admitted candidates free admitted)),
      fun refused => installs.trans (congrArg _ (installCandidate_refused candidates refused))⟩
  case scrub => exact exec_mcScrub_accepted hh hm present read (not_scrubRefused idle summary nonempty inside)
  case cancel => exact (exec_scrubCancel_present hh hm present).trans (congrArg _ (endScrub_running running 3 0))

end Sys2Proof.Proofs
end

section
/-! SUPPORT. The statements of 12_translation_and_faults: the invalidations of a harbour's fault page. -/
namespace Sys2Proof.Proofs
open Sys2Proof Sys2Proof.Machine Sys2Proof.Laws

/-! Issuing an invalidation (R409, R424) -/

/-- Invalidation `i` of harbour `h` has been issued and is the newest one outstanding. -/
def invalidationIssued (h : Nat) (i : Inval) (s : State) : State :=
  s.onFq h fun q => { q with invs := q.invs ++ [i], issued := q.issued + 1 }

section
variable {s : State} {h : Nat} (room : (s.fq h).invs.length < 16)
include room

/-- An invalidation of all of the harbour needs no context entry. -/
theorem invalidate_harbour {i : Inval} (scope : i.scope = 2) : s.invalidate h i = invalidationIssued h i s := by
  simp only [State.invalidate, invalidationIssued, scope]
  exact if_neg (by simp [room])

/-- An invalidation of one ASID asks that its context entry be one of the harbour. -/
theorem invalidate_ownAsid {i : Inval} {ws : List Word} {p : Bool} (entry : s.ctxWords i.asid = some (ws, p))
    (own : ctxHarbour ws = h) : s.invalidate h i = invalidationIssued h i s := by
  simp only [State.invalidate, invalidationIssued, entry]
  exact if_neg (by simp [own, room])

section
variable {m : Master} {pasid : Option Nat} (hh : s.halted = false) (present : h < 64) (granted : s.granted m pasid h = true)
include hh present granted

theorem exec_invHarbour_room (v : Word) :
    exec (.invHarbour m pasid h v) s = .next (invalidationIssued h { scope := 2, asid := 0, va := 0, pages := 0 } s) := by
  refine (clocked_pageWrite_granted 0x20 _ hh present granted).trans ?_
  rw [invalidate_harbour room rfl]

section
variable {v : Word} {ws : List Word} {p : Bool} (entry : s.ctxWords (bits v 0 16) = some (ws, p)) (own : ctxHarbour ws = h)
include entry own

theorem exec_invAsid_own : exec (.invAsid m pasid h v) s =
    .next (invalidationIssued h { scope := 1, asid := bits v 0 16, va := 0, pages := 0 } s) := by
  refine (clocked_pageWrite_granted 0x20 _ hh present granted).trans ?_
  rw [invalidate_ownAsid room entry own]

theorem exec_invRange_own (nonempty : bits v 20 30 ≠ 0) : exec (.invRange m pasid h v) s =
    .next (invalidationIssued h { scope := 0, asid := bits v 0 16, va := (s.fq h).invAddr, pages := bits v 20 30 } s) := by
  refine (clocked_pageWrite_granted 0x20 _ hh present granted).trans ?_
  rw [if_neg nonempty, invalidate_ownAsid room entry own]

end

end

end

/-! Completing an invalidation (R410, R418) -/

/-- The first invalidation outstanding, once no request through what it covers is on its way, completes. -/
theorem exec_invalidationComplete_first {s : State} {h : Nat} {i : Inval} {rest : List Inval} (hh : s.halted = false)
    (first : (s.fq h).invs = i :: rest) (free : s.invBusy h i = false) :
    exec (.invalidationComplete h) s = .next (((s.onFq h fun q => { q with
      invs := rest, doneCnt := q.doneCnt + 1 }).pilotInval h i).pollPages) := by
  show execInvalidationComplete h s = _
  rw [execInvalidationComplete, State.clocked_run _ _ hh]
  simp only [first]
  rw [if_neg (by simp [free])]

/-- Settles O35: one law per scope of an invalidation, and the completion of the first one outstanding. -/
theorem invalidations : Obligations.Invalidations :=
  fun _ hh => ⟨fun _ _ _ v present granted room =>
      ⟨fun _ _ entry own => ⟨exec_invRange_own room hh present granted entry own, exec_invAsid_own room hh present granted entry own⟩,
        exec_invHarbour_room room hh present granted v⟩,
    fun _ _ _ first free => exec_invalidationComplete_first hh first free⟩

end Sys2Proof.Proofs
end

section
/-! SUPPORT. The statement of 19_startup_freeze_cascade on a stopped module, the software freeze, the dump and the test access port. -/
namespace Sys2Proof.Proofs
open Sys2Proof Sys2Proof.Machine Sys2Proof.Laws

/-! While the clocks stand still (R551, log entry 149) -/

theorem exec_of_halted {i : Instr} {s : State} (halted : s.halted = true) (clock : unclocked i = false) : exec i s = .next s := by
  obtain ⟨u, gated⟩ := exec_eq_gated i s
  rw [gated, clock]
  simp [State.clocked, halted]

/-! DB_FREEZE (R611, R612) -/

theorem exec_dbFreezeSoft_running {m : Master} {s : State} (v : Word) (hr : s.running = true) (hm : m.privileged = true) :
    exec (.dbFreezeSoft m v) s = .next (s.writeFreeze v) := by
  show execDbFreezeSoft m v s = _
  rw [execDbFreezeSoft, if_neg (by simp [hr]),
    clocked_privWrite_run (halted_of_live (live_of_running hr)) hm (present_of_above s (by decide))]

/-! Frames of the dump (R614, R615) -/

section
variable {s : State} (frozen : s.boot.life = .frozen)
include frozen

theorem exec_dumpFrame_next {g u k : Nat} (frame : s.frameOf s.dumpSegments s.boot.frame = some (g, u, k)) :
    exec .dumpFrame s = .next ((s.sendFrame false g u s.boot.frame k).onBoot fun b => { b with frame := b.frame + 1 }) := by
  show execDumpFrame s = _
  rw [execDumpFrame, if_neg (by simp [frozen])]
  simp only [frame, done]

theorem exec_dumpFrame_ended (ended : s.frameOf s.dumpSegments s.boot.frame = none) : exec .dumpFrame s = .next s := by
  show execDumpFrame s = _
  rw [execDumpFrame, if_neg (by simp [frozen])]
  simp only [ended, done]

theorem exec_tapDump_next {g u k : Nat} (frame : s.frameOf s.dumpSegments s.boot.tapFrame = some (g, u, k)) :
    exec .tapDump s =
      .next ((s.sendFrame true g u s.boot.tapFrame k).onBoot fun b => { b with tap := 4, tapFrame := b.tapFrame + 1 }) := by
  show execTapDump s = _
  rw [execTapDump, if_neg (by simp [frozen])]
  simp only [frame, done]

theorem exec_tapDump_ended (ended : s.frameOf s.dumpSegments s.boot.tapFrame = none) :
    exec .tapDump s = .next (s.onBoot fun b => { b with tap := 4 }) := by
  show execTapDump s = _
  rw [execTapDump, if_neg (by simp [frozen])]
  simp only [ended, done]

end

/-! Instructions of the test access port (R616) -/

theorem done_tapRun_powered {s : State} (powered : s.boot.life ≠ .unpowered) (n : Nat) :
    done (s.tapRun n) = .next ((s.onBoot fun b => { b with tap := n }).emit (.tdo n)) :=
  congrArg _ (if_neg powered)

theorem exec_tapExtest_powered {s : State} (powered : s.boot.life ≠ .unpowered) :
    exec .tapExtest s = .next ((s.onBoot fun b => { b with tap := if s.pins.modRst then 3 else 0 }).emit
      (.tdo (if s.pins.modRst then 3 else 0))) :=
  done_tapRun_powered powered _

/-- Settles O56: the gate of every clocked command, the write of DB_FREEZE by its SOFT bit, each frame counter by whether a frame is
left, and one instruction of the port each. -/
theorem freezeDumpAndTestAccess : Obligations.FreezeDumpAndTestAccess := by
  refine ⟨fun i s => exec_of_halted, fun m v s hr hm => ⟨fun stays => ?stays, fun soft => ?freezes⟩,
    fun s frozen => ⟨fun g u k => exec_dumpFrame_next frozen, exec_dumpFrame_ended frozen,
      fun g u k => exec_tapDump_next frozen, exec_tapDump_ended frozen⟩,
    fun s powered => ⟨done_tapRun_powered powered 0, done_tapRun_powered powered 1, done_tapRun_powered powered 2,
      fun asserted => ?extest, fun released => ?bypass⟩⟩
  case stays => exact (exec_dbFreezeSoft_running v hr hm).trans (congrArg _ (if_neg (by simp [stays])))
  case freezes => exact (exec_dbFreezeSoft_running v hr hm).trans (congrArg _ (if_pos soft))
  case extest => rw [exec_tapExtest_powered powered, asserted]; rfl
  case bypass => rw [exec_tapExtest_powered powered, released]; rfl

end Sys2Proof.Proofs
end

section
/-! SUPPORT. The statement of 18_host_interface on memory handles and tokens of another generation. -/
namespace Sys2Proof.Proofs
open Sys2Proof Sys2Proof.Machine Sys2Proof.Laws

/-! What a handle or a token names (R574) -/

theorem handle_otherGeneration {x : Ctx} {h : Nat} {y : Handle} (entry : tabFind x.handles (h % 2 ^ 24) = some y)
    (other : h / 2 ^ 24 ≠ y.gen) : x.handle h = none := by
  simp only [Ctx.handle, entry]
  exact if_neg fun named => other named.2

theorem token_otherGeneration {s : State} {t : Nat} {e : Nat × Option Export} (entry : tabFind s.hif.exports (t % 2 ^ 24) = some e)
    (other : t / 2 ^ 24 ≠ e.1) : s.token t = none := by
  simp only [State.token, entry]
  exact if_neg other

theorem withHandle_unnamed {x : Ctx} {h : Nat} (unnamed : x.handle h = none) (f : Nat → Handle → Nat → Reply) :
    withHandle x h f = .refuse 5 := by
  simp only [withHandle, unnamed]

/-! The entry that a new handle or token takes (R574) -/

/-- The lowest free entry of a context's object table. -/
def freeHandle (x : Ctx) : Nat :=
  lowestFree (x.handles.length + 1) fun i => match tabFind x.handles i with | some y => y.obj.isSome | none => false

/-- The lowest free entry of the table of tokens. -/
def freeToken (s : State) : Nat :=
  lowestFree (s.hif.exports.length + 1) fun i => match tabFind s.hif.exports i with | some y => y.2.isSome | none => false

/-- The generation of the next handle of context `a`: one more than the last of its entry, or 0. -/
def nextHandleGen (s : State) (a : Nat) (x : Ctx) : Nat :=
  match (match tabFind x.handles (freeHandle x) with
    | some y => some y.gen
    | none => tabFind s.hif.handleGen (a * 2 ^ 24 + freeHandle x)) with
  | some g => (g + 1) % 256
  | none => 0

/-- The generation of the next token: one more than the last of its entry, or 0. -/
def nextTokenGen (s : State) : Nat := match tabFind s.hif.exports (freeToken s) with | some y => (y.1 + 1) % 256 | none => 0

section
variable {s : State} {a o r : Nat} {x : Ctx} (ctx : s.ctx a = some x)
include ctx

theorem newHandle_of_ctx : s.newHandle a o r = if 2 ^ 24 ≤ freeHandle x then none
    else some (nextHandleGen s a x * 2 ^ 24 + freeHandle x, s.onAsid a fun c => { c with
      handles := tabPut c.handles (freeHandle x) { gen := nextHandleGen s a x, obj := some o, rights := r } }) := by
  simp only [State.newHandle, ctx]
  rfl

theorem newHandle_full (full : 2 ^ 24 ≤ freeHandle x) : s.newHandle a o r = none := (newHandle_of_ctx ctx).trans (if_pos full)

theorem newHandle_reused {y : Handle} (entry : tabFind x.handles (freeHandle x) = some y) (room : freeHandle x < 2 ^ 24) :
    ∃ t, s.newHandle a o r = some ((y.gen + 1) % 256 * 2 ^ 24 + freeHandle x, t) := by
  have gen : nextHandleGen s a x = (y.gen + 1) % 256 := by simp only [nextHandleGen, entry]
  exact ⟨_, gen ▸ (newHandle_of_ctx ctx).trans (if_neg (Nat.not_le.2 room))⟩

end

theorem newToken_eq {s : State} {e : Export} : s.newToken e = if 2 ^ 24 ≤ freeToken s then none
    else some (nextTokenGen s * 2 ^ 24 + freeToken s, s.onHif fun h => { h with
      exports := tabPut h.exports (freeToken s) (nextTokenGen s, some e) }) := rfl

theorem newToken_full {s : State} {e : Export} (full : 2 ^ 24 ≤ freeToken s) : s.newToken e = none := newToken_eq.trans (if_pos full)

theorem newToken_reused {s : State} {e : Export} {y : Nat × Option Export}
    (entry : tabFind s.hif.exports (freeToken s) = some y) (room : freeToken s < 2 ^ 24) :
    ∃ t, s.newToken e = some ((y.1 + 1) % 256 * 2 ^ 24 + freeToken s, t) := by
  have gen : nextTokenGen s = (y.1 + 1) % 256 := by simp only [nextTokenGen, entry]
  exact ⟨_, gen ▸ newToken_eq.trans (if_neg (Nat.not_le.2 room))⟩

/-! Commands on a handle or a token that names nothing (R574, R576) -/

section
variable {s : State} {c : EwCmd} {x : Ctx} {op : Nat} {run : EwCmd → State → Reply} (submits : Submits s c) (owns : Owns s c x)
include submits owns

theorem clocked_command_unnamedHandle {h : Nat} {f : Nat → Ctx → Nat → Handle → Nat → Reply} (unnamed : x.handle h = none)
    (runs : run c (s.taken op c) = (s.taken op c).ownerOf c fun a y => withHandle y h (f a y)) :
    s.clocked (s.command op run c) = .next ((s.taken op c).pageDone c.func 4 5 []) :=
  clocked_command_refuse submits (runs.trans ((ownerOf_owns (owns.taken op) _).trans (withHandle_unnamed unnamed _)))

theorem exec_memImport_unnamed (unnamed : s.token (c.arg 2) = none) :
    exec (.memImport c) s = .next ((s.taken 0x06 c).pageDone c.func 4 5 []) := by
  have named : (s.taken 0x06 c).token (c.arg 2) = none := unnamed
  refine clocked_command_refuse (r := 5) submits ?_
  rw [ewMemImport, ownerOf_owns (owns.taken 0x06), named]

theorem exec_fenceImport_unnamed (unnamed : s.token (c.arg 2) = none) :
    exec (.fenceImport c) s = .next ((s.taken 0x12 c).pageDone c.func 4 5 []) := by
  have named : (s.taken 0x12 c).token (c.arg 2) = none := unnamed
  refine clocked_command_refuse (r := 5) submits ?_
  rw [ewFenceImport, ownerOf_owns (owns.taken 0x12), named]

end

/-- Settles O9: what an entry of another generation names, the generation of a reused entry, and the refusal of every command on
a handle or a token that names nothing. -/
theorem handlesAndTokens : Obligations.HandlesAndTokens := by
  refine ⟨fun c h y => handle_otherGeneration, fun s t e => token_otherGeneration,
    fun s a o r i c y ctx free => ?handle, fun s e i y free => ?token,
    fun c x s func runs linkUp idle ctx passes stands => ?commands⟩
  case handle =>
    obtain rfl : freeHandle c = i := free
    exact ⟨newHandle_full ctx, newHandle_reused ctx⟩
  case token =>
    obtain rfl : freeToken s = i := free
    exact ⟨newToken_full, newToken_reused⟩
  case commands =>
    have submits : Submits s c := ⟨func, runs, linkUp, idle⟩
    have owns : Owns s c x := ⟨ctx, passes, stands⟩
    refine ⟨fun y entry other => ?_, fun y entry other => ?_, fun e entry other => ?_⟩
    · have unnamed := handle_otherGeneration entry other
      exact ⟨clocked_command_unnamedHandle submits owns unnamed rfl, clocked_command_unnamedHandle submits owns unnamed rfl,
        clocked_command_unnamedHandle submits owns unnamed rfl, clocked_command_unnamedHandle submits owns unnamed rfl,
        clocked_command_unnamedHandle submits owns unnamed rfl, clocked_command_unnamedHandle submits owns unnamed rfl⟩
    · exact clocked_command_unnamedHandle submits owns (handle_otherGeneration entry other) rfl
    · have unnamed := token_otherGeneration entry other
      exact ⟨exec_memImport_unnamed submits owns unnamed, exec_fenceImport_unnamed submits owns unnamed⟩

end Sys2Proof.Proofs
end

section
/-! SUPPORT. The statement of 13_regulation_and_isolation on urgency samples, the reserves of a harbour and the slices. -/
namespace Sys2Proof.Proofs
open Sys2Proof Sys2Proof.Machine Sys2Proof.Laws

/-! URGENCY_SAMPLE (R431, R457) -/

/-- The urgency of a buffer has taken a sample of its fill. -/
def urgencySampled (u f : Nat) (s : State) : State := s.onRg fun r => { r with urgency := tabMod {} r.urgency u fun x => x.sample f }

theorem exec_urgencySample {s : State} (hh : s.halted = false) (u f : Nat) : exec (.urgencySample u f) s =
    .next (if u < 64 then (urgencySampled u f s).onLg u fun g => { g with fill := f } else urgencySampled u f s) :=
  State.clocked_run _ _ hh

/-! HB_REGA and HB_REGB (R426, R429, R441) -/

/-- The fields of harbour `h` once HB_REGB is written. -/
def askedRegB (h : Nat) (v : Word) (s : State) : RegFields :=
  { s.regFields h with xlatRes := bits v 0 9, xlatLend := bit v 9, cq0Res := bits v 16 7, cq0Lend := bit v 23 }

/-- The fields of harbour `h` once HB_REGA is written. -/
def askedRegA (h : Nat) (v : Word) (s : State) : RegFields :=
  { s.regFields h with
    cmax := (List.range 8).map fun c => bits v (4 * c) 4
    meshW := bits v 32 7, meshLend := bit v 39, brqRes := bits v 40 8, brqLend := bit v 48 }

/-- The regulation fields of harbour `h` are stored. -/
def fieldsStored (h : Nat) (y : RegFields) (s : State) : State := s.onRg fun r => { r with fields := tabPut r.fields h y }

/-- A reserve fits beside those of the other harbours; harbour 0 takes no part. -/
theorem reserve_fits {s : State} {h mine lim : Nat} {f : RegFields → Nat} (fits : h = 0 ∨ mine + s.reserveSum h f ≤ lim) :
    ¬ (!(h == 0 || decide (mine + s.reserveSum h f ≤ lim))) = true := by
  simpa [or_iff_not_imp_left] using fits

section
variable {s : State} {h : Nat} {v : Word} (below : h < 64)
include below

theorem writeReg_regB (xlat : bits v 0 9 ≤ 256) (cq0 : bits v 16 7 ≤ 112)
    (fits : h = 0 ∨ (bits v 0 9 + s.reserveSum h (·.xlatRes) ≤ 256 ∧ bits v 16 7 + s.reserveSum h (·.cq0Res) ≤ 112)) :
    s.writeReg true h v = fieldsStored h (askedRegB h v s) s := by
  have xlatFits := reserve_fits (fits.imp_right And.left)
  have cq0Fits := reserve_fits (fits.imp_right And.right)
  exact (if_neg (Nat.not_le.2 below)).trans ((if_pos rfl).trans (if_neg
    (not_or.2 ⟨Nat.not_lt.2 xlat, not_or.2 ⟨Nat.not_lt.2 cq0, not_or.2 ⟨xlatFits, cq0Fits⟩⟩⟩)))

theorem writeReg_regA (ceilings : ∀ c < 8, 1 ≤ bits v (4 * c) 4 ∧ bits v (4 * c) 4 ≤ 8) (mesh : bits v 32 7 ≤ 64)
    (brq : bits v 40 8 ≤ 128)
    (fits : h = 0 ∨ (bits v 32 7 + s.reserveSum h (·.meshW) ≤ 64 ∧ bits v 40 8 + s.reserveSum h (·.brqRes) ≤ 128)) :
    s.writeReg false h v = fieldsStored h (askedRegA h v s) s := by
  have meshFits := reserve_fits (fits.imp_right And.left)
  have brqFits := reserve_fits (fits.imp_right And.right)
  have inRange : (((List.range 8).map fun c => bits v (4 * c) 4).any fun c => c == 0 || decide (8 < c)) = false := by
    simp only [List.any_map, List.any_eq_false, List.mem_range]
    intro c hc
    obtain ⟨low, high⟩ := ceilings c hc
    simpa using ⟨by omega, high⟩
  exact (if_neg (Nat.not_le.2 below)).trans ((if_neg (by decide)).trans (if_neg (not_or.2 ⟨Bool.eq_false_iff.1 inRange,
    not_or.2 ⟨Nat.not_lt.2 mesh, not_or.2 ⟨Nat.not_lt.2 brq, not_or.2 ⟨meshFits, brqFits⟩⟩⟩⟩)))

theorem exec_regReserveWrite_privileged {m : Master} (regB : Bool) (hh : s.halted = false) (hm : m.privileged = true) :
    exec (.regReserveWrite m regB h v) s = .next (s.writeReg regB h v) := by
  show execRegReserveWrite m regB h v s = _
  rw [execRegReserveWrite, clocked_privWrite_run hh hm (harbourBlock_present s (by split <;> omega))]

end

/-! HB_SLICE (R435–R437, R441) -/

/-- The entry of slice `i`. -/
def sliceEntry (i : Nat) (s : State) : Slice := tabGet {} s.rg.slices i

/-- The entry that a write of the first word asks for. -/
def askedSlice (i : Nat) (v : Word) (s : State) : Slice :=
  { sliceEntry i s with valid := bit v 0, func := bits v 1 7, pasidLog2 := bits v 8 5, pasidBase := bits v 16 20 }

/-- The entry of slice `i` is `x`. -/
def sliceStored (i : Nat) (x : Slice) (s : State) : State := s.onRg fun r => { r with slices := tabPut r.slices i x }

/-- A slice has lost VALID, and its harbours wait to be granted again. -/
def sliceCleared (i : Nat) (s : State) : State :=
  s.onRg fun r => { r with
    slices := tabPut r.slices i { sliceEntry i s with valid := false }
    regrant := ((List.range 64).filter fun h => bit (sliceEntry i s).harbours h).foldl setIns r.regrant }

section
variable {s : State} {i : Nat} {v : Word} (below : i < 64)
include below

theorem exec_hbSliceWrite_privileged {m : Master} {word : Nat} (inEntry : word < 2) (hh : s.halted = false)
    (hm : m.privileged = true) : exec (.hbSliceWrite m i word v) s = .next (s.writeSlice i word v) := by
  show execHbSliceWrite m i word v s = _
  rw [execHbSliceWrite, clocked_privWrite_run hh hm (harbourBlock_present s (by omega))]

theorem writeSlice_harbours (invalid : (sliceEntry i s).valid = false) (without0 : bit v 0 = false) :
    s.writeSlice i 1 v = sliceStored i { sliceEntry i s with harbours := v } s := by
  refine (if_neg (Nat.not_le.2 below)).trans ((if_pos rfl).trans (if_neg ?_))
  exact not_or.2 ⟨Bool.eq_false_iff.1 invalid, Bool.eq_false_iff.1 without0⟩

theorem writeSlice_invalid (invalid : (sliceEntry i s).valid = false) (size : bits v 8 5 ≤ 20)
    (clashFree : bit v 0 = true → s.sliceOk i (askedSlice i v s) = true) :
    s.writeSlice i 0 v = sliceStored i (askedSlice i v s) s := by
  have sound : ¬ (20 < bits v 8 5 ∨ (bit v 0 = true ∧ (!s.sliceOk i (askedSlice i v s)) = true)) := by
    rintro (large | ⟨valid, clashes⟩)
    · omega
    · simp [clashFree valid] at clashes
  exact (if_neg (Nat.not_le.2 below)).trans ((if_neg (by decide)).trans ((if_neg (Bool.eq_false_iff.1 invalid)).trans (if_neg sound)))

theorem writeSlice_clears (valid : (sliceEntry i s).valid = true) (clears : bit v 0 = false)
    (quiet : s.quiesced (sliceEntry i s) = true) :
    s.writeSlice i 0 v = if { askedSlice i v s with valid := true } = sliceEntry i s then sliceCleared i s
      else (sliceCleared i s).regRefused := by
  have notBusy : ¬ (!s.quiesced (sliceEntry i s)) = true := by simp [quiet]
  exact (if_neg (Nat.not_le.2 below)).trans ((if_neg (by decide)).trans ((if_pos valid).trans
    ((if_neg (Bool.eq_false_iff.1 clears)).trans (if_neg notBusy))))

theorem writeSlice_same (valid : (sliceEntry i s).valid = true) (same : askedSlice i v s = sliceEntry i s) :
    s.writeSlice i 0 v = s := by
  have staysValid : bit v 0 = true := (congrArg Slice.valid same).trans valid
  exact (if_neg (Nat.not_le.2 below)).trans ((if_neg (by decide)).trans ((if_pos valid).trans
    ((if_pos staysValid).trans (if_pos same))))

end

/-- Settles O36: a sample, one law per register of reserves, and a write of a slice by whether the entry is valid. -/
theorem regulationWrites : Obligations.RegulationWrites := by
  refine fun s hh => ⟨exec_urgencySample hh, fun m h v hm below xlat cq0 fits => ?regB,
    fun m h v hm below ceilings mesh brq fits => ?regA, fun m i v hm below => ?slice⟩
  case regB =>
    exact (exec_regReserveWrite_privileged below true hh hm).trans (congrArg _ (writeReg_regB below xlat cq0 fits))
  case regA =>
    exact (exec_regReserveWrite_privileged below false hh hm).trans (congrArg _ (writeReg_regA below ceilings mesh brq fits))
  case slice =>
    have first := exec_hbSliceWrite_privileged (v := v) below (word := 0) (by decide) hh hm
    have second := exec_hbSliceWrite_privileged (v := v) below (word := 1) (by decide) hh hm
    exact ⟨fun invalid without0 => second.trans (congrArg _ (writeSlice_harbours below invalid without0)),
      fun invalid size clashFree => first.trans (congrArg _ (writeSlice_invalid below invalid size clashFree)),
      fun valid clears quiet => first.trans (congrArg _ (writeSlice_clears below valid clears quiet)),
      fun valid same => first.trans (congrArg _ (writeSlice_same below valid same))⟩

end Sys2Proof.Proofs
end

section
/-! SUPPORT. The statement of 14_shomea_links_and_pools on the states of a port. -/
namespace Sys2Proof.Proofs
open Sys2Proof Sys2Proof.Machine Sys2Proof.Laws

section
variable {s : State} {p : Nat} (hh : s.halted = false)
include hh

/-! Training (R445, R447, R451, R546) -/

/-- The lane groups of port `p` have the key of slot `x` and the node identifiers of both ends. -/
def keysGiven (p partner : Nat) (x : KeySlot) (s : State) : State :=
  foldState (portLgs p) (fun a g => a.onLg g fun y => { y with ownId := s.sec.partnerId, farId := partner }.keyed (g % 4) x) s

section
variable (training : (s.port p).st = .training)
include training

theorem exec_linkUp_keyed {us : Nat} {cr : List Nat} {x : KeySlot} (ownId : (s.checkPortSlot p).sec.partnerId ≠ 0)
    (key : (s.checkPortSlot p).portKey p = some x) : exec (.linkUp p x.partner us cr) s =
      .next ((keysGiven p x.partner x (s.checkPortSlot p)).portUp p us fun y => { y with
        credits := cr.zipIdx.map fun c => (c.2, c.1) }) := by
  show execLinkUp p x.partner us cr s = _
  rw [execLinkUp, State.clocked_run _ _ hh, if_neg (by simp [training])]
  simp only [if_neg ownId, key]
  exact congrArg _ (if_neg (not_not_intro rfl))

theorem exec_trainingTimeout_training : exec (.trainingTimeout p) s = .next (s.portDown p) := by
  show execTrainingTimeout p s = _
  rw [execTrainingTimeout, State.clocked_run _ _ hh, if_pos training]

theorem exec_wakePatternSend_training : exec (.wakePatternSend p) s = .next (s.emit (.wake p)) := by
  show execWakePatternSend p s = _
  rw [execWakePatternSend, State.clocked_run _ _ hh, if_pos training]

end

/-! Retraining, loss of light and retry (R445, R446, R474) -/

section
variable (retraining : (s.port p).st = .retrain)
include retraining

theorem exec_retrainComplete_good (us : Nat) : exec (.retrainComplete p us true) s =
    .next (foldState (portLgs p) (fun a g => if (a.lg g).nextKey then a.nextPhase g else a) (s.portUp p us id)) := by
  show execRetrainComplete p us true s = _
  rw [execRetrainComplete, State.clocked_run _ _ hh, if_neg (by simp [retraining]), if_pos rfl]

theorem exec_retrainComplete_bad (us : Nat) : exec (.retrainComplete p us false) s = .next (s.portDown p) := by
  show execRetrainComplete p us false s = _
  rw [execRetrainComplete, State.clocked_run _ _ hh, if_neg (by simp [retraining]), if_neg (by decide)]

end

theorem exec_lossOfLight_lit (lit : (s.port p).st = .up ∨ (s.port p).st = .retrain ∨ (s.port p).st = .training) :
    exec (.lossOfLight p) s = .next (s.portDown p) := by
  show execLossOfLight p s = _
  rw [execLossOfLight, State.clocked_run _ _ hh]
  rcases lit with st | st | st <;> rw [st]

theorem exec_downRetry_down (down : (s.port p).st = .down) : exec (.downRetry p) s = .next (s.toTraining p) := by
  show execDownRetry p s = _
  rw [execDownRetry, State.clocked_run _ _ hh, if_pos down]

end

/-! Wakes (R447, R480, R483) -/

theorem deepWake_entering {s : State} (entering : s.pw.transit = true) : s.deepWake = s.onPw fun w => { w with waking := true } :=
  if_pos entering

theorem deepWake_asleep {s : State} (entered : s.pw.transit = false) (asleep : s.pw.st = .watch ∨ s.pw.st = .hold)
    (notYet : s.pw.resuming = false) : s.deepWake = s.startResume := by
  rw [State.deepWake, if_neg (by simp [entered]), if_pos ⟨asleep, by simp [notYet]⟩]

theorem exec_wakePattern_sleeping {s : State} {p : Nat} (runs : s.running = true) (present : s.portPresent p = true)
    (sleeps : (s.port p).st = .sleep) : exec (.wakePattern p) s = .next s.deepWake := by
  show execWakePattern p s = _
  rw [execWakePattern, State.clocked_run _ _ (halted_of_live (live_of_running runs)),
    if_neg (by simp [runs, present, sleeps])]

/-- Settles O37: one law per command, by the state of its port. -/
theorem portStateCommands : Obligations.PortStateCommands := by
  refine fun p s hh => ⟨fun partner us cr x training ownId key named => ?linkUp,
    fun training => ⟨exec_trainingTimeout_training hh training, exec_wakePatternSend_training hh training⟩,
    fun us retraining => ⟨exec_retrainComplete_good hh retraining us, exec_retrainComplete_bad hh retraining us⟩,
    exec_lossOfLight_lit hh, exec_downRetry_down hh, fun runs present sleeps => ?wake⟩
  case linkUp => exact named ▸ exec_linkUp_keyed hh training ownId key
  case wake =>
    have wakes := exec_wakePattern_sleeping runs present sleeps
    exact ⟨fun entering => wakes.trans (congrArg _ (deepWake_entering entering)),
      fun entered asleep notYet => wakes.trans (congrArg _ (deepWake_asleep entered asleep notYet))⟩

end Sys2Proof.Proofs
end

section
/-! SUPPORT. The statement of 14_shomea_links_and_pools on the flits and the key phases of a lane group. -/
namespace Sys2Proof.Proofs
open Sys2Proof Sys2Proof.Machine Sys2Proof.Laws

section
variable {s : State} (hh : s.halted = false)
include hh

/-! FLIT_RECEIVE (R448–R450, R453, R529) -/

/-- The corrected symbols of a flit are counted on its port. -/
def symbolsCounted (g corr : Nat) (s : State) : State :=
  s.onPort (g / 4) fun p => { p with corrSym := p.corrSym + BitVec.ofNat 32 corr }

/-- A good flit has given the acknowledgement and the credits that it carries. -/
def carriedTaken (g : Nat) (f : Flit) (s : State) : State :=
  (s.takeAck g f).onLg g fun x => { x with
    credits := if f.credits = 0 then x.credits else tabPut x.credits f.creditVc (tabGet 0 x.credits f.creditVc + f.credits) }

/-- A control flit in sequence advances the receive sequence and owes an acknowledgement. -/
def controlTaken (g : Nat) (s : State) : State := s.onLg g fun x => { x with rxNext := x.rxNext + 1, ackOwed := 1 }

/-- A data flit in sequence also owes a buffer. -/
def dataTaken (g : Nat) (f : Flit) (s : State) : State :=
  s.onLg g fun x => { x with rxNext := x.rxNext + 1, ackOwed := 1, owed := tabPut x.owed f.vc (tabGet 0 x.owed f.vc + 1) }

/-- A data flit passes the node check and goes to its stream. -/
def toStream (f : Flit) (s : State) : State :=
  (if (s.nodeCheck f).1 then (s.nodeCheck f).2.receiveStream f else (s.nodeCheck f).2).sendAll

section
variable {g : Nat} (f : Flit) (corr : Nat) (up : (s.port (g / 4)).st = .up) (below : g < 64)
include up below

theorem exec_flitReceive_uncorrectable (tag : Bool) : exec (.flitReceive g f ⟨corr, false⟩ tag) s =
    .next ((((symbolsCounted g corr s).onLg g fun x => { x with fecBad := true }).onPort (g / 4) fun p => { p with
      cUncorr := p.cUncorr + 1 }).nak g) := by
  show execFlitReceive g f ⟨corr, false⟩ tag s = _
  rw [execFlitReceive, State.clocked_run _ _ hh]
  dsimp only
  rw [if_neg (by simp [up, below]), if_pos (by decide)]
  rfl

theorem exec_flitReceive_badTag : exec (.flitReceive g f ⟨corr, true⟩ false) s = .next ((symbolsCounted g corr s).tagFailed g) := by
  show execFlitReceive g f ⟨corr, true⟩ false s = _
  rw [execFlitReceive, State.clocked_run _ _ hh]
  dsimp only
  rw [if_neg (by simp [up, below]), if_neg (by decide), if_pos (by decide)]
  rfl

/-- A good flit by its type and its place in the sequence. -/
theorem exec_flitReceive_good : exec (.flitReceive g f ⟨corr, true⟩ true) s =
    .next (let s1 := carriedTaken g f (symbolsCounted g corr s)
      if f.type = 0 then s1.sendAll
      else if f.seq ≠ (s1.lg g).rxNext then s1.nak g
      else if f.type ≠ 1 then (controlTaken g s1).sendAll
      else toStream f (dataTaken g f s1)) := by
  show execFlitReceive g f ⟨corr, true⟩ true s = _
  rw [execFlitReceive, State.clocked_run _ _ hh]
  dsimp only
  rw [if_neg (by simp [up, below]), if_neg (by decide), if_neg (by decide)]
  by_cases data : f.type = 1
  · simp only [if_neg (not_not_intro data), if_pos data]
    rfl
  · simp only [if_pos data, if_neg data]
    rfl

end

/-! ACK_CONTROL_FLIT (R450) -/

theorem exec_ackControlFlit_owed {g : Nat} (up : (s.port (g / 4)).st = .up) (below : g < 64)
    (owes : (s.lg g).ackOwed ≠ 0 ∨ ∃ c ∈ (s.lg g).owed, c.2 ≠ 0) (room : (s.lg g).retry.length < 1024) :
    exec (.ackControlFlit g) s = .next (s.launchFlit g { type := 2, src := s.lk.nodeId, srcEpoch := s.ownEpoch }) := by
  have owed : ¬ ((s.lg g).ackOwed = 0 ∧ ((s.lg g).owed.all fun c => c.2 == 0) = true) := by
    rintro ⟨noAck, noCredit⟩
    rcases owes with ack | ⟨c, member, credit⟩
    · exact ack noAck
    · exact credit (by simpa using List.all_eq_true.1 noCredit c member)
  show execAckControlFlit g s = _
  rw [execAckControlFlit, State.clocked_run _ _ hh]
  refine congrArg _ (if_neg ?_)
  rintro (notUp | beyond | nothing | full)
  · exact notUp up
  · omega
  · exact owed nothing
  · omega

/-! KEY_PHASE_CHANGE (R452, R474, R546, R547) -/

theorem exec_keyPhaseChange_up {g : Nat} (up : (s.port (g / 4)).st = .up) (below : g < 64) :
    exec (.keyPhaseChange g) s = .next (s.nextPhase g) := by
  show execKeyPhaseChange g s = _
  rw [execKeyPhaseChange, State.clocked_run _ _ hh]
  simp only [up]
  rw [if_neg (by omega)]

theorem exec_keyPhaseChange_retraining {g : Nat} (retraining : (s.port (g / 4)).st = .retrain) (below : g < 64) :
    exec (.keyPhaseChange g) s = .next (s.onLg g fun x => { x with nextKey := true }) := by
  show execKeyPhaseChange g s = _
  rw [execKeyPhaseChange, State.clocked_run _ _ hh]
  simp only [retraining]
  rw [if_neg (by omega)]

/-! STREAM_ACK_SEND (R459) -/

theorem exec_streamAckSend_owed {n vc : Nat} (owed : 0 < (tabGet {} s.lk.rx (n * 4 + vc)).sinceAck) :
    exec (.streamAckSend n vc) s = .next (s.ackStream n vc) := by
  show execStreamAckSend n vc s = _
  rw [execStreamAckSend, State.clocked_run _ _ hh, if_pos owed]

end

theorem nextPhase_keyed {s : State} {g : Nat} {k : KeySlot} (slot : (s.checkPortSlot (g / 4)).nextSlot g = some k) :
    s.nextPhase g = (s.checkPortSlot (g / 4)).onLg g fun x => { x with
      keyN := x.keyN + 1, keyPhase := !x.keyPhase, keyCount := 0, keyStall := false, nextKey := false }.keyed (g % 4) k := by
  simp only [State.nextPhase, slot]

theorem nextPhase_stalled {s : State} {g : Nat} (none' : (s.checkPortSlot (g / 4)).nextSlot g = none) :
    s.nextPhase g = ((s.checkPortSlot (g / 4)).onLg g fun x => { x with keyStall := true }).event 0x0703 6 g
      [w64 (g / 4), w64 g, w64 (if (s.lg g).keyPhase then 1 else 0)] := by
  simp only [State.nextPhase, none']

/-- Settles O38: a flit by its check, its type and its sequence, and one law per other command. -/
theorem laneGroupCommands : Obligations.LaneGroupCommands := by
  refine fun s hh => ⟨fun g f corr up below => ⟨exec_flitReceive_uncorrectable hh f corr up below,
      exec_flitReceive_badTag hh f corr up below, fun idle => ?idle, fun carries out => ?out, fun carries control inSeq => ?control,
      fun data inSeq => ?data⟩,
    fun g => exec_ackControlFlit_owed hh, fun g up below => ?phase, fun g => exec_keyPhaseChange_retraining hh,
    fun n vc => exec_streamAckSend_owed hh⟩
  case phase =>
    have changes := exec_keyPhaseChange_up hh up below
    exact ⟨fun k slot => changes.trans (congrArg _ (nextPhase_keyed slot)),
      fun noSlot => changes.trans (congrArg _ (nextPhase_stalled noSlot))⟩
  all_goals refine (exec_flitReceive_good hh f corr up below).trans (congrArg _ ?_)
  case idle => exact if_pos idle
  case out => exact (if_neg carries).trans (if_pos out)
  case control => exact (if_neg carries).trans ((if_neg (not_not_intro inSeq)).trans (if_pos control))
  case data =>
    exact (if_neg (by simp [data])).trans ((if_neg (not_not_intro inSeq)).trans (if_neg (not_not_intro data)))

end Sys2Proof.Proofs
end

section
/-! SUPPORT. The statement of 14_shomea_links_and_pools on the answers of other nodes, acknowledgements and resends. -/
namespace Sys2Proof.Proofs
open Sys2Proof Sys2Proof.Machine Sys2Proof.Laws

section
variable {s : State} (hh : s.halted = false)
include hh

/-! READ_RESP, WRITE_ACK and ATOMIC_RESP (R455, R460) -/

/-- The request of a tag has left those outstanding. -/
def requestTaken (tag : Nat) (s : State) : State := s.onLk fun x => { x with reqs := tabDel x.reqs tag }

/-- An answer ends its request: taken alone where its part is gone, as a failure with another status than 0, else as `t`. -/
def answered (r : RemoteReq) (st : Nat) (s t : State) : State := if r.gone then s else if st ≠ 0 then s.reqFails r else t

section
variable {tag : Nat} {r : RemoteReq} (outstanding : tabFind s.lk.reqs tag = some r)
include outstanding

omit hh in
theorem takeReq_outstanding : s.takeReq tag = some (r, requestTaken tag s) := by
  simp only [State.takeReq, outstanding]
  rfl

theorem exec_readResp_outstanding (reads : r.access = .read) (st : Nat) (d : List Byte) (p : List Nat) :
    exec (.readResp tag st d p) s = .next (answered r st (requestTaken tag s) ((requestTaken tag s).gotData r.place r.slot r.engine r.req
      (beatsOf ((d ++ List.replicate r.len 0).take r.len) p))) := by
  show execReadResp tag st d p s = _
  rw [execReadResp, State.clocked_run _ _ hh]
  simp only [takeReq_outstanding outstanding]
  exact congrArg _ (if_neg (not_not_intro reads))

theorem exec_writeAck_outstanding (writes : r.access = .write) (st : Nat) : exec (.writeAck tag st) s =
    .next (answered r st (requestTaken tag s) ((requestTaken tag s).reqDone r.place r.slot r.engine r.req)) := by
  show execWriteAck tag st s = _
  rw [execWriteAck, State.clocked_run _ _ hh]
  simp only [takeReq_outstanding outstanding]
  exact congrArg _ (if_neg (not_not_intro writes))

theorem exec_atomicResp_outstanding (atomic : r.access = .atomic) (st : Nat) (v : Word) (p : Bool) :
    exec (.atomicResp tag st (v, p)) s =
      .next (answered r st (requestTaken tag s) ((requestTaken tag s).gotData r.place r.slot r.engine r.req
        [((wordBytes v).take (((s.req r.place r.slot r.engine r.req).map (·.len)).getD 8), p)])) := by
  show execAtomicResp tag st (v, p) s = _
  rw [execAtomicResp, State.clocked_run _ _ hh]
  simp only [takeReq_outstanding outstanding]
  exact congrArg _ (if_neg (not_not_intro atomic))

end

/-! REMOTE_RESEND_TIMEOUT (R459, R461) -/

section
variable {n vc : Nat} {u : Unacked} {rest : List Unacked} (oldest : (tabGet {} s.lk.tx (n * 4 + vc)).unacked = u :: rest)
include oldest

theorem exec_remoteResendTimeout_again (left : u.resends < 3) :
    exec (.remoteResendTimeout n vc) s = .next (s.resend (n * 4 + vc) u rest) := by
  show execRemoteResendTimeout n vc s = _
  rw [execRemoteResendTimeout, State.clocked_run _ _ hh]
  simp only [oldest]
  rw [if_pos left]

theorem exec_remoteResendTimeout_unreachable (spent : 3 ≤ u.resends) (reached : n ∉ s.lk.unreachable) :
    exec (.remoteResendTimeout n vc) s = .next (((s.onLk fun x => { x with
      unreachable := setIns x.unreachable n, cUnreachable := x.cUnreachable + 1 }).event 0x0704 9 n [w64 n, w64 vc]).dropNode n) := by
  show execRemoteResendTimeout n vc s = _
  rw [execRemoteResendTimeout, State.clocked_run _ _ hh]
  simp only [oldest]
  rw [if_neg (Nat.not_lt.2 spent), if_neg (by simp [reached])]

end

end

/-- Settles O40: one law per kind of answer, the acknowledgement of a stream, and the oldest flit by its resends. -/
theorem remoteAnswers : Obligations.RemoteAnswers := by
  refine fun s hh => ⟨fun tag r outstanding => ⟨?read, ?write, ?atomic⟩, fun n vc q => State.clocked_run _ _ hh,
    fun n vc u rest => exec_remoteResendTimeout_again hh, fun n vc u rest => exec_remoteResendTimeout_unreachable hh⟩
  case read => exact fun st d p reads => exec_readResp_outstanding hh outstanding reads st d p
  case write => exact fun st writes => exec_writeAck_outstanding hh outstanding writes st
  case atomic => exact fun st v p atomic => exec_atomicResp_outstanding hh outstanding atomic st v p

end Sys2Proof.Proofs
end

section
/-! SUPPORT. The statements of 14_shomea_links_and_pools on the messages of a hand-over, and what a current message does to its
record. -/
namespace Sys2Proof.Proofs
open Sys2Proof Sys2Proof.Machine Sys2Proof.Laws

theorem clocked_of_eq {s t u : State} (hh : s.halted = false) (same : t = u) : s.clocked t = .next u :=
  (State.clocked_run _ _ hh).trans (congrArg _ same)

/-! Messages of a known record (R467) -/

theorem ownMsg_current {s : State} {n : Nat} {m : OwnMsg} {o : Own} (own : s.own m.stateId.toNat = some o)
    (current : ¬ m.epoch < o.epoch) (f : Own → State → State) : s.ownMsg n m f = f o s := by
  simp only [State.ownMsg, own]
  exact if_neg fun stale => current stale.1

theorem current_of_same {o : Own} {m : OwnMsg} (same : o.epoch = m.epoch) : ¬ m.epoch < o.epoch := same ▸ BitVec.lt_irrefl _

theorem current_of_later {o : Own} {m : OwnMsg} (later : o.epoch < m.epoch) : ¬ m.epoch < o.epoch := BitVec.lt_asymm later

/-! A record that this node comes to hold or gives up (R468–R470, R473) -/

/-- The record of a state that node `n` holds at the record's epoch. -/
def heldAt (n : Nat) (o : Own) : Own :=
  { o with
    token := .held, heldEpoch := o.epoch, holder := n, peer := 0xFFF, wait := 0, unackedBoundaries := 0
    copied := false, restoring := false }

/-- The record of a state that this node no longer has. -/
def givenUp (o : Own) : Own := { o with token := .none, peer := 0xFFF, wait := 0, copied := false, restoring := false }

section
variable {s : State} {id : Nat} {o : Own} (own : s.own id = some o)
include own

theorem ownHeld_of_own (f : Own → Own) (sameEpoch : (f o).epoch = o.epoch) :
    s.ownHeld id f = (s.putOwn id (heldAt s.lk.nodeId (f o))).renew id := by
  simp only [State.ownHeld, State.onOwn, own, heldAt, sameEpoch]

theorem ownNone_of_own (f : Own → Own) :
    s.ownNone id f = (if o.holding then s.zeroState o else s).putOwn id (givenUp (f o)) := by
  rw [State.ownNone, own]
  rfl

end

/-! MOVE, GIVE, the copy, TAKE and ACK (R464, R468) -/

/-- The record of a taker that a GIVE of node `n` names. -/
def takingFrom (n : Nat) (m : OwnMsg) (o : Own) (s : State) : Own :=
  { o with
    token := .taking, epoch := m.epoch, acked := m.acked, holder := n, peer := n, wait := 0, copied := false
    restoring := false, stateAddr := s.fresh, len := m.len, phase := m.phase }

section
variable {s : State} {n : Nat} {m : OwnMsg} {o : Own}

theorem rxMove_held (own : s.own m.stateId.toNat = some o) (held : o.token = .held) (later : o.epoch < m.epoch) :
    s.rxMove n m = (s.putOwn m.stateId.toNat { o with token := .giving, epoch := m.epoch, peer := m.peer, wait := 0 }).sendOwn m.peer
      (({ o with token := .giving, epoch := m.epoch, peer := m.peer, wait := 0 } : Own).msg m.stateId.toNat 1) :=
  (ownMsg_current own (current_of_later later) _).trans (if_pos ⟨held, later⟩)

section
variable (pool : s.lk.pool = true)
include pool

theorem rxGive_known (own : s.own m.stateId.toNat = some o) (free : o.token = .none ∨ o.token = .released)
    (later : o.epoch < m.epoch) : s.rxGive n m = (s.putOwn m.stateId.toNat (takingFrom n m o s)).drawn := by
  have notTaking : ¬ (o.token = .taking ∧ o.epoch = m.epoch) := by
    rintro ⟨taking, -⟩
    rcases free with token | token <;> rw [token] at taking <;> cases taking
  rw [State.rxGive, own]
  refine (ownMsg_current own (current_of_later later) _).trans ((if_neg notTaking).trans ((if_pos ⟨free, later⟩).trans (if_neg ?_)))
  simp [pool]

theorem rxGive_new (unknown : s.own m.stateId.toNat = none) (room : s.ownRoom = true) :
    s.rxGive n m = (s.putOwn m.stateId.toNat (takingFrom n m {} s)).drawn := by
  rw [State.rxGive, unknown]
  refine (if_pos room).trans (if_neg ?_)
  simp [pool]

end

theorem exec_stateCopyComplete_taking (hh : s.halted = false) {id : Nat} (own : s.own id = some o) (taking : o.token = .taking)
    (notYet : o.copied = false) (copies : o.restoring = false) : exec (.stateCopyComplete id) s =
      .next ((s.putOwn id { o with copied := true, wait := 0 }).sendOwn o.peer (o.msg id 2)) := by
  show execStateCopyComplete id s = _
  rw [execStateCopyComplete, State.clocked_run _ _ hh]
  simp only [own]
  rw [if_pos ⟨taking, by simp [notYet], by simp [copies]⟩]

theorem rxTake_giving (own : s.own m.stateId.toNat = some o) (giving : o.token = .giving) (same : o.epoch = m.epoch) :
    s.rxTake n m = ((s.zeroState o).putOwn m.stateId.toNat { o with token := .released, acked := m.epoch, wait := 0 }).sendOwn n
      (({ o with token := .released, acked := m.epoch, wait := 0 } : Own).msg m.stateId.toNat 3) :=
  (ownMsg_current own (current_of_same same) _).trans ((if_neg (not_not_intro same)).trans (if_pos giving))

theorem rxAck_taking (own : s.own m.stateId.toNat = some o) (taking : o.token = .taking) (copied : o.copied = true)
    (same : o.epoch = m.epoch) : s.rxAck n m =
      (s.putOwn m.stateId.toNat (heldAt s.lk.nodeId { o with acked := m.epoch })).renew m.stateId.toNat :=
  (ownMsg_current own (current_of_same same) _).trans ((if_pos ⟨taking, copied, same⟩).trans (ownHeld_of_own own _ rfl))

end

/-- Settles O41: one law per message of a hand-over, and the end of its copy. -/
theorem handoverMessages : Obligations.HandoverMessages := by
  refine fun s hh => ⟨fun n m o own held later => ?move, fun n m o known pool => ?give, fun id o => exec_stateCopyComplete_taking hh,
    fun n m o own giving same => ?take, fun n m o own taking copied same => ?ack⟩
  case move => exact clocked_of_eq hh (rxMove_held own held later)
  case give =>
    refine clocked_of_eq hh ?_
    rcases known with ⟨own, free, later⟩ | ⟨unknown, room, rfl⟩
    · exact rxGive_known pool own free later
    · exact rxGive_new pool unknown room
  case take => exact clocked_of_eq hh (rxTake_giving own giving same)
  case ack => exact clocked_of_eq hh (rxAck_taking own taking copied same)

end Sys2Proof.Proofs
end

section
/-! SUPPORT. The statement of 14_shomea_links_and_pools on renewals, queries and their answers, revocation and restoration. -/
namespace Sys2Proof.Proofs
open Sys2Proof Sys2Proof.Machine Sys2Proof.Laws

section
variable {s : State} {n : Nat} {m : OwnMsg} {o : Own}

/-! RENEW and RENEW_ACK (R467, R469, R473) -/

/-- The record of an origin whose lease a RENEW starts again. -/
def leaseRenewed (m : OwnMsg) (o : Own) (s : State) : Own :=
  { o with leaseLeft := s.lk.leaseTides, renewed := true, acked := if o.acked < m.acked then m.acked else o.acked }

/-- The record is kept, and the RENEW answered. -/
def renewAnswered (n : Nat) (m : OwnMsg) (o : Own) (s : State) : State :=
  (s.putOwn m.stateId.toNat o).sendOwn n (o.msg m.stateId.toNat 5)

/-- What a RENEW that an origin accepts does: it ends a move when the peer sends it, and a replay that the record waits for. -/
def renewTaken (ends replay : Bool) (n : Nat) (m : OwnMsg) (o : Own) (s : State) : State :=
  let o1 := leaseRenewed m o s
  let o2 := if ends then { o1 with holder := n, peer := 0xFFF, wait := 0, stateAddr := m.addr, movePending := none }
    else if replay then { o1 with restoring := false, stateAddr := m.addr } else o1
  let s2 := if ends then (renewAnswered n m o2 s).pageDoneOpt o.movePending 0 0 else renewAnswered n m o2 s
  if replay then
    (s2.onLk fun x => { x with cReplays := x.cReplays + 1 }).event 0x0708 9 n [m.stateId, w64 n, o.epoch, w64 o.phase]
  else s2

section
variable (own : s.own m.stateId.toNat = some o) (current : ¬ m.epoch < o.epoch)
include own current

section
variable (origin : o.token = .origin) (same : o.epoch = m.epoch)
include origin same

theorem rxRenew_origin (sender : n = o.holder ∨ n = o.peer) :
    s.rxRenew n m = renewTaken (n == o.peer) (n == o.holder && o.restoring) n m o s := by
  have now : (o.epoch == m.epoch) = true := by simp [same]
  have accepted : ¬ (o.token ≠ .origin ∨
      (!((o.epoch == m.epoch && (n == o.holder || n == o.peer)) || o.oldRenew n m)) = true) := by
    simpa [origin, same] using fun notHolder notPeer => absurd sender (not_or.2 ⟨notHolder, notPeer⟩)
  rw [State.rxRenew, ownMsg_current own current]
  dsimp only
  rw [if_neg accepted]
  simp only [now, Bool.true_and]
  rfl

section
variable (holder : n = o.holder) (notPeer : n ≠ o.peer)
include holder notPeer

theorem rxRenew_holder (whole : o.restoring = false) : s.rxRenew n m = renewAnswered n m (leaseRenewed m o s) s := by
  rw [rxRenew_origin own current origin same (.inl holder), beq_false_of_ne notPeer, whole, Bool.and_false]
  rfl

theorem rxRenew_replayed (replays : o.restoring = true) : s.rxRenew n m =
    ((renewAnswered n m { leaseRenewed m o s with restoring := false, stateAddr := m.addr } s).onLk fun x => { x with
      cReplays := x.cReplays + 1 }).event 0x0708 9 n [m.stateId, w64 n, o.epoch, w64 o.phase] := by
  rw [rxRenew_origin own current origin same (.inl holder), beq_false_of_ne notPeer, replays, beq_iff_eq.2 holder]
  rfl

end

theorem rxRenew_peer (peer : n = o.peer) (notHolder : n ≠ o.holder) : s.rxRenew n m =
    (renewAnswered n m { leaseRenewed m o s with holder := n, peer := 0xFFF, wait := 0, stateAddr := m.addr, movePending := none }
      s).pageDoneOpt o.movePending 0 0 := by
  rw [rxRenew_origin own current origin same (.inr peer), beq_iff_eq.2 peer, beq_false_of_ne notHolder]
  rfl

end

theorem rxRenewAck_holding (holds : o.token = .held ∨ o.token = .giving) :
    s.rxRenewAck n m = s.putOwn m.stateId.toNat { o with unackedBoundaries := 0 } :=
  (ownMsg_current own current _).trans (if_pos holds)

/-! QUERY and ANSWER (R467, R470) -/

theorem rxQuery_known : s.rxQuery n m = s.sendOwn n { o.msg m.stateId.toNat 7 with token := o.token.code } := by
  rw [State.rxQuery, own]
  exact ownMsg_current own current _

/-- The higher one of the acknowledged epochs of a record and an ANSWER. -/
def ackedOf (m : OwnMsg) (o : Own) : Word := if o.acked < m.acked then m.acked else o.acked

/-- A hand-over is resolved: counted, and reported with what the node now is. -/
def resolvedAs (taken n : Nat) (m : OwnMsg) (o : Own) (s : State) : State :=
  (s.onLk fun x => { x with cResolved := x.cResolved + 1 }).event 0x0707 9 n [m.stateId, o.epoch, ackedOf m o, w64 taken]

section
variable (notReplay : o.restoring = false) (known : m.token ≠ 7)
include notReplay known

theorem rxAnswer_handover (stuck : o.token = .giving ∨ o.token = .taking) : s.rxAnswer n m =
    if ackedOf m o = o.epoch then
      if o.token = .taking then resolvedAs 1 n m o (s.ownHeld m.stateId.toNat fun p => { p with acked := ackedOf m o })
      else resolvedAs 4 n m o (s.putOwn m.stateId.toNat { o with token := .released, wait := 0 })
    else if o.token = .giving then resolvedAs 1 n m o (s.putOwn m.stateId.toNat { o with token := .held, peer := 0xFFF, wait := 0 })
    else resolvedAs 0 n m o (s.ownNone m.stateId.toNat fun o => o) := by
  have resolves : ¬ ((o.token ≠ .giving ∧ o.token ≠ .taking) ∨ o.restoring = true ∨ m.token = 7) := by
    rintro (⟨notGiving, notTaking⟩ | replay | unknown)
    · exact stuck.elim notGiving notTaking
    · simp [notReplay] at replay
    · exact known unknown
  refine (ownMsg_current own current _).trans ((if_neg resolves).trans ?_)
  rfl

section
variable (taking : o.token = .taking)
include taking

theorem rxAnswer_taken (acked : ackedOf m o = o.epoch) : s.rxAnswer n m = resolvedAs 1 n m o
    ((s.putOwn m.stateId.toNat (heldAt s.lk.nodeId { o with acked := ackedOf m o })).renew m.stateId.toNat) := by
  rw [rxAnswer_handover own current notReplay known (.inr taking), if_pos acked, if_pos taking, ownHeld_of_own own _ rfl]

theorem rxAnswer_notTaken (older : ackedOf m o ≠ o.epoch) : s.rxAnswer n m = resolvedAs 0 n m o
    ((if o.holding then s.zeroState o else s).putOwn m.stateId.toNat (givenUp o)) := by
  rw [rxAnswer_handover own current notReplay known (.inr taking), if_neg older, if_neg (by simp [taking]), ownNone_of_own own]

end

section
variable (giving : o.token = .giving)
include giving

theorem rxAnswer_released (acked : ackedOf m o = o.epoch) : s.rxAnswer n m =
    resolvedAs 4 n m o (s.putOwn m.stateId.toNat { o with token := .released, wait := 0 }) := by
  rw [rxAnswer_handover own current notReplay known (.inl giving), if_pos acked, if_neg (by simp [giving])]

theorem rxAnswer_heldAgain (older : ackedOf m o ≠ o.epoch) : s.rxAnswer n m =
    resolvedAs 1 n m o (s.putOwn m.stateId.toNat { o with token := .held, peer := 0xFFF, wait := 0 }) := by
  rw [rxAnswer_handover own current notReplay known (.inl giving), if_neg older, if_pos giving]

end

end

/-! REVOKE and RESTORE (R464, R473) -/

/-- The record of a new holder that restores a state from its image. -/
def restoringFrom (m : OwnMsg) (o : Own) (s : State) : Own :=
  { o with
    token := .taking, epoch := m.epoch, holder := s.lk.nodeId, peer := 0xFFF, wait := 0, copied := false, restoring := true
    ckptAddr := m.addr, ckptNode := m.addr.toNat / 2 ^ 52, stateAddr := s.fresh, len := m.len, phase := m.phase }

section
variable (notOrigin : o.token ≠ .origin) (later : o.epoch < m.epoch)
include notOrigin later

theorem rxRevoke_later : s.rxRevoke n m =
    (if o.holding then s.zeroState o else s).putOwn m.stateId.toNat (givenUp { o with epoch := m.epoch }) :=
  (ownMsg_current own current _).trans ((if_pos ⟨notOrigin, later⟩).trans (ownNone_of_own own _))

theorem rxRestore_later (pool : s.lk.pool = true) :
    s.rxRestore n m = (s.putOwn m.stateId.toNat (restoringFrom m o s)).drawn := by
  rw [State.rxRestore, own]
  refine (ownMsg_current own current _).trans ((if_pos ⟨notOrigin, later⟩).trans (if_neg ?_))
  simp [pool]

end

end

section
variable (unknown : s.own m.stateId.toNat = none)
include unknown

theorem rxQuery_unknown : s.rxQuery n m = s.sendOwn n { msg := 7, token := 7, stateId := m.stateId, epoch := m.epoch } := by
  rw [State.rxQuery, unknown]

theorem rxRestore_new (room : s.ownRoom = true) (pool : s.lk.pool = true) :
    s.rxRestore n m = (s.putOwn m.stateId.toNat (restoringFrom m {} s)).drawn := by
  rw [State.rxRestore, unknown]
  refine (if_pos room).trans (if_neg ?_)
  simp [pool]

end

end

/-- Settles O42: each message by whether its record is known, by the token and the epoch of the record, and a RENEW by its sender. -/
theorem leaseAndQueryMessages : Obligations.LeaseAndQueryMessages := by
  intro n m s hh
  refine ⟨fun unknown => ⟨clocked_of_eq hh (rxQuery_unknown unknown), fun room pool => clocked_of_eq hh (rxRestore_new unknown room pool)⟩,
    fun o own current => ⟨fun origin same => ?renew, fun holds => clocked_of_eq hh (rxRenewAck_holding own current holds),
      clocked_of_eq hh (rxQuery_known own current), fun notReplay known => ?answer, fun notOrigin later => ?above⟩⟩
  case renew =>
    exact ⟨fun holder notPeer whole => clocked_of_eq hh (rxRenew_holder (m := { m with msg := 4 }) own current origin same holder notPeer whole),
      fun holder notPeer replays => clocked_of_eq hh (rxRenew_replayed (m := { m with msg := 4 }) own current origin same holder notPeer replays),
      fun peer notHolder => clocked_of_eq hh (rxRenew_peer (m := { m with msg := 4 }) own current origin same peer notHolder)⟩
  case answer =>
    exact ⟨fun taking acked => clocked_of_eq hh (rxAnswer_taken own current notReplay known taking acked),
      fun giving acked => clocked_of_eq hh (rxAnswer_released own current notReplay known giving acked),
      fun giving older => clocked_of_eq hh (rxAnswer_heldAgain own current notReplay known giving older),
      fun taking older => clocked_of_eq hh (rxAnswer_notTaken own current notReplay known taking older)⟩
  case above =>
    exact ⟨clocked_of_eq hh (rxRevoke_later own current notOrigin later),
      fun pool => clocked_of_eq hh (rxRestore_later own current notOrigin later pool)⟩

end Sys2Proof.Proofs
end

section
/-! SUPPORT. The statement of 14_shomea_links_and_pools on replay, checkpoints and what the timers of ownership do. -/
namespace Sys2Proof.Proofs
open Sys2Proof Sys2Proof.Machine Sys2Proof.Laws

/-! CKPT and CKPT_ACK (R472, R577) -/

section
variable {s : State} {n : Nat} {m : OwnMsg} {o : Own} (own : s.own m.stateId.toNat = some o) (current : ¬ m.epoch < o.epoch)
include own current

/-- The record of an origin that a checkpoint names. -/
def checkpointed (m : OwnMsg) (o : Own) : Own := { o with phase := m.phase, ckptAddr := m.addr, len := m.len, ckptPending := none }

theorem rxCkpt_holder (origin : o.token = .origin) (holder : n = o.holder) : s.rxCkpt n m =
    ((s.putOwn m.stateId.toNat (checkpointed m o)).sendOwn n { (checkpointed m o).msg m.stateId.toNat 11 with
      addr := m.addr }).pageDoneOpt o.ckptPending 0 0 := by
  have accepted : ¬ (o.token ≠ .origin ∨ n ≠ o.holder) := by simp [origin, holder]
  exact (ownMsg_current own current _).trans (if_neg accepted)

theorem rxCkptAck_held (held : o.token = .held) : s.rxCkptAck n m = (s.putOwn m.stateId.toNat { o with
    phase := m.phase, ckptAddr := m.addr, ckptPending := none }).pageDoneOpt o.ckptPending 0 0 :=
  (ownMsg_current own current _).trans (if_pos held)

end

/-! Commands on a record that the module has (R469, R470, R473) -/

section
variable {s : State} {id : Nat} {o : Own} (hh : s.halted = false) (own : s.own id = some o)
include hh own

theorem exec_stateReplay_restoring (taking : o.token = .taking) (replays : o.restoring = true) :
    exec (.stateReplay id) s = .next ((s.putOwn id (heldAt s.lk.nodeId o)).renew id) := by
  show execStateReplay id s = _
  rw [execStateReplay, State.clocked_run _ _ hh]
  simp only [own]
  rw [if_pos ⟨taking, replays⟩, ownHeld_of_own own _ rfl]

theorem exec_handoverQuery_waited (between : o.token = .giving ∨ o.token = .taking) (notReplay : o.restoring = false)
    (waited : 2 ≤ o.wait) : exec (.handoverQuery id) s = .next (s.sendOwn o.peer (o.msg id 6)) := by
  show execHandoverQuery id s = _
  rw [execHandoverQuery, State.clocked_run _ _ hh]
  simp only [own]
  rw [if_pos ⟨between, by simp [notReplay], waited⟩]

/-- The record of an origin that reclaims its state for holder `nh`. -/
def reclaimed (nh : Nat) (o : Own) (s : State) : Own :=
  { o with
    epoch := o.epoch + 1, holder := nh, peer := 0xFFF, wait := 0, restoring := true
    leaseLeft := s.lk.leaseTides, renewed := false, movePending := none }

/-- The expiry is counted and reported, and the old holder revoked. -/
def leaseExpired (id nh : Nat) (o : Own) (s : State) : State :=
  (((s.putOwn id (reclaimed nh o s)).onLk fun x => { x with cExpired := x.cExpired + 1 }).event 0x0706 9 o.holder
    [w64 id, w64 o.holder, (reclaimed nh o s).epoch]).sendOwn o.holder ((reclaimed nh o s).msg id 8)

/-- A peer that was set is revoked too. -/
def peerRevoked (id nh : Nat) (o : Own) (s : State) : State :=
  if o.peer = 0xFFF then leaseExpired id nh o s else (leaseExpired id nh o s).sendOwn o.peer ((reclaimed nh o s).msg id 8)

theorem exec_leaseExpired_origin {nh : Nat} (origin : o.token = .origin) (ended : o.leaseLeft = 0) (other : nh ≠ o.holder) :
    exec (.leaseExpired id nh) s = .next (((peerRevoked id nh o s).sendOwn nh { (reclaimed nh o s).msg id 9 with
      addr := (reclaimed nh o s).ckptAddr }).pageDoneOpt o.movePending 0 0) := by
  have expires : ¬ (o.token ≠ .origin ∨ o.leaseLeft ≠ 0 ∨ nh = o.holder) := by simp [origin, ended, other]
  show execLeaseExpired id nh s = _
  rw [execLeaseExpired, State.clocked_run _ _ hh]
  simp only [own]
  exact congrArg _ (if_neg expires)

theorem exec_orphaned_holding (holds : o.token = .held ∨ o.token = .giving) (unheard : 2 * s.lk.leaseTides ≤ o.unackedBoundaries) :
    exec (.orphaned id) s =
      .next (((s.onLk fun x => { x with cOrphaned := x.cOrphaned + 1 }).zeroState o).putOwn id (givenUp o)) := by
  have holding : o.holding = true := by rcases holds with token | token <;> simp [Own.holding, token]
  show execOrphaned id s = _
  rw [execOrphaned, State.clocked_run _ _ hh]
  simp only [own]
  have counted : (s.onLk fun x => { x with cOrphaned := x.cOrphaned + 1 }).own id = some o := own
  rw [if_pos ⟨holds, unheard⟩, ownNone_of_own counted, if_pos holding]

end

/-- Settles O43: one law per message of a checkpoint and per timer of a record. -/
theorem checkpointAndLeaseTimers : Obligations.CheckpointAndLeaseTimers := by
  refine fun s hh => ⟨fun id o => exec_stateReplay_restoring hh, fun n m o own current origin holder => ?ckpt,
    fun n m o own current held => ?ckptAck, fun id o => exec_handoverQuery_waited hh,
    fun id nh o own origin ended other => exec_leaseExpired_origin hh own origin ended other, fun id o => exec_orphaned_holding hh⟩
  case ckpt => exact clocked_of_eq hh (rxCkpt_holder own current origin holder)
  case ckptAck => exact clocked_of_eq hh (rxCkptAck_held own current held)

end Sys2Proof.Proofs
end

section
/-! SUPPORT. The statement of 14_shomea_links_and_pools on the pool role, the port registers and the node table. -/
namespace Sys2Proof.Proofs
open Sys2Proof Sys2Proof.Machine Sys2Proof.Laws

section
variable {s : State} (hh : s.halted = false)
include hh

/-! LK_ROLE_REQ and ROLE_SHIFT (R464, R465) -/

/-- What a write of LK_ROLE does to the request for the role `pool` (R465, R476). -/
def roleAsked (pool : Bool) (s : State) : State :=
  if pool = s.lk.pool ∧ s.lk.roleReq.isNone then s
  else if s.lk.shifting ∨ (if pool then s.computeBusy else s.lk.own.any fun o => o.2.holding) then s.lkRefused
  else s.onLk fun x => { x with roleReq := if pool = s.lk.pool then none else some pool }

theorem exec_lkRoleReq_privileged {m : Master} {v : Word} {pool : Bool} (hm : m.privileged = true) (asks : bit v 8 = pool) :
    exec (.lkRoleReq m v) s = .next (roleAsked pool s) := by
  subst asks
  show execLkRoleReq m v s = _
  rw [execLkRoleReq, clocked_privWrite_run hh hm (harbourBlock_present s (by decide))]
  rfl

omit hh in
/-- A request is kept or taken back once nothing is in its way and it changes something. -/
theorem roleAsked_free {pool : Bool} (changes : ¬ (pool = s.lk.pool ∧ s.lk.roleReq = none)) (noShift : s.lk.shifting = false)
    (toPool : pool = true → s.computeBusy = false) (fromPool : pool = false → s.lk.own.any (fun o => o.2.holding) = false) :
    roleAsked pool s = s.onLk fun x => { x with roleReq := if pool = s.lk.pool then none else some pool } := by
  have free : ¬ (s.lk.shifting = true ∨ (if pool then s.computeBusy else s.lk.own.any fun o => o.2.holding) = true) := by
    cases pool with
    | true => simp [noShift, toPool]
    | false => simpa [noShift] using fromPool rfl
  rw [roleAsked, if_neg (by simpa using changes), if_neg free]

omit hh in
theorem roleAsked_held (noRequest : s.lk.roleReq = none) : roleAsked s.lk.pool s = s :=
  if_pos ⟨rfl, by simp [noRequest]⟩

theorem exec_roleShift_shifting {r : Bool} (shifts : s.lk.shifting = true) (request : s.lk.roleReq = some r) :
    exec .roleShift s = .next ((s.onLk fun x => { x with
      pool := r, shifting := false, roleReq := none, berthWait := !r }).event 0x0705 0 0
        [w64 (if s.lk.pool then 1 else 0), w64 (if r then 1 else 0)]) := by
  show execRoleShift s = _
  rw [execRoleShift, State.clocked_run _ _ hh]
  simp only [shifts, request]

/-! LKP_RETRAIN and LKP_DISABLE (R445–R447, R477) -/

omit hh in
theorem lt_of_portPresent {p : Nat} (present : s.portPresent p = true) : p < 16 := by
  unfold State.portPresent at present
  split at present <;> have inRange := of_decide_eq_true present <;> omega

omit hh in
theorem portPage_present {p r : Nat} (present : s.portPresent p = true) (inPage : r < 0x1000) :
    s.absentUnit (0x190000 + p * 0x1000 + r) = false := by
  have inRange := lt_of_portPresent present
  simp only [State.absentUnit]
  rw [if_pos (by omega), show (0x190000 + p * 0x1000 + r - 0x190000) / 0x1000 = p by omega, present, Bool.not_true]

section
variable {m : Master} {p : Nat} (hm : m.privileged = true) (present : s.portPresent p = true)
include hm present

theorem exec_lkpRetrain_present : exec (.lkpRetrain m p) s = .next (s.portRetrain p) := by
  have page : s.absentUnit (0x190008 + p * 0x1000) = false := by
    simpa [Nat.add_right_comm] using portPage_present (r := 8) present (by decide)
  show execLkpRetrain m p s = _
  rw [execLkpRetrain, clocked_privWrite_run hh hm page, if_pos present]

theorem exec_lkpDisable_present (v : Word) : exec (.lkpDisable m p v) s = .next (s.portDisable p (bit v 1)) := by
  have page : s.absentUnit (0x190008 + p * 0x1000) = false := by
    simpa [Nat.add_right_comm] using portPage_present (r := 8) present (by decide)
  show execLkpDisable m p v s = _
  rw [execLkpDisable, clocked_privWrite_run hh hm page, if_pos present]

end

omit hh in
theorem portRetrain_notFailed {p : Nat} (works : (s.port p).st ≠ .failed) : s.portRetrain p = s.retrain p := if_neg works

/-! LK_NODE (R528–R531) -/

theorem exec_lkNodeWrite_inRange {m : Master} {n : Nat} (e : Nat) (hm : m.privileged = true) (below : n < 4096) :
    exec (.lkNodeWrite m n e) s = .next (s.writeNode n (e % 256)) := by
  show execLkNodeWrite m n e s = _
  rw [execLkNodeWrite, clocked_privWrite_run hh hm (harbourBlock_present s (by omega)), Nat.mod_eq_of_lt below]

end

/-- Settles O44: the role request by what it asks, the shift of a role, a port register by the state of its port, and a node entry that
may be written. -/
theorem rolesPortsAndNodes : Obligations.RolesPortsAndNodes := by
  refine fun s hh => ⟨fun m v hm noShift => ⟨fun toPool notPool free => ?toPool, fun fromPool pool free => ?fromPool,
      fun same noRequest => ?same, fun same busyPool busyOwn request => ?takenBack⟩,
    fun r => exec_roleShift_shifting hh, fun m p hm present => ?port, fun m n e hm below may => ?node⟩
  case toPool =>
    rw [exec_lkRoleReq_privileged hh hm toPool, roleAsked_free (by simp [notPool]) noShift (fun _ => free) (by simp),
      if_neg (by simp [notPool])]
  case fromPool =>
    rw [exec_lkRoleReq_privileged hh hm fromPool, roleAsked_free (by simp [pool]) noShift (by simp) (fun _ => free),
      if_neg (by simp [pool])]
  case same => rw [exec_lkRoleReq_privileged hh hm same, roleAsked_held noRequest]
  case takenBack =>
    rw [exec_lkRoleReq_privileged hh hm same, roleAsked_free (by simp [request]) noShift busyPool busyOwn, if_pos rfl]
  case port =>
    have retrains := exec_lkpRetrain_present hh hm present
    have disables := exec_lkpDisable_present hh hm present
    refine ⟨fun failed => retrains.trans (congrArg _ (if_pos failed)), fun up => retrains.trans (congrArg _ ?_),
      fun works notUp => retrains.trans (congrArg _ ?_), fun v off => (disables v).trans (congrArg _ ?_),
      fun v on => (disables v).trans (congrArg _ ?_)⟩
    · exact (portRetrain_notFailed (by simp [up])).trans (if_neg (not_not_intro up))
    · exact (portRetrain_notFailed works).trans (if_pos notUp)
    · rw [off]; rfl
    · rw [on]; rfl
  case node =>
    have mayWrite : ¬ (n = s.lk.nodeId ∧ s.linksActive = true) := by
      rintro ⟨own, active⟩
      rcases may with other | idle
      · exact other own
      · simp [idle] at active
    exact (exec_lkNodeWrite_inRange hh e hm below).trans (congrArg _ (if_neg mayWrite))

end Sys2Proof.Proofs
end

section
/-! SUPPORT. The statement of 15_power_and_health on the low-power commands, the entry, the wakes and the resume. -/
namespace Sys2Proof.Proofs
open Sys2Proof Sys2Proof.Machine Sys2Proof.Laws

theorem halted_of_running {s : State} (runs : s.running = true) : s.halted = false := halted_of_live (live_of_running runs)

theorem not_running_neg {s : State} (runs : s.running = true) : ¬ (!s.running) = true := by simp [runs]

section
variable {s : State} (runs : s.running = true)
include runs

/-! The commands (R478, R479, R482) -/

section
variable {m : Master} (hm : m.privileged = true)
include hm

/-- A command of the manager to a running module is a write of its TARGET (R510). -/
theorem clocked_cmdWrite_running (target : Nat) :
    s.clocked (if !s.running then s else s.cmdWrite m target) = .next (s.writeCmd (w64 target)) := by
  rw [if_neg (not_running_neg runs)]
  exact clocked_privWrite_run (halted_of_running runs) hm (harbourBlock_present s (by decide)) _

theorem exec_pwCmdActive_running : exec (.pwCmdActive m) s = .next s.idleWake := clocked_cmdWrite_running runs hm 0
theorem exec_pwCmdIdle_running : exec (.pwCmdIdle m) s = .next s.cmdIdle := clocked_cmdWrite_running runs hm 1
theorem exec_pwCmdWatch_running : exec (.pwCmdWatch m) s = .next (s.cmdDeep .watch) := clocked_cmdWrite_running runs hm 2
theorem exec_pwCmdHold_running : exec (.pwCmdHold m) s = .next (s.cmdDeep .hold) := clocked_cmdWrite_running runs hm 3

end

omit runs in
theorem cmdIdle_active (free : s.lowPowerBusy = false) (active : s.pw.st = .active) : s.cmdIdle =
    ((s.onPw fun w => { w with st := .idle, waking := false, brownHold := false, holdCount := 0 }).setRegions).pstateEvent
      .active .idle false :=
  (if_neg (Bool.eq_false_iff.1 free)).trans (if_neg (not_not_intro active))

omit runs in
theorem cmdDeep_awake (target : PState) (free : s.lowPowerBusy = false) (notDeep : s.deepBusy = false)
    (awake : s.pw.st = .active ∨ s.pw.st = .idle) :
    s.cmdDeep target = s.onPw fun w => { w with transit := true, entered := false, target := target, waking := false } :=
  (if_neg (not_or.2 ⟨Bool.eq_false_iff.1 free, Bool.eq_false_iff.1 notDeep⟩)).trans
    (if_neg fun asleep => awake.elim asleep.1 asleep.2)

omit runs in
theorem cmdDeep_refused (target : PState) (busy : s.lowPowerBusy = true ∨ s.deepBusy = true) : s.cmdDeep target = s.pwRefused :=
  if_pos busy

/-! Wakes (R480, R483) -/

omit runs in
theorem idleWake_idle (idle : s.pw.st = .idle) : s.idleWake = s.onPw fun w => { w with waking := true } := if_pos idle

omit runs in
theorem idleWake_notIdle (notIdle : s.pw.st ≠ .idle) : s.idleWake = s := if_neg notIdle

omit runs in
/-- A wake that IDLE has taken is no wake of WATCH or HOLD. -/
theorem deepWake_idle (staying : s.pw.transit = false) (idle : s.pw.st = .idle) : s.deepWake = s := by
  rw [State.deepWake, if_neg (Bool.eq_false_iff.1 staying), if_neg (by simp [idle])]

theorem exec_wakeN_running : exec .wakeN s = .next s.idleWake.deepWake := by
  show execWakeN s = _
  rw [execWakeN, State.clocked_run _ _ (halted_of_running runs), if_neg (not_running_neg runs)]

theorem exec_idleWakeTraffic_running : exec .idleWakeTraffic s = .next s.idleWake := by
  show execIdleWakeTraffic s = _
  rw [execIdleWakeTraffic, State.clocked_run _ _ (halted_of_running runs), if_neg (not_running_neg runs)]

/-! The end of an entry and of a resume (R80, R482–R484, R508) -/

/-- The saved set is written, the rails have gone, the tides have stopped, and the module is in its target state. -/
def deepEntered (s : State) : State :=
  ((((s.keepEvent 0x0800 0 0 [pair s.pw.st.code s.pw.target.code, 0]).railsOff.onTide fun t =>
    { t with shadow := t.num, stopped := true }).onPw fun w => { w with
      st := w.target, transit := false, entered := false, light := [], watchAlert := false }).setRegions).powerOff 2

theorem exec_lowpowerEntryDone_entered (entering : s.pw.transit = true) (prepared : s.pw.entered = true) :
    exec .lowpowerEntryDone s = .next (if s.pw.waking then (deepEntered s).startResume else deepEntered s) := by
  show execLowpowerEntryDone s = _
  rw [execLowpowerEntryDone, State.clocked_run _ _ (halted_of_running runs), if_neg (by simp [runs, entering, prepared])]
  rfl

/-- The registers of the module once it has the load image's fields, and the saved ones where their CRC is good. -/
def resumeRestored (crc : Bool) (s : State) : State := if crc then s.restoreSaved s.resumeBase else s.resumeBase

/-- The clusters are gated as before the entry, and the tides run on from the shadow. -/
def resumeStarted (crc : Bool) (s : State) : State :=
  ((foldState ((List.range 32).filter s.clusterPresent) (fun a c => a.onCluster c fun x => { x with
    gated := !s.pw.savedUngated.contains c, request := none }) (resumeRestored crc s)).onTide fun t => { t with
      num := t.shadow + 1, stopped := false }).onBoot fun b => { b with life := .running }

theorem exec_resumeDone_resuming (crc : Bool) (resumes : s.pw.resuming = true) (good : s.railsGood = true) :
    exec (.resumeDone crc) s =
      .next (((((((resumeStarted crc s).raiseKept.raiseAlerts).pstateEvent s.pw.st .active (!crc)).decideJob).setRegions).trainPorts).onCrc
        fun c => { c with adopting := true }) := by
  show execResumeDone crc s = _
  rw [execResumeDone, State.clocked_run _ _ (halted_of_running runs), if_neg (by simp [runs, resumes, good])]
  rfl

/-! WATCH_SAMPLE (R485, R486) -/

/-- A sample of source `x` is logged, and is the light of its port where the source is a detector. -/
def sampleLogged (ms x v : Nat) (s : State) : State :=
  ((s.logBytes (0x30000 + 16 * s.pw.watchNext)).onPw fun w => { w with
    watchLog := logPut w.watchLog ⟨ms, x, v, s.outside x v⟩, watchNext := (w.watchNext + 1) % 4096, watchAlert := s.outside x v
    light := if 129 ≤ x then tabPut w.light (x - 129) v else w.light }).onPins fun p => { p with alert := s.outside x v }

theorem exec_watchSample_one {ms x v : Nat} (watch : s.pw.st = .watch) (notYet : s.pw.resuming = false) (source : x < 145) :
    exec (.watchSample ms [(x, v)]) s = .next (sampleLogged ms x v s) := by
  have light (t : Tab Nat) : ([(x, v)].filter fun y => decide (129 ≤ y.1 ∧ y.1 < 145)).foldl (fun t y => tabPut t (y.1 - 129) y.2) t =
      if 129 ≤ x then tabPut t (x - 129) v else t := by
    by_cases detector : 129 ≤ x <;> simp [detector, source]
  show execWatchSample ms [(x, v)] s = _
  rw [execWatchSample, State.clocked_run _ _ (halted_of_running runs), if_neg (by simp [runs, watch, notYet])]
  simp only [light, sampleLogged]
  cases out : s.outside x v <;> simp [out]

end

/-- Settles O45: each command by what is in its way, each wake by the power state, and the end of an entry by whether a wake waits. -/
theorem powerStateCommands : Obligations.PowerStateCommands := by
  refine ⟨fun m s runs hm free active => ?idle, fun m s runs hm free notDeep awake => ?deep, fun m s runs hm busy => ?busy,
    fun m s runs hm busy => ?deepBusy, fun m s runs hm idle staying => ?wakeIdle, fun s runs entering prepared => ?entry,
    fun s runs staying asleep notYet => ?wakeDeep, fun s runs entering active => ?wakeEntering,
    fun crc s runs resumes good => exec_resumeDone_resuming runs crc resumes good,
    fun ms x v s runs watch notYet source => exec_watchSample_one runs watch notYet source⟩
  case idle => exact (exec_pwCmdIdle_running runs hm).trans (congrArg _ (cmdIdle_active free active))
  case deep =>
    exact ⟨(exec_pwCmdWatch_running runs hm).trans (congrArg _ (cmdDeep_awake .watch free notDeep awake)),
      (exec_pwCmdHold_running runs hm).trans (congrArg _ (cmdDeep_awake .hold free notDeep awake))⟩
  case busy =>
    exact ⟨(exec_pwCmdIdle_running runs hm).trans (congrArg _ (if_pos busy)),
      (exec_pwCmdWatch_running runs hm).trans (congrArg _ (cmdDeep_refused .watch (.inl busy))),
      (exec_pwCmdHold_running runs hm).trans (congrArg _ (cmdDeep_refused .hold (.inl busy)))⟩
  case deepBusy =>
    exact ⟨(exec_pwCmdWatch_running runs hm).trans (congrArg _ (cmdDeep_refused .watch (.inr busy))),
      (exec_pwCmdHold_running runs hm).trans (congrArg _ (cmdDeep_refused .hold (.inr busy)))⟩
  case wakeIdle =>
    have wakes := idleWake_idle idle
    refine ⟨(exec_pwCmdActive_running runs hm).trans (congrArg _ wakes), (exec_idleWakeTraffic_running runs).trans (congrArg _ wakes), ?_⟩
    have stays : (s.onPw fun w => { w with waking := true }).deepWake = s.onPw fun w => { w with waking := true } :=
      deepWake_idle staying idle
    rw [exec_wakeN_running runs, wakes, stays]
  case entry =>
    have enters := exec_lowpowerEntryDone_entered runs entering prepared
    exact ⟨fun noWake => enters.trans (congrArg _ (if_neg (Bool.eq_false_iff.1 noWake))),
      fun waking => enters.trans (congrArg _ (if_pos waking))⟩
  case wakeDeep =>
    have notIdle : s.pw.st ≠ .idle := by rcases asleep with st | st <;> simp [st]
    rw [exec_wakeN_running runs, idleWake_notIdle notIdle, deepWake_asleep staying asleep notYet]
    rfl
  case wakeEntering => rw [exec_wakeN_running runs, idleWake_notIdle (by simp [active]), deepWake_entering entering]

end Sys2Proof.Proofs
end

section
/-! SUPPORT. The statement of 15_power_and_health on AVSBus requests, the power budget, boost and droop. -/
namespace Sys2Proof.Proofs
open Sys2Proof Sys2Proof.Machine Sys2Proof.Laws

section
variable {s : State} (hh : s.halted = false)
include hh

/-! AVS_REQUEST, AVS_STATUS_POLL and AVS_TIMEOUT (R488–R490) -/

section
variable {r : Nat} (rail : r < 4)
include rail

theorem exec_avsRequest_idle (mv : Nat) (idle : (s.rail r).req = none) :
    exec (.avsRequest r mv) s = .next ((s.onRail r fun x => { x with req := some { mv := mv } }).emit (.avs r 0 mv)) := by
  show execAvsRequest r mv s = _
  rw [execAvsRequest, State.clocked_run _ _ hh, if_neg (Nat.not_le.2 rail)]
  simp only [idle]

section
variable {q : AvsReq} (request : (s.rail r).req = some q)
include request

theorem exec_avsRequest_waiting (mv : Nat) (waits : q.sent = false) : exec (.avsRequest r mv) s =
    .next ((s.onRail r fun x => { x with req := some { q with sent := true } }).emit (.avs r 0 q.mv)) := by
  show execAvsRequest r mv s = _
  rw [execAvsRequest, State.clocked_run _ _ hh, if_neg (Nat.not_le.2 rail)]
  simp only [request]
  rw [if_neg (Bool.eq_false_iff.1 waits)]

section
variable (sent : q.sent = true)
include sent

theorem exec_avsRequest_sent (mv : Nat) : exec (.avsRequest r mv) s = .next s := by
  show execAvsRequest r mv s = _
  rw [execAvsRequest, State.clocked_run _ _ hh, if_neg (Nat.not_le.2 rail)]
  simp only [request]
  rw [if_pos sent]

/-- The acknowledgement of a rail's last transaction is `a`. -/
def railAcked (r a : Nat) (s : State) : State := s.onRail r fun x => { x with lastAck := a }

omit hh request in
/-- A request was sent on a rail of the module, so a poll or a time-out looks at it. -/
theorem sent_request_guard : ¬ ((!q.sent) = true ∨ 4 ≤ r) := by simp [sent, rail]

theorem exec_avsStatusPoll_good : exec (.avsStatusPoll r 0 true) s =
    .next ((railAcked r 0 s).onRail r fun x => { x with mv := q.mv, req := none, fault := false }) := by
  show execAvsStatusPoll r 0 true s = _
  rw [execAvsStatusPoll, State.clocked_run _ _ hh]
  simp only [request]
  rw [if_neg (sent_request_guard rail sent)]
  rfl

theorem exec_avsStatusPoll_notDone : exec (.avsStatusPoll r 0 false) s = .next (railAcked r 0 s) := by
  show execAvsStatusPoll r 0 false s = _
  rw [execAvsStatusPoll, State.clocked_run _ _ hh]
  simp only [request]
  rw [if_neg (sent_request_guard rail sent)]
  rfl

theorem exec_avsStatusPoll_bad {a : Nat} (v : Bool) (bad : a ≠ 0) :
    exec (.avsStatusPoll r a v) s = .next ((railAcked r a s).avsFails r q) := by
  show execAvsStatusPoll r a v s = _
  rw [execAvsStatusPoll, State.clocked_run _ _ hh]
  simp only [request]
  rw [if_neg (sent_request_guard rail sent), if_pos bad]
  rfl

theorem exec_avsTimeout_sent : exec (.avsTimeout r) s = .next (s.avsFails r q) := by
  show execAvsTimeout r s = _
  rw [execAvsTimeout, State.clocked_run _ _ hh]
  simp only [request]
  rw [if_neg (sent_request_guard rail sent)]

end

end

end

/-! PW_BUDGET and PW_HSUB (R492–R494, R510) -/

theorem exec_pwBudgetWrite_allowed {m : Master} (v : Word) (may : m = .sideband ∨ m.privileged = true) :
    exec (.pwBudgetWrite m v) s = .next (s.writeBudget m v) := by
  show execPwBudgetWrite m v s = _
  rw [execPwBudgetWrite, State.clocked_run _ _ hh]
  by_cases own : m = .sideband
  · rw [if_pos own]
  · rw [if_neg own, State.privWrite_run (may.resolve_left own) (harbourBlock_present s (by decide))]

omit hh in
theorem writeBudget_inRange {m : Master} {v : Word} (low : 1200 ≤ bits v 0 12) (high : bits v 0 12 ≤ 3600) :
    s.writeBudget m v =
      (s.onPw fun x => { x with capW := bits v 0 12, source := if m = .sideband then 2 else 1 }).decideJob :=
  if_neg (not_or.2 ⟨Nat.not_lt.2 low, Nat.not_lt.2 high⟩)

theorem exec_pwHsubWrite_inRange {m : Master} {j : Nat} (v : Word) (hm : m.privileged = true) (below : j < 16) :
    exec (.pwHsubWrite m j v) s = .next (s.writeHsub j v) := by
  show execPwHsubWrite m j v s = _
  rw [execPwHsubWrite, clocked_privWrite_run hh hm (harbourBlock_present s (by omega)), if_neg (Nat.not_le.2 below)]

end

section
variable {s : State} (runs : s.running = true)
include runs

/-! BOOST_UPDATE and DROOP (R496, R511) -/

/-- The base frequencies of the regions. -/
def baseFreqs (s : State) : Tab Nat := (List.range 16).map fun r => (r, s.baseFreq r)

/-- The next frequencies of the regions, from the measured power of the module and its harbours. -/
def boostDecided (s : State) : State :=
  s.onPw fun w => { w with regionNext := (s.boostRaise (baseFreqs s) (s.boostLower
    { freq := baseFreqs s, module := s.pw.moduleW * 100, harbours := s.pw.harbourW.map fun h => (h.1, h.2 * 100) })).freq }

/-- The rail of die `d` is asked for the voltage that the frequencies of `t` need. -/
def boostAsk (t : State) (d : Nat) (a : State) : State := if (t.rail d).mv < t.boostVolt d then a.railAsk d (t.boostVolt d) else a

theorem exec_boostUpdate_boosting (boosts : s.pw.boost = true) (active : s.pw.st = .active) (notBraked : s.pw.brown = false)
    (notHeld : s.pw.brownHold = false) : exec .boostUpdate s =
      .next (boostAsk (boostDecided s) 1 (boostAsk (boostDecided s) 0 (boostDecided s))) := by
  show execBoostUpdate s = _
  rw [execBoostUpdate, State.clocked_run _ _ (halted_of_running runs),
    if_neg (by simp [runs, boosts, active, notBraked, notHeld])]
  simp only [foldState, List.foldl_cons, List.foldl_nil, boostAsk, boostDecided, baseFreqs]
  rfl

theorem exec_droop_clocked {r : Nat} (region : r < 16) (clocked : s.regionFreq r ≠ 0) :
    exec (.droop r) s = .next (s.onPw fun w => { w with cDroop := w.cDroop + 1 }) := by
  show execDroop r s = _
  rw [execDroop, State.clocked_run _ _ (halted_of_running runs), if_neg (by simp [runs, region, clocked])]

end

/-- Settles O46: a request by whether it waits or was sent, its end by the acknowledgement and the tries, and one law per register and
sample. -/
theorem railAndBudgetCommands : Obligations.RailAndBudgetCommands := by
  refine fun s hh => ⟨fun r mv rail => exec_avsRequest_idle hh rail mv, fun r mv q rail request => ?request,
    fun r q rail request sent => ?sent, fun m v may => ?budget, fun m j v hm below => exec_pwHsubWrite_inRange hh v hm below,
    fun runs boosts active notBraked notHeld => exec_boostUpdate_boosting runs boosts active notBraked notHeld, fun r runs region clocked => exec_droop_clocked runs region clocked⟩
  case request =>
    exact ⟨fun waits => exec_avsRequest_waiting hh rail request mv waits, fun sent => exec_avsRequest_sent hh rail request sent mv⟩
  case sent =>
    have bad (a : Nat) (v : Bool) (code : a ≠ 0) := exec_avsStatusPoll_bad hh rail request sent v code
    have late := exec_avsTimeout_sent hh rail request sent
    exact ⟨exec_avsStatusPoll_good hh rail request sent, exec_avsStatusPoll_notDone hh rail request sent,
      fun a v code => ⟨fun left => (bad a v code).trans (congrArg _ (if_pos left)),
        fun spent => (bad a v code).trans (congrArg _ (if_neg (Nat.not_lt.2 spent)))⟩,
      fun left => late.trans (congrArg _ (if_pos left)), fun spent => late.trans (congrArg _ (if_neg (Nat.not_lt.2 spent)))⟩
  case budget =>
    have writes := exec_pwBudgetWrite_allowed hh v may
    exact ⟨fun low high => writes.trans (congrArg _ (writeBudget_inRange low high)),
      fun outside => writes.trans (congrArg _ (if_pos outside))⟩

end Sys2Proof.Proofs
end

section
/-! SUPPORT. The statement of 15_power_and_health on brown-out braking and the thermal warnings, throttles and trips. -/
namespace Sys2Proof.Proofs
open Sys2Proof Sys2Proof.Machine Sys2Proof.Laws

/-! BROWN_WARN, BROWN_RECOVER and BROWN_HOLD_END (R500–R502, R509) -/

/-- The regions are braked, and the warning is counted and reported. -/
def brownBraked (s : State) : State :=
  (((s.onPw fun w => { w with brown := true, brownHold := false, holdCount := 0, cBrown := w.cBrown + 1 }).setRegions).event
    0x0004 0 0 [w64 s.topFreq, s.fresh]).drawn

/-- The warning is kept as its event alone. -/
def brownKept (s : State) : State := (s.keepEvent 0x0004 0 0 [0, s.fresh]).drawn

section
variable {s : State} (runs : s.running = true) (notYet : s.pw.brown = false)
include runs notYet

/-- A warning of a running module that does not brake yet, by its power state. -/
theorem exec_brownWarn_running : exec .brownWarn s = .next (match s.pw.st with
    | .watch | .hold => brownKept s
    | _ => brownBraked s) := by
  have notStarting : s.boot.life ≠ .starting := by simp [beq_iff_eq.1 runs]
  show execBrownWarn s = _
  rw [execBrownWarn, State.clocked_run _ _ (halted_of_running runs), if_neg notStarting, if_neg (by simp [runs, notYet])]
  cases s.pw.st <;> rfl

theorem exec_brownWarn_awake (awake : s.pw.st = .active ∨ s.pw.st = .idle) : exec .brownWarn s = .next (brownBraked s) := by
  rw [exec_brownWarn_running runs notYet]
  rcases awake with st | st <;> rw [st]

theorem exec_brownWarn_asleep (asleep : s.pw.st = .watch ∨ s.pw.st = .hold) : exec .brownWarn s = .next (brownKept s) := by
  rw [exec_brownWarn_running runs notYet]
  rcases asleep with st | st <;> rw [st]

end

theorem exec_brownWarn_starting {s : State} (starts : s.boot.life = .starting) : exec .brownWarn s = .next (brownKept s) := by
  show execBrownWarn s = _
  rw [execBrownWarn, State.clocked_run _ _ (halted_of_live (live_iff.2 (.inl starts))), if_pos starts]
  rfl

/-- The hold has ended, and no region has a frequency of its own. -/
def holdEnded (s : State) : State := s.onPw fun w => { w with brownHold := false, holdCount := 0, regionSet := [], regionNext := [] }

section
variable {s : State} (hh : s.halted = false)
include hh

theorem exec_brownRecover_braked (braked : s.pw.brown = true) : exec .brownRecover s =
    .next (s.onPw fun w => { w with brown := false, brownHold := true, holdCount := 0 }).setRegions := by
  show execBrownRecover s = _
  rw [execBrownRecover, State.clocked_run _ _ hh, if_neg (by simp [braked])]

section
variable (held : s.pw.brownHold = true) (long : 17 ≤ s.pw.holdCount)
include held long

theorem exec_brownHoldEnd_held : exec .brownHoldEnd s = .next (match s.tide.freqAnnounced with
    | some f =>
      if f ≤ s.tide.jobFreq ∨ (holdEnded s).voltReady f = true then (holdEnded s).applyFreq f
      else (((holdEnded s).onPw fun w => { w with cAvsLate := w.cAvsLate + 1 }).askVolts s.pw.margin f).setRegions
    | none => (holdEnded s).setRegions) := by
  show execBrownHoldEnd s = _
  rw [execBrownHoldEnd, State.clocked_run _ _ hh, if_neg (by simp [held, long])]
  rfl

theorem exec_brownHoldEnd_unannounced (noChange : s.tide.freqAnnounced = none) :
    exec .brownHoldEnd s = .next (holdEnded s).setRegions := by
  rw [exec_brownHoldEnd_held hh held long, noChange]

section
variable {f : Nat} (change : s.tide.freqAnnounced = some f)
include change

theorem exec_brownHoldEnd_applied (ready : f ≤ s.tide.jobFreq ∨ (holdEnded s).voltReady f = true) :
    exec .brownHoldEnd s = .next ((holdEnded s).applyFreq f) := by
  rw [exec_brownHoldEnd_held hh held long, change]
  exact congrArg _ (if_pos ready)

theorem exec_brownHoldEnd_late (rises : s.tide.jobFreq < f) (notReady : (holdEnded s).voltReady f = false) :
    exec .brownHoldEnd s =
      .next (((holdEnded s).onPw fun w => { w with cAvsLate := w.cAvsLate + 1 }).askVolts s.pw.margin f).setRegions := by
  rw [exec_brownHoldEnd_held hh held long, change]
  exact congrArg _ (if_neg (not_or.2 ⟨Nat.not_le.2 rises, Bool.eq_false_iff.1 notReady⟩))

end

end

end

/-! THERM_WARN, THERM_THROTTLE, THROTTLE_RELEASE and THERM_TRIP (R503–R505, R509) -/

section
variable {s : State} {n t : Nat} (runs : s.running = true)
include runs

section
variable (sensor : n < 128)
include sensor

theorem exec_thermWarn_first (hot : s.warnAt n ≤ t) (cold : s.pw.warm.contains n = false) : exec (.thermWarn n t) s =
    .next ((s.onPw fun w => { w with warm := setIns w.warm n }).event 0x0803 12 n [w64 n, w64 t]) := by
  show execThermWarn n t s = _
  rw [execThermWarn, State.clocked_run _ _ (halted_of_running runs), if_neg (by simp [runs, sensor]), if_neg (Nat.not_lt.2 hot),
    if_neg (Bool.eq_false_iff.1 cold)]

theorem exec_thermWarn_below (below : t < s.warnAt n) :
    exec (.thermWarn n t) s = .next (s.onPw fun w => { w with warm := setDel w.warm n }) := by
  show execThermWarn n t s = _
  rw [execThermWarn, State.clocked_run _ _ (halted_of_running runs), if_neg (by simp [runs, sensor]), if_pos below]

end

/-- The regions of a die. -/
def dieRegions (d : Nat) : List Nat := (List.range 8).map (d * 8 + ·)

/-- The highest frequency of a die's regions. -/
def dieFreq (d : Nat) (s : State) : Nat := ((dieRegions d).map s.runFreq).foldl max 0

/-- The regions of die `d` are halved, which is counted and reported of sensor `n`. -/
def throttled (d n : Nat) (s : State) : State :=
  ((s.onPw fun w => { w with
      throttle := setIns w.throttle d, cThrottles := w.cThrottles + 1
      thr := (dieRegions d).foldl (fun t r => tabPut t r (halfPoint (s.runFreq r))) w.thr }).setRegions).event 0x0804 12 n
    [w64 d, w64 n, pair (dieFreq d s) (halfPoint (dieFreq d s))]

theorem exec_thermThrottle_first {d : Nat} (die : sensorDie n = some d) (hot : s.throttleAt n ≤ t)
    (notYet : s.pw.throttle.contains d = false) : exec (.thermThrottle n t) s = .next (throttled d n s) := by
  show execThermThrottle n t s = _
  rw [execThermThrottle, State.clocked_run _ _ (halted_of_running runs)]
  simp only [die]
  exact congrArg _ (if_neg (not_or.2 ⟨not_running_neg runs, not_or.2 ⟨Nat.not_lt.2 hot, Bool.eq_false_iff.1 notYet⟩⟩))

end

theorem exec_throttleRelease_throttled {s : State} {d : Nat} (hh : s.halted = false) (throttles : s.pw.throttle.contains d = true) :
    exec (.throttleRelease d) s = .next (s.onPw fun w => { w with
      throttle := setDel w.throttle d, thr := w.thr.filter fun t => t.1 / 8 != d }).setRegions := by
  show execThrottleRelease d s = _
  rw [execThrottleRelease, State.clocked_run _ _ hh, if_neg (by rw [throttles]; decide)]

theorem exec_thermTrip_hot {s : State} {n t u : Nat} (point : tripAt n = some u) (hot : u ≤ t) (powered : s.boot.life ≠ .unpowered)
    (outOfReset : s.boot.life ≠ .inReset) (notTripped : s.boot.life ≠ .tripped) : exec (.thermTrip n t) s =
      .next ((((s.onPins fun p => { p with thermTrip := true }).onBoot fun b => { b with life := .tripped }).onTide fun t =>
        { t with stopped := true }).keepEvent 0x0805 12 n [w64 n, w64 t]) := by
  show execThermTrip n t s = _
  rw [execThermTrip]
  simp only [point]
  exact congrArg _ (if_neg (by simp [hot, powered, outOfReset, notTripped]))

/-- Settles O47: a brown-out by the state of the module, the end of its hold by the change that waited, and each reading by its
threshold. -/
theorem brownAndThermalCommands : Obligations.BrownAndThermalCommands := by
  refine ⟨fun s runs notYet => ⟨exec_brownWarn_awake runs notYet, exec_brownWarn_asleep runs notYet⟩,
    fun s => exec_brownWarn_starting, fun s => exec_brownRecover_braked, fun s hh held long => ?hold,
    fun n t s runs sensor => ⟨exec_thermWarn_first runs sensor, exec_thermWarn_below runs sensor⟩,
    fun n t d s runs die hot notYet => exec_thermThrottle_first runs die hot notYet, fun d s => exec_throttleRelease_throttled,
    fun n t u s => exec_thermTrip_hot⟩
  case hold =>
    exact ⟨exec_brownHoldEnd_unannounced hh held long, fun f change => ⟨exec_brownHoldEnd_applied hh held long change,
      exec_brownHoldEnd_late hh held long change⟩⟩

end Sys2Proof.Proofs
end

section
/-! SUPPORT. The statement of 16_reliability_and_recovery on failures, watchdogs, resets, substitution and retirement. -/
namespace Sys2Proof.Proofs
open Sys2Proof Sys2Proof.Machine Sys2Proof.Laws

/-! A unit that fails (R514, R520–R523) -/

/-- A tile is failed for a cause, and halted. -/
def tileFailed (t c : Nat) (s : State) : State := s.onTile t fun x => { x with failed := true, failCause := c, errorHalt := true }

section
variable {s : State} {t : Nat} (c : Nat) (present : s.tilePresent t = true) (works : (s.tile t).failed = false)
include present works

theorem failTile_guard : ¬ ((!s.tilePresent t) = true ∨ (s.tile t).failed = true) := by simp [present, works]

theorem failTile_idle (idle : s.placeServed t = none) : s.failTile t c =
    (if t < 512 then tileFailed t c s else (tileFailed t c s).onTile t fun x => { x with retired := true }).event 0x0902 1 t
      [pair 1 t, w64 c, pair 0 0] := by
  rw [State.failTile, if_neg (failTile_guard present works)]
  simp only [idle]
  rfl

/-- The failure of a tile is reported, and the residents of its place have ended. -/
def residentsFailed (t c p : Nat) (s : State) : State :=
  ((tileFailed t c s).event 0x0902 1 t [pair 1 t, w64 c, pair (s.placeName p).1 (s.placeName p).2]).endResident p false

section
variable {p : Nat} (serves : s.placeServed t = some p) (inUse : (s.place p).cond ≠ .retired)
include serves inUse

theorem failTile_serving : s.failTile t c =
    if t < 512 ∧ s.spareFree p = true then
      ((fun a : State => if s.hostMode 2 then a.event 0x0903 1 t [w64 t, w64 (spareOf p)] else a)
        ((residentsFailed t c p s).onPlace p fun x => { x with
          outOfService := true, subst := if s.hostMode 2 then 0 else 1, resume := 0 })).spanReset 1 t (s.placeName p)
    else (residentsFailed t c p s).retirePlace p false := by
  rw [State.failTile, if_neg (failTile_guard present works)]
  simp only [serves]
  rw [if_neg inUse]
  rfl

section
variable (tile : t < 512) (spare : s.spareFree p = true)
include tile spare

theorem failTile_hostMode (host : s.hostMode 2 = true) : s.failTile t c =
    (((residentsFailed t c p s).onPlace p fun x => { x with outOfService := true, subst := 0, resume := 0 }).event
      0x0903 1 t [w64 t, w64 (spareOf p)]).spanReset 1 t (s.placeName p) := by
  rw [failTile_serving c present works serves inUse, if_pos ⟨tile, spare⟩, host]
  simp only [if_true]

theorem failTile_hardware (hardware : s.hostMode 2 = false) : s.failTile t c =
    ((residentsFailed t c p s).onPlace p fun x => { x with outOfService := true, subst := 1, resume := 0 }).spanReset 1 t
      (s.placeName p) := by
  rw [failTile_serving c present works serves inUse, if_pos ⟨tile, spare⟩, hardware]
  simp only [Bool.false_eq_true, if_false]

end

theorem failTile_noSpare (noSpare : 512 ≤ t ∨ s.spareFree p = false) :
    s.failTile t c = (residentsFailed t c p s).retirePlace p false := by
  have substitutes : ¬ (t < 512 ∧ s.spareFree p = true) := by
    rintro ⟨tile, spare⟩
    rcases noSpare with isSpare | taken
    · omega
    · simp [taken] at spare
  rw [failTile_serving c present works serves inUse, if_neg substitutes]

end

end

theorem failChannel_working {s : State} {c : Nat} (cause : Nat) (present : s.channelPresent c = true)
    (works : (s.chan c).retired = false) : s.failChannel c cause =
      ((foldState (s.scansOn c) (fun a l => (a.endScan l .fault).settle) ((((s.onChan c fun x => { x with
        retired := true, retireCause := cause }).onHb fun m => { m with channels := tabPut m.channels c .retired }).unitFailed 3 c cause
          (s.channelName c)).event 0x0906 3 c [w64 c, pair (s.channelName c).1 (s.channelName c).2])).procUnitFailed 1 c).spanReset
            3 c (s.channelName c) :=
  if_neg (by simp [present, works])

theorem failMill_working {s : State} {c : Nat} (cause : Nat) (present : s.millPresent c = true) (works : (s.mill c).failed = false) :
    s.failMill c cause = (foldState (s.scansOn c) (fun a l => ((a.endScan l .fault).millAborted c l).settle) ((s.onMill c fun m => { m with
      failed := true, failCause := cause }).unitFailed 4 c cause (s.channelName c))).spanReset 4 c (s.channelName c) :=
  if_neg (by simp [present, works])

/-! Failures that a running module finds (R48, R514–R516, R521–R523, R535) -/

section
variable {s : State} (runs : s.running = true)
include runs

theorem clocked_if_running (t : State) : s.clocked (if s.running then t else s) = .next t := by
  rw [State.clocked_run _ _ (halted_of_running runs), if_pos runs]

section
variable {u : HangUnit} (answers : s.answers u = true)
include answers

/-- A check that only `u` misses, when no other unit has a miss on record. -/
theorem exec_livenessCheck_one (others : (s.missers.filter fun v => !([u].contains v)) = []) : exec (.livenessCheck [u]) s =
    .next (if s.misses u + 1 < 2 then s.setMisses u (s.misses u + 1) else (s.setMisses u (s.misses u + 1)).hung u 2) := by
  show execLivenessCheck [u] s = _
  rw [execLivenessCheck, State.clocked_run _ _ (halted_of_running runs), if_neg (not_running_neg runs)]
  simp only [others, foldState, List.foldl_nil, List.filter_cons, List.filter_nil, answers, if_true, List.foldl_cons, Bool.not_true,
    Bool.false_eq_true, if_false]

theorem exec_livenessCheck_first (noMisses : s.missers = []) (first : s.misses u = 0) :
    exec (.livenessCheck [u]) s = .next (s.setMisses u 1) := by
  rw [exec_livenessCheck_one runs answers (by simp [noMisses]), first]
  rfl

theorem exec_livenessCheck_second (onlyMisses : s.missers = [u]) (second : s.misses u = 1) :
    exec (.livenessCheck [u]) s = .next ((s.setMisses u 2).hung u 2) := by
  rw [exec_livenessCheck_one runs answers (by simp [onlyMisses]), second]
  rfl

end

theorem exec_slotWatchdog_tile {t p k : Nat} (serves : s.placeServed t = some p) (used : (s.slotAt p k).state ≠ .free)
    (stuck : 0 < (s.slotAt p k).stuck) (long : s.ras.hangTides ≤ (s.slotAt p k).stuck) :
    exec (.slotWatchdog (.tile t) k) s = .next (s.hung (.tile t) 3) := by
  show execSlotWatchdog (.tile t) k s = _
  rw [execSlotWatchdog, State.clocked_run _ _ (halted_of_running runs), if_neg (not_running_neg runs)]
  simp only [serves]
  rw [if_pos ⟨long, used, stuck⟩]

theorem exec_slotWatchdog_mill {c k : Nat} (stuck : 0 < tabGet 0 (s.mill c).stuck k)
    (long : s.ras.hangTides ≤ tabGet 0 (s.mill c).stuck k) : exec (.slotWatchdog (.mill c) k) s = .next (s.hung (.mill c) 3) := by
  show execSlotWatchdog (.mill c) k s = _
  rw [execSlotWatchdog, State.clocked_run _ _ (halted_of_running runs), if_neg (not_running_neg runs)]
  exact congrArg _ (if_pos ⟨long, stuck⟩)

theorem exec_holdFailure_working {p : Nat} (present : s.placePresent p = true) (works : (s.place p).holdFailed = false) :
    exec (.holdFailure p) s = .next ((s.onPlace p fun x => { x with holdFailed := true }).retirePlace p true) := by
  show execHoldFailure p s = _
  rw [execHoldFailure, State.clocked_run _ _ (halted_of_running runs), if_neg (by simp [runs, present, works])]

end

/-! TL_CTL (R139, R140, R517–R521, R540) -/

section
variable {m : Master} {s : State} {t : Nat} (present : s.tilePresent t = true)
include present

theorem ctlReset_present : s.ctlReset t = s.tileReset t := if_pos present

theorem ctlClusterReset_alone (noCluster : s.resetCluster t = none) : s.ctlClusterReset t = s.tileReset t := by
  rw [State.ctlClusterReset, if_neg (by simp [present])]
  simp only [noCluster]

theorem ctlClusterReset_cluster {c : Nat} (cluster : s.resetCluster t = some c) : s.ctlClusterReset t =
    foldState (s.clusterTiles c) (fun a t => a.tileReset t) (s.onCluster c fun x => { x with inReset := true }) := by
  rw [State.ctlClusterReset, if_neg (by simp [present])]
  simp only [cluster]

theorem ctlRetire_place (tile : t < 512) : s.ctlRetire t = s.retirePlace t true := by
  rw [State.ctlRetire, if_neg (by simp [present]), if_pos tile]

section
variable (isSpare : 512 ≤ t)
include isSpare

theorem ctlRetire_spareServing {p : Nat} (serves : (s.tile t).standsFor = some p) : s.ctlRetire t = s.retirePlace p true := by
  rw [State.ctlRetire, if_neg (by simp [present]), if_neg (Nat.not_lt.2 isSpare)]
  simp only [serves]

theorem ctlRetire_spareIdle (idle : (s.tile t).standsFor = none) : s.ctlRetire t = s.failTile t 4 := by
  rw [State.ctlRetire, if_neg (by simp [present]), if_neg (Nat.not_lt.2 isSpare)]
  simp only [idle]

end

end

theorem ctlSubstitute_failed {s : State} {t : Nat} (host : s.hostMode 2 = true) (failed : (s.tile t).failed = true) (tile : t < 512)
    (out : (s.place t).outOfService = true) (notYet : (s.place t).resume = 0) :
    s.ctlSubstitute t = s.onPlace t fun x => { x with subst := 1 } :=
  if_pos ⟨host, failed, tile, out, notYet⟩

/-! The ends of resets (R128, R341, R342, R517, R518, R521) -/

section
variable {s : State} (hh : s.halted = false)
include hh

theorem exec_tileResetComplete_cluster {t c : Nat} (cluster : s.resetCluster t = some c) (resets : (s.cluster c).inReset = true) :
    exec (.tileResetComplete t) s =
      .next (foldState (s.clusterTiles c) (fun a t => a.tileOut t) (s.onCluster c fun x => { x with inReset := false })) := by
  show execTileResetComplete t s = _
  rw [execTileResetComplete, State.clocked_run _ _ hh]
  simp only [cluster]
  rw [if_pos resets]

theorem exec_tileResetComplete_tile {t : Nat} (noCluster : ∀ c, s.resetCluster t = some c → (s.cluster c).inReset = false)
    (resets : (s.tile t).inReset = true) : exec (.tileResetComplete t) s = .next (s.tileOut t) := by
  show execTileResetComplete t s = _
  rw [execTileResetComplete, State.clocked_run _ _ hh]
  cases cluster : s.resetCluster t with
  | none => exact congrArg _ (if_pos resets)
  | some c => exact congrArg _ ((if_neg (Bool.eq_false_iff.1 (noCluster c cluster))).trans (if_pos resets))

/-- A tile whose cluster did not come out of reset fails, unless it had failed before. -/
def resetTimedOut (a : State) (t : Nat) : State :=
  if (a.tile t).failed then a
  else (tileFailed t 5 a).unitFailed 1 t 5 (match a.placeServed t with | some p => a.placeName p | none => (0, 0))

theorem exec_clusterResetTimeout_resetting {c : Nat} (resets : (s.cluster c).inReset = true) : exec (.clusterResetTimeout c) s =
    .next (foldState ((placesOf c).filter s.placePresent) (fun a p => a.retirePlace p false)
      (foldState (s.clusterTiles c) resetTimedOut s)) := by
  show execClusterResetTimeout c s = _
  rw [execClusterResetTimeout, State.clocked_run _ _ hh, if_neg (by simp [resets])]
  rfl

/-! SPARE_IN and PLACE_RESUME (R198, R520, R538) -/

section
variable {p : Nat} (due : (s.place p).subst = 2) (out : (s.place p).outOfService = true) (serves : s.hm.takeover = false)
include due out serves

omit hh in
theorem spareIn_guard : ¬ ((s.place p).subst ≠ 2 ∨ (!(s.place p).outOfService) = true ∨ s.hm.takeover = true) := by
  simp [due, out, serves]

theorem exec_spareIn_noSpare (taken : s.spareFree p = false) : exec (.spareIn p) s = .next (s.retirePlace p false) := by
  show execSpareIn p s = _
  rw [execSpareIn, State.clocked_run _ _ hh]
  exact congrArg _ ((if_neg (spareIn_guard due out serves)).trans (if_pos (by simp [taken])))

/-- The spare of place `p` serves it, with the credentials of the place's binding. -/
def sparePutIn (p h g : Nat) (s : State) : State :=
  (((s.onPlace p fun x => { x with spare := some (p % 16), subst := 0, resume := 1 }).onTile (spareOf p) fun t => { t with
    standsFor := some p, inReset := false, fenced := false, credH := h, credGen := g }).onTile p fun t => { t with
      retired := true }).event 0x0904 1 (spareOf p) [pair (spareOf p) p, pair h g]

theorem exec_spareIn_bound {h g : Nat} (free : s.spareFree p = true) (bound : (s.place p).cond = .bound h g) :
    exec (.spareIn p) s = .next (sparePutIn p h g s) := by
  show execSpareIn p s = _
  rw [execSpareIn, State.clocked_run _ _ hh]
  refine congrArg _ ((if_neg (spareIn_guard due out serves)).trans ((if_neg (by simp [free])).trans ?_))
  rw [bound]
  rfl

end

/-- A place accepts placements again. -/
def placeBack (p : Nat) (s : State) : State := s.onPlace p fun x => { x with outOfService := false, resume := 0 }

theorem exec_placeResume_due {p : Nat} (due : (s.place p).resume = 2) : exec (.placeResume p) s =
    .next (if (placeBack p s).hmSilent then placeBack p s
      else (foldState ((placeBack p s).plan fun _ => true) (fun a l => a.tryPlace l) (placeBack p s)).settle) := by
  show execPlaceResume p s = _
  rw [execPlaceResume, State.clocked_run _ _ hh, if_neg (not_not_intro due)]
  rfl

end

/-- Settles O49: the failure of each kind of unit, what a running module finds, the writes of TL_CTL, and the ends of a reset and of a
substitution. -/
theorem hangAndTileRecovery : Obligations.HangAndTileRecovery := by
  refine ⟨fun t c s present works => ?tile, fun c cause s => failChannel_working cause, fun c cause s => failMill_working cause,
    fun s runs => ?found, fun s hh => ⟨fun m t hm below unit present => ?control, fun t => ?resetEnds, fun c => ?timeout,
      fun p due out serves => ?spareIn, fun p due => ?resume⟩⟩
  case tile =>
    exact ⟨failTile_idle c present works, fun p serves inUse => ⟨fun tile spare =>
      ⟨failTile_hostMode c present works serves inUse tile spare, failTile_hardware c present works serves inUse tile spare⟩,
      failTile_noSpare c present works serves inUse⟩⟩
  case found =>
    exact ⟨fun t => clocked_if_running runs _, fun c => ⟨clocked_if_running runs _, clocked_if_running runs _⟩,
      fun c cause => ⟨clocked_if_running runs _, clocked_if_running runs _⟩,
      fun u noMisses answers first => exec_livenessCheck_first runs answers noMisses first,
      fun u onlyMisses answers second => exec_livenessCheck_second runs answers onlyMisses second,
      fun t p k serves used stuck long => exec_slotWatchdog_tile runs serves used stuck long,
      fun c k stuck long => exec_slotWatchdog_mill runs stuck long,
      fun p present works => exec_holdFailure_working runs present works⟩
  case control =>
    have writes (f : State → State) : s.clocked (s.privWrite m (tlCtl t) f) = .next (f s) := clocked_privWrite_run hh hm unit f
    refine ⟨(writes _).trans (congrArg _ (ctlReset_present present)),
      fun alone => (writes _).trans (congrArg _ (ctlClusterReset_alone present alone)),
      fun c cluster => (writes _).trans (congrArg _ (ctlClusterReset_cluster present cluster)),
      fun host failed tile out notYet => (writes _).trans (congrArg _ (ctlSubstitute_failed host failed tile out notYet)),
      fun tile => (writes _).trans (congrArg _ (ctlRetire_place present tile)),
      fun p isSpare stands => (writes _).trans (congrArg _ (ctlRetire_spareServing present isSpare stands)),
      fun isSpare idle => (writes _).trans (congrArg _ (ctlRetire_spareIdle present isSpare idle)), writes _⟩
  case resetEnds =>
    exact ⟨fun c cluster resets => exec_tileResetComplete_cluster hh cluster resets,
      fun noCluster resets => exec_tileResetComplete_tile hh noCluster resets⟩
  case timeout => exact exec_clusterResetTimeout_resetting hh
  case spareIn =>
    exact ⟨exec_spareIn_noSpare hh due out serves, fun h g free bound => exec_spareIn_bound hh due out serves free bound⟩
  case resume =>
    have resumes := exec_placeResume_due hh due
    exact ⟨fun silent => resumes.trans (congrArg _ (if_pos silent)),
      fun speaks => resumes.trans (congrArg _ (if_neg (Bool.eq_false_iff.1 speaks)))⟩

end Sys2Proof.Proofs
end

section
/-! SUPPORT. The statement of 17_security on SPDM requests and the key sets of IDE streams. -/
namespace Sys2Proof.Proofs
open Sys2Proof Sys2Proof.Machine Sys2Proof.Laws

/-! The SPDM responder of a powered module (R558–R560) -/

section
variable {s : State} (powered : s.boot.life ≠ .unpowered)
include powered

theorem spdmUp_powered : s.spdmUp = true := by simp [State.spdmUp, powered]

theorem spdmAnswer_powered (code : Nat) (error : Bool) (ws : List Word) : s.spdmAnswer code error ws = s.spdm code error ws :=
  if_pos (spdmUp_powered powered)

theorem exec_getVersion_powered : exec .getVersion s = .next (s.emit (.spdm 0x84 false [0x12, 0x13])) :=
  congrArg _ (spdmAnswer_powered powered _ _ _)

theorem exec_getCapabilities_powered : exec .getCapabilities s = .next (s.emit (.spdm 0xE1 false
    [w64 (2 ^ 1 + 2 ^ 2 + 2 ^ 4 + 2 ^ 6 + 2 ^ 7 + 2 ^ 9 + 2 ^ 13 + 2 ^ 14), 4096])) :=
  congrArg _ (spdmAnswer_powered powered _ _ _)

theorem exec_negotiateAlgorithms_offered : exec (.negotiateAlgorithms true) s = .next (s.emit (.spdm 0xE3 false [1])) :=
  congrArg _ (spdmAnswer_powered powered _ _ _)

theorem exec_negotiateAlgorithms_notOffered : exec (.negotiateAlgorithms false) s = .next (s.emit (.spdm 0xE3 true [])) :=
  congrArg _ (spdmAnswer_powered powered _ _ _)

theorem exec_getMeasurements_refused {i : Nat} (bad : s.sec.rootValid = false ∨ 7 < i ∧ i ≠ 255) :
    exec (.getMeasurements i) s = .next (s.emit (.spdm 0xE0 true [])) := by
  have refused : (!s.sec.rootValid || decide (7 < i ∧ i ≠ 255)) = true := by
    rcases bad with noRoot | noIndex
    · simp [noRoot]
    · simp [noIndex]
  exact congrArg _ ((congrArg (s.spdmAnswer 0xE0 · _) refused).trans (spdmAnswer_powered powered _ _ _))

/-- The number of open sessions forbids a request (R558). -/
def sessionsForbid (n : Nat) : SpdmReq → Bool
  | .keyExchange => decide (4 ≤ n)
  | .finish | .heartbeat | .keyUpdate | .endSession => n == 0
  | _ => false

/-- What a request that is answered makes of the sessions. -/
def sessionsTaken (s : State) : SpdmReq → State
  | .keyExchange => s.onSec fun c => { c with sessions := s.sec.sessions + 1 }
  | .endSession => s.onSec fun c => { c with sessions := s.sec.sessions - 1 }
  | _ => s

omit powered in
theorem exec_spdmOtherRequest_checked {r : SpdmReq} {bad : Bool}
    (check : (!s.sec.rootValid || sessionsForbid s.sec.sessions r) = bad) : exec (.spdmOtherRequest r) s =
      .next ((if bad = true ∨ (!s.spdmUp) = true then s else sessionsTaken s r).spdmAnswer (spdmCode r) bad
        [Config.digest (spdmCode r) [s.uid]]) := by
  subst check
  rfl

theorem exec_spdmOtherRequest_refused {r : SpdmReq} (bad : s.sec.rootValid = false ∨ sessionsForbid s.sec.sessions r = true) :
    exec (.spdmOtherRequest r) s = .next (s.emit (.spdm (spdmCode r) true [])) := by
  have refused : (!s.sec.rootValid || sessionsForbid s.sec.sessions r) = true := by
    rcases bad with noRoot | forbidden
    · simp [noRoot]
    · simp [forbidden]
  rw [exec_spdmOtherRequest_checked refused, if_pos (Or.inl rfl), spdmAnswer_powered powered]
  rfl

section
variable (root : s.sec.rootValid = true)
include root

/-- The blocks that GET_MEASUREMENTS asks for by its index. -/
def measured (i : Nat) (s : State) : List Word :=
  if i = 0 then [7] else if i = 255 then (List.range 7).flatMap fun i => s.measurement (i + 1) else s.measurement i

theorem exec_getMeasurements_known {i : Nat} (known : i ≤ 7 ∨ i = 255) :
    exec (.getMeasurements i) s = .next (s.emit (.spdm 0xE0 false (measured i s))) := by
  have good : (!s.sec.rootValid || decide (7 < i ∧ i ≠ 255)) = false := by simp [root]; omega
  exact congrArg _ ((congrArg (s.spdmAnswer 0xE0 · _) good).trans (spdmAnswer_powered powered _ _ _))

/-- A request that is answered without error (response codes: PRESUMED, log entry 47). -/
theorem exec_spdmOtherRequest_answered {r : SpdmReq} (allowed : sessionsForbid s.sec.sessions r = false) :
    exec (.spdmOtherRequest r) s =
      .next ((sessionsTaken s r).emit (.spdm (spdmCode r) false [Config.digest (spdmCode r) [s.uid]])) := by
  have good : (!s.sec.rootValid || sessionsForbid s.sec.sessions r) = false := by simp [root, allowed]
  have stays : (sessionsTaken s r).boot.life ≠ .unpowered := by cases r <;> exact powered
  rw [exec_spdmOtherRequest_checked good, if_neg (by simp [spdmUp_powered powered]), spdmAnswer_powered stays]
  rfl

end

end

/-! Key sets of IDE streams (R544–R546) -/

section
variable {s : State} (hh : s.halted = false) {l t : Nat}
include hh

section
variable {k : Nat} (reaches : s.ideKm l t k = true)
include reaches

theorem exec_keyProg_reached : exec (.keyProg l t k) s =
    .next (s.onStream l t fun x => if k = 0 then { x with prog0 := true } else { x with prog1 := true }) :=
  (State.clocked_run _ _ hh).trans (congrArg _ (if_neg (by simp [reaches])))

theorem exec_kSetGo_programmed (programmed : (if k = 0 then (s.stream l t).prog0 else (s.stream l t).prog1) = true) :
    exec (.kSetGo l t k) s = .next (s.onStream l t fun x => { x with active := some k, secure := true }) :=
  (State.clocked_run _ _ hh).trans (congrArg _ (if_neg (by simp [reaches, programmed])))

omit reaches in
theorem exec_kSetGo_unprogrammed (unprogrammed : (if k = 0 then (s.stream l t).prog0 else (s.stream l t).prog1) = false) :
    exec (.kSetGo l t k) s = .next s :=
  (State.clocked_run _ _ hh).trans (congrArg _ (if_pos (by simp [unprogrammed])))

theorem exec_kSetStop_reached : exec (.kSetStop l t k) s = .next (s.onStream l t fun x =>
    let y := if k = 0 then { x with prog0 := false } else { x with prog1 := false }
    if x.active = some k then { y with active := none, secure := false } else y) :=
  (State.clocked_run _ _ hh).trans (congrArg _ (if_neg (by simp [reaches])))

end

theorem exec_ideInsecure_secure (secure : (s.stream l t).secure = true) : exec (.ideInsecure l t) s =
    .next (((s.onStream l t fun x => { x with active := none, secure := false }).onSec fun c => { c with cIde := c.cIde + 1 }).event
      0x0A05 0 0 [w64 l, w64 t]) :=
  (State.clocked_run _ _ hh).trans (congrArg _ (if_neg (by simp [secure])))

end

/-- Settles O51: each request with the checks it needs passed and failed, and each command on a stream by the state of its key set. -/
theorem spdmAndIdeKeyCommands : Obligations.SpdmAndIdeKeyCommands := by
  refine ⟨fun s powered => ?always, fun s powered root => ?measurements, fun s powered root => ?sessions,
    fun s powered noRoot => ?noRoot, fun l t s hh => ⟨fun k reaches => ?keySet, exec_ideInsecure_secure hh⟩⟩
  case always =>
    exact ⟨exec_getVersion_powered powered, exec_getCapabilities_powered powered, exec_negotiateAlgorithms_offered powered,
      exec_negotiateAlgorithms_notOffered powered⟩
  case measurements =>
    refine ⟨exec_getMeasurements_known powered root (.inl (by decide)), fun i first last => ?one,
      exec_getMeasurements_known powered root (.inr rfl), fun i above notAll => exec_getMeasurements_refused powered (.inr ⟨above, notAll⟩)⟩
    rw [exec_getMeasurements_known powered root (.inl last), measured, if_neg (by omega), if_neg (by omega)]
  case sessions =>
    have answered (r : SpdmReq) := exec_spdmOtherRequest_answered powered root (r := r)
    refine ⟨fun r isRead => ?reads, fun few => answered _ (by simp [sessionsForbid, few]),
      fun full => exec_spdmOtherRequest_refused powered (.inr (by simp [sessionsForbid, full])), fun isOpen => ⟨fun r inSession => ?inSession,
        answered _ (by simp [sessionsForbid]; omega)⟩, fun r none inSession => ?noSession⟩
    case reads => rcases isRead with rfl | rfl | rfl <;> exact answered _ rfl
    case inSession =>
      have notForbidden : (s.sec.sessions == 0) = false := by simp; omega
      rcases inSession with rfl | rfl | rfl <;> exact answered _ notForbidden
    case noSession =>
      have forbidden : (s.sec.sessions == 0) = true := by simp [none]
      rcases inSession with rfl | rfl | rfl | rfl <;> exact exec_spdmOtherRequest_refused powered (.inr forbidden)
  case noRoot =>
    exact ⟨fun i => exec_getMeasurements_refused powered (.inl noRoot), fun r => exec_spdmOtherRequest_refused powered (.inl noRoot)⟩
  case keySet =>
    exact ⟨exec_keyProg_reached hh reaches, exec_kSetGo_programmed hh reaches, exec_kSetGo_unprogrammed hh,
      exec_kSetStop_reached hh reaches⟩

/-- Settles O10: the three requests of the negotiation do not look at the root, and every other one fails its check without it. -/
theorem spdmWithoutARoot : Obligations.SpdmWithoutARoot := by
  exact fun s powered => ⟨⟨0x84, [0x12, 0x13], fun b => exec_getVersion_powered powered⟩,
    ⟨_, _, fun b => exec_getCapabilities_powered powered⟩, ⟨_, _, fun b => exec_negotiateAlgorithms_offered powered⟩,
    fun noRoot => ⟨fun i => ⟨_, exec_getMeasurements_refused powered (.inl noRoot)⟩,
      fun r => ⟨_, exec_spdmOtherRequest_refused powered (.inl noRoot)⟩⟩⟩

end Sys2Proof.Proofs
end

section
/-! SUPPORT. The statement of 17_security on tamper, the battery and key updates. -/
namespace Sys2Proof.Proofs
open Sys2Proof Sys2Proof.Machine Sys2Proof.Laws

/-! Tamper (R551, R552; log entry 73) -/

/-- The root and all that hangs on it are erased, and the cause of the tamper is recorded. -/
def rootErased (cause : Nat) (powered : Bool) (s : State) : State :=
  (s.onSec fun c => { c with
    rootValid := false, rootSecret := 0, keys := none, tamperCause := c.tamperCause ||| 2 ^ (cause % 4), counter := 0
    bankA := [], bankB := [], streams := [], sessions := 0, upd := none, tamperRec := some (cause, s.tide.num, powered)
    tamperTold := false }).onLk fun x => { x with lgs := x.lgs.map fun g => (g.1, { g.2 with txKey := {}, rxKey := {} }) }

section
variable {s : State} (cause : Nat)

theorem exec_tamper_unpowered (off : s.boot.life = .unpowered) : exec (.tamper cause) s = .next (rootErased cause false s) := by
  show execTamper cause s = _
  simp only [execTamper, off]
  rfl

theorem exec_tamper_stopped (stopped : s.boot.life = .frozen ∨ s.boot.life = .tripped) :
    exec (.tamper cause) s = .next (rootErased cause true s) := by
  show execTamper cause s = _
  rcases stopped with frozen | tripped
  · simp only [execTamper, frozen]
    rfl
  · simp only [execTamper, tripped]
    rfl

theorem exec_tamper_powered (powered : s.boot.life ≠ .unpowered) (notFrozen : s.boot.life ≠ .frozen)
    (notTripped : s.boot.life ≠ .tripped) : exec (.tamper cause) s = .next ((rootErased cause true s).moduleReset 5) := by
  show execTamper cause s = _
  have isPowered : (s.boot.life != .unpowered) = true := by simp [powered]
  simp only [execTamper, isPowered]
  rfl

end

/-! The coin cell (R553) -/

section
variable {s : State} (runs : s.running = true) {mv : Nat}
include runs

theorem battLow_measures : ¬ (!s.pins.enA ∧ !s.running) := by simp [runs]

theorem exec_battLow_good (good : 2500 ≤ mv) : exec (.battLow mv) s = .next (s.onSec fun c => { c with battLow := false }) :=
  congrArg _ ((if_neg (battLow_measures runs)).trans (if_pos good))

theorem exec_battLow_falls (low : mv < 2500) (wasGood : s.sec.battLow = false) :
    exec (.battLow mv) s = .next ((s.onSec fun c => { c with battLow := true }).event 0x0A04 0 0 [w64 mv]) :=
  congrArg _ ((if_neg (battLow_measures runs)).trans ((if_neg (Nat.not_le.2 low)).trans (if_neg (Bool.eq_false_iff.1 wasGood))))

theorem exec_battLow_stays (low : mv < 2500) (wasLow : s.sec.battLow = true) : exec (.battLow mv) s = .next s :=
  congrArg _ ((if_neg (battLow_measures runs)).trans ((if_neg (Nat.not_le.2 low)).trans (if_pos wasLow)))

end

/-! Key updates (R555–R557, R561, R562) -/

theorem keyResult_accepted (counter ops : Word) (s : State) : s.keyResult 0 counter ops =
    (s.onSec fun c => { c with results := c.results + 1, reason := 0 }).event 0x0A01 0 0 [counter, ops] := by
  simp only [State.keyResult, if_true]

theorem keyResult_refused {reason : Nat} (failed : reason ≠ 0) (counter ops : Word) (s : State) : s.keyResult reason counter ops =
    ((s.onSec fun c => { c with results := c.results + 1, reason := reason }).onSec fun c => { c with cReject := c.cReject + 1 }).event
      0x0A02 0 0 [w64 reason, counter, s.sec.counter] :=
  if_neg failed

section
variable {s : State}

theorem submitKeys_idle (v : Word) (idle : s.sec.upd = none) :
    s.submitKeys v = s.onSec fun c => { c with upd := some (bits v 6 42 * 64) } := by
  rw [State.submitKeys, idle]
  rfl

theorem submitKeys_busy (v : Word) {a : Nat} (busy : s.sec.upd = some a) :
    s.submitKeys v = s.keyResult 1 (s.keyCounter (bits v 6 42 * 64)) 0 := by
  rw [State.submitKeys, busy]
  rfl

variable (hh : s.halted = false)
include hh

theorem exec_scKeyupd_privileged {m : Master} (hm : m.privileged = true) (v : Word) :
    exec (.scKeyupd m v) s = .next (s.submitKeys v) :=
  clocked_privWrite_run hh hm (harbourBlock_present s (by decide)) _

theorem exec_keyUpdate_checked {c : KeyChecks} {a reason : Nat} {counter : Word} {ops : List KeyOp} (upd : s.sec.upd = some a)
    (checked : s.keyReason a c = (reason, counter, ops)) : exec (.keyUpdate c) s = .next (
      let s1 := s.onSec fun x => { x with upd := none }
      if reason = 0 then ((s1.applyKeys counter ops c.keys).unstall).keyResult 0 counter (w64 ops.length)
      else s1.keyResult reason counter 0) := by
  show execKeyUpdate c s = _
  rw [execKeyUpdate, State.clocked_run _ _ hh]
  simp only [upd, checked]

end

/-- Settles O50: a tamper by the power of the module, a reading of the cell by its threshold and by what stands, and a key update by
whether one is in progress and by the REASON of its checks. -/
theorem tamperBatteryAndKeyUpdates : Obligations.TamperBatteryAndKeyUpdates := by
  refine ⟨fun cause s => ⟨exec_tamper_powered cause, exec_tamper_stopped cause, exec_tamper_unpowered cause⟩,
    fun mv s runs => ⟨exec_battLow_falls runs, exec_battLow_stays runs, exec_battLow_good runs⟩,
    fun m v s hh hm => ⟨fun idle => ?idle, fun a busy => ?busy⟩,
    fun c a s reason counter ops hh upd checked => ⟨fun passed => ?passed, fun failed => ?failed⟩⟩
  case idle => rw [exec_scKeyupd_privileged hh hm, submitKeys_idle v idle]
  case busy =>
    rw [exec_scKeyupd_privileged hh hm, submitKeys_busy v busy, keyResult_refused (by decide)]
    rfl
  case passed =>
    rw [exec_keyUpdate_checked hh upd checked]
    exact congrArg _ ((if_pos passed).trans (keyResult_accepted _ _ _))
  case failed =>
    rw [exec_keyUpdate_checked hh upd checked]
    exact congrArg _ ((if_neg failed).trans (keyResult_refused failed _ _ _))

end Sys2Proof.Proofs
end

section
/-! SUPPORT. The statement of 18_host_interface on BAR2 accesses, completions, MSI-X and the host links. -/
namespace Sys2Proof.Proofs
open Sys2Proof Sys2Proof.Machine Sys2Proof.Laws

/-! BAR2 accesses of a running module over a link that is up (R545, R572, R573, R583) -/

section
variable {s : State} {f o : Nat} (below : f < 128) (runs : s.running = true) (up : (s.link (f / 32)).up = true)
include below runs up

theorem bar2_guard {n : Nat} (fits : o + n ≤ s.bar2Size f) :
    ¬ (128 ≤ f ∨ (!s.running) = true ∨ (!(s.link (f / 32)).up) = true ∨ s.bar2Size f < o + n) := by
  simp [runs, up]
  omega

/-! Reads -/

section
variable {n : Nat} (fits : o + n ≤ s.bar2Size f)
include fits

theorem exec_bar2Read_notSecure {b : Bool} (notSecure : s.ideBars (f / 32) b = true) :
    exec (.bar2Read f o n b) s = .next (s.noIde (f / 32)) :=
  (State.clocked_run _ _ (halted_of_running runs)).trans
    (congrArg _ ((if_neg (bar2_guard below runs up fits)).trans (if_pos notSecure)))

section
variable {b : Bool} (secure : s.ideBars (f / 32) b = false)
include secure

theorem exec_bar2Read_mapped {ps : List Piece} (mapped : s.bar2Parts f (n / 2097152 + 2) o n = [(n, some ps)]) :
    let r := s.readThrough ps
    let bad := (ps.filter fun p => s.hbmPoison p.ch p.byte p.len).foldl (fun t p => setIns t p.ch) []
    let s1 := foldState bad (fun a c => a.onChan c fun x => { x with cHostEp := x.cHostEp + 1 }) r.2
    exec (.bar2Read f o n b) s = .next ((s1.onLink (f / 32) fun l => { l with
      hostEp := if r.1.any (·.2) then l.hostEp + 1 else l.hostEp }).emit (.readData f (beatBytes r.1) (r.1.any (·.2)))) := by
  refine (State.clocked_run _ _ (halted_of_running runs)).trans
    (congrArg _ ((if_neg (bar2_guard below runs up fits)).trans ((if_neg (Bool.eq_false_iff.1 secure)).trans ?_)))
  simp only [mapped, List.foldl_cons, List.foldl_nil, List.flatMap_cons, List.flatMap_nil, List.append_nil]
  rfl

theorem exec_bar2Read_unmapped (unmapped : s.bar2Parts f (n / 2097152 + 2) o n = [(n, none)]) : exec (.bar2Read f o n b) s =
    .next ((s.onLink (f / 32) fun l => { l with miss := l.miss + 1 }).emit (.readData f (List.replicate n 0) false)) := by
  refine (State.clocked_run _ _ (halted_of_running runs)).trans
    (congrArg _ ((if_neg (bar2_guard below runs up fits)).trans ((if_neg (Bool.eq_false_iff.1 secure)).trans ?_)))
  simp only [unmapped]
  rfl

end

end

/-! Writes -/

section
variable {d : List Byte} {p : Bool} (fits : o + d.length ≤ s.bar2Size f)
include fits

theorem exec_bar2Write_notSecure {b : Bool} (notSecure : s.ideBars (f / 32) b = true) :
    exec (.bar2Write f o d p b) s = .next (s.noIde (f / 32)) :=
  (State.clocked_run _ _ (halted_of_running runs)).trans
    (congrArg _ ((if_neg (bar2_guard below runs up fits)).trans (if_pos notSecure)))

section
variable {b : Bool} (secure : s.ideBars (f / 32) b = false)
include secure

theorem exec_bar2Write_mapped {ps : List Piece} (mapped : s.bar2Parts f (d.length / 2097152 + 2) o d.length = [(d.length, some ps)]) :
    exec (.bar2Write f o d p b) s = .next (((if ps.any s.touchesPacing then s else s.writeThrough ps [(d, p)])).onLink (f / 32) fun l =>
      { l with miss := if ps.any s.touchesPacing then l.miss + 1 else l.miss }) := by
  refine (State.clocked_run _ _ (halted_of_running runs)).trans
    (congrArg _ ((if_neg (bar2_guard below runs up fits)).trans ((if_neg (Bool.eq_false_iff.1 secure)).trans ?_)))
  simp only [mapped, List.foldl_cons, List.foldl_nil, List.take_length, List.any_cons, List.any_nil, Bool.or_false]
  rfl

theorem exec_bar2Write_unmapped (unmapped : s.bar2Parts f (d.length / 2097152 + 2) o d.length = [(d.length, none)]) :
    exec (.bar2Write f o d p b) s = .next (s.onLink (f / 32) fun l => { l with miss := l.miss + 1 }) := by
  refine (State.clocked_run _ _ (halted_of_running runs)).trans
    (congrArg _ ((if_neg (bar2_guard below runs up fits)).trans ((if_neg (Bool.eq_false_iff.1 secure)).trans ?_)))
  simp only [unmapped]
  rfl

end

end

end

section
variable {s : State} (hh : s.halted = false)
include hh

/-! Completions of the module's own requests (R590) -/

section
variable {q : Nat} {r : HostReq} (sent : tabFind s.hif.reqs q = some r)
include sent

/-- Request `q` of the module is no longer under way. -/
def reqEnded (q : Nat) (s : State) : State := s.onHif fun x => { x with reqs := tabDel x.reqs q }

theorem exec_pcieCompletion_sent (st : Nat) (d : List Byte) (p : Bool) : exec (.pcieCompletion q st d p) s = .next (
    if st ≠ 0 then (reqEnded q s).hostFails r
    else if r.gone then reqEnded q s
    else (reqEnded q s).gotData r.place r.slot r.engine r.req
      ((cutAt 64 0 r.len).map fun x => (((d ++ List.replicate r.len 0).drop x.1).take x.2, p))) := by
  show execPcieCompletion q st d p s = _
  rw [execPcieCompletion, State.clocked_run _ _ hh]
  simp only [sent, reqEnded]

theorem exec_pcieCompletionTimeout_sent : exec (.pcieCompletionTimeout q) s = .next ((reqEnded q s).hostFails r) := by
  show execPcieCompletionTimeout q s = _
  rw [execPcieCompletionTimeout, State.clocked_run _ _ hh]
  simp only [sent, reqEnded]

end

/-! MSI-X and the host links (R566, R568, R590) -/

theorem exec_msixUnmask_served {f v : Nat} (func : f < 128) (vector : v < 2048) :
    let m := tabGet {} s.hif.msix f
    let s1 := s.onHif fun h => { h with msix := tabPut h.msix f { unmasked := setIns m.unmasked v, pba := setDel m.pba v } }
    exec (.msixUnmask f v) s = .next (if m.pba.contains v then s1.emit (.msix f v) else s1) :=
  (State.clocked_run _ _ hh).trans (congrArg _ (if_neg (not_or.2 ⟨Nat.not_le.2 func, Nat.not_le.2 vector⟩)))

theorem exec_hostLinkDown_up {l : Nat} (link : l < 4) (up : (s.link l).up = true) (notL23 : (s.link l).l23 = false) :
    let s1 := (s.onLink l fun l => { l with up := false, grace := true }).event 0x0B01 0 0 [w64 l]
    exec (.hostLinkDown l) s = .next (foldState (s1.hif.reqs.filter fun r => r.2.link == l)
      (fun a r => (reqEnded r.1 a).hostFails r.2) s1) :=
  (State.clocked_run _ _ hh).trans (congrArg _ (if_neg (by simp [up, notL23]; omega)))

theorem exec_hostLinkReturn_present {l w g : Nat} (down : (s.link l).up = false) (present : (s.link l).pres = true)
    (deasserted : s.pins.perst = false) : exec (.hostLinkReturn l w g) s = .next ((s.onLink l fun l => { l with
      up := true, grace := false, l23 := false, numVfs := 0, width := w, speed := g }).onHif fun q => { q with
        pages := q.pages.filter fun p => p.1 / 32 != l
        msix := q.msix.filter fun m => m.1 / 32 != l }) :=
  (State.clocked_run _ _ hh).trans (congrArg _ (if_neg (by simp [down, present, deasserted])))

end

/-- Settles O52: an access to BAR2 by what its range maps, a completion by its status and by whether its engine still waits, and each
command of the links in the state that it needs. -/
theorem hostTrafficAndLinks : Obligations.HostTrafficAndLinks := by
  refine ⟨fun f s below runs up => ⟨fun o n b fits secure => ?reads, fun o d p b fits secure => ⟨fun ps mapped => ?written,
      exec_bar2Write_unmapped below runs up fits secure⟩, fun b notSecure =>
        ⟨fun o n fits => exec_bar2Read_notSecure below runs up fits notSecure,
          fun o d p fits => exec_bar2Write_notSecure below runs up fits notSecure⟩⟩,
    fun s hh => ⟨fun q r sent => ⟨fun d p waits => ?delivered, fun d p gone => ?gone, fun st d p failed => ?failed,
        exec_pcieCompletionTimeout_sent hh sent⟩, fun f v => exec_msixUnmask_served hh, fun l => exec_hostLinkDown_up hh,
      fun l w g => exec_hostLinkReturn_present hh⟩,
    fun w s ready asserted => congrArg _ (if_neg (by simp [ready, asserted]))⟩
  case reads =>
    exact ⟨fun ps => exec_bar2Read_mapped below runs up fits secure, exec_bar2Read_unmapped below runs up fits secure⟩
  case written =>
    have writes := exec_bar2Write_mapped (p := p) below runs up fits secure mapped
    exact ⟨fun apart => by rw [writes, apart]; rfl, fun touches => by rw [writes, touches]; rfl⟩
  case delivered =>
    exact (exec_pcieCompletion_sent hh sent 0 d p).trans
      (congrArg _ ((if_neg (not_not_intro rfl)).trans (if_neg (Bool.eq_false_iff.1 waits))))
  case gone =>
    exact (exec_pcieCompletion_sent hh sent 0 d p).trans (congrArg _ ((if_neg (not_not_intro rfl)).trans (if_pos gone)))
  case failed => exact (exec_pcieCompletion_sent hh sent st d p).trans (congrArg _ (if_pos failed))

end Sys2Proof.Proofs
end

section
/-! SUPPORT. The statement of 18_host_interface on the teardown of contexts, the resets that begin it, and the function mode. -/
namespace Sys2Proof.Proofs
open Sys2Proof Sys2Proof.Machine Sys2Proof.Laws

/-- Settles O53: each command past the conditions that it needs; the function mode by the write of its register. -/
theorem teardownAndFunctionMode : Obligations.TeardownAndFunctionMode := by
  refine fun s hh => ⟨fun a x ctx step idle => ?quiesced, fun a x ctx step => ⟨fun held => ?held, fun free => ?removed⟩,
    fun f func => ?functionReset, fun l down grace => ?graceExpired, fun m v hm => ?mode⟩
  case quiesced =>
    show execTeardownQuiesced a s = _
    rw [execTeardownQuiesced, State.clocked_run _ _ hh]
    simp only [ctx]
    exact congrArg _ (if_neg (by simp [step, idle]))
  case held =>
    show execCtxTeardown a s = _
    rw [execCtxTeardown, State.clocked_run _ _ hh]
    simp only [ctx]
    exact congrArg _ ((if_neg (not_not_intro step)).trans (if_pos held))
  case removed =>
    show execCtxTeardown a s = _
    rw [execCtxTeardown, State.clocked_run _ _ hh]
    simp only [ctx]
    exact congrArg _ ((if_neg (not_not_intro step)).trans (if_neg (Bool.eq_false_iff.1 free)))
  case functionReset => exact (State.clocked_run _ _ hh).trans (congrArg _ (if_neg (Nat.not_le.2 func)))
  case graceExpired => exact (State.clocked_run _ _ hh).trans (congrArg _ (if_neg (by simp [down, grace])))
  case mode => exact clocked_privWrite_run hh hm (harbourBlock_present s (by decide)) _

end Sys2Proof.Proofs
end

section
/-! SUPPORT. The statement of 20_registers on the configuration CRC and on writes through BAR0. -/
namespace Sys2Proof.Proofs
open Sys2Proof Sys2Proof.Machine Sys2Proof.Laws

/-! The configuration CRC (R634–R636, R639) -/

section
variable {s : State} (runs : s.running = true)
include runs

/-- A pass of the CRC is stored and counted. -/
def passCounted (s : State) : State :=
  s.onCrc fun c => { c with run := s.configCrc, valid := true, passes := c.passes + 1, since := c.since + 1 }

theorem exec_crcPassEnd_running : exec .crcPassEnd s = .next (
    if s.crc.adopting then (passCounted s).onCrc fun c => { c with ref := s.configCrc, adopting := false }
    else if s.configCrc = s.crc.ref then (passCounted s).onCrc fun c => { c with drift := false }
    else if s.crc.drift then passCounted s
    else ((passCounted s).onCrc fun c => { c with drift := true, drifts := c.drifts + 1 }).event 0x0001 0 0
      [pair s.configCrc.toNat s.crc.ref.toNat, w64 (passCounted s).crc.since]) :=
  (State.clocked_run _ _ (halted_of_running runs)).trans (congrArg _ (if_neg (not_running_neg runs)))

end

/-- The word that adopts the reference names it and sets ADOPT. -/
theorem writeCommit_adopt (s : State) :
    s.writeCommit (w64 (s.crc.ref.toNat + 2 ^ 63)) = s.onCrc fun c => { c with ref := s.crc.ref, adopting := true, since := 0 } := by
  have refBelow : s.crc.ref.toNat < 2 ^ 32 := s.crc.ref.isLt
  have ref : (w64 (s.crc.ref.toNat + 2 ^ 63)).truncate 32 = s.crc.ref := by
    apply BitVec.eq_of_toNat_eq
    simp [w64]
    omega
  have adopts : bit (w64 (s.crc.ref.toNat + 2 ^ 63)) 63 = true := by
    simp [bit, bits, bitsN, w64]
    omega
  rw [State.writeCommit, ref, adopts]

/-! Writes through BAR0 (R623, R625–R628) -/

section
variable {m : Master} {a : BarWrite} {s : State} (hh : s.halted = false) (served : s.served a.offset = true)
include hh served

theorem exec_registerWrite_served : exec (.registerWrite m a) s = .next (
    if a.size = 4 then if a.offset % 4 = 0 then s.writeHalf m a.pasid a.offset (wordAt a.words 0) else s.sizeRefused
    else if a.size % 8 ≠ 0 ∨ a.size = 0 ∨ 512 < a.size ∨ a.offset % 8 ≠ 0 then s.sizeRefused
    else foldState (List.range (a.size / 8)) (fun t i => t.writeOne m a.pasid (a.offset + 8 * i) (wordAt a.words i)) s) :=
  (State.clocked_run _ _ hh).trans (congrArg _ (if_neg (by simp [served])))

theorem exec_registerWrite_whole (notHalf : a.size ≠ 4) (whole : a.size % 8 = 0) (some' : a.size ≠ 0) (fits : a.size ≤ 512)
    (aligned : a.offset % 8 = 0) : exec (.registerWrite m a) s =
      .next (foldState (List.range (a.size / 8)) (fun t i => t.writeOne m a.pasid (a.offset + 8 * i) (wordAt a.words i)) s) := by
  rw [exec_registerWrite_served hh served, if_neg notHalf, if_neg (by omega)]

theorem exec_registerWrite_half (half : a.size = 4) (aligned : a.offset % 4 = 0) :
    exec (.registerWrite m a) s = .next (s.writeHalf m a.pasid a.offset (wordAt a.words 0)) := by
  rw [exec_registerWrite_served hh served, if_pos half, if_pos aligned]

theorem exec_registerWrite_misshapen
    (bad : (a.size = 4 ∧ a.offset % 4 ≠ 0) ∨ (a.size ≠ 4 ∧ (a.size % 8 ≠ 0 ∨ a.size = 0 ∨ 512 < a.size ∨ a.offset % 8 ≠ 0))) :
    exec (.registerWrite m a) s = .next s.sizeRefused := by
  rw [exec_registerWrite_served hh served]
  rcases bad with ⟨half, crooked⟩ | ⟨notHalf, misshapen⟩
  · rw [if_pos half, if_neg crooked]
  · rw [if_neg notHalf, if_pos misshapen]

end

section
variable {m : Master} {pasid : Option Nat} {o : Nat} {v : Word} {s : State}

section
variable {r : Reg} (reg : s.regAt (o / 8 * 8) = some r) (served : s.served (o / 8 * 8) = true)
  (reaches : s.reaches m pasid true (o / 8 * 8) = true)
include reg served reaches

theorem writeHalf_reached : s.writeHalf m pasid o v =
    if r.spans = true ∨ (r.wo.any fun f => f.1 < o % 8 * 8 ∨ o % 8 * 8 + 32 < f.1 + f.2) = true then s.sizeRefused
    else s.writeOne m pasid (o / 8 * 8) (w64 (putBits r.value.toNat (o % 8 * 8) 32 v.toNat)) := by
  rw [State.writeHalf]
  simp only [reg]
  exact if_neg (by simp [served, reaches])

end

theorem exec_registerWrite_one (hh : s.halted = false) (served : s.served o = true) (aligned : o % 8 = 0) :
    exec (.registerWrite m { offset := o, size := 8, words := [v], pasid := pasid }) s = .next (s.writeOne m pasid o v) := by
  rw [exec_registerWrite_whole hh served (show 8 ≠ 4 by decide) (show 8 % 8 = 0 by decide)
    (show 8 ≠ 0 by decide) (show 8 ≤ 512 by decide) aligned]
  simp [foldState, wordAt]

theorem writeOne_absent (absent : s.absentUnit o = true) : s.writeOne m pasid o v = s := if_pos (.inr absent)

section
variable (served : s.served o = true) (present : s.absentUnit o = false)
include served present

theorem writeOne_guard : ¬ ((!s.served o) = true ∨ s.absentUnit o = true) := by simp [served, present]

theorem writeOne_unmapped (unmapped : reservedBar0 o = true ∨ 0x4000000 ≤ o) :
    s.writeOne m pasid o v = s.onCrc fun c => { c with unmapped := c.unmapped + 1 } :=
  (if_neg (writeOne_guard served present)).trans (if_pos unmapped)

section
variable (notReserved : reservedBar0 o = false) (below : o < 0x4000000)
include notReserved below

theorem writeOne_mapped : s.writeOne m pasid o v = if s.reaches m pasid true o then s.writeReach m pasid o v
    else match doorbellPage o with
      | some b => s.dbReject b false
      | none => s.rwpIgnored m o :=
  (if_neg (writeOne_guard served present)).trans
    (if_neg (not_or.2 ⟨Bool.eq_false_iff.1 notReserved, Nat.not_le.2 below⟩))

theorem writeOne_reached (reaches : s.reaches m pasid true o = true) : s.writeOne m pasid o v = s.writeReach m pasid o v := by
  rw [writeOne_mapped served present notReserved below, if_pos reaches]

variable (misses : s.reaches m pasid true o = false)
include misses

theorem writeOne_ignored (noDoorbell : doorbellPage o = none) : s.writeOne m pasid o v = s.rwpIgnored m o := by
  rw [writeOne_mapped served present notReserved below, if_neg (Bool.eq_false_iff.1 misses), noDoorbell]

theorem writeOne_doorbell {b : Nat} (doorbell : doorbellPage o = some b) : s.writeOne m pasid o v = s.dbReject b false := by
  rw [writeOne_mapped served present notReserved below, if_neg (Bool.eq_false_iff.1 misses), doorbell]

end

end

end

/-- Settles O57: a pass of the CRC by its branches, the writes of CF_CRC_COMMIT, a BAR0 write by its size and alignment, and one of 8
bytes by the register that it names. -/
theorem crcAndRegisterWrites : Obligations.CrcAndRegisterWrites := by
  refine ⟨fun s runs => ?pass, fun m s hh hm => ?commit, fun m a s hh served => ⟨exec_registerWrite_whole hh served,
    fun half aligned r reg servedBase reaches => ?half, exec_registerWrite_misshapen hh served⟩,
    fun m o v p s hh served aligned => ?one⟩
  case pass =>
    have ends := exec_crcPassEnd_running runs
    refine ⟨fun adopts => ends.trans (congrArg _ (if_pos adopts)), fun kept same => ?same, fun kept differs known => ?known,
      fun kept differs new => ?new⟩
    case same => exact ends.trans (congrArg _ ((if_neg (Bool.eq_false_iff.1 kept)).trans (if_pos same)))
    case known =>
      exact ends.trans (congrArg _ ((if_neg (Bool.eq_false_iff.1 kept)).trans ((if_neg differs).trans (if_pos known))))
    case new =>
      exact ends.trans (congrArg _ ((if_neg (Bool.eq_false_iff.1 kept)).trans
        ((if_neg differs).trans (if_neg (Bool.eq_false_iff.1 new)))))
  case commit =>
    have writes (f : State → State) : s.clocked (s.privWrite m 0x10010 f) = .next (f s) :=
      clocked_privWrite_run hh hm (harbourBlock_present s (by decide)) f
    exact ⟨fun v => writes _, (writes _).trans (congrArg _ (writeCommit_adopt s))⟩
  case half =>
    have halves := (exec_registerWrite_half hh served half aligned).trans (congrArg _ (writeHalf_reached reg servedBase reaches))
    exact ⟨fun whole => halves.trans (congrArg _ (if_pos whole)),
      fun spans crosses => halves.trans (congrArg _ (if_neg (not_or.2 ⟨Bool.eq_false_iff.1 spans, Bool.eq_false_iff.1 crosses⟩)))⟩
  case one =>
    have writes := exec_registerWrite_one (m := m) (pasid := p) (v := v) hh served aligned
    refine ⟨fun absent => writes.trans (congrArg _ (writeOne_absent absent)), fun present =>
      ⟨fun unmapped => writes.trans (congrArg _ (writeOne_unmapped served present unmapped)), fun notReserved below =>
        ⟨fun reaches => ?reached, fun misses noDoorbell => ?ignored, fun b misses doorbell => ?doorbell⟩⟩⟩
    case reached => exact writes.trans (congrArg _ (writeOne_reached served present notReserved below reaches))
    case ignored => exact writes.trans (congrArg _ (writeOne_ignored served present notReserved below misses noDoorbell))
    case doorbell => exact writes.trans (congrArg _ (writeOne_doorbell served present notReserved below misses doorbell))

end Sys2Proof.Proofs
end

section
/-! SUPPORT. The statement of 18_host_interface on Eweas commands for contexts, memory objects and tokens. -/
namespace Sys2Proof.Proofs
open Sys2Proof Sys2Proof.Machine Sys2Proof.Laws

theorem exec_memPin_busy {c : EwCmd} {s : State} (func : c.func < 128) (runs : s.running = true)
    (linkUp : (s.link (c.func / 32)).up = true) (busy : (s.page c.func).busy = true) :
    exec (.memPin c) s = .next (s.onPage c.func fun p => { p with rejects := p.rejects + 1 }) :=
  (State.clocked_run _ _ (halted_of_running runs)).trans
    (congrArg _ ((if_neg (by simp [func, runs, linkUp])).trans (if_pos busy)))

/-! CTX_CREATE (R548, R577, R578) -/

/-- The fields of CTX_CREATE that are refused. -/
def ctxRefused (c : EwCmd) (t : State) : Prop :=
  bits (wordAt c.args 0) 6 2 ≠ 0 ∨ bits (wordAt c.args 0) 14 50 ≠ 0 ∨ bits (wordAt c.args 1) 28 36 ≠ 0 ∨ bits (wordAt c.args 0) 8 6 < 39
    ∨ 57 < bits (wordAt c.args 0) 8 6 ∨ c.arg 3 % 2097152 ≠ 0 ∨ c.arg 4 = 0 ∨ c.arg 4 % 2097152 ≠ 0 ∨ 2 ^ 48 ≤ c.arg 3
    ∨ (!t.in0 (c.arg 3) (c.arg 4)) = true ∨ (t.harbour (bits (wordAt c.args 0) 0 6)).isNone = true

/-- The lowest free ASID. -/
def freeAsid (t : State) : Nat := lowestFree 65536 fun i => (t.ctx i).isSome

/-- The size of the root table that a new context takes from its pool. -/
def newRoot (c : EwCmd) : Nat := max 4096 (8 * 2 ^ (bits (wordAt c.args 0) 8 6 - 39))

/-- The context that CTX_CREATE asks for. -/
def newCtx (c : EwCmd) : Ctx :=
  { func := bits (wordAt c.args 1) 0 7, pasid := bits (wordAt c.args 1) 7 20, pasidEn := bit (wordAt c.args 1) 27
    harbour := bits (wordAt c.args 0) 0 6, vaBits := bits (wordAt c.args 0) 8 6, poolAddr := c.arg 3, poolLen := c.arg 4
    poolUsed := newRoot c }

/-- The new context stands, its root table is clear, and its context and binding entries are written. -/
def ctxSetUp (c : EwCmd) (t : State) : State :=
  let x := newCtx c
  let s1 := (t.onHif fun q => { q with ctxs := tabPut q.ctxs (freeAsid t) x }).onXl fun q => { q with anyValid := true }
  ((s1.clear0 (c.arg 3) (newRoot c)).put0 (t.xl.ctxBase + 32 * freeAsid t)
    [w64 (1 + x.harbour * 2 + x.vaBits * 128), w64 (c.arg 3), 0, 0]).put0 (t.hif.hostBind + 8 * freeAsid t)
      [w64 (x.pasid + x.func * 2 ^ 20 + (if x.pasidEn then 2 ^ 27 else 0) + 2 ^ 63)]

theorem ewCtxCreate_valid {c : EwCmd} {t : State} (privileged : c.func = 0) (valid : ¬ ctxRefused c t) (room : freeAsid t < 65536) :
    ewCtxCreate c t = .ok [w64 (freeAsid t)] (ctxSetUp c t) :=
  (if_neg (not_not_intro privileged)).trans ((if_neg valid).trans (if_neg (Nat.not_le.2 room)))

section
variable {t : State} {c : EwCmd} {x : Ctx} (owns : Owns t c x)
include owns

theorem ewCtxDestroy_owned : ewCtxDestroy c t = .later (t.startTeardown (c.arg 1) 1 (some c.func)) := ownerOf_owns owns _

/-! Memory objects (R574, R579, R580) -/

/-- The range that MEM_CREATE names is the pacing area of the harbour. -/
def asksPacing (c : EwCmd) (x : Ctx) (t : State) : Bool :=
  c.arg 3 == 131072 && (match t.harbour x.harbour, t.pacingByte x.harbour with
    | some h, some (_, b) => !h.channels.isEmpty && c.arg 2 % 2 ^ 52 == b
    | _, _ => false)

/-- The object that MEM_CREATE asks for. -/
def newObj (c : EwCmd) (x : Ctx) (t : State) : MemObj :=
  { harbour := x.harbour, addr := c.arg 2 % 2 ^ 52, len := c.arg 3, pacing := asksPacing c x t }

/-- An object enters the table under the next number. -/
def objStored (o : MemObj) (t : State) : State :=
  t.onHif fun q => { q with objs := tabPut q.objs t.hif.nextObj o, nextObj := t.hif.nextObj + 1 }

theorem ewMemCreate_valid (valid : ¬ (c.arg 2 / 2 ^ 52 ≠ t.lk.nodeId ∨ 1 < c.arg 2 % 2 ^ 52 / 2 ^ 48 ∨ c.arg 2 % 2 ^ 52 % 65536 ≠ 0
      ∨ c.arg 3 = 0 ∨ c.arg 3 % 65536 ≠ 0 ∨ (t.resolve x.harbour (c.arg 2 % 2 ^ 52) (c.arg 3)).isNone = true))
    (apart : t.objMeets (newObj c x t) = false) : ewMemCreate c t =
      answerNew ((objStored (newObj c x t) t).newHandle (c.arg 1) t.hif.nextObj (if asksPacing c x t then 1 else 7)) := by
  rw [ewMemCreate, ownerOf_owns owns]
  exact (if_neg valid).trans (if_neg (Bool.eq_false_iff.1 apart))

section
variable {i o : Nat} {y : Handle} (handle : x.handle (c.arg 2) = some (i, y)) (names : y.obj = some o)
include handle names

/-- Handle `i` of the context names nothing, and what was mapped through it is not mapped. -/
def handleDropped (c : EwCmd) (i : Nat) (y : Handle) (t : State) : State :=
  let s1 := (t.unmapRange (c.arg 1) 0 (2 ^ 57) fun m => m.handle == some i).onAsid (c.arg 1) fun q => { q with
    handles := tabPut q.handles i { y with obj := none } }
  s1.putApertures (s1.hif.apertures.filter fun p => !(p.2.1 == c.arg 1 && p.2.2.1 == i))

theorem ewMemRelease_named : ewMemRelease c t =
    if (x.maps.any fun m => m.handle == some i) = true then
      .wait (.release x.harbour { scope := 1, asid := c.arg 1, va := 0, pages := 0 } o) (handleDropped c i y t)
    else if (tabFind ((handleDropped c i y t).dropRef o).hif.zeroing o).isSome = true then
      .wait (.zero o) ((handleDropped c i y t).dropRef o)
    else .ok [] ((handleDropped c i y t).dropRef o) := by
  rw [ewMemRelease, ownerOf_owns owns, withHandle_names handle names]
  rfl

theorem ewMemExport_allowed (inRange : c.arg 3 < 8) (within : c.arg 3 &&& y.rights = c.arg 3) :
    ewMemExport c t = answerNew (t.newToken (.mem o (c.arg 3))) := by
  rw [ewMemExport, ownerOf_owns owns, withHandle_names handle names]
  exact if_neg (not_or.2 ⟨Nat.not_le.2 inRange, not_not_intro within⟩)

theorem ewMemPin_named : ewMemPin c t = .ok [] (t.onHif fun q => { q with
    objs := q.objs.map fun e => if e.1 = o then (o, { e.2 with pins := e.2.pins + 1 }) else e }) := by
  rw [ewMemPin, ownerOf_owns owns, withHandle_names handle names]

theorem ewMemUnpin_pinned {e : MemObj} (obj : tabFind t.hif.objs o = some e) (pinned : e.pins ≠ 0) :
    ewMemUnpin c t = .ok [] (t.onHif fun q => { q with
      objs := q.objs.map fun e => if e.1 = o then (o, { e.2 with pins := e.2.pins - 1 }) else e }) := by
  rw [ewMemUnpin, ownerOf_owns owns, withHandle_names handle names]
  simp only [obj]
  exact if_neg (by simp [pinned])

end

theorem ewMemImport_exported {o r : Nat} {y : MemObj} (token : t.token (c.arg 2) = some (.mem o r))
    (obj : tabFind t.hif.objs o = some y) (sameHarbour : y.harbour = x.harbour) (kept : (tabFind t.hif.zeroing o).isSome = false) :
    ewMemImport c t = answerNew ((t.onHif fun q => { q with objs := tabPut q.objs o { y with refs := y.refs + 1 } }).newHandle
      (c.arg 1) o r) := by
  rw [ewMemImport, ownerOf_owns owns]
  simp only [token, obj]
  exact if_neg (not_or.2 ⟨not_not_intro sameHarbour, Bool.eq_false_iff.1 kept⟩)

end

/-- A release answers at once, unless the handle was mapped or its object is being zeroed. -/
theorem exec_memRelease_named {s : State} {c : EwCmd} {x : Ctx} {i o : Nat} {y : Handle} (submits : Submits s c) (owns : Owns s c x)
    (handle : x.handle (c.arg 2) = some (i, y)) (names : y.obj = some o) :
    let s2 := handleDropped c i y (s.taken 0x04 c)
    let s3 := s2.dropRef o
    exec (.memRelease c) s = .next (if (x.maps.any fun m => m.handle == some i) = true then
        (s2.pageWait c.func (.release x.harbour { scope := 1, asid := c.arg 1, va := 0, pages := 0 } o)).pollPage c.func
      else if (tabFind s3.hif.zeroing o).isSome = true then (s3.pageWait c.func (.zero o)).pollPage c.func
      else s3.pageDone c.func 0 0 []) := by
  intro s2 s3
  have replies := ewMemRelease_named (owns.taken 0x04) handle names
  by_cases mapped : (x.maps.any fun m => m.handle == some i) = true
  · rw [if_pos mapped] at replies ⊢
    exact clocked_command_wait submits replies
  · rw [if_neg mapped] at replies ⊢
    by_cases zeroed : (tabFind s3.hif.zeroing o).isSome = true
    · rw [if_pos zeroed] at replies ⊢
      exact clocked_command_wait submits replies
    · rw [if_neg zeroed] at replies ⊢
      exact clocked_command_ok submits replies

/-- Settles O58: each command by what its submission answers, and the reply that its meaning gives. -/
theorem eweasContextsAndMemory : Obligations.EweasContextsAndMemory := by
  refine ⟨fun c s => exec_memPin_busy, fun c s privileged runs linkUp free => ?create,
    fun c x s func runs linkUp free ctx passes stands => ?owned⟩
  case create =>
    have submits : Submits s c := ⟨by omega, runs, by rw [privileged]; exact linkUp, by rw [privileged]; exact free⟩
    exact fun valid room => clocked_command_ok submits (ewCtxCreate_valid privileged valid room)
  case owned =>
    have submits : Submits s c := ⟨func, runs, linkUp, free⟩
    have owns (op : Nat) : Owns (s.taken op c) c x := Owns.taken ⟨ctx, passes, stands⟩ op
    refine ⟨clocked_command_later submits (ewCtxDestroy_owned (owns 0x02)), fun valid apart => ?memCreate,
      fun i y o handle names => ⟨?release, fun inRange within => ?memExport, ?pin, fun e obj pinned => ?unpin⟩,
      fun o r y token obj sameHarbour kept => ?memImport⟩
    case memCreate => exact clocked_command_new submits (ewMemCreate_valid (owns 0x03) valid apart)
    case release => exact exec_memRelease_named submits ⟨ctx, passes, stands⟩ handle names
    case memExport => exact clocked_command_new submits (ewMemExport_allowed (owns 0x05) handle names inRange within)
    case pin => exact clocked_command_ok submits (ewMemPin_named (owns 0x07) handle names)
    case unpin => exact clocked_command_ok submits (ewMemUnpin_pinned (owns 0x08) handle names obj pinned)
    case memImport => exact clocked_command_new submits (ewMemImport_exported (owns 0x06) token obj sameHarbour kept)

end Sys2Proof.Proofs
end
